-- ==== Sys2Proof/Word.lean ====
section
/-! DEFINITION. The word and byte types of the Trolor 880 and their plainest arithmetic (R7, R8). -/
namespace Sys2Proof

/-- A byte of a memory, a record or a frame. -/
abbrev Byte := BitVec 8

/-- A 32-bit word: every setup register and every record word (R8, "All setup registers are 32 bits wide"). -/
abbrev Word := BitVec 32

/-- A 64-bit field, held in two consecutive words (R8). -/
abbrev DWord := BitVec 64

/-- Least significant word of a 64-bit field: the lower-numbered word (R8). -/
def lo32 (d : DWord) : Word := d.setWidth 32

/-- Most significant word of a 64-bit field: the higher-numbered word (R8). -/
def hi32 (d : DWord) : Word := (d >>> 32).setWidth 32

/-- The 64-bit field of two words (R8). -/
def dword (hi lo : Word) : DWord := hi ++ lo

/-- A natural number stored in one word, modular as R69 says of the counters. -/
def w32 (n : Nat) : Word := BitVec.ofNat 32 n

/-- A natural number held to a word's largest value ("saturating"). -/
def sat32 (n : Nat) : Word := if n < 2 ^ 32 then BitVec.ofNat 32 n else BitVec.allOnes 32

end Sys2Proof
end

