-- ==== Sys2Proof/Types.lean ====
section
/-! DEFINITION. The plain data that commands carry and state keeps: what arrives on a pin, a port, the Greaz link or the
PCIe link, and what a memory check found. -/
namespace Sys2Proof

/-- The header of a command descriptor (R400): the command ring it was read from, its TAG, and whether the DMA read of the
data buffer it names ended in an error completion (R406). -/
structure CmdHdr where
  ring : Fin 64
  tag : BitVec 16
  dmaErr : Bool := false
deriving DecidableEq, Repr

/-- A buffer descriptor (R401, Table HIF-5). -/
structure BufDesc where
  tag : BitVec 16
  addr : BitVec 64
  len : Word
deriving DecidableEq, Repr

/-- The words of an injection descriptor (Table HIF-5) with the frame bytes its DMA read delivered (R401, R120). -/
structure InjDesc where
  words : List Word
  frame : List Byte
  dmaErr : Bool := false
deriving DecidableEq, Repr

/-- Where a host access goes (R390, R391): BAR0, BAR2, or configuration space. -/
inductive HostSpace where
  | bar0 | bar2 | config
deriving DecidableEq, Repr

/-- The place of a host access: its space and the offset in it (R391). -/
structure HostAddr where
  space : HostSpace
  off : BitVec 24
deriving DecidableEq, Repr

/-- What the memory that a command descriptor names gives or meets (R400, R406): the bytes read, and the errors of the transfer. -/
structure HostData where
  bytes : List Byte := []
  dmaErr : Bool := false
  memErr : Bool := false
deriving DecidableEq, Repr

/-- An aligned-column record that its ring's DMA has not finished when the slot of its column is released (R178): the selection, and how many bytes of the
record lie in the buffer by then. -/
structure SlowRecord where
  sel : Fin 8
  bytes : Nat
deriving DecidableEq, Repr

/-- The kinds of memory error a reader or the scrubber can find (R23: SECDED). -/
inductive ErrKind where
  | single | double
deriving DecidableEq, Repr

/-- Where a memory error was found (R28, R93, R116, R128, R175, R176, R206, R244, R260, R271, R324, R338). -/
inductive ErrSite where
  | cell (slot furrow unit : Nat)
  | stream (furrow : Nat)
  | scale (furrow : Nat)
  | runCounter (furrow : Nat)
  | hashSet (set : Nat)
  | plotStore (plot addr : Nat)
  | schedActive
  | schedShadow
  | flumeHeader
  | flumeCell (furrow : Nat)
  | topBranch (b : Nat)
  | topNode (n : Nat)
  | topCut (c : Nat)
  | topState (b : Nat)
  | almRule (r : Nat)
  | almTemplate (t : Nat)
  | modState (g : Nat)
  | modDft (g : Nat)
  | prdMap (f : Nat)
  | arcStaging (group : Nat)
  | capStaging (u row : Nat)
  | nrgPoint (p : Nat)
  | nrgCurrent (k : Nat)
deriving DecidableEq, Repr

/-- One memory error: its kind and its place. -/
structure MemErr where
  kind : ErrKind
  site : ErrSite
deriving DecidableEq, Repr

/-- A frame as a port receives it (R110): its bytes from the destination MAC to the last byte before the FCS, whether its
FCS was right, the detection time of its timestamp point in units of 1/64 ns of the timebase, and the PCS position b
(R365). -/
structure RxFrame where
  bytes : List Byte
  fcsOk : Bool := true
  detect : Nat := 0
  align : Nat := 0
deriving DecidableEq, Repr

/-- What a write of PRT_CTLn.DISABLE meets (R109): its value and, for DISABLE = 1, the frame that the port is receiving. -/
inductive PortCtl where
  | enable
  | disable (rx : Option RxFrame)
deriving DecidableEq, Repr

/-- A loss of a port's link (R109, R139), with the faults that its PCS reports. -/
structure LinkLoss where
  port : Fin 4
  localFault : Bool
  remoteFault : Bool
deriving DecidableEq, Repr

/-- What a close meets: the memory errors that its reads find (R175), and the records of its column that the DMA does not finish in time (R178). -/
structure CloseIn where
  errs : List MemErr
  slow : List SlowRecord
deriving DecidableEq, Repr

/-- The logical Plot whose operation retires, and the memory errors that the reads of its execution find (R93). -/
structure RetireIn where
  plot : Fin 32
  errs : List MemErr
deriving DecidableEq, Repr

/-- The redundancy roles, encoded as in Table GZL-3 (R432). -/
inductive Role where
  | active | standby | solo | resolving
deriving DecidableEq, Repr

/-- The code of a role (Table GZL-3). -/
def Role.code : Role → Nat
  | .active => 0
  | .standby => 1
  | .solo => 2
  | .resolving => 3

/-- The two guy-lines (R432). -/
inductive GuyLine where
  | a | b
deriving DecidableEq, Repr

/-- What a HELLO frame carries (Table GZL-2). -/
structure HelloBody where
  serial : BitVec 64
  unit : Nat
  session : Word
  epoch : Word
  role : Role
  imageSerial : Word
deriving DecidableEq, Repr

/-- What a HEARTBEAT frame carries (Table GZL-2): tick ID and grid instant of the last instant emitted, if any. -/
structure HeartbeatBody where
  role : Role
  epoch : Word
  tick : BitVec 64
  soc : Word
  index : Nat
  hasInstant : Bool
  imageSerial : Word
  stateValid : Bool
deriving DecidableEq, Repr

/-- What a STATE frame carries (Table GZL-2). -/
structure StateBody where
  region : BitVec 16
  last : Bool
  tick : BitVec 64
  offset : Nat
  data : List Word
deriving DecidableEq, Repr

/-- What a TICK_END frame carries (Table GZL-2). -/
structure TickEndBody where
  tick : BitVec 64
  soc : Word
  index : Nat
  frames : Nat
  complete : Bool
  imageSerial : Word
  variant : Nat
deriving DecidableEq, Repr

/-- The frames of the link (Table GZL-2); alarm records travel as their words (Table ALM-4). -/
inductive LinkBody where
  | hello (b : HelloBody)
  | heartbeat (b : HeartbeatBody)
  | ack
  | nak
  | state (b : StateBody)
  | tickEnd (b : TickEndBody)
  | alarm (records : List (List Word))
  | swap (epoch : Word) (tick : BitVec 64)
deriving DecidableEq, Repr

/-- The header fields of a link frame that its body does not repeat (Table GZL-1). -/
structure LinkHdr where
  seq : Word
  ctr : Nat
deriving DecidableEq, Repr

/-- Why a received link frame is discarded before its body counts (R422). -/
inductive DiscardCause where
  | tag | staleCtr | unknownType
deriving DecidableEq, Repr

/-- The clock sources of Table CLK-1, in the order of their codes. -/
inductive ClkSrc where
  | firc | sirc | xta | xtb | pllc | plls | pllt | pllm
deriving DecidableEq, Repr

/-- The code of a clock source (Table CLK-1). -/
def ClkSrc.code : ClkSrc → Nat
  | .firc => 0
  | .sirc => 1
  | .xta => 2
  | .xtb => 3
  | .pllc => 4
  | .plls => 5
  | .pllt => 6
  | .pllm => 7

/-- What the board shows a start-up (R536): the checks of steps 2, 3, 4, 7 and 8, the training of LPDDR5 among them (R581), and the 64 bytes at address 0 of the
QSPI flash that step 9 reads; `offTicks` counts the XTB cycles (SIRC cycles where the RTC counts them) that passed while the device ran on VBAT only (R377), and `offTamper`
gives the tamper events of that time in order, each as its input and the count at it (R484). `ordered` says that the supplies rose as R573 asks, `rests` names the
steps of 2 to 6 that are left under way (R536), and the last three are the lowest levels of the rails that the core monitor watches, in mV (R520). -/
structure BootIn where
  offTicks : Nat := 0
  fircOk : Bool := true
  sircOk : Bool := true
  offTamper : List (Fin 2 × Nat) := []
  fuseErr : Bool := false
  open0 : Bool := false
  open1 : Bool := false
  xtaOk : Bool := true
  pllsOk : Bool := true
  vbatOk : Bool := true
  ddrOk : Bool := true
  qspi : List Byte := []
  ordered : Bool := true
  rests : List Nat := []
  coreMv : Nat := 0
  sramMv : Nat := 0
  framMv : Nat := 0
deriving DecidableEq, Repr

/-- What the supply monitors see (R520, R542): PWR_SENSE in mV, and VBAT in mV where the battery monitor gives a reading. -/
structure SupplyIn where
  senseMv : Nat
  vbatMv : Option Nat := none
deriving DecidableEq, Repr

/-- Where a firmware patch came from, with its bytes and whether its DMA read ended in an error (R538); `rests` that its signature check is left under way
(Table PWR-5, step 10). -/
structure PatchIn where
  host : Bool
  bytes : List Byte
  dmaErr : Bool := false
  rests : Bool := false
deriving DecidableEq, Repr

/-- A sentence on TOD_RXD (R369): its bytes from the dollar sign to the checksum, the code of the line's rate in TIM_TOD, and when it was received (timebase
ns). -/
structure TodIn where
  bytes : List Byte
  baud : Nat
  at_ : Nat
deriving DecidableEq, Repr

end Sys2Proof
end

