-- ==== Sys2Proof/Syntax.lean ====
section
/-! DEFINITION. The commands and events of the Trolor 880: one constructor per row of spec/opcode_table.json. -/
namespace Sys2Proof

/-- A command from the host, or an event on a pin, a port, a link, a clock or a timer. Each is one whole step
(95_what_each_step_holds.md); its operands are what arrives with it from outside the device. -/
inductive Instr where
  /-- PITCH (R56): Host command that loads an image from staging into the shadow store, verifies it and switches to it at a close. -/
  | pitch (h : CmdHdr) (offset length : Word) (image : List Byte)
  /-- PITCH_ABORT (R62): Host command that cancels a PITCH in progress before its switch. -/
  | pitchAbort (h : CmdHdr)
  /-- FENCE_PLOT (R97): Host command that registers the fence of one physical Plot for the next close. -/
  | fencePlot (h : CmdHdr) (plot : Byte)
  /-- UNFENCE_PLOT (R97): Host command that registers the unfence of one physical Plot for the next close, refused with GATED if its sluice is closed. -/
  | unfencePlot (h : CmdHdr) (plot : Byte)
  /-- ROLE_SET (R438): Host command that sets the redundancy role to ACTIVE, STANDBY or SOLO. -/
  | roleSet (h : CmdHdr) (role : BitVec 2)
  /-- ROLE_SWAP (R440): Host command to the ACTIVE device that hands the ACTIVE role to the committed STANDBY partner. -/
  | roleSwap (h : CmdHdr)
  /-- TIME_SET (R374): Host command that sets the timebase, the UTC offset or a leap announcement. -/
  | timeSet (h : CmdHdr) (w1 w2 w3 w4 w5 : Word)
  /-- REC_FREEZE (R454): Host command that stops recorder writes once the write in progress completes. -/
  | recFreeze (h : CmdHdr)
  /-- REC_THAW (R454): Host command that releases recorder writing so that the queue drains. -/
  | recThaw (h : CmdHdr)
  /-- REC_READ (R458): Host command that delivers stored event records in SEQ order into a host buffer. -/
  | recRead (h : CmdHdr) (first count : Word) (addr : BitVec 64) (len : Word)
  /-- REC_ERASE (R459): Host command that erases stored records up to a named sequence and advances HEAD. -/
  | recErase (h : CmdHdr) (upTo : Word)
  /-- KEY_DERIVE (R474): Host command that derives the working key of a purpose into the key register and cache. -/
  | keyDerive (h : CmdHdr) (purpose : Byte) (ctx : Word)
  /-- KEY_SLOT_WRITE (R481): Host command that writes a new key into the non-current copy of a stored key slot. -/
  | keySlotWrite (h : CmdHdr) (w1 : Word) (addr : BitVec 64) (len : Word) (buf : List Byte)
  /-- KEY_SLOT_CLEAR (R483): Host command that empties a stored key slot and clears the keys derived from it. -/
  | keySlotClear (h : CmdHdr) (w1 : Word)
  /-- NRG_SNAPSHOT (R318): Host command that copies the latched energy counters and totals of the masked points to a host buffer and clears their WRAPS. -/
  | nrgSnapshot (h : CmdHdr) (w1 : Word) (addr : BitVec 64) (len : Word)
  /-- CAP_ARM (R335): Host command that arms the masked capture units, drives the bus line when BUS is set, or triggers them at once with IMMEDIATE. -/
  | capArm (h : CmdHdr) (w1 : Word)
  /-- CAP_DISARM (R333): Host command that disarms the masked capture units or ends their captures. -/
  | capDisarm (h : CmdHdr) (w1 : Word)
  /-- CAP_READ (R347): Host command that delivers a capture record to a host buffer and can release the unit. -/
  | capRead (h : CmdHdr) (w1 offset length : Word) (addr : BitVec 64) (memErr : Bool)
  /-- ARC_REPLAY (R272): Host command that decodes a stored or host-held archive block into a replay record. -/
  | arcReplay (h : CmdHdr) (w1 w2 w3 w4 : Word) (block : List Byte)
  /-- LMU_XFADE (R293): Host command that loads new FIR coefficients into the standby banks of the masked channels and cross-fades to them. -/
  | lmuXfade (h : CmdHdr) (w1 : Word) (addr : BitVec 64) (w4 w5 w6 : Word) (buf : List Byte)
  /-- TELEM_CFG (R540): Host command that names and enables the telemetry ring. -/
  | telemCfg (h : CmdHdr) (w1 : Word)
  /-- BAD_OPCODE (R408): A command descriptor whose opcode is not listed completes with BAD_OPCODE. -/
  | badOpcode (h : CmdHdr) (opcode : Byte)
  /-- REGISTER_WRITE (R10): A BAR0 write to a register that has no row of its own, handled by its access code and the seal; the same of BAR2 and of
  configuration space (R390, R391). -/
  | registerWrite (a : HostAddr) (width : Nat) (data : BitVec 64)
  /-- READ_CLEAR (R10): A read of an RC register returns its value and clears it. -/
  | readClear (a : HostAddr) (width : Nat)
  /-- LATCHED_READ (R69): A read of the low word of a 64-bit register pair latches its high word until that is read. -/
  | latchedRead (off : BitVec 24)
  /-- SYS_SEAL (R563): A write of the key to SYS_SEAL makes every RWS register ignore writes until reset. -/
  | sysSeal (value : Word)
  /-- GRID_ENABLE (R33): A write of TCK_CFG.EN = 1 starts the tick grid if FM_CODE and WD are valid. -/
  | gridEnable (earlyClose : Bool)
  /-- START_GO (R555): A write of SYS_START.GO lets start-up proceed to step 11. -/
  | startGo
  /-- BOOT_GO (R556): A write of SYS_BOOT_CTL.GO makes the device load the host patch by DMA. -/
  | bootGo
  /-- BOOT_NONE (R556): A write of SYS_BOOT_CTL.NONE makes the device run the ROM firmware alone. -/
  | bootNone
  /-- APPLY (R469): A write of SEC_LC_CTL.APPLY starts verification of the lifecycle ticket. -/
  | apply
  /-- CANCEL (R469): A write of SEC_LC_CTL.CANCEL clears the pending lifecycle ticket. -/
  | cancel
  /-- DORMANT_REQUEST (R530): A write of PWR_DORMANT with ENTER and KEY requests dormant mode unless outputs are open, brace holds or no wake source is set. -/
  | dormantRequest (value : Word)
  /-- DVFS_REQUEST (R528): A write to PWR_DVFS_REQ makes a level request pending for the next slack. -/
  | dvfsRequest (target : BitVec 2)
  /-- SLUICE_REQUEST (R508): A write to CLK_SLUICE_REQ makes a gate open or close request pending for the next slack. -/
  | sluiceRequest (gate : BitVec 6) (open_ : Bool)
  /-- RING_ENABLE (R395): A write of HIF_RINGn_CTL.EN = 1 enables a ring if its configuration is valid, or leaves ERROR. -/
  | ringEnable (n : Fin 64)
  /-- RING_DISABLE (R395): A write of HIF_RINGn_CTL.EN = 0 stops a ring after the entry in progress. -/
  | ringDisable (n : Fin 64)
  /-- DOORBELL (R397): A host write of HOST_IDX of a descriptor ring posts new descriptors, or puts the ring in ERROR if invalid. -/
  | doorbell (n : Fin 64) (idx : BitVec 16) (descs : List (List Word)) (readErr : Bool)
  /-- COMPLETION_CONSUME (R407): A host write of HOST_IDX of a completion ring frees entries, re-arms its interrupt and resumes stalled rings. -/
  | completionConsume (n : Fin 64) (idx : BitVec 16)
  /-- PORT_DISABLE (R109): A write of PRT_CTLn.DISABLE stops or restarts a port. -/
  | portDisable (n : Fin 4) (ctl : PortCtl)
  /-- CHANNEL_ENABLE (R290): A write to LMU_CHc_CTL that enables, disables or re-sources a channel and restarts its settle counter. -/
  | channelEnable (c : Fin 24) (value : Word)
  /-- SELECTION_ENABLE (R184): A write of BSN_OUT_RINGn.EN = 1 enables an output selection if COUNT, FIRST and DIV are valid. -/
  | selectionEnable (n : Fin 8) (value : Word)
  /-- POINT_ENABLE (R325): A write of NRG_PTp_CFG.EN = 1 checks the point configuration and starts metering or sets CFG_ERR. -/
  | pointEnable (p : Fin 4) (value : Word)
  /-- REGION_ENABLE (R25): Enabling an LPDDR5 region of SCH, ARC or CAP, refused if it overlaps another enabled region. -/
  | regionEnable (region : Fin 10) (value : Word)
  /-- GRID_INSTANT (R35): The timebase reaches a grid instant, which is emitted once with the next tick ID. -/
  | gridInstant
  /-- COLUMN_OPEN (R158): A column opens at its instant minus T or at the release of its slot, and its cells are initialised. -/
  | columnOpen
  /-- DEADLINE_CLOSE (R40): The column's reporting instant plus Wd is reached and the column closes. -/
  | deadlineClose (found : CloseIn)
  /-- EARLY_CLOSE (R40): A column closes as soon as all its due cells are filled, its instant is emitted and the predecessor's state copy has ended. -/
  | earlyClose (found : CloseIn)
  /-- OVERRUN_LIMIT (R42): Close plus 0.90 T is reached and every unretired operation of the column is discarded. -/
  | overrunLimit
  /-- COPY_LIMIT (R43): Close plus 0.98 T is reached and an unfinished state copy is abandoned. -/
  | copyLimit
  /-- OPERATION_START (R88): A Plot's free slot takes its next operation by list priority and prefetches its operands. -/
  | operationStart (plot : Fin 32) (errs : List MemErr)
  /-- OPERATION_RETIRE (R80): An operation retires once its result is delivered or its hand-over is accepted. -/
  | operationRetire (x : RetireIn)
  /-- MODAL_FEED_PROCESSED (R202): A modal pipeline completes one feed: update, extraction, DFT update and record delivery. -/
  | modalFeedProcessed (errs : List MemErr)
  /-- TOPOLOGY_PASS (R225): The topology engine completes the status update, components, islands, cut-sets and job deliveries. -/
  | topologyPass (passNs : Nat) (errs : List MemErr)
  /-- ALARM_EVALUATE (R231): The alarm unit evaluates one ALM_EVAL hand-over and forms and routes any alarm record. -/
  | alarmEvaluate (errs : List MemErr)
  /-- GOOSE_RETRANSMIT (R239): Firmware's retransmission timer of a template expires and a frame with the next sqNum is sent. -/
  | gooseRetransmit (t : Fin 32)
  /-- CLOCK_RETURN (R503): At the start of a slack, CORE and PLOT return together from a fallback to the requalified PLLC. -/
  | clockReturn
  /-- SLUICE_CHANGE (R509): At the start of a slack a pending sluice request is checked, quiesced and carried out. -/
  | sluiceChange (quiescent : Bool)
  /-- DVFS_STEP (R527): In slack the sequencer starts one level step, raising or lowering voltage and divider. -/
  | dvfsStep
  /-- VDONE (R527): The regulator reports VDone, and after 50 µs the PLLC divider changes. -/
  | vdone
  /-- AVS_TIMEOUT (R529): No VDone arrives within TIMEOUT_US and the step ends with AVS_TIMEOUT. -/
  | avsTimeout
  /-- LOADING (R57): In slack the staged image is copied into the shadow store and hashed. -/
  | loading (memErr : Bool)
  /-- VERIFYING (R55): In slack the image checks of Table SCH-4 are made and the PITCH is armed, raised or refused. -/
  | verifying (memErr : Bool)
  /-- TICK_ID_STORE (R36): Once per second in slack the current tick ID is written to NVM. -/
  | tickIdStore
  /-- SCRUB (R27): In slack the SRAM scrubber checks and rewrites its quantum of lines. -/
  | scrub (lines : Nat) (errs : List MemErr)
  /-- FIRC_CALIBRATION (R506): Once per second in slack the FIRC trim is set from its count against XTA. -/
  | fircCalibration (fircCount sircCount : Nat)
  /-- OFFSET_TRACKING (R296): In the first slack after a clean second a channel's offset is updated. -/
  | offsetTracking (c : Fin 24)
  /-- TELEMETRY_SAMPLE (R519): In slack, or every 10 ms without the grid, thermal and voltage monitors are sampled. -/
  | telemetrySample (temps : List (BitVec 16)) (vmons : List (BitVec 16))
  /-- TELEMETRY_DELIVERY (R540): Once per second a telemetry record is written to the telemetry ring. -/
  | telemetryDelivery
  /-- RECORDER_HOUSEKEEPING (R461): In slack the recorder checks the CRC of up to 64 stored records. -/
  | recorderHousekeeping (upset : List (Nat × List Word))
  /-- FRAME_RECEIVE (R110): A frame received whole on a port is given one disposition of Table HDG-1. -/
  | frameReceive (port : Fin 4) (f : RxFrame) (errs : List MemErr)
  /-- HOST_INJECTION (R126): The Headgate takes one host-injection descriptor when Flume 8 has room and decodes its frame. -/
  | hostInjection (n : Fin 64) (d : InjDesc) (errs : List MemErr)
  /-- BASIN_WRITE (R127): The Basin writer reads one committed packet or spill mark from a spout. -/
  | basinWrite (errs : List MemErr)
  /-- PORT_LINK_DOWN (R109): A port loses link and its transmit queues are discarded. -/
  | portLinkDown (loss : LinkLoss)
  /-- PORT_LINK_UP (R32): A port regains link and resumes delivering frames. -/
  | portLinkUp (port : Fin 4)
  /-- FRAME_TRANSMIT (R130): A port's MAC becomes free and starts the next queued frame by strict priority. -/
  | frameTransmit (port : Fin 4)
  /-- SUPERVISION_FRAME (R108): Every 2 s the pair transmits a supervision frame. -/
  | supervisionFrame
  /-- DD_ENTRY_EXPIRE (R107): A duplicate-discard source entry is forgotten 400 ms after its last frame. -/
  | ddEntryExpire (source : BitVec 48)
  /-- ARP_REPLY (R110): Firmware forms an ARP reply or neighbour advertisement and queues it at priority 5. -/
  | arpReply (port : Fin 4)
  /-- PTP_MESSAGE_SEND (R364): Firmware's message interval expires and a Sync, Announce or delay message is sent. -/
  | ptpMessageSend (port : Fin 4) (kind : Fin 4)
  /-- LMU_LABEL (R285): An output label of all channels becomes available to metering, capture and the estimator. -/
  | lmuLabel (bits : List (List Bool))
  /-- PULSE_TIMER (R321): A pulse output's width or gap expires and the next owed pulse starts. -/
  | pulseTimer (n : Fin 8)
  /-- LOCAL_ESTIMATE (R299): A point's estimate for an instant completes and its local block is delivered or suppressed. -/
  | localEstimate (p : Fin 4)
  /-- CAP_FIRE_EDGE (R341): A falling edge on CAP_FIRE is timestamped at the ball for armed FIRE_IN units. -/
  | capFireEdge (detect : Nat)
  /-- FIRE_SAMPLE (R341): 200 µs after a CAP_FIRE edge the pin is sampled to tell the pulse length and decide the trigger. -/
  | fireSample (high : Bool)
  /-- FIRE_DRIVE (R341): A triggered FIRE_OUT unit pulls CAP_FIRE low at its scheduled edge time. -/
  | fireDrive
  /-- CAP_ARM_EDGE (R341): A rising or falling CAP_ARM edge arms or disarms the BUS_ARM units of a non-master device. -/
  | capArmEdge (rising : Bool)
  /-- CAP_REF_EDGE (R341): A rising CAP_REF edge is timestamped and CAP_REF_OFFSET and REF_LOCK are updated. -/
  | capRefEdge (stamp : Nat)
  /-- ARCHIVE_COMPRESS (R267): The compressor reads a closed column into the open blocks of enabled groups. -/
  | archiveCompress (errs : List MemErr)
  /-- ARCHIVE_BLOCK_COMPLETE (R267): An archive block or side-block is completed, sealed and handed to its destination. -/
  | archiveBlockComplete
  /-- ARCHIVE_DRAIN (R270): A written archive block is drained from the region to the archive ring. -/
  | archiveDrain (memErr : Bool)
  /-- REPLAY_COMPLETE (R272): The decompressor finishes a replay and delivers its record or error status. -/
  | replayComplete (memErr : Bool)
  /-- SERVO_MEASUREMENT (R367): An offset measurement from the selected source updates the servo, state and error estimate. -/
  | servoMeasurement (at_ : Nat)
  /-- SYNC_MISS (R370): An expected Sync interval passes without a Sync, and the third miss enters BIVOUAC. -/
  | syncMiss
  /-- ANNOUNCE_TIMEOUT (R370): Firmware reports announceReceiptTimeout for the parent port. -/
  | announceTimeout
  /-- PPS_IN_EDGE (R369): A PPS_IN edge is timestamped and, when labelled, gives a GNSS measurement. -/
  | ppsInEdge (falling : Bool) (detect : Nat)
  /-- TOD_SENTENCE (R369): A ZDA or RMC sentence received on TOD_RXD labels the preceding PPS edge. -/
  | todSentence (t : TodIn)
  /-- GNSS_LOSS (R370): Three seconds pass without a labelled PPS edge and GNSS is lost. -/
  | gnssLoss
  /-- TIME_STEP (R373): A pending step sets the timebase, re-phases the LMU and realigns the grid if larger than T/2. -/
  | timeStep
  /-- LEAP_SECOND (R357): At the end of the announcing UTC day the UTC offset changes by one. -/
  | leapSecond
  /-- RTC_LOAD (R377): At a second boundary while LOCKED the RTC is loaded from the timebase. -/
  | rtcLoad
  /-- HOST_LINK_RESET (R392): PERST_N or loss of the PCIe link resets the host interface only. -/
  | hostLinkReset
  /-- INTERRUPT_TIMER (R407): The oldest unconsumed completion has waited TIME_US and the ring fires its vector. -/
  | interruptTimer (n : Fin 64)
  /-- LANE_LOCK (R424): A Greaz lane gains block lock and the link starts a HELLO exchange. -/
  | laneLock (lane : Fin 2)
  /-- LANE_LOSS (R421): A Greaz lane loses block lock and is dropped, or the link goes down. -/
  | laneLoss (lane : Fin 2)
  /-- LINK_SILENCE (R424): No link frame arrives for 4 ms and the link goes down. -/
  | linkSilence
  /-- HELLO_SEND (R424): Every 1 ms until acknowledged the device sends HELLO. -/
  | helloSend
  /-- HELLO_RECEIVE (R424): A partner HELLO is received and acknowledged and the session comes up. -/
  | helloReceive (hdr : LinkHdr) (b : HelloBody)
  /-- HEARTBEAT_RECEIVE (R431): A HEARTBEAT frame gives the partner's role, epoch and tick numbering. -/
  | heartbeatReceive (hdr : LinkHdr) (b : HeartbeatBody)
  /-- ACK_RECEIVE (R426): An ACK frees acknowledged frames from the sender's window. -/
  | ackReceive (hdr : LinkHdr)
  /-- NAK_RECEIVE (R426): A NAK makes the sender retransmit from the named number. -/
  | nakReceive (hdr : LinkHdr)
  /-- STATE_RECEIVE (R428): A STATE frame is applied into the STANDBY device's receive buffer. -/
  | stateReceive (hdr : LinkHdr) (b : StateBody) (memErr : Bool)
  /-- TICK_END_RECEIVE (R428): A TICK_END makes the STANDBY commit the tick's regions or discard the tick. -/
  | tickEndReceive (hdr : LinkHdr) (b : TickEndBody)
  /-- ALARM_RECEIVE (R430): An ALARM frame delivers partner alarm records to the STANDBY's alarm ring. -/
  | alarmReceive (hdr : LinkHdr) (records : List (List Word))
  /-- SWAP_RECEIVE (R440): A SWAP frame makes a STANDBY that committed column k claim ACTIVE. -/
  | swapReceive (hdr : LinkHdr) (epoch : Word) (tick : BitVec 64)
  /-- LINK_FRAME_DISCARD (R422): A link frame with a failed tag, stale CTR or unknown TYPE is discarded and counted. -/
  | linkFrameDiscard (cause : DiscardCause)
  /-- ACK_SEND (R425): After 16 applied frames, 20 µs or 1 ms idle the receiver sends an ACK. -/
  | ackSend
  /-- NAK_REPEAT (R425): Every 50 µs until a missing number arrives the receiver repeats its NAK. -/
  | nakRepeat
  /-- RETRANSMIT_TIMEOUT (R426): No ACK arrives within 50 µs and the sender retransmits from the oldest unacknowledged frame. -/
  | retransmitTimeout
  /-- HEARTBEAT_SEND (R432): At the middle of each interval heartbeats are sent on both guy-lines. -/
  | heartbeatSend
  /-- GUY_LINE_B_WORD (R432): A guy-line B word with a matching CRC is received on HB_IN. -/
  | guyLineBWord (word : BitVec 64)
  /-- GUY_LINE_INTERVAL_END (R433): At the end of each interval the guy-lines are marked received or missed and faults evaluated. -/
  | guyLineIntervalEnd
  /-- EPOCH_WRITE_COMPLETE (R434): The NVM write of a claimed epoch completes and the device unmutes. -/
  | epochWriteComplete
  /-- EVR_WRITE (R451): The recorder commits the record at the head of its queue with the next SEQ. -/
  | evrWrite
  /-- FREEZE_TIMEOUT (R455): A freeze lasting FREEZE_MS ends by itself and a FREEZE_TIMEOUT record forms. -/
  | freezeTimeout
  /-- TICKET_VERIFIED (R469): Ticket verification ends, making it pending, refusing it, or carrying out NRG_RELEASE. -/
  | ticketVerified
  /-- KEY_MASK_REFRESH (R475): Every 1 ms the key register and cache entries are re-masked. -/
  | keyMaskRefresh
  /-- KEY_JOB (R477): The key unit completes one job: a link frame, an archive segment, a wrap or a derivation. -/
  | keyJob
  /-- SLOT_COMMIT (R481): The marker write of a slot write completes and KEY_SLOT_WRITE completes with OK. -/
  | slotCommit
  /-- TAMPER_SAMPLE (R484): Every 1 ms each enabled tamper loop is sampled through its switched pull-up. -/
  | tamperSample (open0 open1 : Bool)
  /-- MONITOR_TRIP (R501): A clock monitor trips and its domains make a fault switch. -/
  | monitorTrip (src : ClkSrc)
  /-- SOURCE_QUALIFIED (R498): A clock source qualifies and domains other than CORE and PLOT return to it. -/
  | sourceQualified (src : ClkSrc)
  /-- HOLD_ATTEMPT (R505): Every 100 ms in CLOCK_HOLD, up to 8 times, XTA is qualified against SIRC. -/
  | holdAttempt (ok : Bool) (b : BootIn)
  /-- BRACE (R522): PWR_SENSE falls below VWARN, the brace commit is made and NVM writes are held. -/
  | brace
  /-- BRACE_END (R524): PWR_SENSE stays above VWARN plus hysteresis for 2 ms and held writes are released. -/
  | braceEnd
  /-- BROWNOUT (R520): A core monitor trip resets the whole device. -/
  | brownout (b : BootIn)
  /-- PIN_RESET (R534): SYS_RST_N held low for at least 1 µs resets the whole device. -/
  | pinReset (b : BootIn)
  /-- POWER_ON (R536): Power-on reset is released and the start-up sequence runs. -/
  | powerOn (b : BootIn)
  /-- DORMANT_ENTRY (R530): At the next slack the device commits, drops PCIe and power-gates into dormant mode. -/
  | dormantEntry
  /-- DORMANT_WAKE (R532): An enabled wake source fires and the device resets with cause DORMANT_WAKE. -/
  | dormantWake (sources : BitVec 5) (b : BootIn)
  /-- VBAT_LOSS (R533): VBAT falls below its retention limit while the domain runs from it. -/
  | vbatLoss
  /-- PATCH_LOADED (R538): A firmware patch is read from QSPI or host memory and its signature is checked. -/
  | patchLoaded (p : PatchIn)
  /-- PATCH_WAIT_TIMEOUT (R538): No host patch or NONE arrives within 2 s and the ROM firmware runs alone. -/
  | patchWaitTimeout
  /-- ACQUISITION_TIMEOUT (R360): ACQ_TIMEOUT seconds pass without LOCKED and start-up leaves the timebase step. -/
  | acquisitionTimeout
  /-- PCIE_LINK_UP (R537): After PERST_N is released, the PCIe link trains to L0, HIF_STATUS.LINK_UP is set and DMA can proceed. -/
  | pcieLinkUp (speed : Fin 5) (lanes : Fin 9)
  /-- LONG_COMMAND_COMPLETE (R405): A long command such as REC_READ or CAP_READ finishes its DMA delivery and writes its completion while later commands proceed. -/
  | longCommandComplete (h : CmdHdr)
  /-- VECTOR_UNMASK (R407): Host software unmasks an MSI-X vector in BAR2 whose PBA bit is pending, and the held message is sent. -/
  | vectorUnmask (v : Fin 128)
  /-- PWR_SENSE_CHANGE (R524): During brace, PWR_SENSE rises above VWARN plus hysteresis, which starts the 2 ms timer, or falls back below it, which restarts the timer without a second commit. -/
  | pwrSenseChange (supply : SupplyIn)
  /-- TIMEBASE_SECOND_BOUNDARY (R376): At every timebase second boundary PPS_OUT rises, and in BIVOUAC the error estimate and TIM_UNLOCK_SEC advance. -/
  | timebaseSecondBoundary
  /-- FIRE_RELEASE (R341): A driven CAP_FIRE pulse ends after 100 µs or 300 µs and the device releases the line. -/
  | fireRelease
deriving DecidableEq, Repr

end Sys2Proof
end

