-- ==== Sys2Proof/Decode.lean ====
section
/-! DEFINITION. The commands that a ring's descriptor spells (R400), and those that a word spells: spec/opcode_table.json gives no row any bits, since the commands of this device arrive in
rings, at registers, on pins and on links, not as encoded words. -/
namespace Sys2Proof

/-- The command that a descriptor of a command ring spells (R400, Tables HIF-4 and HIF-7): opcode, TAG and argument words; `x` is what the memory that it names
gives. -/
def commandOf (ring : Fin 64) (ws : List Word) (x : HostData) : Instr :=
  let w (n : Nat) : Word := ws.getD n 0
  let addr (n : Nat) : BitVec 64 := (w (n + 1) ++ w n : BitVec (32 + 32))
  let h : CmdHdr := { ring := ring, tag := (w 0 >>> 16).setWidth 16, dmaErr := x.dmaErr }
  match ((w 0).setWidth 8).toNat with
  | 0x01 => .pitch h (w 1) (w 2) x.bytes
  | 0x02 => .pitchAbort h
  | 0x03 => .fencePlot h ((w 1).setWidth 8)
  | 0x04 => .unfencePlot h ((w 1).setWidth 8)
  | 0x08 => .roleSet h ((w 1).setWidth 2)
  | 0x09 => .roleSwap h
  | 0x10 => .timeSet h (w 1) (w 2) (w 3) (w 4) (w 5)
  | 0x18 => .recFreeze h
  | 0x19 => .recThaw h
  | 0x1A => .recRead h (w 1) (w 2) (addr 3) (w 5)
  | 0x1B => .recErase h (w 1)
  | 0x20 => .keyDerive h ((w 1).setWidth 8) (w 2)
  | 0x21 => .keySlotWrite h (w 1) (addr 2) (w 4) x.bytes
  | 0x22 => .keySlotClear h (w 1)
  | 0x28 => .nrgSnapshot h (w 1) (addr 2) (w 4)
  | 0x30 => .capArm h (w 1)
  | 0x31 => .capDisarm h (w 1)
  | 0x32 => .capRead h (w 1) (w 2) (w 3) (addr 4) x.memErr
  | 0x38 => .arcReplay h (w 1) (w 2) (w 3) (w 4) x.bytes
  | 0x40 => .lmuXfade h (w 1) (addr 2) (w 4) (w 5) (w 6) x.bytes
  | 0x48 => .telemCfg h (w 1)
  | _ => .badOpcode h ((w 0).setWidth 8)

/-- The command that a word spells by the table's bits: no row of the table gives bits, so no word spells one. -/
def decodeTableWord (_nbits _w : Nat) : Option Instr := none

end Sys2Proof
end

