-- ==== Sys2Proof/Config.lean ====
section
/-! DEFINITION. What one device has and the spec does not fix (fuses blown in the factory), and the free values: constants
without a body, so that nothing proved of the model depends on what they are. -/
namespace Sys2Proof

/-- The 32 bytes of ROOT_SECRET (Table SEC-1), unique per device. DESIGN CHOICE (log 3): a constant of the device. -/
opaque Config.rootSecret : Nat → Byte

/-- DEV_SERIAL (Table SEC-1). DESIGN CHOICE (log 3): a constant of the device. -/
opaque Config.devSerial : BitVec 64

/-- The 32 bytes of FW_KEY_HASH (Table SEC-1). DESIGN CHOICE (log 3): a constant of the device. -/
opaque Config.fwKeyHash : Nat → Byte

/-- A free word: what the spec leaves unstated or unspecified, by the free counter. DESIGN CHOICE (log 2). -/
opaque Config.freeWord : Nat → Word

/-- A free Boolean, by the free counter. DESIGN CHOICE (log 2). -/
opaque Config.freeBool : Nat → Bool

/-- Tap k, up to the middle one, of the LMU's fixed half-band filter (R284: 47 taps, values not given). DESIGN CHOICE (log 44): a constant of the device. -/
opaque Config.lmuHalfBand : Nat → Word

/-- Tap k of phase p of the LMU's fixed polyphase interpolator (R284: 8 taps, values not given). DESIGN CHOICE (log 44). -/
opaque Config.lmuPolyphase : Nat → Nat → Word

/-- Tap k of the first half of the LMU's ROM default bank (R284, R292: 96 taps, values not given). DESIGN CHOICE (log 44). -/
opaque Config.lmuRomBank : Nat → Word

/-- A random byte of the internal source that masks keys (R475), by the free counter. DESIGN CHOICE (log 2). -/
opaque Config.freeByte : Nat → Byte

/-- SYS_PATROL_PERIOD_S by device time: the spec gives the LPDDR5 patrol no rate. DESIGN CHOICE (log 72). -/
opaque Config.patrolPeriodS : Nat → Word

/-- The error bound in FP32 ns of a clockAccuracy that denotes more than 10 s (R368), of which the spec states none. DESIGN CHOICE (log 29). -/
opaque Config.accuracyUnbounded : Word

/-- The length of the JTAG port's instruction register, which the spec does not give. DESIGN CHOICE (log 102). -/
opaque Config.jtagIrLength : Nat

/-- The instruction of a code other than that of BYPASS, 0 for IDCODE, 1 SAMPLE, 2 PRELOAD, 3 EXTEST: the spec gives no codes. DESIGN CHOICE (log 102). -/
opaque Config.jtagCode : List Bool → Option (Fin 4)

/-- Bits 31:1 of the JTAG IDCODE, which the spec does not give. DESIGN CHOICE (log 102): a constant of the device. -/
opaque Config.jtagIdcode : BitVec 31

/-- The number of cells of the boundary-scan register, which the spec does not give. DESIGN CHOICE (log 102). -/
opaque Config.boundaryCells : Nat

/-- The revision ID of configuration space, which the spec does not give. DESIGN CHOICE (log 101): a constant of the device. -/
opaque Config.pcieRevision : Byte

/-- The idle levels of AVS_CLK and AVS_MDAT, which Table PIN-1 gives as those of the AVSBus specification. DESIGN CHOICE (log 110): constants of the device. -/
opaque Config.avsIdle : Bool × Bool

/-- The frequency of SIRC in Hz, untrimmed, within 5 % of 32,768 (Table CLK-1). DESIGN CHOICE (log 108): a constant of the device. -/
opaque Config.sircHz : Nat

/-- Whether a PLL, by its code, that runs from a qualified reference but is not qualified yet holds lock at a device time (R511): the spec gives no lock time.
DESIGN CHOICE (log 108). -/
opaque Config.pllLock : Nat → Nat → Bool

/-- Time to live and hop limit of the device's own output frames, which the spec does not give. DESIGN CHOICE (log 59): constants of the device. -/
opaque Config.ipTtl : Byte

/-- Type of service and traffic class of output frames. DESIGN CHOICE (log 59): a constant of the device. -/
opaque Config.ipTos : Byte

/-- Flow label of IPv6 output frames. DESIGN CHOICE (log 59): a constant of the device. -/
opaque Config.ipFlow : BitVec 20

/-- Identification and the don't-fragment bit of IPv4 output frames, by device time and stream. DESIGN CHOICE (log 59). -/
opaque Config.ipId : Nat → Nat → BitVec 17

/-- The Householder reflection x − v × (b × (v · x)) that takes a vector to a multiple of its first unit vector: v and b. R195 names the reflections of its
least squares, Hessenberg reduction and sweeps, and not their sign, scaling or rounding. DESIGN CHOICE (log 2). -/
opaque Config.reflector : (x : List Word) → List Word × Word

/-- The two eigenvalues of a 2 × 2 block (R195), its words row by row: the form of the quadratic formula is not stated. DESIGN CHOICE (log 2). -/
opaque Config.blockEigen : (a b c d : Word) → (Word × Word) × (Word × Word)

/-- The back substitution of R195: the eigenvectors of h, one list for each eigenvalue; how it passes a 2 × 2 block and scales its vectors is not stated.
DESIGN CHOICE (log 2). -/
opaque Config.backSubstitute : (h : List (List Word)) → (eig : List (Word × Word)) → List (List (Word × Word))

/-- The inverse of R195 of a complex matrix given by columns, as rows, for which R195 names no method. DESIGN CHOICE (log 2). -/
opaque Config.complexInverse : (v : List (List (Word × Word))) → List (List (Word × Word))

end Sys2Proof
end

