-- ==== Sys2Proof/Machine/Bits.lean ====
section
/-! DEFINITION. Bit fields, byte orders and canonical sparse maps: the helpers every other file reads words with. -/
namespace Sys2Proof.Machine

/-- Bits hi:lo of a word, as a number (bit ranges are written high:low). -/
def field (w : Word) (hi lo : Nat) : Nat := (w.toNat >>> lo) % 2 ^ (hi + 1 - lo)

/-- One bit of a word. -/
def flag (w : Word) (i : Nat) : Bool := w.getLsbD i

/-- A word whose bits from lo up hold v (v must fit below the next field). -/
def place (v lo : Nat) : Word := BitVec.ofNat 32 (v <<< lo)

/-- One flag placed at bit i. -/
def placeB (b : Bool) (i : Nat) : Word := if b then place 1 i else 0

/-- A mask with the one bit i. -/
def bit (i : Nat) : Word := place 1 i

/-- Bits hi:lo of w replaced by v. -/
def putField (w : Word) (hi lo v : Nat) : Word :=
  let m : Word := BitVec.ofNat 32 ((2 ^ (hi + 1 - lo) - 1) <<< lo)
  (w &&& ~~~m) ||| (place v lo &&& m)

/-- Bit i of w set or cleared. -/
def putFlag (w : Word) (i : Nat) (b : Bool) : Word := if b then w ||| bit i else w &&& ~~~(bit i)

/-- A field of n bits read as a signed number. -/
def signed (n v : Nat) : Int := if v % 2 ^ n < 2 ^ (n - 1) then (v % 2 ^ n : Nat) else (v % 2 ^ n : Nat) - (2 ^ n : Nat)

/-- A signed number held in n bits (two's complement). -/
def unsigned (n : Nat) (i : Int) : Nat := (i % (2 ^ n : Nat)).toNat

/-- A signed number held in one word. -/
def wInt (i : Int) : Word := w32 (unsigned 32 i)

/-- A signed number held to the range of a signed word ("saturating"). -/
def satInt32 (i : Int) : Word :=
  if i < -(2 ^ 31 : Nat) then 0x80000000 else if (2 ^ 31 : Nat) ≤ i then 0x7FFFFFFF else wInt i

/-- A signed number held to the range of a signed 16-bit field. -/
def satInt16 (i : Int) : Nat := unsigned 16 (max (-32768) (min 32767 i))

/-- Byte i of a word, byte 0 at the lowest address (R7). -/
def byteOf (w : Word) (i : Nat) : Byte := (w >>> (8 * i)).setWidth 8

/-- The four bytes of a word, little-endian (R7). -/
def leBytes (w : Word) : List Byte := [byteOf w 0, byteOf w 1, byteOf w 2, byteOf w 3]

/-- n bytes of a number, little-endian. -/
def leNat : Nat → Nat → List Byte
  | 0, _ => []
  | n + 1, v => BitVec.ofNat 8 v :: leNat n (v >>> 8)

/-- n bytes of a number, big-endian (the order of network fields and of cryptographic values, R7). -/
def beNat (n v : Nat) : List Byte := (leNat n v).reverse

/-- The number a big-endian byte string spells. -/
def ofBe (bs : List Byte) : Nat := bs.foldl (fun a b => a * 256 + b.toNat) 0

/-- The number a little-endian byte string spells. -/
def ofLe (bs : List Byte) : Nat := ofBe bs.reverse

/-- The word of four bytes at the start of a string, little-endian; missing bytes count as 0. -/
def wordLe (bs : List Byte) : Word := w32 (ofLe (bs.take 4))

/-- The words of a byte string, in order (R8); `fuel` bounds the recursion. -/
def wordsGo : Nat → List Byte → List Word
  | 0, _ => []
  | n + 1, bs => wordLe bs :: wordsGo n (bs.drop 4)

/-- The whole words of a byte string. -/
def wordsOf (bs : List Byte) : List Word := wordsGo (bs.length / 4) bs

/-- The bytes of words, word 0 at the lowest address (R8). -/
def bytesOf (ws : List Word) : List Byte := ws.flatMap leBytes

/-- Item n of a list of words, 0 past its end. -/
def wordAt (ws : List Word) (n : Nat) : Word := ws.getD n 0

/-- Item n of a list replaced; an n past the end changes nothing. -/
def setAt {α : Type} : List α → Nat → α → List α
  | [], _, _ => []
  | _ :: xs, 0, v => v :: xs
  | x :: xs, n + 1, v => x :: setAt xs n v

/-- Item n of a list rewritten by f. -/
def modifyAt {α : Type} : List α → Nat → (α → α) → List α
  | [], _, _ => []
  | x :: xs, 0, f => f x :: xs
  | x :: xs, n + 1, f => x :: modifyAt xs n f

/-- The value found under a key of a sparse map. -/
def mapGet {α : Type} : List (Nat × α) → Nat → Option α
  | [], _ => none
  | (k, v) :: m, a => if k = a then some v else mapGet m a

/-- A sparse map with the value under one key set; the keys stay strictly rising. -/
def mapSet {α : Type} : List (Nat × α) → Nat → α → List (Nat × α)
  | [], a, v => [(a, v)]
  | (k, w) :: m, a, v =>
    if a < k then (a, v) :: (k, w) :: m
    else if a = k then (a, v) :: m
    else (k, w) :: mapSet m a v

/-- A sparse map with one key removed. -/
def mapDel {α : Type} : List (Nat × α) → Nat → List (Nat × α)
  | [], _ => []
  | (k, w) :: m, a => if k = a then mapDel m a else (k, w) :: mapDel m a

/-- The canonical form of a sparse map: keys strictly rising. -/
def mapWf {α : Type} : List (Nat × α) → Bool
  | [] => true
  | (k, _) :: m => m.all (fun e => decide (k < e.1)) && mapWf m

/-- The largest of a list of numbers, 0 for none. -/
def maxOf (l : List Nat) : Nat := l.foldl max 0

/-- The smaller of a list of numbers, if there is one. -/
def minOf : List Nat → Option Nat
  | [] => none
  | x :: xs => match minOf xs with
    | none => some x
    | some y => some (min x y)

end Sys2Proof.Machine
end

