-- ==== Sys2Proof/Machine/Crypto.lean ====
section
/-! DEFINITION. The checks and ciphers the spec names: CRC-32C (R113), CRC-CCITT (R117), SHA-256, HMAC and the key
derivation of R473, AES-256-GCM (R269, R422, R480) and the ECDSA P-256 signature check (R54). -/
namespace Sys2Proof.Machine

/-! Cyclic redundancy checks. -/

/-- One bit of a reflected CRC-32C: polynomial 0x1EDC6F41, 0x82F63B78 reflected. -/
def crc32cBit : Nat → Word → Word
  | 0, c => c
  | n + 1, c => crc32cBit n (if c.getLsbD 0 then (c >>> 1) ^^^ 0x82F63B78 else c >>> 1)

/-- CRC-32C of a byte string: reflected, initial value and final XOR 0xFFFF_FFFF (R113). -/
def crc32c (bs : List Byte) : Word :=
  bs.foldl (fun c b => crc32cBit 8 (c ^^^ b.setWidth 32)) 0xFFFFFFFF ^^^ 0xFFFFFFFF

/-- One bit of CRC-CCITT, polynomial 0x1021, most significant bit first. -/
def crc16Bit : Nat → BitVec 16 → BitVec 16
  | 0, c => c
  | n + 1, c => crc16Bit n (if c.getLsbD 15 then (c <<< 1) ^^^ 0x1021 else c <<< 1)

/-- CRC-CCITT of a byte string, initial value 0xFFFF (R117). -/
def crc16 (bs : List Byte) : BitVec 16 :=
  bs.foldl (fun c b => crc16Bit 8 (c ^^^ BitVec.ofNat 16 (b.toNat <<< 8))) 0xFFFF

/-! SHA-256 and HMAC. -/

/-- The words of a number, the first one its most significant 32 bits. -/
def packedWords (count n : Nat) : List Word := (List.range count).map fun i => w32 (n / 2 ^ (32 * (count - 1 - i)))

/-- The round constants of SHA-256 one after another: the fractions of the cube roots of the first 64 primes, 32 bits each (FIPS 180-4). -/
def shaRoundBits : Nat :=
  0x428a2f9871374491b5c0fbcfe9b5dba53956c25b59f111f1923f82a4ab1c5ed5d807aa9812835b01243185be550c7dc372be5d7480deb1fe9bdc06a7c19bf174e49b69c1efbe47860fc19dc6240ca1cc2de92c6f4a7484aa5cb0a9dc76f988da983e5152a831c66db00327c8bf597fc7c6e00bf3d5a7914706ca63511429296727b70a852e1b21384d2c6dfc53380d13650a7354766a0abb81c2c92e92722c85a2bfe8a1a81a664bc24b8b70c76c51a3d192e819d6990624f40e3585106aa07019a4c1161e376c082748774c34b0bcb5391c0cb34ed8aa4a5b9cca4f682e6ff3748f82ee78a5636f84c878148cc7020890befffaa4506cebbef9a3f7c67178f2

/-- The round constants of SHA-256. -/
def shaK : List Word := packedWords 64 shaRoundBits

/-- The initial hash value of SHA-256: the fractions of the square roots of the first eight primes (FIPS 180-4). -/
def shaInit : List Word := packedWords 8 0x6a09e667bb67ae853c6ef372a54ff53a510e527f9b05688c1f83d9ab5be0cd19

/-- A word rotated right. -/
def rotr (w : Word) (n : Nat) : Word := (w >>> n) ||| (w <<< (32 - n))

/-- The next schedule word from the last sixteen, newest first. -/
def shaNext (l : List Word) : Word :=
  let x := wordAt l 14
  let y := wordAt l 1
  (rotr y 17 ^^^ rotr y 19 ^^^ (y >>> 10)) + wordAt l 6 + (rotr x 7 ^^^ rotr x 18 ^^^ (x >>> 3)) + wordAt l 15

/-- The schedule grown by n words, newest first. -/
def shaExpand : Nat → List Word → List Word
  | 0, l => l
  | n + 1, l => shaExpand n (shaNext l :: l)

/-- One round of the compression function on the eight working words. -/
def shaRound (st : List Word) (kw : Word × Word) : List Word :=
  match st with
  | [a, b, c, d, e, f, g, h] =>
    let t1 := h + (rotr e 6 ^^^ rotr e 11 ^^^ rotr e 25) + ((e &&& f) ^^^ (~~~e &&& g)) + kw.1 + kw.2
    let t2 := (rotr a 2 ^^^ rotr a 13 ^^^ rotr a 22) + ((a &&& b) ^^^ (a &&& c) ^^^ (b &&& c))
    [t1 + t2, a, b, c, d + t1, e, f, g]
  | _ => st

/-- The big-endian words of a byte string. -/
def beWords : Nat → List Byte → List Word
  | 0, _ => []
  | n + 1, bs => w32 (ofBe (bs.take 4)) :: beWords n (bs.drop 4)

/-- One 64-byte block taken into the hash. -/
def shaBlock (h : List Word) (blk : List Byte) : List Word :=
  let w := (shaExpand 48 (beWords 16 blk).reverse).reverse
  (h.zip ((shaK.zip w).foldl shaRound h)).map (fun p => p.1 + p.2)

/-- The next `n` whole blocks of `bs` taken in. -/
def shaGo : Nat → List Word → List Byte → List Word
  | 0, h, _ => h
  | n + 1, h, bs => shaGo n (shaBlock h (bs.take 64)) (bs.drop 64)

/-- SHA-256 (FIPS 180-4). -/
def sha256 (bs : List Byte) : List Byte :=
  let pad := (119 - bs.length % 64) % 64
  let m := bs ++ [0x80] ++ List.replicate pad 0 ++ beNat 8 (8 * bs.length)
  (shaGo (m.length / 64) shaInit m).flatMap (fun w => (leBytes w).reverse)

/-- HMAC-SHA-256 (FIPS 198-1). -/
def hmacSha256 (key msg : List Byte) : List Byte :=
  let k := if key.length ≤ 64 then key else sha256 key
  let k := k ++ List.replicate (64 - k.length) 0
  sha256 (k.map (· ^^^ 0x5C) ++ sha256 (k.map (· ^^^ 0x36) ++ msg))

/-- The working key of R473: NIST SP 800-108 in counter mode, one iteration. -/
def kdf (ki label ctx : List Byte) : List Byte :=
  hmacSha256 ki (beNat 4 1 ++ label ++ [0] ++ ctx ++ beNat 4 256)

/-! AES-256 and GCM. -/

/-- Multiplication by x in GF(2^8). -/
def xtime (b : Byte) : Byte := if b.getLsbD 7 then (b <<< 1) ^^^ 0x1B else b <<< 1

/-- A product in GF(2^8), over the bits of the second factor. -/
def gmul8 : Nat → Byte → Byte → Byte
  | 0, _, _ => 0
  | n + 1, a, b => (if b.getLsbD 0 then a else 0) ^^^ gmul8 n (xtime a) (b >>> 1)

/-- The inverse in GF(2^8): a^254, and 0 for 0. -/
def ginv8 (a : Byte) : Byte :=
  let sq (x : Byte) := gmul8 8 x x
  let a2 := sq a
  let a4 := sq a2
  let a8 := sq a4
  let a16 := sq a8
  let a32 := sq a16
  let a64 := sq a32
  let a128 := sq a64
  [a4, a8, a16, a32, a64, a128].foldl (gmul8 8) a2

/-- The AES substitution of a byte. -/
def aesSub (b : Byte) : Byte :=
  let x := ginv8 b
  let rot (n : Nat) : Byte := (x <<< n) ||| (x >>> (8 - n))
  x ^^^ rot 1 ^^^ rot 2 ^^^ rot 3 ^^^ rot 4 ^^^ 0x63

/-- The next key-schedule word of AES-256 from the words so far, newest first, and the round constant in force. -/
def aesKeyStep (i : Nat) (l : List (List Byte)) (rc : Byte) : List Byte × Byte :=
  let prev := l.headD []
  let back := l.getD 7 []
  let zipx (a b : List Byte) := (a.zip b).map (fun p => p.1 ^^^ p.2)
  if i % 8 = 0 then
    let t := (prev.drop 1 ++ prev.take 1).map aesSub
    (zipx back (zipx t [rc, 0, 0, 0]), xtime rc)
  else if i % 8 = 4 then (zipx back (prev.map aesSub), rc)
  else (zipx back prev, rc)

/-- The key schedule grown by n words, newest first. -/
def aesExpand : Nat → Nat → List (List Byte) → Byte → List (List Byte)
  | 0, _, l, _ => l
  | n + 1, i, l, rc =>
    let (w, rc') := aesKeyStep i l rc
    aesExpand n (i + 1) (w :: l) rc'

/-- A byte string cut into pieces of n bytes. -/
def chunks (n : Nat) : Nat → List Byte → List (List Byte)
  | 0, _ => []
  | f + 1, bs => if bs.isEmpty then [] else bs.take n :: chunks n f (bs.drop n)

/-- The fifteen round keys of AES-256. -/
def aesKeys (key : List Byte) : List (List Byte) :=
  let ws := (aesExpand 52 8 (chunks 4 8 key).reverse 1).reverse
  (chunks 16 15 ws.flatten)

/-- Two byte strings XORed, to the shorter one's length. -/
def xorBytes (a b : List Byte) : List Byte := (a.zip b).map (fun p => p.1 ^^^ p.2)

/-- The rows of the state shifted: byte r of column c comes from column c + r. -/
def shiftRows (s : List Byte) : List Byte :=
  (List.range 16).map (fun i => s.getD ((i + 4 * (i % 4)) % 16) 0)

/-- One column mixed. -/
def mixColumn (c : List Byte) : List Byte :=
  (List.range 4).map (fun i =>
    let g (k : Nat) := c.getD ((i + k) % 4) 0
    xtime (g 0) ^^^ (xtime (g 1) ^^^ g 1) ^^^ g 2 ^^^ g 3)

/-- The middle rounds and the last one. -/
def aesRounds : List (List Byte) → List Byte → List Byte
  | [], s => s
  | [k], s => xorBytes (shiftRows (s.map aesSub)) k
  | k :: ks, s => aesRounds ks (xorBytes ((chunks 4 4 (shiftRows (s.map aesSub))).flatMap mixColumn) k)

/-- One block enciphered with AES-256 under its round keys. -/
def aesBlock (keys : List (List Byte)) (blk : List Byte) : List Byte :=
  match keys with
  | [] => blk
  | k :: ks => aesRounds ks (xorBytes blk k)

/-- The GHASH product of two 128-bit blocks, bit 0 the most significant. -/
def ghashMul : Nat → BitVec 128 → BitVec 128 → BitVec 128
  | 0, _, _ => 0
  | n + 1, x, y =>
    (if x.getLsbD n then y else 0) ^^^
      ghashMul n x (if y.getLsbD 0 then (y >>> 1) ^^^ 0xE1000000000000000000000000000000 else y >>> 1)

/-- A string padded with zeros to whole blocks of 16 bytes. -/
def pad16 (bs : List Byte) : List Byte := bs ++ List.replicate ((16 - bs.length % 16) % 16) 0

/-- GHASH of whole blocks under the hash key. -/
def ghash (h : BitVec 128) (bs : List Byte) : BitVec 128 :=
  (chunks 16 (bs.length / 16 + 1) bs).foldl (fun y b => ghashMul 128 (y ^^^ BitVec.ofNat 128 (ofBe b)) h) 0

/-- Counter mode from a counter value over a string. -/
def gctr (keys : List (List Byte)) (iv : List Byte) (ctr : Nat) (bs : List Byte) : List Byte :=
  let bl := chunks 16 (bs.length / 16 + 1) bs
  ((List.range bl.length).zip bl).flatMap (fun p => xorBytes p.2 (aesBlock keys (iv ++ beNat 4 (ctr + p.1))))

/-- The GCM tag of additional data and ciphertext. -/
def gcmTag (keys : List (List Byte)) (iv aad ct : List Byte) : List Byte :=
  let h := BitVec.ofNat 128 (ofBe (aesBlock keys (List.replicate 16 0)))
  let y := ghash h (pad16 aad ++ pad16 ct ++ beNat 8 (8 * aad.length) ++ beNat 8 (8 * ct.length))
  xorBytes (beNat 16 y.toNat) (aesBlock keys (iv ++ beNat 4 1))

/-- AES-256-GCM with a 12-byte IV: the ciphertext and the 16-byte tag. -/
def gcmSeal (key iv aad pt : List Byte) : List Byte × List Byte :=
  let keys := aesKeys key
  let ct := gctr keys iv 2 pt
  (ct, gcmTag keys iv aad ct)

/-- The plaintext of a sealed string, or none when its tag fails. -/
def gcmOpen (key iv aad ct tag : List Byte) : Option (List Byte) :=
  let keys := aesKeys key
  if gcmTag keys iv aad ct = tag then some (gctr keys iv 2 ct) else none

/-! ECDSA P-256. -/

/-- The field prime of P-256. -/
def p256P : Nat := 0xFFFFFFFF00000001000000000000000000000000FFFFFFFFFFFFFFFFFFFFFFFF
/-- The group order of P-256. -/
def p256N : Nat := 0xFFFFFFFF00000000FFFFFFFFFFFFFFFFBCE6FAADA7179E84F3B9CAC2FC632551
/-- The curve constant b. -/
def p256B : Nat := 0x5AC635D8AA3A93E7B3EBBD55769886BC651D06B0CC53B0F63BCE3C3E27D2604B
/-- The base point. -/
def p256G : Nat × Nat :=
  (0x6B17D1F2E12C4247F8BCE6E563A440F277037D812DEB33A0F4A13945D898C296,
   0x4FE342E2FE1A7F9B8EE7EB4A7C0F9E162BCE33576B315ECECBB6406837BF51F5)

/-- a^(binary exponent) mod m, over the low bits of e. -/
def powMod (m : Nat) : Nat → Nat → Nat → Nat
  | 0, _, _ => 1 % m
  | f + 1, a, e => (if e % 2 = 1 then a else 1) * powMod m f (a * a % m) (e / 2) % m

/-- The inverse modulo a prime, by Fermat. -/
def invMod (m a : Nat) : Nat := powMod m 256 (a % m) (m - 2)

/-- A point of the curve; none is the point at infinity. -/
abbrev P256Point := Option (Nat × Nat)

/-- The sum of two points. -/
def p256Add : P256Point → P256Point → P256Point
  | none, q => q
  | p, none => p
  | some (x1, y1), some (x2, y2) =>
    let p := p256P
    if x1 = x2 ∧ (y1 + y2) % p = 0 then none else
    let l := if x1 = x2 then (3 * x1 * x1 + (p - 3)) * invMod p (2 * y1) % p
      else (y2 + (p - y1)) * invMod p (x2 + (p - x1)) % p
    let x3 := (l * l + (p - x1) + (p - x2)) % p
    some (x3, (l * (x1 + (p - x3)) + (p - y1)) % p)

/-- k times a point, over the low bits of k. -/
def p256Mul : Nat → Nat → P256Point → P256Point
  | 0, _, _ => none
  | f + 1, k, q =>
    let r := p256Mul f (k / 2) (p256Add q q)
    if k % 2 = 1 then p256Add q r else r

/-- The ECDSA P-256 check of a signature r ‖ s by the key X ‖ Y over a message hashed with SHA-256 (R54). -/
def ecdsaVerify (pub sig msg : List Byte) : Bool :=
  let x := ofBe (pub.take 32)
  let y := ofBe (pub.drop 32)
  let r := ofBe (sig.take 32)
  let s := ofBe (sig.drop 32)
  let onCurve := decide (x < p256P) && decide (y < p256P) &&
    decide (y * y % p256P = (x * x * x + (p256P - 3) * x + p256B) % p256P)
  if pub.length = 64 ∧ sig.length = 64 ∧ onCurve ∧ 0 < r ∧ r < p256N ∧ 0 < s ∧ s < p256N then
    let w := invMod p256N s
    let e := ofBe (sha256 msg)
    match p256Add (p256Mul 256 (e * w % p256N) (some p256G)) (p256Mul 256 (r * w % p256N) (some (x, y))) with
    | none => false
    | some (px, _) => decide (px % p256N = r)
  else false

end Sys2Proof.Machine
end

