-- ==== Sys2Proof/Machine/Fp.lean ====
section
/-! DEFINITION. Plot arithmetic (R90): IEEE 754 binary32, round to nearest even, subnormal inputs taken as zero, results
judged subnormal after rounding and flushed, one NaN; and the correctly rounded sine, cosine, logarithm and angle. -/
namespace Sys2Proof.Machine

/-- A binary32 value read apart (R9, R90): NaN, an infinity, or the exact number (−1)^neg × m × 2^e. -/
inductive FpVal where
  | nan
  | inf (neg : Bool)
  | fin (neg : Bool) (m : Nat) (e : Int)
deriving DecidableEq, Repr

/-- The one NaN a result can be (R90). -/
def fpNaN : Word := 0x7FC00000
/-- Zero of a sign. -/
def fpZero (neg : Bool) : Word := if neg then 0x80000000 else 0
/-- Infinity of a sign. -/
def fpInf (neg : Bool) : Word := if neg then 0xFF800000 else 0x7F800000
/-- 1.0. -/
def fpOne : Word := 0x3F800000

/-- The number of bits of n: the position of its highest set bit plus one. -/
def bitLen (n : Nat) : Nat := if n = 0 then 0 else Nat.log2 n + 1

/-- A word read as a binary32 value; a subnormal is zero of its sign (R90). -/
def fpRead (w : Word) : FpVal :=
  let neg := w.getLsbD 31
  let ex := field w 30 23
  let fr := field w 22 0
  if ex = 255 then (if fr = 0 then .inf neg else .nan)
  else if ex = 0 then .fin neg 0 0
  else .fin neg (fr + 2 ^ 23) ((ex : Int) - 150)

/-- n / 2^k to the nearest, ties to even; `sticky` says that the exact value lies above n. -/
def rneShift (n k : Nat) (sticky : Bool) : Nat :=
  if k = 0 then n else
  let q := n >>> k
  let r := n % 2 ^ k
  let h := 2 ^ (k - 1)
  if r > h ∨ (r = h ∧ (sticky ∨ q % 2 = 1)) then q + 1 else q

/-- The binary32 word nearest to (−1)^neg × m × 2^e, ties to even (R90); `sticky` says the exact value lies above m × 2^e
by less than one unit of m, and m must then have more than 25 bits. A rounded value below 2^−126 becomes zero. -/
def fpRound (neg : Bool) (m : Nat) (e : Int) (sticky : Bool) : Word :=
  if m = 0 then fpZero neg else
  let n := bitLen m
  let r := if n ≤ 24 then m <<< (24 - n) else rneShift m (n - 24) sticky
  let re : Int := e + (n : Int) - 24
  let (r, re) := if r = 2 ^ 24 then (2 ^ 23, re + 1) else (r, re)
  let ue : Int := re + 23
  if ue > 127 then fpInf neg
  else if ue < -126 then fpZero neg
  else BitVec.ofNat 32 ((if neg then 2 ^ 31 else 0) + ((ue + 127).toNat <<< 23) + (r - 2 ^ 23))

/-- A signed exact number i × 2^e rounded; an exact zero is +0. -/
def fpOfScaled (i : Int) (e : Int) : Word := fpRound (decide (i < 0)) i.natAbs e false

/-- The binary32 value nearest to an integer. -/
def fpOfInt (i : Int) : Word := fpOfScaled i 0

/-- −x. -/
def fpNeg (w : Word) : Word := w ^^^ 0x80000000
/-- abs(x). -/
def fpAbs (w : Word) : Word := w &&& 0x7FFFFFFF
/-- Whether a word is a NaN. -/
def fpIsNaN (w : Word) : Bool := match fpRead w with | .nan => true | _ => false
/-- Whether a word is finite. -/
def fpIsFinite (w : Word) : Bool := match fpRead w with | .fin .. => true | _ => false
/-- A NaN made the one NaN, a subnormal made zero, every other value as it is. -/
def fpCanon (w : Word) : Word :=
  match fpRead w with
  | .nan => fpNaN
  | .inf n => fpInf n
  | .fin n 0 _ => fpZero n
  | .fin .. => w

/-- The signed mantissa of a finite value brought down to the exponent e0 ≤ e. -/
def fpAlign (neg : Bool) (m : Nat) (e e0 : Int) : Int :=
  let v : Int := (m <<< (e - e0).toNat : Nat)
  if neg then -v else v

/-- x + y. -/
def fpAdd (x y : Word) : Word :=
  match fpRead x, fpRead y with
  | .nan, _ => fpNaN
  | _, .nan => fpNaN
  | .inf a, .inf b => if a = b then fpInf a else fpNaN
  | .inf a, _ => fpInf a
  | _, .inf b => fpInf b
  | .fin a m e, .fin b k f =>
    if m = 0 ∧ k = 0 then fpZero (a && b)
    else if m = 0 then fpCanon y
    else if k = 0 then fpCanon x
    else
      let e0 := min e f
      fpOfScaled (fpAlign a m e e0 + fpAlign b k f e0) e0

/-- x − y. -/
def fpSub (x y : Word) : Word := if fpIsNaN y then fpNaN else fpAdd x (fpNeg y)

/-- x × y. -/
def fpMul (x y : Word) : Word :=
  match fpRead x, fpRead y with
  | .nan, _ => fpNaN
  | _, .nan => fpNaN
  | .inf a, .inf b => fpInf (a != b)
  | .inf a, .fin b k _ => if k = 0 then fpNaN else fpInf (a != b)
  | .fin a m _, .inf b => if m = 0 then fpNaN else fpInf (a != b)
  | .fin a m e, .fin b k f => fpRound (a != b) (m * k) (e + f) false

/-- x × y + z with one rounding. -/
def fpFma (x y z : Word) : Word :=
  match fpRead x, fpRead y, fpRead z with
  | .nan, _, _ => fpNaN
  | _, .nan, _ => fpNaN
  | _, _, .nan => fpNaN
  | .fin a m e, .fin b k f, .fin c n g =>
    if m * k = 0 then (if n = 0 then fpZero ((a != b) && c) else fpCanon z)
    else if n = 0 then fpRound (a != b) (m * k) (e + f) false
    else
      let e0 := min (e + f) g
      fpOfScaled (fpAlign (a != b) (m * k) (e + f) e0 + fpAlign c n g e0) e0
  | .fin .., .fin .., .inf c => fpInf c
  | _, _, _ => fpAdd (fpMul x y) z

/-- x / y. -/
def fpDiv (x y : Word) : Word :=
  match fpRead x, fpRead y with
  | .nan, _ => fpNaN
  | _, .nan => fpNaN
  | .inf _, .inf _ => fpNaN
  | .inf a, .fin b _ _ => fpInf (a != b)
  | .fin a _ _, .inf b => fpZero (a != b)
  | .fin a m e, .fin b k f =>
    if k = 0 then (if m = 0 then fpNaN else fpInf (a != b))
    else if m = 0 then fpZero (a != b)
    else
      let n := m <<< 64
      fpRound (a != b) (n / k) (e - f - 64) (decide (n % k ≠ 0))

/-- The integer square root by Newton's method from above (`fuel` bounds the recursion). -/
def isqrtGo : Nat → Nat → Nat → Nat
  | 0, _, x => x
  | f + 1, n, x =>
    let y := (x + n / x) / 2
    if x ≤ y then x else isqrtGo f n y

/-- floor(√n). -/
def isqrt (n : Nat) : Nat := if n = 0 then 0 else isqrtGo (bitLen n + 8) n (2 ^ ((bitLen n + 1) / 2))

/-- √x. -/
def fpSqrt (x : Word) : Word :=
  match fpRead x with
  | .nan => fpNaN
  | .inf a => if a then fpNaN else fpInf false
  | .fin a m e =>
    if m = 0 then fpZero a
    else if a then fpNaN
    else
      let sh : Nat := if e % 2 = 0 then 64 else 65
      let n := m <<< sh
      let r := isqrt n
      fpRound false r ((e - (sh : Int)) / 2) (decide (r * r ≠ n))

/-- The order of two values that are no NaN: their difference's sign, infinities beyond every number. -/
def fpCmp (x y : Word) : Option Ordering :=
  match fpRead x, fpRead y with
  | .nan, _ => none
  | _, .nan => none
  | .inf a, .inf b => some (if a = b then .eq else if a then .lt else .gt)
  | .inf a, _ => some (if a then .lt else .gt)
  | _, .inf b => some (if b then .gt else .lt)
  | .fin a m e, .fin b k f =>
    let e0 := min e f
    some (compare (fpAlign a m e e0) (fpAlign b k f e0))

/-- x < y, false with a NaN. -/
def fpLt (x y : Word) : Bool := fpCmp x y == some .lt
/-- x ≤ y, false with a NaN. -/
def fpLe (x y : Word) : Bool := fpCmp x y == some .lt || fpCmp x y == some .eq
/-- x > y, false with a NaN. -/
def fpGt (x y : Word) : Bool := fpLt y x
/-- x ≥ y, false with a NaN. -/
def fpGe (x y : Word) : Bool := fpLe y x
/-- x = y as numbers, false with a NaN. -/
def fpEq (x y : Word) : Bool := fpCmp x y == some .eq
/-- The smaller of two values. -/
def fpMin (x y : Word) : Word := if fpLt y x then y else x
/-- The larger of two values. -/
def fpMax (x y : Word) : Word := if fpLt x y then y else x
/-- clamp(x, lo, hi). -/
def fpClamp (x lo hi : Word) : Word := if fpLt x lo then lo else if fpGt x hi then hi else x

/-- floor(x) of a finite value; 0 for an infinity or a NaN. -/
def fpFloor (x : Word) : Int :=
  match fpRead x with
  | .fin a m e =>
    let s : Int := if a then -(m : Int) else m
    if 0 ≤ e then s * (2 ^ e.toNat : Nat) else s / (2 ^ (-e).toNat : Nat)
  | _ => 0

/-- The integer nearest to x × 2^k, ties to even. -/
def fpNearestScaled (x : Word) (k : Nat) : Int :=
  match fpRead x with
  | .fin a m e =>
    let e := e + (k : Int)
    let n : Nat := if 0 ≤ e then m <<< e.toNat else rneShift m (-e).toNat false
    if a then -(n : Int) else n
  | _ => 0

/-- The integer nearest to x, ties to even. -/
def fpNearest (x : Word) : Int := fpNearestScaled x 0

/-! Exact functions, in fixed point with `fxBits` fraction bits. -/

/-- Fraction bits of the fixed-point numbers the exact functions are formed with. -/
def fxBits : Nat := 384

/-- 1.0 in fixed point. -/
def fxOne : Nat := 2 ^ fxBits

/-- A series in powers of z: each term is the last one times z² over a divisor (`fuel` terms, signs by `alt`). -/
def fxSeries (z2 : Int) (alt : Bool) (divisor : Nat → Int) : Nat → Nat → Int → Int
  | 0, _, _ => 0
  | f + 1, i, t =>
    let nx := t * z2 / (fxOne : Nat) / divisor i
    t + fxSeries z2 alt divisor f (i + 1) (if alt then -nx else nx)

/-- Σ ± z^(2i+1)/(2i+1) in fixed point: the arctangent (alt) or the inverse hyperbolic tangent of z. -/
def fxOdd (z2 : Int) (alt : Bool) : Nat → Nat → Int → Int
  | 0, _, _ => 0
  | f + 1, i, p =>
    let nx := p * z2 / (fxOne : Nat)
    p / (2 * (i : Int) + 1) + fxOdd z2 alt f (i + 1) (if alt then -nx else nx)

/-- The arctangent of 0 ≤ t ≤ 1 in fixed point: two halvings of the angle, then the series. -/
def fxAtan (t : Nat) : Nat :=
  let half (t : Nat) : Nat := t * fxOne / (fxOne + isqrt (fxOne * fxOne + t * t))
  let u := half (half (half t))
  (8 * fxOdd (u * u / fxOne : Nat) true 70 0 u).toNat

/-- π in fixed point: 16 atan(1/5) − 4 atan(1/239). -/
def fxPi : Nat :=
  let at' (q : Nat) : Int := fxOdd (fxOne / (q * q) : Nat) true 100 0 (fxOne / q : Nat)
  (16 * at' 5 - 4 * at' 239).toNat

/-- ln 2 in fixed point: 2 atanh(1/3). -/
def fxLn2 : Nat := (2 * fxOdd (fxOne / 9 : Nat) false 130 0 (fxOne / 3 : Nat)).toNat

/-- sin(r) of |r| ≤ π/4 in fixed point. -/
def fxSin (r : Int) : Int := fxSeries (r * r / (fxOne : Nat)) true (fun i => (2 * i + 2) * (2 * i + 3)) 60 0 r

/-- cos(r) of |r| ≤ π/4 in fixed point. -/
def fxCos (r : Int) : Int := fxSeries (r * r / (fxOne : Nat)) true (fun i => (2 * i + 1) * (2 * i + 2)) 60 0 (fxOne : Nat)

/-- A fixed-point number rounded to binary32. -/
def fpOfFx (v : Int) : Word := fpOfScaled v (-(fxBits : Int))

/-- The quadrant q and the rest r in fixed point with x = q × π/2 + r and |r| ≤ π/4. π is known to
`fxBits` fraction bits, so the rest of the largest argument (2^128) is still known to more than 200 bits. -/
def fxReduce (neg : Bool) (m : Nat) (e : Int) : Nat × Int :=
  let x : Nat := if 0 ≤ (fxBits : Int) + e then m <<< ((fxBits : Int) + e).toNat else m >>> (-((fxBits : Int) + e)).toNat
  let q := (2 * x + fxPi / 2) / fxPi
  let r : Int := (x : Int) - (q * fxPi / 2 : Nat)
  if neg then ((4 - q % 4) % 4, -r) else (q % 4, r)

/-- (cos x, sin x), each the binary32 value nearest to the exact function (R90). -/
def fpCosSin (x : Word) : Word × Word :=
  match fpRead x with
  | .fin a m e =>
    if m = 0 then (fpOne, fpZero a) else
    let (q, r) := fxReduce a m e
    let c := fxCos r
    let s := fxSin r
    match q with
    | 0 => (fpOfFx c, if e < -160 then x else fpOfFx s)
    | 1 => (fpOfFx (-s), fpOfFx c)
    | 2 => (fpOfFx (-c), fpOfFx (-s))
    | _ => (fpOfFx s, fpOfFx (-c))
  | _ => (fpNaN, fpNaN)

/-- cos x (R90). -/
def fpCos (x : Word) : Word := (fpCosSin x).1
/-- sin x (R90). -/
def fpSin (x : Word) : Word := (fpCosSin x).2

/-- The natural logarithm (R90). -/
def fpLn (x : Word) : Word :=
  match fpRead x with
  | .nan => fpNaN
  | .inf a => if a then fpNaN else fpInf false
  | .fin a m e =>
    if m = 0 then fpInf true
    else if a then fpNaN
    else
      -- x = y × 2^k with y from 0.75 to 1.5
      let k : Int := e + 23
      let y := m <<< (fxBits - 23)
      let (y, k) := if y > fxOne + fxOne / 2 then (y / 2, k + 1) else (y, k)
      let z : Int := ((y : Int) - (fxOne : Nat)) * (fxOne : Nat) / ((y : Int) + (fxOne : Nat))
      fpOfFx (k * fxLn2 + 2 * fxOdd (z * z / (fxOne : Nat)) false 100 0 z)

/-- An angle in fixed point rounded to binary32; one that rounds to −fp32(π) is given as +fp32(π) (R90). -/
def fpAngleOf (v : Int) : Word :=
  let w := fpOfFx v
  if w = 0xC0490FDB then 0x40490FDB else w

/-- The angle of (x, y) in (−π, π], rounded (R90): atan2(y, x). -/
def fpAtan2 (y x : Word) : Word :=
  let sgn (n : Bool) (v : Nat) : Word := fpAngleOf (if n then -(v : Int) else v)
  match fpRead y, fpRead x with
  | .nan, _ => fpNaN
  | _, .nan => fpNaN
  | .inf a, .inf b => sgn a (if b then 3 * fxPi / 4 else fxPi / 4)
  | .inf a, _ => sgn a (fxPi / 2)
  | .fin a _ _, .inf b => if b then sgn a fxPi else fpZero a
  | .fin a m e, .fin b k f =>
    if m = 0 then (if b then sgn a fxPi else fpZero a)
    else if k = 0 then sgn a (fxPi / 2)
    else
      let e0 := min e f
      let yy := m <<< (e - e0).toNat
      let xx := k <<< (f - e0).toNat
      let t := if yy ≤ xx then fxAtan (yy * fxOne / xx) else fxPi / 2 - fxAtan (xx * fxOne / yy)
      sgn a (if b then fxPi - t else t)

/-- fp32(π). -/
def fpPi : Word := 0x40490FDB
/-- fp32(2π). -/
def fpTwoPi : Word := 0x40C90FDB

end Sys2Proof.Machine
end

