-- ==== Sys2Proof/Machine/RegMap.lean ====
section
/-! DEFINITION. Every register of BAR0 (R567, Tables SYS-20 to SYS-25): where it lies, its reset value, its access
code (R10, Table SYS-4) and the bits its field table lets a write reach (R566: the others read 0 and ignore writes). -/
namespace Sys2Proof.Machine

/-- The access codes of Table SYS-4 (R10). -/
inductive Access where
  | ro | rw | rws | w1c | wo | rc
deriving DecidableEq, Repr

/-- One row of the register tables: registers at base + s1 × i + s2 × j for i below n1 and j below n2. -/
structure RegRow where
  base : Nat
  n1 : Nat
  s1 : Nat
  n2 : Nat
  s2 : Nat
  reset : Word
  acc : Access
  mask : Word
deriving DecidableEq, Repr

/-- SYS_ID (R560). -/
@[reducible] def Reg.sysId : Nat := 0x000000
/-- SYS_REV (R561). -/
@[reducible] def Reg.sysRev : Nat := 0x000004
/-- SYS_PARAM (R562). -/
@[reducible] def Reg.sysParam : Nat := 0x000008
/-- SYS_SEAL (R563). -/
@[reducible] def Reg.sysSeal : Nat := 0x000010
/-- SYS_RESET_CAUSE (R553). -/
@[reducible] def Reg.sysResetCause : Nat := 0x000100
/-- SYS_STEP (R554). -/
@[reducible] def Reg.sysStep : Nat := 0x000104
/-- SYS_START (R555). -/
@[reducible] def Reg.sysStart : Nat := 0x000108
/-- SYS_BOOT_CTL (R556). -/
@[reducible] def Reg.sysBootCtl : Nat := 0x00010C
/-- SYS_PATCH_ADDR_LO (R557). -/
@[reducible] def Reg.sysPatchAddrLo : Nat := 0x000110
/-- SYS_PATCH_ADDR_HI (R557). -/
@[reducible] def Reg.sysPatchAddrHi : Nat := 0x000114
/-- SYS_PATCH_LEN (R557). -/
@[reducible] def Reg.sysPatchLen : Nat := 0x000118
/-- SYS_SCRUB_PERIOD_MS (R557). -/
@[reducible] def Reg.sysScrubPeriodMs : Nat := 0x000120
/-- SYS_PATROL_PERIOD_S (R557). -/
@[reducible] def Reg.sysPatrolPeriodS : Nat := 0x000124
/-- SYS_SCRUB_CNT (R557). -/
@[reducible] def Reg.sysScrubCnt : Nat := 0x000128
/-- TCK_CFG (R65). -/
@[reducible] def Reg.tckCfg : Nat := 0x020000
/-- TCK_FM (R66). -/
@[reducible] def Reg.tckFm : Nat := 0x020004
/-- TCK_WD (R67). -/
@[reducible] def Reg.tckWd : Nat := 0x020008
/-- TCK_STATUS (R68). -/
@[reducible] def Reg.tckStatus : Nat := 0x02000C
/-- TCK_TICK_ID_LO (R69). -/
@[reducible] def Reg.tckTickIdLo : Nat := 0x020010
/-- TCK_TICK_ID_HI (R69). -/
@[reducible] def Reg.tckTickIdHi : Nat := 0x020014
/-- TCK_DONE_CNT (R69). -/
@[reducible] def Reg.tckDoneCnt : Nat := 0x020018
/-- TCK_OVR_CNT (R69). -/
@[reducible] def Reg.tckOvrCnt : Nat := 0x02001C
/-- TCK_REFUSE_CNT (R69). -/
@[reducible] def Reg.tckRefuseCnt : Nat := 0x020020
/-- TCK_SENT_LATE_CNT (R69). -/
@[reducible] def Reg.tckSentLateCnt : Nat := 0x020024
/-- TCK_DISCARD_CNT (R69). -/
@[reducible] def Reg.tckDiscardCnt : Nat := 0x020028
/-- TCK_OVR_CAUSE (R70). -/
@[reducible] def Reg.tckOvrCause : Nat := 0x02002C
/-- TCK_LAST_OVR (R69). -/
@[reducible] def Reg.tckLastOvr : Nat := 0x020030
/-- TCK_CW_LAST (R69). -/
@[reducible] def Reg.tckCwLast : Nat := 0x020034
/-- TCK_CW_PEAK (R69). -/
@[reducible] def Reg.tckCwPeak : Nat := 0x020038
/-- TCK_SLACK_MIN (R69). -/
@[reducible] def Reg.tckSlackMin : Nat := 0x02003C
/-- TCK_EARLY_CNT (R69). -/
@[reducible] def Reg.tckEarlyCnt : Nat := 0x020040
/-- TCK_POSTPONE_CNT (R69). -/
@[reducible] def Reg.tckPostponeCnt : Nat := 0x020044
/-- TCK_STEP_CNT (R69). -/
@[reducible] def Reg.tckStepCnt : Nat := 0x020048
/-- SCH_STAGE (R71). -/
@[reducible] def Reg.schStage : Nat := 0x030000
/-- SCH_STATUS (R72). -/
@[reducible] def Reg.schStatus : Nat := 0x030004
/-- SCH_ACTIVE_SERIAL (R73). -/
@[reducible] def Reg.schActiveSerial : Nat := 0x030008
/-- SCH_SHADOW_SERIAL (R73). -/
@[reducible] def Reg.schShadowSerial : Nat := 0x03000C
/-- SCH_PITCH_CNT (R73). -/
@[reducible] def Reg.schPitchCnt : Nat := 0x030010
/-- SCH_CE_CNT (R73). -/
@[reducible] def Reg.schCeCnt : Nat := 0x030014
/-- SCH_UE_CNT (R73). -/
@[reducible] def Reg.schUeCnt : Nat := 0x030018
/-- SCH_LAST_SWITCH (R73). -/
@[reducible] def Reg.schLastSwitch : Nat := 0x03001C
/-- DPX_FENCE_EFF (R99). -/
@[reducible] def Reg.dpxFenceEff : Nat := 0x040000
/-- DPX_FENCE_PEND (R99). -/
@[reducible] def Reg.dpxFencePend : Nat := 0x040004
/-- DPX_FENCE_CAUSE (R99). -/
@[reducible] def Reg.dpxFenceCause : Nat := 0x040008
/-- DPX_IDLE (R99). -/
@[reducible] def Reg.dpxIdle : Nat := 0x04000C
/-- DPX_OUT_REC_CNT (R99). -/
@[reducible] def Reg.dpxOutRecCnt : Nat := 0x040010
/-- DPX_OUT_DROP_CNT (R99). -/
@[reducible] def Reg.dpxOutDropCnt : Nat := 0x040014
/-- PLT_CE_CNTn (R100). -/
@[reducible] def Reg.pltCeCnt (n : Nat) : Nat := 0x050000 + 0x4 * n
/-- PLT_UE_CNTn (R100). -/
@[reducible] def Reg.pltUeCnt (n : Nat) : Nat := 0x050080 + 0x4 * n
/-- PLT_POISON_CNT (R100). -/
@[reducible] def Reg.pltPoisonCnt : Nat := 0x050100
/-- PLT_FLAG_RETIRE_CNT (R100). -/
@[reducible] def Reg.pltFlagRetireCnt : Nat := 0x050104
/-- PLT_UE_LOG (R101). -/
@[reducible] def Reg.pltUeLog : Nat := 0x050108
/-- PLT_UE_TICK (R100). -/
@[reducible] def Reg.pltUeTick : Nat := 0x05010C
/-- PRT_CFGn (R137). -/
@[reducible] def Reg.prtCfg (n : Nat) : Nat := 0x060000 + 0x1000 * n
/-- PRT_MAC_LOn (R141). -/
@[reducible] def Reg.prtMacLo (n : Nat) : Nat := 0x060004 + 0x1000 * n
/-- PRT_MAC_HIn (R141). -/
@[reducible] def Reg.prtMacHi (n : Nat) : Nat := 0x060008 + 0x1000 * n
/-- PRT_IPV4n (R141). -/
@[reducible] def Reg.prtIpv4 (n : Nat) : Nat := 0x06000C + 0x1000 * n
/-- PRT_IPV6n_i (R141). -/
@[reducible] def Reg.prtIpv6 (n i : Nat) : Nat := 0x060010 + 0x1000 * n + 0x4 * i
/-- PRT_UDPn (R141). -/
@[reducible] def Reg.prtUdp (n : Nat) : Nat := 0x060020 + 0x1000 * n
/-- PRT_VLANn (R140). -/
@[reducible] def Reg.prtVlan (n : Nat) : Nat := 0x060024 + 0x1000 * n
/-- PRT_STATUSn (R139). -/
@[reducible] def Reg.prtStatus (n : Nat) : Nat := 0x060028 + 0x1000 * n
/-- PRT_CTLn (R138). -/
@[reducible] def Reg.prtCtl (n : Nat) : Nat := 0x06002C + 0x1000 * n
/-- PRT_RX_GOOD_CNTn (R141). -/
@[reducible] def Reg.prtRxGoodCnt (n : Nat) : Nat := 0x060040 + 0x1000 * n
/-- PRT_RX_FCS_CNTn (R141). -/
@[reducible] def Reg.prtRxFcsCnt (n : Nat) : Nat := 0x060044 + 0x1000 * n
/-- PRT_RX_LEN_CNTn (R141). -/
@[reducible] def Reg.prtRxLenCnt (n : Nat) : Nat := 0x060048 + 0x1000 * n
/-- PRT_RX_NOTTAKEN_CNTn (R141). -/
@[reducible] def Reg.prtRxNottakenCnt (n : Nat) : Nat := 0x06004C + 0x1000 * n
/-- PRT_TX_CNTn (R141). -/
@[reducible] def Reg.prtTxCnt (n : Nat) : Nat := 0x060050 + 0x1000 * n
/-- PRT_TX_MUTED_CNTn (R141). -/
@[reducible] def Reg.prtTxMutedCnt (n : Nat) : Nat := 0x060054 + 0x1000 * n
/-- PRT_LINK_DOWN_CNTn (R141). -/
@[reducible] def Reg.prtLinkDownCnt (n : Nat) : Nat := 0x060058 + 0x1000 * n
/-- PRT_TX_DROP_CNTn (R141). -/
@[reducible] def Reg.prtTxDropCnt (n : Nat) : Nat := 0x06005C + 0x1000 * n
/-- PRT_PAIR_CFG (R142). -/
@[reducible] def Reg.prtPairCfg : Nat := 0x064000
/-- PRT_PAIR_STATUS (R143). -/
@[reducible] def Reg.prtPairStatus : Nat := 0x064004
/-- PRT_DUP_CNT (R144). -/
@[reducible] def Reg.prtDupCnt : Nat := 0x064010
/-- PRT_WRONG_LAN_CNT (R144). -/
@[reducible] def Reg.prtWrongLanCnt : Nat := 0x064014
/-- PRT_HSR_FWD_CNT (R144). -/
@[reducible] def Reg.prtHsrFwdCnt : Nat := 0x064018
/-- PRT_DD_EVICT_CNT (R144). -/
@[reducible] def Reg.prtDdEvictCnt : Nat := 0x06401C
/-- PRT_SUP_RX_CNT (R144). -/
@[reducible] def Reg.prtSupRxCnt : Nat := 0x064020
/-- HDG_CFG (R145). -/
@[reducible] def Reg.hdgCfg : Nat := 0x070000
/-- HDG_MCASTi (R147). -/
@[reducible] def Reg.hdgMcast (i : Nat) : Nat := 0x070010 + 0x4 * i
/-- HDG_MISS_LOG (R146). -/
@[reducible] def Reg.hdgMissLog : Nat := 0x070040
/-- HDG_TAKEN_CNT (R147). -/
@[reducible] def Reg.hdgTakenCnt : Nat := 0x070050
/-- HDG_MISS_CNT (R147). -/
@[reducible] def Reg.hdgMissCnt : Nat := 0x070054
/-- HDG_NOT_DATA_CNT (R147). -/
@[reducible] def Reg.hdgNotDataCnt : Nat := 0x070058
/-- HDG_CHK_ERR_CNT (R147). -/
@[reducible] def Reg.hdgChkErrCnt : Nat := 0x07005C
/-- HDG_PARSE_ERR_CNT (R147). -/
@[reducible] def Reg.hdgParseErrCnt : Nat := 0x070060
/-- HDG_LEN_ERR_CNT (R147). -/
@[reducible] def Reg.hdgLenErrCnt : Nat := 0x070064
/-- HDG_CE_CNT (R147). -/
@[reducible] def Reg.hdgCeCnt : Nat := 0x070068
/-- HDG_UE_CNT (R147). -/
@[reducible] def Reg.hdgUeCnt : Nat := 0x07006C
/-- HDG_SWITCH_DISC_CNT (R147). -/
@[reducible] def Reg.hdgSwitchDiscCnt : Nat := 0x070070
/-- HDG_INJ_BAD_CNT (R147). -/
@[reducible] def Reg.hdgInjBadCnt : Nat := 0x070074
/-- FLM_WEIRn (R148). -/
@[reducible] def Reg.flmWeir (n : Nat) : Nat := 0x080000 + 0x4 * n
/-- FLM_NOTICE (R149). -/
@[reducible] def Reg.flmNotice : Nat := 0x080040
/-- FLM_LEVELn (R150). -/
@[reducible] def Reg.flmLevel (n : Nat) : Nat := 0x080080 + 0x4 * n
/-- FLM_PEAKn (R150). -/
@[reducible] def Reg.flmPeak (n : Nat) : Nat := 0x0800C0 + 0x4 * n
/-- FLM_CROSS_CNTn (R150). -/
@[reducible] def Reg.flmCrossCnt (n : Nat) : Nat := 0x080100 + 0x4 * n
/-- FLM_DROP_CNTn (R150). -/
@[reducible] def Reg.flmDropCnt (n : Nat) : Nat := 0x080140 + 0x4 * n
/-- FLM_MARK_CNTn (R150). -/
@[reducible] def Reg.flmMarkCnt (n : Nat) : Nat := 0x080180 + 0x4 * n
/-- FLM_REWIND_CNTn (R150). -/
@[reducible] def Reg.flmRewindCnt (n : Nat) : Nat := 0x0801C0 + 0x4 * n
/-- FLM_CE_CNT (R150). -/
@[reducible] def Reg.flmCeCnt : Nat := 0x080200
/-- FLM_UE_CNT (R150). -/
@[reducible] def Reg.flmUeCnt : Nat := 0x080204
/-- BSN_STATUS (R179). -/
@[reducible] def Reg.bsnStatus : Nat := 0x0A0000
/-- BSN_CFG (R180). -/
@[reducible] def Reg.bsnCfg : Nat := 0x0A0010
/-- BSN_UE_LOG (R181). -/
@[reducible] def Reg.bsnUeLog : Nat := 0x0A0040
/-- BSN_UE_TICK (R185). -/
@[reducible] def Reg.bsnUeTick : Nat := 0x0A0044
/-- BSN_PLACED_CNT (R185). -/
@[reducible] def Reg.bsnPlacedCnt : Nat := 0x0A0080
/-- BSN_EARLY_CNT (R185). -/
@[reducible] def Reg.bsnEarlyCnt : Nat := 0x0A0084
/-- BSN_OFFGRID_CNT (R185). -/
@[reducible] def Reg.bsnOffgridCnt : Nat := 0x0A0088
/-- BSN_DUP_CNT (R185). -/
@[reducible] def Reg.bsnDupCnt : Nat := 0x0A008C
/-- BSN_LATE_CNT (R185). -/
@[reducible] def Reg.bsnLateCnt : Nat := 0x0A0090
/-- BSN_STALE_CNT (R185). -/
@[reducible] def Reg.bsnStaleCnt : Nat := 0x0A0094
/-- BSN_LATEFILL_CNT (R185). -/
@[reducible] def Reg.bsnLatefillCnt : Nat := 0x0A0098
/-- BSN_ABSENT_CNT (R185). -/
@[reducible] def Reg.bsnAbsentCnt : Nat := 0x0A009C
/-- BSN_FLUSH_CNT (R185). -/
@[reducible] def Reg.bsnFlushCnt : Nat := 0x0A00A0
/-- BSN_STEP_DISC_CNT (R185). -/
@[reducible] def Reg.bsnStepDiscCnt : Nat := 0x0A00A4
/-- BSN_SWITCH_CNT (R185). -/
@[reducible] def Reg.bsnSwitchCnt : Nat := 0x0A00A8
/-- BSN_SWITCH_DISC_CNT (R185). -/
@[reducible] def Reg.bsnSwitchDiscCnt : Nat := 0x0A00AC
/-- BSN_CE_CNT (R185). -/
@[reducible] def Reg.bsnCeCnt : Nat := 0x0A00B0
/-- BSN_UE_CNT (R185). -/
@[reducible] def Reg.bsnUeCnt : Nat := 0x0A00B4
/-- BSN_ST_UE_CNT (R185). -/
@[reducible] def Reg.bsnStUeCnt : Nat := 0x0A00B8
/-- BSN_OUT_DROP_CNT (R185). -/
@[reducible] def Reg.bsnOutDropCnt : Nat := 0x0A00BC
/-- BSN_OUT_TRUNC_CNT (R185). -/
@[reducible] def Reg.bsnOutTruncCnt : Nat := 0x0A00C0
/-- BSN_OUT_SELn (R182). -/
@[reducible] def Reg.bsnOutSel (n : Nat) : Nat := 0x0A0100 + 0x8 * n
/-- BSN_OUT_RINGn (R183). -/
@[reducible] def Reg.bsnOutRing (n : Nat) : Nat := 0x0A0104 + 0x8 * n
/-- MOD_CFG (R207). -/
@[reducible] def Reg.modCfg : Nat := 0x0B0000
/-- MOD_STATUS (R208). -/
@[reducible] def Reg.modStatus : Nat := 0x0B0004
/-- MOD_POOL (R209). -/
@[reducible] def Reg.modPool : Nat := 0x0B0008
/-- MOD_UPDATE_CNT (R212). -/
@[reducible] def Reg.modUpdateCnt : Nat := 0x0B0010
/-- MOD_SUPPRESS_CNT (R212). -/
@[reducible] def Reg.modSuppressCnt : Nat := 0x0B0014
/-- MOD_REINIT_CNT (R212). -/
@[reducible] def Reg.modReinitCnt : Nat := 0x0B0018
/-- MOD_EXTRACT_CNT (R212). -/
@[reducible] def Reg.modExtractCnt : Nat := 0x0B001C
/-- MOD_NOCONV_CNT (R212). -/
@[reducible] def Reg.modNoconvCnt : Nat := 0x0B0020
/-- MOD_DISCARD_CNT (R212). -/
@[reducible] def Reg.modDiscardCnt : Nat := 0x0B0024
/-- MOD_NONFINITE_CNT (R212). -/
@[reducible] def Reg.modNonfiniteCnt : Nat := 0x0B0028
/-- MOD_FO_UPDATE_CNT (R212). -/
@[reducible] def Reg.modFoUpdateCnt : Nat := 0x0B002C
/-- MOD_CE_CNT (R212). -/
@[reducible] def Reg.modCeCnt : Nat := 0x0B0030
/-- MOD_UE_CNT (R212). -/
@[reducible] def Reg.modUeCnt : Nat := 0x0B0034
/-- MOD_UE_LOG (R210). -/
@[reducible] def Reg.modUeLog : Nat := 0x0B0040
/-- MOD_UE_TICK (R212). -/
@[reducible] def Reg.modUeTick : Nat := 0x0B0044
/-- MOD_LAST_REINIT (R211). -/
@[reducible] def Reg.modLastReinit : Nat := 0x0B0048
/-- MOD_BUSY_PEAKp (R212). -/
@[reducible] def Reg.modBusyPeak (p : Nat) : Nat := 0x0B0050 + 0x4 * p
/-- TOP_STATUS (R245). -/
@[reducible] def Reg.topStatus : Nat := 0x0C0000
/-- TOP_PASS_CNT (R247). -/
@[reducible] def Reg.topPassCnt : Nat := 0x0C0010
/-- TOP_PASS_PEAK (R247). -/
@[reducible] def Reg.topPassPeak : Nat := 0x0C0014
/-- TOP_UNKNOWN_NOW (R247). -/
@[reducible] def Reg.topUnknownNow : Nat := 0x0C0018
/-- TOP_UNKNOWN_CNT (R247). -/
@[reducible] def Reg.topUnknownCnt : Nat := 0x0C001C
/-- TOP_CHANGE_CNT (R247). -/
@[reducible] def Reg.topChangeCnt : Nat := 0x0C0020
/-- TOP_NEW_ISLAND_CNT (R247). -/
@[reducible] def Reg.topNewIslandCnt : Nat := 0x0C0024
/-- TOP_FLAGGED_CNT (R247). -/
@[reducible] def Reg.topFlaggedCnt : Nat := 0x0C0028
/-- TOP_CE_CNT (R247). -/
@[reducible] def Reg.topCeCnt : Nat := 0x0C0030
/-- TOP_UE_CNT (R247). -/
@[reducible] def Reg.topUeCnt : Nat := 0x0C0034
/-- TOP_UE_LOG (R246). -/
@[reducible] def Reg.topUeLog : Nat := 0x0C0040
/-- TOP_UE_TICK (R247). -/
@[reducible] def Reg.topUeTick : Nat := 0x0C0044
/-- ALM_CFG (R248). -/
@[reducible] def Reg.almCfg : Nat := 0x0D0000
/-- ALM_STATUS (R250). -/
@[reducible] def Reg.almStatus : Nat := 0x0D0004
/-- ALM_NEXT_SEQ (R252). -/
@[reducible] def Reg.almNextSeq : Nat := 0x0D0008
/-- ALM_PINn (R249). -/
@[reducible] def Reg.almPin (n : Nat) : Nat := 0x0D0010 + 0x4 * n
/-- ALM_UE_LOG (R251). -/
@[reducible] def Reg.almUeLog : Nat := 0x0D0040
/-- ALM_UE_TICK (R252). -/
@[reducible] def Reg.almUeTick : Nat := 0x0D0044
/-- ALM_REC_CNT (R252). -/
@[reducible] def Reg.almRecCnt : Nat := 0x0D0050
/-- ALM_RAISE_CNT (R252). -/
@[reducible] def Reg.almRaiseCnt : Nat := 0x0D0054
/-- ALM_CLEAR_CNT (R252). -/
@[reducible] def Reg.almClearCnt : Nat := 0x0D0058
/-- ALM_HELD_CNT (R252). -/
@[reducible] def Reg.almHeldCnt : Nat := 0x0D005C
/-- ALM_SUSPEND_CNT (R252). -/
@[reducible] def Reg.almSuspendCnt : Nat := 0x0D0060
/-- ALM_RING_DROP_CNT (R252). -/
@[reducible] def Reg.almRingDropCnt : Nat := 0x0D0064
/-- ALM_GOOSE_CHG_CNT (R252). -/
@[reducible] def Reg.almGooseChgCnt : Nat := 0x0D0068
/-- ALM_CE_CNT (R252). -/
@[reducible] def Reg.almCeCnt : Nat := 0x0D0070
/-- ALM_UE_CNT (R252). -/
@[reducible] def Reg.almUeCnt : Nat := 0x0D0074
/-- ALM_RAISEDw (R252). -/
@[reducible] def Reg.almRaised (w : Nat) : Nat := 0x0D0100 + 0x4 * w
/-- PRD_STATUS (R273). -/
@[reducible] def Reg.prdStatus : Nat := 0x0E0000
/-- PRD_SPATIAL_CNT (R275). -/
@[reducible] def Reg.prdSpatialCnt : Nat := 0x0E0010
/-- PRD_EXTRAP_CNT (R275). -/
@[reducible] def Reg.prdExtrapCnt : Nat := 0x0E0014
/-- PRD_HOLD_CNT (R275). -/
@[reducible] def Reg.prdHoldCnt : Nat := 0x0E0018
/-- PRD_NONE_CNT (R275). -/
@[reducible] def Reg.prdNoneCnt : Nat := 0x0E001C
/-- PRD_CE_CNT (R275). -/
@[reducible] def Reg.prdCeCnt : Nat := 0x0E0020
/-- PRD_UE_CNT (R275). -/
@[reducible] def Reg.prdUeCnt : Nat := 0x0E0024
/-- PRD_UE_LOG (R274). -/
@[reducible] def Reg.prdUeLog : Nat := 0x0E0040
/-- PRD_UE_TICK (R275). -/
@[reducible] def Reg.prdUeTick : Nat := 0x0E0044
/-- ARC_CFG (R276). -/
@[reducible] def Reg.arcCfg : Nat := 0x0F0000
/-- ARC_REGION (R277). -/
@[reducible] def Reg.arcRegion : Nat := 0x0F0004
/-- ARC_STATUS (R278). -/
@[reducible] def Reg.arcStatus : Nat := 0x0F0008
/-- ARC_GRPn (R279). -/
@[reducible] def Reg.arcGrp (n : Nat) : Nat := 0x0F0010 + 0x4 * n
/-- ARC_SEAL_CTX (R279). -/
@[reducible] def Reg.arcSealCtx : Nat := 0x0F0020
/-- ARC_WR_OFF (R279). -/
@[reducible] def Reg.arcWrOff : Nat := 0x0F0030
/-- ARC_DRAIN_OFF (R279). -/
@[reducible] def Reg.arcDrainOff : Nat := 0x0F0034
/-- ARC_BLOCK_CNT (R279). -/
@[reducible] def Reg.arcBlockCnt : Nat := 0x0F0040
/-- ARC_SIDE_CNT (R279). -/
@[reducible] def Reg.arcSideCnt : Nat := 0x0F0044
/-- ARC_IN_BYTES (R279). -/
@[reducible] def Reg.arcInBytes : Nat := 0x0F0048
/-- ARC_OUT_BYTES (R279). -/
@[reducible] def Reg.arcOutBytes : Nat := 0x0F004C
/-- ARC_OVERWRITE_CNT (R279). -/
@[reducible] def Reg.arcOverwriteCnt : Nat := 0x0F0050
/-- ARC_DROP_CNT (R279). -/
@[reducible] def Reg.arcDropCnt : Nat := 0x0F0054
/-- ARC_SEAL_FAIL_CNT (R279). -/
@[reducible] def Reg.arcSealFailCnt : Nat := 0x0F0058
/-- ARC_REPLAY_CNT (R279). -/
@[reducible] def Reg.arcReplayCnt : Nat := 0x0F005C
/-- ARC_REPLAY_ERR_CNT (R279). -/
@[reducible] def Reg.arcReplayErrCnt : Nat := 0x0F0060
/-- ARC_CE_CNT (R279). -/
@[reducible] def Reg.arcCeCnt : Nat := 0x0F0064
/-- ARC_UE_CNT (R279). -/
@[reducible] def Reg.arcUeCnt : Nat := 0x0F0068
/-- LMU_CFG (R301). -/
@[reducible] def Reg.lmuCfg : Nat := 0x100000
/-- LMU_STATUS (R302). -/
@[reducible] def Reg.lmuStatus : Nat := 0x100004
/-- LMU_TRK (R303). -/
@[reducible] def Reg.lmuTrk : Nat := 0x100008
/-- LMU_SETTLED (R307). -/
@[reducible] def Reg.lmuSettled : Nat := 0x100010
/-- LMU_XF_BUSY (R307). -/
@[reducible] def Reg.lmuXfBusy : Nat := 0x100014
/-- LMU_CLIP (R307). -/
@[reducible] def Reg.lmuClip : Nat := 0x100018
/-- LMU_RESYNC_CNT (R307). -/
@[reducible] def Reg.lmuResyncCnt : Nat := 0x100020
/-- LMU_XFADE_CNT (R307). -/
@[reducible] def Reg.lmuXfadeCnt : Nat := 0x100024
/-- LMU_CHc_CFG (R304). -/
@[reducible] def Reg.lmuChCfg (c : Nat) : Nat := 0x100100 + 0x4 * c
/-- LMU_CHc_CTL (R305). -/
@[reducible] def Reg.lmuChCtl (c : Nat) : Nat := 0x100180 + 0x4 * c
/-- LMU_CHc_GAIN (R307). -/
@[reducible] def Reg.lmuChGain (c : Nat) : Nat := 0x100200 + 0x4 * c
/-- LMU_CHc_OFFSET (R307). -/
@[reducible] def Reg.lmuChOffset (c : Nat) : Nat := 0x100280 + 0x4 * c
/-- LMU_CLIP_CNTc (R307). -/
@[reducible] def Reg.lmuClipCnt (c : Nat) : Nat := 0x100300 + 0x4 * c
/-- LMU_PTp_CFG (R306). -/
@[reducible] def Reg.lmuPtCfg (p : Nat) : Nat := 0x100400 + 0x10 * p
/-- LMU_PTp_ALIGN (R307). -/
@[reducible] def Reg.lmuPtAlign (p : Nat) : Nat := 0x100404 + 0x10 * p
/-- LMU_PTp_VMIN (R307). -/
@[reducible] def Reg.lmuPtVmin (p : Nat) : Nat := 0x100408 + 0x10 * p
/-- LMU_BLOCK_CNTp (R307). -/
@[reducible] def Reg.lmuBlockCnt (p : Nat) : Nat := 0x100440 + 0x4 * p
/-- LMU_SUPPRESS_CNTp (R307). -/
@[reducible] def Reg.lmuSuppressCnt (p : Nat) : Nat := 0x100450 + 0x4 * p
/-- LMU_COEFs_k (R307). -/
@[reducible] def Reg.lmuCoef (s k : Nat) : Nat := 0x101000 + 0x200 * s + 0x4 * k
/-- NRG_PTp_CFG (R325). -/
@[reducible] def Reg.nrgPtCfg (p : Nat) : Nat := 0x110000 + 0x40 * p
/-- NRG_PTp_EU (R329). -/
@[reducible] def Reg.nrgPtEu (p : Nat) : Nat := 0x110004 + 0x40 * p
/-- NRG_PTp_ZC_HYST (R329). -/
@[reducible] def Reg.nrgPtZcHyst (p : Nat) : Nat := 0x110008 + 0x40 * p
/-- NRG_PTp_STATUS (R326). -/
@[reducible] def Reg.nrgPtStatus (p : Nat) : Nat := 0x11000C + 0x40 * p
/-- NRG_PTp_LATCH_CNT (R329). -/
@[reducible] def Reg.nrgPtLatchCnt (p : Nat) : Nat := 0x110010 + 0x40 * p
/-- NRG_PTp_CYCLE (R329). -/
@[reducible] def Reg.nrgPtCycle (p : Nat) : Nat := 0x110014 + 0x40 * p
/-- NRG_PTp_UNSETTLED_CNT (R329). -/
@[reducible] def Reg.nrgPtUnsettledCnt (p : Nat) : Nat := 0x110018 + 0x40 * p
/-- NRG_PTp_WRAP_SEEN (R329). -/
@[reducible] def Reg.nrgPtWrapSeen (p : Nat) : Nat := 0x11001C + 0x40 * p
/-- NRG_PTp_GAP_CNT (R329). -/
@[reducible] def Reg.nrgPtGapCnt (p : Nat) : Nat := 0x110020 + 0x40 * p
/-- NRG_OCk_THR (R329). -/
@[reducible] def Reg.nrgOcThr (k : Nat) : Nat := 0x110100 + 0x8 * k
/-- NRG_OCk_CFG (R327). -/
@[reducible] def Reg.nrgOcCfg (k : Nat) : Nat := 0x110104 + 0x8 * k
/-- NRG_PEAKk (R329). -/
@[reducible] def Reg.nrgPeak (k : Nat) : Nat := 0x110180 + 0x4 * k
/-- NRG_OC_STATUS (R329). -/
@[reducible] def Reg.nrgOcStatus : Nat := 0x1101C0
/-- NRG_OC_SEEN (R329). -/
@[reducible] def Reg.nrgOcSeen : Nat := 0x1101C4
/-- NRG_RING_DROP_CNT (R329). -/
@[reducible] def Reg.nrgRingDropCnt : Nat := 0x1101C8
/-- NRG_CE_CNT (R329). -/
@[reducible] def Reg.nrgCeCnt : Nat := 0x1101CC
/-- NRG_UE_CNT (R329). -/
@[reducible] def Reg.nrgUeCnt : Nat := 0x1101D0
/-- NRG_PLSn_CFG (R328). -/
@[reducible] def Reg.nrgPlsCfg (n : Nat) : Nat := 0x110200 + 0x10 * n
/-- NRG_PLSn_CONST (R329). -/
@[reducible] def Reg.nrgPlsConst (n : Nat) : Nat := 0x110204 + 0x10 * n
/-- NRG_PLSn_BACKLOG (R329). -/
@[reducible] def Reg.nrgPlsBacklog (n : Nat) : Nat := 0x110208 + 0x10 * n
/-- NRG_PLSn_LOST (R329). -/
@[reducible] def Reg.nrgPlsLost (n : Nat) : Nat := 0x11020C + 0x10 * n
/-- NRG_CORk_BPj (R329). -/
@[reducible] def Reg.nrgCorBp (k j : Nat) : Nat := 0x111000 + 0x80 * k + 0xC * j
/-- NRG_CORk_GAINj (R329). -/
@[reducible] def Reg.nrgCorGain (k j : Nat) : Nat := 0x111004 + 0x80 * k + 0xC * j
/-- NRG_CORk_PHASEj (R329). -/
@[reducible] def Reg.nrgCorPhase (k j : Nat) : Nat := 0x111008 + 0x80 * k + 0xC * j
/-- NRG_CNTp_a (R329). -/
@[reducible] def Reg.nrgCnt (p a : Nat) : Nat := 0x112000 + 0x80 * p + 0x4 * a
/-- CAP_CFG (R348). -/
@[reducible] def Reg.capCfg : Nat := 0x120000
/-- CAP_BUS (R349). -/
@[reducible] def Reg.capBus : Nat := 0x120004
/-- CAP_STATUS (R350). -/
@[reducible] def Reg.capStatus : Nat := 0x120008
/-- CAP_REF_OFFSET (R353). -/
@[reducible] def Reg.capRefOffset : Nat := 0x12000C
/-- CAP_RING_DROP_CNT (R353). -/
@[reducible] def Reg.capRingDropCnt : Nat := 0x120010
/-- CAP_CE_CNT (R353). -/
@[reducible] def Reg.capCeCnt : Nat := 0x120014
/-- CAP_UE_CNT (R353). -/
@[reducible] def Reg.capUeCnt : Nat := 0x120018
/-- CAP_COL_DELAY (R353). -/
@[reducible] def Reg.capColDelay : Nat := 0x12001C
/-- CAP_FIRE_SKIP_CNT (R353). -/
@[reducible] def Reg.capFireSkipCnt : Nat := 0x120020
/-- CAP_Uu_CFG (R351). -/
@[reducible] def Reg.capUCfg (u : Nat) : Nat := 0x120100 + 0x40 * u
/-- CAP_Uu_SEL (R353). -/
@[reducible] def Reg.capUSel (u : Nat) : Nat := 0x120104 + 0x40 * u
/-- CAP_Uu_THR (R353). -/
@[reducible] def Reg.capUThr (u : Nat) : Nat := 0x120108 + 0x40 * u
/-- CAP_Uu_HYST (R353). -/
@[reducible] def Reg.capUHyst (u : Nat) : Nat := 0x12010C + 0x40 * u
/-- CAP_Uu_QMASK (R353). -/
@[reducible] def Reg.capUQmask (u : Nat) : Nat := 0x120110 + 0x40 * u
/-- CAP_Uu_PRE (R353). -/
@[reducible] def Reg.capUPre (u : Nat) : Nat := 0x120114 + 0x40 * u
/-- CAP_Uu_POST (R353). -/
@[reducible] def Reg.capUPost (u : Nat) : Nat := 0x120118 + 0x40 * u
/-- CAP_Uu_BASE (R352). -/
@[reducible] def Reg.capUBase (u : Nat) : Nat := 0x12011C + 0x40 * u
/-- CAP_Uu_SEQ (R353). -/
@[reducible] def Reg.capUSeq (u : Nat) : Nat := 0x120120 + 0x40 * u
/-- CAP_Uu_VIOL_CNT (R353). -/
@[reducible] def Reg.capUViolCnt (u : Nat) : Nat := 0x120124 + 0x40 * u
/-- CAP_Uu_RESTART_CNT (R353). -/
@[reducible] def Reg.capURestartCnt (u : Nat) : Nat := 0x120128 + 0x40 * u
/-- CAP_Uu_UPPERi (R353). -/
@[reducible] def Reg.capUUpper (u i : Nat) : Nat := 0x121000 + 0x800 * u + 0x4 * i
/-- CAP_Uu_LOWERi (R353). -/
@[reducible] def Reg.capULower (u i : Nat) : Nat := 0x121400 + 0x800 * u + 0x4 * i
/-- TIM_CFG (R379). -/
@[reducible] def Reg.timCfg : Nat := 0x130000
/-- TIM_PRIO (R380). -/
@[reducible] def Reg.timPrio : Nat := 0x130004
/-- TIM_STATUS (R381). -/
@[reducible] def Reg.timStatus : Nat := 0x130008
/-- TIM_KP (R389). -/
@[reducible] def Reg.timKp : Nat := 0x13000C
/-- TIM_KI (R389). -/
@[reducible] def Reg.timKi : Nat := 0x130010
/-- TIM_SLEW (R389). -/
@[reducible] def Reg.timSlew : Nat := 0x130014
/-- TIM_LOCK (R382). -/
@[reducible] def Reg.timLock : Nat := 0x130018
/-- TIM_HOLD_A (R389). -/
@[reducible] def Reg.timHoldA : Nat := 0x13001C
/-- TIM_HOLD_B (R389). -/
@[reducible] def Reg.timHoldB : Nat := 0x130020
/-- TIM_GNSS (R383). -/
@[reducible] def Reg.timGnss : Nat := 0x130024
/-- TIM_TOD (R384). -/
@[reducible] def Reg.timTod : Nat := 0x130028
/-- TIM_PPS_OUT (R385). -/
@[reducible] def Reg.timPpsOut : Nat := 0x13002C
/-- TIM_TICK_OUT (R386). -/
@[reducible] def Reg.timTickOut : Nat := 0x130030
/-- TIM_NOW_NS (R389). -/
@[reducible] def Reg.timNowNs : Nat := 0x130050
/-- TIM_NOW_SEC_LO (R389). -/
@[reducible] def Reg.timNowSecLo : Nat := 0x130054
/-- TIM_NOW_SEC_HI (R389). -/
@[reducible] def Reg.timNowSecHi : Nat := 0x130058
/-- TIM_UTC_OFFSET (R389). -/
@[reducible] def Reg.timUtcOffset : Nat := 0x13005C
/-- TIM_THETA (R389). -/
@[reducible] def Reg.timTheta : Nat := 0x130060
/-- TIM_FREQ_ADJ (R389). -/
@[reducible] def Reg.timFreqAdj : Nat := 0x130064
/-- TIM_ERR_EST (R389). -/
@[reducible] def Reg.timErrEst : Nat := 0x130068
/-- TIM_UNLOCK_SEC (R389). -/
@[reducible] def Reg.timUnlockSec : Nat := 0x13006C
/-- TIM_STEP_CNT (R389). -/
@[reducible] def Reg.timStepCnt : Nat := 0x130070
/-- TIM_LAST_STEP (R389). -/
@[reducible] def Reg.timLastStep : Nat := 0x130074
/-- TIM_BIVOUAC_CNT (R389). -/
@[reducible] def Reg.timBivouacCnt : Nat := 0x130078
/-- TIM_SYNC_MISS_CNT (R389). -/
@[reducible] def Reg.timSyncMissCnt : Nat := 0x13007C
/-- TIM_RTC_SEC (R389). -/
@[reducible] def Reg.timRtcSec : Nat := 0x130080
/-- TIM_RTC_STATUS (R388). -/
@[reducible] def Reg.timRtcStatus : Nat := 0x130084
/-- TIM_PORTn_DLY (R387). -/
@[reducible] def Reg.timPortDly (n : Nat) : Nat := 0x1300A0 + 0x8 * n
/-- TIM_PORTn_LINK (R389). -/
@[reducible] def Reg.timPortLink (n : Nat) : Nat := 0x1300A4 + 0x8 * n
/-- HIF_STATUS (R411). -/
@[reducible] def Reg.hifStatus : Nat := 0x140000
/-- HIF_CFG (R412). -/
@[reducible] def Reg.hifCfg : Nat := 0x140004
/-- HIF_ERR_LOG (R413). -/
@[reducible] def Reg.hifErrLog : Nat := 0x140008
/-- HIF_CMD_CNT (R420). -/
@[reducible] def Reg.hifCmdCnt : Nat := 0x140010
/-- HIF_CMD_ERR_CNT (R420). -/
@[reducible] def Reg.hifCmdErrCnt : Nat := 0x140014
/-- HIF_DMA_ERR_CNT (R420). -/
@[reducible] def Reg.hifDmaErrCnt : Nat := 0x140018
/-- HIF_BAD_ACC_CNT (R420). -/
@[reducible] def Reg.hifBadAccCnt : Nat := 0x14001C
/-- HIF_INTR_CNT (R420). -/
@[reducible] def Reg.hifIntrCnt : Nat := 0x140020
/-- HIF_RESET_CNT (R420). -/
@[reducible] def Reg.hifResetCnt : Nat := 0x140024
/-- HIF_BUF_SMALL_CNT (R420). -/
@[reducible] def Reg.hifBufSmallCnt : Nat := 0x140028
/-- HIF_RINGn_BASE_LO (R414). -/
@[reducible] def Reg.hifRingBaseLo (n : Nat) : Nat := 0x141000 + 0x20 * n
/-- HIF_RINGn_BASE_HI (R415). -/
@[reducible] def Reg.hifRingBaseHi (n : Nat) : Nat := 0x141004 + 0x20 * n
/-- HIF_RINGn_CFG (R416). -/
@[reducible] def Reg.hifRingCfg (n : Nat) : Nat := 0x141008 + 0x20 * n
/-- HIF_RINGn_CTL (R417). -/
@[reducible] def Reg.hifRingCtl (n : Nat) : Nat := 0x14100C + 0x20 * n
/-- HIF_RINGn_MOD (R418). -/
@[reducible] def Reg.hifRingMod (n : Nat) : Nat := 0x141010 + 0x20 * n
/-- HIF_RINGn_STATUS (R419). -/
@[reducible] def Reg.hifRingStatus (n : Nat) : Nat := 0x141014 + 0x20 * n
/-- GZL_CFG (R442). -/
@[reducible] def Reg.gzlCfg : Nat := 0x150000
/-- GZL_STATUS (R443). -/
@[reducible] def Reg.gzlStatus : Nat := 0x150004
/-- GZL_FAULT (R444). -/
@[reducible] def Reg.gzlFault : Nat := 0x150008
/-- GZL_EPOCH (R445). -/
@[reducible] def Reg.gzlEpoch : Nat := 0x150010
/-- GZL_PARTNER_EPOCH (R445). -/
@[reducible] def Reg.gzlPartnerEpoch : Nat := 0x150014
/-- GZL_STATE_TICK_LO (R445). -/
@[reducible] def Reg.gzlStateTickLo : Nat := 0x150018
/-- GZL_STATE_TICK_HI (R445). -/
@[reducible] def Reg.gzlStateTickHi : Nat := 0x15001C
/-- GZL_SESSION (R445). -/
@[reducible] def Reg.gzlSession : Nat := 0x150020
/-- GZL_TX_FRAME_CNT (R445). -/
@[reducible] def Reg.gzlTxFrameCnt : Nat := 0x150040
/-- GZL_RETX_CNT (R445). -/
@[reducible] def Reg.gzlRetxCnt : Nat := 0x150044
/-- GZL_NAK_CNT (R445). -/
@[reducible] def Reg.gzlNakCnt : Nat := 0x150048
/-- GZL_DUP_CNT (R445). -/
@[reducible] def Reg.gzlDupCnt : Nat := 0x15004C
/-- GZL_AUTH_ERR_CNT (R445). -/
@[reducible] def Reg.gzlAuthErrCnt : Nat := 0x150050
/-- GZL_REPLAY_CNT (R445). -/
@[reducible] def Reg.gzlReplayCnt : Nat := 0x150054
/-- GZL_LINK_DOWN_CNT (R445). -/
@[reducible] def Reg.gzlLinkDownCnt : Nat := 0x150058
/-- GZL_COPY_SKIP_CNT (R445). -/
@[reducible] def Reg.gzlCopySkipCnt : Nat := 0x15005C
/-- GZL_COPY_INC_CNT (R445). -/
@[reducible] def Reg.gzlCopyIncCnt : Nat := 0x150060
/-- GZL_TAKEOVER_CNT (R445). -/
@[reducible] def Reg.gzlTakeoverCnt : Nat := 0x150064
/-- GZL_YIELD_CNT (R445). -/
@[reducible] def Reg.gzlYieldCnt : Nat := 0x150068
/-- GZL_TICK_JUMP_CNT (R445). -/
@[reducible] def Reg.gzlTickJumpCnt : Nat := 0x15006C
/-- GZL_HB_A_MISS_CNT (R445). -/
@[reducible] def Reg.gzlHbAMissCnt : Nat := 0x150070
/-- GZL_HB_B_MISS_CNT (R445). -/
@[reducible] def Reg.gzlHbBMissCnt : Nat := 0x150074
/-- EVR_CFG (R462). -/
@[reducible] def Reg.evrCfg : Nat := 0x160000
/-- EVR_STATUS (R463). -/
@[reducible] def Reg.evrStatus : Nat := 0x160004
/-- EVR_HEAD_LO (R464). -/
@[reducible] def Reg.evrHeadLo : Nat := 0x160010
/-- EVR_HEAD_HI (R464). -/
@[reducible] def Reg.evrHeadHi : Nat := 0x160014
/-- EVR_NEXT_LO (R464). -/
@[reducible] def Reg.evrNextLo : Nat := 0x160018
/-- EVR_NEXT_HI (R464). -/
@[reducible] def Reg.evrNextHi : Nat := 0x16001C
/-- EVR_COUNT (R464). -/
@[reducible] def Reg.evrCount : Nat := 0x160020
/-- EVR_QLOST_CNT (R464). -/
@[reducible] def Reg.evrQlostCnt : Nat := 0x160030
/-- EVR_FULL_CNT (R464). -/
@[reducible] def Reg.evrFullCnt : Nat := 0x160034
/-- EVR_QUEUE_PEAK (R464). -/
@[reducible] def Reg.evrQueuePeak : Nat := 0x160038
/-- EVR_FREEZE_TO_CNT (R464). -/
@[reducible] def Reg.evrFreezeToCnt : Nat := 0x16003C
/-- EVR_RING_DROP_CNT (R464). -/
@[reducible] def Reg.evrRingDropCnt : Nat := 0x160040
/-- EVR_BAD_CNT (R464). -/
@[reducible] def Reg.evrBadCnt : Nat := 0x160044
/-- EVR_BAD_SEQ (R464). -/
@[reducible] def Reg.evrBadSeq : Nat := 0x160048
/-- SEC_LIFECYCLE (R488). -/
@[reducible] def Reg.secLifecycle : Nat := 0x170000
/-- SEC_STATUS (R489). -/
@[reducible] def Reg.secStatus : Nat := 0x170004
/-- SEC_LC_CTL (R490). -/
@[reducible] def Reg.secLcCtl : Nat := 0x170008
/-- SEC_LC_STATUS (R491). -/
@[reducible] def Reg.secLcStatus : Nat := 0x17000C
/-- SEC_SLOT_STATUS (R492). -/
@[reducible] def Reg.secSlotStatus : Nat := 0x170010
/-- SEC_TAMP_LATCH (R493). -/
@[reducible] def Reg.secTampLatch : Nat := 0x170014
/-- SEC_TAMP_RTC (R494). -/
@[reducible] def Reg.secTampRtc : Nat := 0x170018
/-- SEC_DEV_SERIAL_LO (R494). -/
@[reducible] def Reg.secDevSerialLo : Nat := 0x170020
/-- SEC_DEV_SERIAL_HI (R494). -/
@[reducible] def Reg.secDevSerialHi : Nat := 0x170024
/-- SEC_DERIVE_CNT (R494). -/
@[reducible] def Reg.secDeriveCnt : Nat := 0x170030
/-- SEC_JOB_CNT (R494). -/
@[reducible] def Reg.secJobCnt : Nat := 0x170034
/-- SEC_ABORT_CNT (R494). -/
@[reducible] def Reg.secAbortCnt : Nat := 0x170038
/-- SEC_SLOT_BAD_CNT (R494). -/
@[reducible] def Reg.secSlotBadCnt : Nat := 0x17003C
/-- SEC_KEYIDs (R494). -/
@[reducible] def Reg.secKeyid (s : Nat) : Nat := 0x170040 + 0x4 * s
/-- SEC_TICKETw (R494). -/
@[reducible] def Reg.secTicket (w : Nat) : Nat := 0x170100 + 0x4 * w
/-- CLK_SRC_STATUS (R511). -/
@[reducible] def Reg.clkSrcStatus : Nat := 0x180000
/-- CLK_FAULT (R512). -/
@[reducible] def Reg.clkFault : Nat := 0x180004
/-- CLK_SLUICE_REQ (R515). -/
@[reducible] def Reg.clkSluiceReq : Nat := 0x180010
/-- CLK_SLUICE_STATUS (R516). -/
@[reducible] def Reg.clkSluiceStatus : Nat := 0x180014
/-- CLK_SLUICE_OPEN0 (R518). -/
@[reducible] def Reg.clkSluiceOpen0 : Nat := 0x180018
/-- CLK_SLUICE_OPEN1 (R518). -/
@[reducible] def Reg.clkSluiceOpen1 : Nat := 0x18001C
/-- CLK_HOLD_CAUSE (R517). -/
@[reducible] def Reg.clkHoldCause : Nat := 0x180020
/-- CLK_FIRC_HZ (R518). -/
@[reducible] def Reg.clkFircHz : Nat := 0x180024
/-- CLK_SIRC_HZ (R518). -/
@[reducible] def Reg.clkSircHz : Nat := 0x180028
/-- CLK_FIRC_TRIM (R518). -/
@[reducible] def Reg.clkFircTrim : Nat := 0x18002C
/-- CLK_CAL_CNT (R518). -/
@[reducible] def Reg.clkCalCnt : Nat := 0x180030
/-- CLK_DOMd_CFG (R513). -/
@[reducible] def Reg.clkDomCfg (d : Nat) : Nat := 0x180100 + 0x10 * d
/-- CLK_DOMd_STATUS (R514). -/
@[reducible] def Reg.clkDomStatus (d : Nat) : Nat := 0x180104 + 0x10 * d
/-- CLK_DOMd_SWITCH_CNT (R518). -/
@[reducible] def Reg.clkDomSwitchCnt (d : Nat) : Nat := 0x180108 + 0x10 * d
/-- PWR_STATUS (R542). -/
@[reducible] def Reg.pwrStatus : Nat := 0x190000
/-- PWR_SENSE_CFG (R543). -/
@[reducible] def Reg.pwrSenseCfg : Nat := 0x190004
/-- PWR_DVFS_CFG (R544). -/
@[reducible] def Reg.pwrDvfsCfg : Nat := 0x190008
/-- PWR_DVFS_REQ (R545). -/
@[reducible] def Reg.pwrDvfsReq : Nat := 0x19000C
/-- PWR_DVFS_STATUS (R546). -/
@[reducible] def Reg.pwrDvfsStatus : Nat := 0x190010
/-- PWR_AVS_CFG (R547). -/
@[reducible] def Reg.pwrAvsCfg : Nat := 0x190014
/-- PWR_THERM_CFG (R548). -/
@[reducible] def Reg.pwrThermCfg : Nat := 0x190018
/-- PWR_FAULT (R549). -/
@[reducible] def Reg.pwrFault : Nat := 0x19001C
/-- PWR_DORMANT (R550). -/
@[reducible] def Reg.pwrDormant : Nat := 0x190020
/-- PWR_WAKE_CFG (R551). -/
@[reducible] def Reg.pwrWakeCfg : Nat := 0x190024
/-- PWR_WAKE_TICKS (R551). -/
@[reducible] def Reg.pwrWakeTicks : Nat := 0x190028
/-- PWR_BRACE_CNT (R552). -/
@[reducible] def Reg.pwrBraceCnt : Nat := 0x190030
/-- PWR_BRACE_LAST_US (R552). -/
@[reducible] def Reg.pwrBraceLastUs : Nat := 0x190034
/-- PWR_BRACE_MAX_US (R552). -/
@[reducible] def Reg.pwrBraceMaxUs : Nat := 0x190038
/-- PWR_STEP_CNT (R552). -/
@[reducible] def Reg.pwrStepCnt : Nat := 0x19003C
/-- PWR_STEP_REFUSE_CNT (R552). -/
@[reducible] def Reg.pwrStepRefuseCnt : Nat := 0x190040
/-- PWR_AVS_TO_CNT (R552). -/
@[reducible] def Reg.pwrAvsToCnt : Nat := 0x190044
/-- PWR_TELEM_DROP_CNT (R552). -/
@[reducible] def Reg.pwrTelemDropCnt : Nat := 0x190048
/-- PWR_TEMPi (R552). -/
@[reducible] def Reg.pwrTemp (i : Nat) : Nat := 0x190080 + 0x4 * i
/-- PWR_VMONi (R552). -/
@[reducible] def Reg.pwrVmon (i : Nat) : Nat := 0x1900A0 + 0x4 * i
/-- PWR_TEMP_PEAK (R552). -/
@[reducible] def Reg.pwrTempPeak : Nat := 0x1900C0

/-- The registers of SYS (Tables SYS-20 to SYS-25). -/
def regRowsSys : List RegRow := [
  ⟨0x000000, 1, 0x4, 1, 0x4, 0x08801F3C, .ro, 0x00000000⟩,
  ⟨0x000004, 1, 0x4, 1, 0x4, 0x00000010, .ro, 0x00000000⟩,
  ⟨0x000008, 1, 0x4, 1, 0x4, 0x002B7204, .ro, 0x00000000⟩,
  ⟨0x000010, 1, 0x4, 1, 0x4, 0x00000000, .wo, 0xFFFFFFFF⟩,
  ⟨0x000100, 1, 0x4, 1, 0x4, 0x00000001, .ro, 0x00000000⟩,
  ⟨0x000104, 1, 0x4, 1, 0x4, 0x00000001, .ro, 0x00000000⟩,
  ⟨0x000108, 1, 0x4, 1, 0x4, 0x00000000, .wo, 0x00000001⟩,
  ⟨0x00010C, 1, 0x4, 1, 0x4, 0x00000000, .wo, 0x00000003⟩,
  ⟨0x000110, 1, 0x4, 1, 0x4, 0x00000000, .rw, 0xFFFFFFFF⟩,
  ⟨0x000114, 1, 0x4, 1, 0x4, 0x00000000, .rw, 0xFFFFFFFF⟩,
  ⟨0x000118, 1, 0x4, 1, 0x4, 0x00000000, .rw, 0xFFFFFFFF⟩,
  ⟨0x000120, 1, 0x4, 1, 0x4, 0x00000000, .ro, 0xFFFFFFFF⟩,
  ⟨0x000124, 1, 0x4, 1, 0x4, 0x00000000, .ro, 0xFFFFFFFF⟩,
  ⟨0x000128, 1, 0x4, 1, 0x4, 0x00000000, .ro, 0xFFFFFFFF⟩]

/-- The registers of TCK (Tables SYS-20 to SYS-25). -/
def regRowsTck : List RegRow := [
  ⟨0x020000, 1, 0x4, 1, 0x4, 0x00000000, .rws, 0x00000003⟩,
  ⟨0x020004, 1, 0x4, 1, 0x4, 0x00000007, .rws, 0x0000000F⟩,
  ⟨0x020008, 1, 0x4, 1, 0x4, 0x000004B0, .rws, 0x0003FFFF⟩,
  ⟨0x02000C, 1, 0x4, 1, 0x4, 0x00000186, .ro, 0x00000000⟩,
  ⟨0x020010, 1, 0x4, 1, 0x4, 0x00000000, .ro, 0xFFFFFFFF⟩,
  ⟨0x020014, 1, 0x4, 1, 0x4, 0x00000000, .ro, 0xFFFFFFFF⟩,
  ⟨0x020018, 1, 0x4, 1, 0x4, 0x00000000, .ro, 0xFFFFFFFF⟩,
  ⟨0x02001C, 1, 0x4, 1, 0x4, 0x00000000, .ro, 0xFFFFFFFF⟩,
  ⟨0x020020, 1, 0x4, 1, 0x4, 0x00000000, .ro, 0xFFFFFFFF⟩,
  ⟨0x020024, 1, 0x4, 1, 0x4, 0x00000000, .ro, 0xFFFFFFFF⟩,
  ⟨0x020028, 1, 0x4, 1, 0x4, 0x00000000, .ro, 0xFFFFFFFF⟩,
  ⟨0x02002C, 1, 0x4, 1, 0x4, 0x00000000, .w1c, 0x0000001F⟩,
  ⟨0x020030, 1, 0x4, 1, 0x4, 0x00000000, .ro, 0xFFFFFFFF⟩,
  ⟨0x020034, 1, 0x4, 1, 0x4, 0x00000000, .ro, 0xFFFFFFFF⟩,
  ⟨0x020038, 1, 0x4, 1, 0x4, 0x00000000, .rc, 0xFFFFFFFF⟩,
  ⟨0x02003C, 1, 0x4, 1, 0x4, 0xFFFFFFFF, .rc, 0xFFFFFFFF⟩,
  ⟨0x020040, 1, 0x4, 1, 0x4, 0x00000000, .ro, 0xFFFFFFFF⟩,
  ⟨0x020044, 1, 0x4, 1, 0x4, 0x00000000, .ro, 0xFFFFFFFF⟩,
  ⟨0x020048, 1, 0x4, 1, 0x4, 0x00000000, .ro, 0xFFFFFFFF⟩]

/-- The registers of SCH (Tables SYS-20 to SYS-25). -/
def regRowsSch : List RegRow := [
  ⟨0x030000, 1, 0x4, 1, 0x4, 0x00000000, .rws, 0x80001FFF⟩,
  ⟨0x030004, 1, 0x4, 1, 0x4, 0x00000000, .ro, 0x00000000⟩,
  ⟨0x030008, 1, 0x4, 1, 0x4, 0x00000000, .ro, 0xFFFFFFFF⟩,
  ⟨0x03000C, 1, 0x4, 1, 0x4, 0x00000000, .ro, 0xFFFFFFFF⟩,
  ⟨0x030010, 1, 0x4, 1, 0x4, 0x00000000, .ro, 0xFFFFFFFF⟩,
  ⟨0x030014, 1, 0x4, 1, 0x4, 0x00000000, .rc, 0xFFFFFFFF⟩,
  ⟨0x030018, 1, 0x4, 1, 0x4, 0x00000000, .ro, 0xFFFFFFFF⟩,
  ⟨0x03001C, 1, 0x4, 1, 0x4, 0x00000000, .ro, 0xFFFFFFFF⟩]

/-- The registers of DPX (Tables SYS-20 to SYS-25). -/
def regRowsDpx : List RegRow := [
  ⟨0x040000, 1, 0x4, 1, 0x4, 0x00000000, .ro, 0xFFFFFFFF⟩,
  ⟨0x040004, 1, 0x4, 1, 0x4, 0x00000000, .ro, 0xFFFFFFFF⟩,
  ⟨0x040008, 1, 0x4, 1, 0x4, 0x00000000, .ro, 0xFFFFFFFF⟩,
  ⟨0x04000C, 1, 0x4, 1, 0x4, 0x00000000, .ro, 0xFFFFFFFF⟩,
  ⟨0x040010, 1, 0x4, 1, 0x4, 0x00000000, .ro, 0xFFFFFFFF⟩,
  ⟨0x040014, 1, 0x4, 1, 0x4, 0x00000000, .ro, 0xFFFFFFFF⟩]

/-- The registers of PLT (Tables SYS-20 to SYS-25). -/
def regRowsPlt : List RegRow := [
  ⟨0x050000, 32, 0x4, 1, 0x4, 0x00000000, .rc, 0xFFFFFFFF⟩,
  ⟨0x050080, 32, 0x4, 1, 0x4, 0x00000000, .ro, 0xFFFFFFFF⟩,
  ⟨0x050100, 1, 0x4, 1, 0x4, 0x00000000, .ro, 0xFFFFFFFF⟩,
  ⟨0x050104, 1, 0x4, 1, 0x4, 0x00000000, .ro, 0xFFFFFFFF⟩,
  ⟨0x050108, 1, 0x4, 1, 0x4, 0x00000000, .ro, 0x00000000⟩,
  ⟨0x05010C, 1, 0x4, 1, 0x4, 0x00000000, .ro, 0xFFFFFFFF⟩]

/-- The registers of PRT (Tables SYS-20 to SYS-25). -/
def regRowsPrt : List RegRow := [
  ⟨0x060000, 4, 0x1000, 1, 0x4, 0x00000000, .rws, 0x000000FF⟩,
  ⟨0x060004, 4, 0x1000, 1, 0x4, 0x00000000, .rws, 0xFFFFFFFF⟩,
  ⟨0x060008, 4, 0x1000, 1, 0x4, 0x00000000, .rws, 0x0000FFFF⟩,
  ⟨0x06000C, 4, 0x1000, 1, 0x4, 0x00000000, .rws, 0xFFFFFFFF⟩,
  ⟨0x060010, 4, 0x1000, 4, 0x4, 0x00000000, .rws, 0xFFFFFFFF⟩,
  ⟨0x060020, 4, 0x1000, 1, 0x4, 0x00001269, .rws, 0xFFFFFFFF⟩,
  ⟨0x060024, 4, 0x1000, 1, 0x4, 0x40000000, .rws, 0x5FFF1FFF⟩,
  ⟨0x060028, 4, 0x1000, 1, 0x4, 0x00000000, .ro, 0x00000000⟩,
  ⟨0x06002C, 4, 0x1000, 1, 0x4, 0x00000000, .rw, 0x00000001⟩,
  ⟨0x060040, 4, 0x1000, 1, 0x4, 0x00000000, .ro, 0xFFFFFFFF⟩,
  ⟨0x060044, 4, 0x1000, 1, 0x4, 0x00000000, .ro, 0xFFFFFFFF⟩,
  ⟨0x060048, 4, 0x1000, 1, 0x4, 0x00000000, .ro, 0xFFFFFFFF⟩,
  ⟨0x06004C, 4, 0x1000, 1, 0x4, 0x00000000, .ro, 0xFFFFFFFF⟩,
  ⟨0x060050, 4, 0x1000, 1, 0x4, 0x00000000, .ro, 0xFFFFFFFF⟩,
  ⟨0x060054, 4, 0x1000, 1, 0x4, 0x00000000, .ro, 0xFFFFFFFF⟩,
  ⟨0x060058, 4, 0x1000, 1, 0x4, 0x00000000, .ro, 0xFFFFFFFF⟩,
  ⟨0x06005C, 4, 0x1000, 1, 0x4, 0x00000000, .ro, 0xFFFFFFFF⟩,
  ⟨0x064000, 1, 0x4, 1, 0x4, 0x00000000, .rws, 0x00000003⟩,
  ⟨0x064004, 1, 0x4, 1, 0x4, 0x00000000, .ro, 0x00000000⟩,
  ⟨0x064010, 1, 0x4, 1, 0x4, 0x00000000, .ro, 0xFFFFFFFF⟩,
  ⟨0x064014, 1, 0x4, 1, 0x4, 0x00000000, .ro, 0xFFFFFFFF⟩,
  ⟨0x064018, 1, 0x4, 1, 0x4, 0x00000000, .ro, 0xFFFFFFFF⟩,
  ⟨0x06401C, 1, 0x4, 1, 0x4, 0x00000000, .ro, 0xFFFFFFFF⟩,
  ⟨0x064020, 1, 0x4, 1, 0x4, 0x00000000, .ro, 0xFFFFFFFF⟩]

/-- The registers of HDG (Tables SYS-20 to SYS-25). -/
def regRowsHdg : List RegRow := [
  ⟨0x070000, 1, 0x4, 1, 0x4, 0x00000001, .rws, 0x00000003⟩,
  ⟨0x070010, 8, 0x4, 1, 0x4, 0x00000000, .rws, 0xFFFFFFFF⟩,
  ⟨0x070040, 1, 0x4, 1, 0x4, 0x00000000, .ro, 0x00000000⟩,
  ⟨0x070050, 1, 0x4, 1, 0x4, 0x00000000, .ro, 0xFFFFFFFF⟩,
  ⟨0x070054, 1, 0x4, 1, 0x4, 0x00000000, .ro, 0xFFFFFFFF⟩,
  ⟨0x070058, 1, 0x4, 1, 0x4, 0x00000000, .ro, 0xFFFFFFFF⟩,
  ⟨0x07005C, 1, 0x4, 1, 0x4, 0x00000000, .ro, 0xFFFFFFFF⟩,
  ⟨0x070060, 1, 0x4, 1, 0x4, 0x00000000, .ro, 0xFFFFFFFF⟩,
  ⟨0x070064, 1, 0x4, 1, 0x4, 0x00000000, .ro, 0xFFFFFFFF⟩,
  ⟨0x070068, 1, 0x4, 1, 0x4, 0x00000000, .rc, 0xFFFFFFFF⟩,
  ⟨0x07006C, 1, 0x4, 1, 0x4, 0x00000000, .ro, 0xFFFFFFFF⟩,
  ⟨0x070070, 1, 0x4, 1, 0x4, 0x00000000, .ro, 0xFFFFFFFF⟩,
  ⟨0x070074, 1, 0x4, 1, 0x4, 0x00000000, .ro, 0xFFFFFFFF⟩]

/-- The registers of FLM (Tables SYS-20 to SYS-25). -/
def regRowsFlm : List RegRow := [
  ⟨0x080000, 9, 0x4, 1, 0x4, 0x01000600, .rw, 0x07FF07FF⟩,
  ⟨0x080040, 1, 0x4, 1, 0x4, 0x00000000, .w1c, 0x000001FF⟩,
  ⟨0x080080, 9, 0x4, 1, 0x4, 0x00000000, .ro, 0xFFFFFFFF⟩,
  ⟨0x0800C0, 9, 0x4, 1, 0x4, 0x00000000, .rc, 0xFFFFFFFF⟩,
  ⟨0x080100, 9, 0x4, 1, 0x4, 0x00000000, .ro, 0xFFFFFFFF⟩,
  ⟨0x080140, 9, 0x4, 1, 0x4, 0x00000000, .ro, 0xFFFFFFFF⟩,
  ⟨0x080180, 9, 0x4, 1, 0x4, 0x00000000, .ro, 0xFFFFFFFF⟩,
  ⟨0x0801C0, 9, 0x4, 1, 0x4, 0x00000000, .ro, 0xFFFFFFFF⟩,
  ⟨0x080200, 1, 0x4, 1, 0x4, 0x00000000, .rc, 0xFFFFFFFF⟩,
  ⟨0x080204, 1, 0x4, 1, 0x4, 0x00000000, .ro, 0xFFFFFFFF⟩]

/-- The registers of BSN (Tables SYS-20 to SYS-25). -/
def regRowsBsn : List RegRow := [
  ⟨0x0A0000, 1, 0x4, 1, 0x4, 0x00000000, .ro, 0x00000000⟩,
  ⟨0x0A0010, 1, 0x4, 1, 0x4, 0x00000000, .rws, 0x00000003⟩,
  ⟨0x0A0040, 1, 0x4, 1, 0x4, 0x00000000, .ro, 0x00000000⟩,
  ⟨0x0A0044, 1, 0x4, 1, 0x4, 0x00000000, .ro, 0xFFFFFFFF⟩,
  ⟨0x0A0080, 1, 0x4, 1, 0x4, 0x00000000, .ro, 0xFFFFFFFF⟩,
  ⟨0x0A0084, 1, 0x4, 1, 0x4, 0x00000000, .ro, 0xFFFFFFFF⟩,
  ⟨0x0A0088, 1, 0x4, 1, 0x4, 0x00000000, .ro, 0xFFFFFFFF⟩,
  ⟨0x0A008C, 1, 0x4, 1, 0x4, 0x00000000, .ro, 0xFFFFFFFF⟩,
  ⟨0x0A0090, 1, 0x4, 1, 0x4, 0x00000000, .ro, 0xFFFFFFFF⟩,
  ⟨0x0A0094, 1, 0x4, 1, 0x4, 0x00000000, .ro, 0xFFFFFFFF⟩,
  ⟨0x0A0098, 1, 0x4, 1, 0x4, 0x00000000, .ro, 0xFFFFFFFF⟩,
  ⟨0x0A009C, 1, 0x4, 1, 0x4, 0x00000000, .ro, 0xFFFFFFFF⟩,
  ⟨0x0A00A0, 1, 0x4, 1, 0x4, 0x00000000, .ro, 0xFFFFFFFF⟩,
  ⟨0x0A00A4, 1, 0x4, 1, 0x4, 0x00000000, .ro, 0xFFFFFFFF⟩,
  ⟨0x0A00A8, 1, 0x4, 1, 0x4, 0x00000000, .ro, 0xFFFFFFFF⟩,
  ⟨0x0A00AC, 1, 0x4, 1, 0x4, 0x00000000, .ro, 0xFFFFFFFF⟩,
  ⟨0x0A00B0, 1, 0x4, 1, 0x4, 0x00000000, .rc, 0xFFFFFFFF⟩,
  ⟨0x0A00B4, 1, 0x4, 1, 0x4, 0x00000000, .ro, 0xFFFFFFFF⟩,
  ⟨0x0A00B8, 1, 0x4, 1, 0x4, 0x00000000, .ro, 0xFFFFFFFF⟩,
  ⟨0x0A00BC, 1, 0x4, 1, 0x4, 0x00000000, .ro, 0xFFFFFFFF⟩,
  ⟨0x0A00C0, 1, 0x4, 1, 0x4, 0x00000000, .ro, 0xFFFFFFFF⟩,
  ⟨0x0A0100, 8, 0x8, 1, 0x4, 0x00000000, .rws, 0x3FFF1FFF⟩,
  ⟨0x0A0104, 8, 0x8, 1, 0x4, 0x00000000, .rws, 0x8000FF3F⟩]

/-- The registers of MOD (Tables SYS-20 to SYS-25). -/
def regRowsMod : List RegRow := [
  ⟨0x0B0000, 1, 0x4, 1, 0x4, 0x00000000, .rws, 0x00000001⟩,
  ⟨0x0B0004, 1, 0x4, 1, 0x4, 0x00000000, .ro, 0x00000000⟩,
  ⟨0x0B0008, 1, 0x4, 1, 0x4, 0x00000000, .ro, 0x00000000⟩,
  ⟨0x0B0010, 1, 0x4, 1, 0x4, 0x00000000, .ro, 0xFFFFFFFF⟩,
  ⟨0x0B0014, 1, 0x4, 1, 0x4, 0x00000000, .ro, 0xFFFFFFFF⟩,
  ⟨0x0B0018, 1, 0x4, 1, 0x4, 0x00000000, .ro, 0xFFFFFFFF⟩,
  ⟨0x0B001C, 1, 0x4, 1, 0x4, 0x00000000, .ro, 0xFFFFFFFF⟩,
  ⟨0x0B0020, 1, 0x4, 1, 0x4, 0x00000000, .ro, 0xFFFFFFFF⟩,
  ⟨0x0B0024, 1, 0x4, 1, 0x4, 0x00000000, .ro, 0xFFFFFFFF⟩,
  ⟨0x0B0028, 1, 0x4, 1, 0x4, 0x00000000, .ro, 0xFFFFFFFF⟩,
  ⟨0x0B002C, 1, 0x4, 1, 0x4, 0x00000000, .ro, 0xFFFFFFFF⟩,
  ⟨0x0B0030, 1, 0x4, 1, 0x4, 0x00000000, .rc, 0xFFFFFFFF⟩,
  ⟨0x0B0034, 1, 0x4, 1, 0x4, 0x00000000, .ro, 0xFFFFFFFF⟩,
  ⟨0x0B0040, 1, 0x4, 1, 0x4, 0x00000000, .ro, 0x00000000⟩,
  ⟨0x0B0044, 1, 0x4, 1, 0x4, 0x00000000, .ro, 0xFFFFFFFF⟩,
  ⟨0x0B0048, 1, 0x4, 1, 0x4, 0x00000000, .ro, 0x00000000⟩,
  ⟨0x0B0050, 4, 0x4, 1, 0x4, 0x00000000, .rc, 0xFFFFFFFF⟩]

/-- The registers of TOP (Tables SYS-20 to SYS-25). -/
def regRowsTop : List RegRow := [
  ⟨0x0C0000, 1, 0x4, 1, 0x4, 0x00000000, .ro, 0x00000000⟩,
  ⟨0x0C0010, 1, 0x4, 1, 0x4, 0x00000000, .ro, 0xFFFFFFFF⟩,
  ⟨0x0C0014, 1, 0x4, 1, 0x4, 0x00000000, .rc, 0xFFFFFFFF⟩,
  ⟨0x0C0018, 1, 0x4, 1, 0x4, 0x00000000, .ro, 0xFFFFFFFF⟩,
  ⟨0x0C001C, 1, 0x4, 1, 0x4, 0x00000000, .ro, 0xFFFFFFFF⟩,
  ⟨0x0C0020, 1, 0x4, 1, 0x4, 0x00000000, .ro, 0xFFFFFFFF⟩,
  ⟨0x0C0024, 1, 0x4, 1, 0x4, 0x00000000, .ro, 0xFFFFFFFF⟩,
  ⟨0x0C0028, 1, 0x4, 1, 0x4, 0x00000000, .ro, 0xFFFFFFFF⟩,
  ⟨0x0C0030, 1, 0x4, 1, 0x4, 0x00000000, .rc, 0xFFFFFFFF⟩,
  ⟨0x0C0034, 1, 0x4, 1, 0x4, 0x00000000, .ro, 0xFFFFFFFF⟩,
  ⟨0x0C0040, 1, 0x4, 1, 0x4, 0x00000000, .ro, 0x00000000⟩,
  ⟨0x0C0044, 1, 0x4, 1, 0x4, 0x00000000, .ro, 0xFFFFFFFF⟩]

/-- The registers of ALM (Tables SYS-20 to SYS-25). -/
def regRowsAlm : List RegRow := [
  ⟨0x0D0000, 1, 0x4, 1, 0x4, 0x00000000, .rws, 0x0000007F⟩,
  ⟨0x0D0004, 1, 0x4, 1, 0x4, 0x00000000, .ro, 0x00000000⟩,
  ⟨0x0D0008, 1, 0x4, 1, 0x4, 0x00000000, .ro, 0xFFFFFFFF⟩,
  ⟨0x0D0010, 8, 0x4, 1, 0x4, 0x00000000, .rws, 0x0000000F⟩,
  ⟨0x0D0040, 1, 0x4, 1, 0x4, 0x00000000, .ro, 0x00000000⟩,
  ⟨0x0D0044, 1, 0x4, 1, 0x4, 0x00000000, .ro, 0xFFFFFFFF⟩,
  ⟨0x0D0050, 1, 0x4, 1, 0x4, 0x00000000, .ro, 0xFFFFFFFF⟩,
  ⟨0x0D0054, 1, 0x4, 1, 0x4, 0x00000000, .ro, 0xFFFFFFFF⟩,
  ⟨0x0D0058, 1, 0x4, 1, 0x4, 0x00000000, .ro, 0xFFFFFFFF⟩,
  ⟨0x0D005C, 1, 0x4, 1, 0x4, 0x00000000, .ro, 0xFFFFFFFF⟩,
  ⟨0x0D0060, 1, 0x4, 1, 0x4, 0x00000000, .ro, 0xFFFFFFFF⟩,
  ⟨0x0D0064, 1, 0x4, 1, 0x4, 0x00000000, .ro, 0xFFFFFFFF⟩,
  ⟨0x0D0068, 1, 0x4, 1, 0x4, 0x00000000, .ro, 0xFFFFFFFF⟩,
  ⟨0x0D0070, 1, 0x4, 1, 0x4, 0x00000000, .rc, 0xFFFFFFFF⟩,
  ⟨0x0D0074, 1, 0x4, 1, 0x4, 0x00000000, .ro, 0xFFFFFFFF⟩,
  ⟨0x0D0100, 64, 0x4, 1, 0x4, 0x00000000, .ro, 0xFFFFFFFF⟩]

/-- The registers of PRD (Tables SYS-20 to SYS-25). -/
def regRowsPrd : List RegRow := [
  ⟨0x0E0000, 1, 0x4, 1, 0x4, 0x00000000, .ro, 0x00000000⟩,
  ⟨0x0E0010, 1, 0x4, 1, 0x4, 0x00000000, .ro, 0xFFFFFFFF⟩,
  ⟨0x0E0014, 1, 0x4, 1, 0x4, 0x00000000, .ro, 0xFFFFFFFF⟩,
  ⟨0x0E0018, 1, 0x4, 1, 0x4, 0x00000000, .ro, 0xFFFFFFFF⟩,
  ⟨0x0E001C, 1, 0x4, 1, 0x4, 0x00000000, .ro, 0xFFFFFFFF⟩,
  ⟨0x0E0020, 1, 0x4, 1, 0x4, 0x00000000, .rc, 0xFFFFFFFF⟩,
  ⟨0x0E0024, 1, 0x4, 1, 0x4, 0x00000000, .ro, 0xFFFFFFFF⟩,
  ⟨0x0E0040, 1, 0x4, 1, 0x4, 0x00000000, .ro, 0x00000000⟩,
  ⟨0x0E0044, 1, 0x4, 1, 0x4, 0x00000000, .ro, 0xFFFFFFFF⟩]

/-- The registers of ARC (Tables SYS-20 to SYS-25). -/
def regRowsArc : List RegRow := [
  ⟨0x0F0000, 1, 0x4, 1, 0x4, 0x00000000, .rws, 0x00003FFF⟩,
  ⟨0x0F0004, 1, 0x4, 1, 0x4, 0x00000000, .rws, 0x87FFFFFF⟩,
  ⟨0x0F0008, 1, 0x4, 1, 0x4, 0x00000000, .ro, 0x00000000⟩,
  ⟨0x0F0010, 4, 0x4, 1, 0x4, 0x00000000, .rws, 0xFFFFFFFF⟩,
  ⟨0x0F0020, 1, 0x4, 1, 0x4, 0x00000000, .rws, 0xFFFFFFFF⟩,
  ⟨0x0F0030, 1, 0x4, 1, 0x4, 0x00000000, .ro, 0xFFFFFFFF⟩,
  ⟨0x0F0034, 1, 0x4, 1, 0x4, 0x00000000, .ro, 0xFFFFFFFF⟩,
  ⟨0x0F0040, 1, 0x4, 1, 0x4, 0x00000000, .ro, 0xFFFFFFFF⟩,
  ⟨0x0F0044, 1, 0x4, 1, 0x4, 0x00000000, .ro, 0xFFFFFFFF⟩,
  ⟨0x0F0048, 1, 0x4, 1, 0x4, 0x00000000, .ro, 0xFFFFFFFF⟩,
  ⟨0x0F004C, 1, 0x4, 1, 0x4, 0x00000000, .ro, 0xFFFFFFFF⟩,
  ⟨0x0F0050, 1, 0x4, 1, 0x4, 0x00000000, .ro, 0xFFFFFFFF⟩,
  ⟨0x0F0054, 1, 0x4, 1, 0x4, 0x00000000, .ro, 0xFFFFFFFF⟩,
  ⟨0x0F0058, 1, 0x4, 1, 0x4, 0x00000000, .ro, 0xFFFFFFFF⟩,
  ⟨0x0F005C, 1, 0x4, 1, 0x4, 0x00000000, .ro, 0xFFFFFFFF⟩,
  ⟨0x0F0060, 1, 0x4, 1, 0x4, 0x00000000, .ro, 0xFFFFFFFF⟩,
  ⟨0x0F0064, 1, 0x4, 1, 0x4, 0x00000000, .rc, 0xFFFFFFFF⟩,
  ⟨0x0F0068, 1, 0x4, 1, 0x4, 0x00000000, .ro, 0xFFFFFFFF⟩]

/-- The registers of LMU (Tables SYS-20 to SYS-25). -/
def regRowsLmu : List RegRow := [
  ⟨0x100000, 1, 0x4, 1, 0x4, 0x00000000, .rws, 0x00000003⟩,
  ⟨0x100004, 1, 0x4, 1, 0x4, 0x00000000, .ro, 0x00000000⟩,
  ⟨0x100008, 1, 0x4, 1, 0x4, 0x00000000, .rws, 0x0000001F⟩,
  ⟨0x100010, 1, 0x4, 1, 0x4, 0x00000000, .ro, 0xFFFFFFFF⟩,
  ⟨0x100014, 1, 0x4, 1, 0x4, 0x00000000, .ro, 0xFFFFFFFF⟩,
  ⟨0x100018, 1, 0x4, 1, 0x4, 0x00000000, .w1c, 0x00FFFFFF⟩,
  ⟨0x100020, 1, 0x4, 1, 0x4, 0x00000000, .ro, 0xFFFFFFFF⟩,
  ⟨0x100024, 1, 0x4, 1, 0x4, 0x00000000, .ro, 0xFFFFFFFF⟩,
  ⟨0x100100, 24, 0x4, 1, 0x4, 0x00080000, .rws, 0x000FFFFF⟩,
  ⟨0x100180, 24, 0x4, 1, 0x4, 0x00000000, .rw, 0x0000007F⟩,
  ⟨0x100200, 24, 0x4, 1, 0x4, 0x3F800000, .rws, 0xFFFFFFFF⟩,
  ⟨0x100280, 24, 0x4, 1, 0x4, 0x00000000, .ro, 0xFFFFFFFF⟩,
  ⟨0x100300, 24, 0x4, 1, 0x4, 0x00000000, .ro, 0xFFFFFFFF⟩,
  ⟨0x100400, 4, 0x10, 1, 0x4, 0x00000000, .rws, 0x00000007⟩,
  ⟨0x100404, 4, 0x10, 1, 0x4, 0x00000000, .rws, 0xFFFFFFFF⟩,
  ⟨0x100408, 4, 0x10, 1, 0x4, 0x00000000, .rws, 0xFFFFFFFF⟩,
  ⟨0x100440, 4, 0x4, 1, 0x4, 0x00000000, .ro, 0xFFFFFFFF⟩,
  ⟨0x100450, 4, 0x4, 1, 0x4, 0x00000000, .ro, 0xFFFFFFFF⟩,
  ⟨0x101000, 4, 0x200, 96, 0x4, 0x00000000, .rws, 0xFFFFFFFF⟩]

/-- The registers of NRG (Tables SYS-20 to SYS-25). -/
def regRowsNrg : List RegRow := [
  ⟨0x110000, 4, 0x40, 1, 0x4, 0x00010000, .rws, 0xFFFF000F⟩,
  ⟨0x110004, 4, 0x40, 1, 0x4, 0x45610000, .rws, 0xFFFFFFFF⟩,
  ⟨0x110008, 4, 0x40, 1, 0x4, 0x00000000, .rws, 0xFFFFFFFF⟩,
  ⟨0x11000C, 4, 0x40, 1, 0x4, 0x00000000, .ro, 0x00000000⟩,
  ⟨0x110010, 4, 0x40, 1, 0x4, 0x00000000, .ro, 0xFFFFFFFF⟩,
  ⟨0x110014, 4, 0x40, 1, 0x4, 0x00000000, .ro, 0xFFFFFFFF⟩,
  ⟨0x110018, 4, 0x40, 1, 0x4, 0x00000000, .ro, 0xFFFFFFFF⟩,
  ⟨0x11001C, 4, 0x40, 1, 0x4, 0x00000000, .w1c, 0xFFFFFFFF⟩,
  ⟨0x110020, 4, 0x40, 1, 0x4, 0x00000000, .ro, 0xFFFFFFFF⟩,
  ⟨0x110100, 12, 0x8, 1, 0x4, 0x00000000, .rws, 0xFFFFFFFF⟩,
  ⟨0x110104, 12, 0x8, 1, 0x4, 0x00000000, .rws, 0xFFFF0007⟩,
  ⟨0x110180, 12, 0x4, 1, 0x4, 0x00000000, .rc, 0xFFFFFFFF⟩,
  ⟨0x1101C0, 1, 0x4, 1, 0x4, 0x00000000, .ro, 0x00000FFF⟩,
  ⟨0x1101C4, 1, 0x4, 1, 0x4, 0x00000000, .w1c, 0x00000FFF⟩,
  ⟨0x1101C8, 1, 0x4, 1, 0x4, 0x00000000, .ro, 0xFFFFFFFF⟩,
  ⟨0x1101CC, 1, 0x4, 1, 0x4, 0x00000000, .rc, 0xFFFFFFFF⟩,
  ⟨0x1101D0, 1, 0x4, 1, 0x4, 0x00000000, .ro, 0xFFFFFFFF⟩,
  ⟨0x110200, 8, 0x10, 1, 0x4, 0x00000000, .rws, 0x00FF07FF⟩,
  ⟨0x110204, 8, 0x10, 1, 0x4, 0x00000001, .rws, 0xFFFFFFFF⟩,
  ⟨0x110208, 8, 0x10, 1, 0x4, 0x00000000, .ro, 0x0000FFFF⟩,
  ⟨0x11020C, 8, 0x10, 1, 0x4, 0x00000000, .ro, 0xFFFFFFFF⟩,
  ⟨0x111000, 12, 0x80, 9, 0xC, 0x00000000, .rws, 0xFFFFFFFF⟩,
  ⟨0x111004, 12, 0x80, 9, 0xC, 0x3F800000, .rws, 0xFFFFFFFF⟩,
  ⟨0x111008, 12, 0x80, 9, 0xC, 0x00000000, .rws, 0xFFFFFFFF⟩,
  ⟨0x112000, 4, 0x80, 32, 0x4, 0x00000000, .ro, 0xFFFFFFFF⟩]

/-- The registers of CAP (Tables SYS-20 to SYS-25). -/
def regRowsCap : List RegRow := [
  ⟨0x120000, 1, 0x4, 1, 0x4, 0x00000000, .rws, 0x000000FF⟩,
  ⟨0x120004, 1, 0x4, 1, 0x4, 0x00640000, .rws, 0xFFFFFFFF⟩,
  ⟨0x120008, 1, 0x4, 1, 0x4, 0x00000000, .ro, 0x00000000⟩,
  ⟨0x12000C, 1, 0x4, 1, 0x4, 0x00000000, .ro, 0xFFFFFFFF⟩,
  ⟨0x120010, 1, 0x4, 1, 0x4, 0x00000000, .ro, 0xFFFFFFFF⟩,
  ⟨0x120014, 1, 0x4, 1, 0x4, 0x00000000, .rc, 0xFFFFFFFF⟩,
  ⟨0x120018, 1, 0x4, 1, 0x4, 0x00000000, .ro, 0xFFFFFFFF⟩,
  ⟨0x12001C, 1, 0x4, 1, 0x4, 0x00000064, .rws, 0x0000FFFF⟩,
  ⟨0x120020, 1, 0x4, 1, 0x4, 0x00000000, .ro, 0xFFFFFFFF⟩,
  ⟨0x120100, 8, 0x40, 1, 0x4, 0x00000003, .rws, 0xFFFFFFFF⟩,
  ⟨0x120104, 8, 0x40, 1, 0x4, 0x00000000, .rws, 0x00FFFFFF⟩,
  ⟨0x120108, 8, 0x40, 1, 0x4, 0x00000000, .rws, 0xFFFFFFFF⟩,
  ⟨0x12010C, 8, 0x40, 1, 0x4, 0x00000000, .rws, 0xFFFFFFFF⟩,
  ⟨0x120110, 8, 0x40, 1, 0x4, 0x00000000, .rws, 0x0000FFFF⟩,
  ⟨0x120114, 8, 0x40, 1, 0x4, 0x00000000, .rws, 0xFFFFFFFF⟩,
  ⟨0x120118, 8, 0x40, 1, 0x4, 0x00000001, .rws, 0xFFFFFFFF⟩,
  ⟨0x12011C, 8, 0x40, 1, 0x4, 0x00000000, .rws, 0x87FFFFFF⟩,
  ⟨0x120120, 8, 0x40, 1, 0x4, 0x00000000, .ro, 0xFFFFFFFF⟩,
  ⟨0x120124, 8, 0x40, 1, 0x4, 0x00000000, .ro, 0xFFFFFFFF⟩,
  ⟨0x120128, 8, 0x40, 1, 0x4, 0x00000000, .ro, 0xFFFFFFFF⟩,
  ⟨0x121000, 8, 0x800, 256, 0x4, 0x7F800000, .rws, 0xFFFFFFFF⟩,
  ⟨0x121400, 8, 0x800, 256, 0x4, 0xFF800000, .rws, 0xFFFFFFFF⟩]

/-- The registers of TIM (Tables SYS-20 to SYS-25). -/
def regRowsTim : List RegRow := [
  ⟨0x130000, 1, 0x4, 1, 0x4, 0x00000000, .rws, 0x001FFFFF⟩,
  ⟨0x130004, 1, 0x4, 1, 0x4, 0x07068080, .rws, 0xFFFFFFFF⟩,
  ⟨0x130008, 1, 0x4, 1, 0x4, 0x0000F380, .ro, 0x00000000⟩,
  ⟨0x13000C, 1, 0x4, 1, 0x4, 0x3F333333, .rws, 0xFFFFFFFF⟩,
  ⟨0x130010, 1, 0x4, 1, 0x4, 0x3E99999A, .rws, 0xFFFFFFFF⟩,
  ⟨0x130014, 1, 0x4, 1, 0x4, 0x000186A0, .rws, 0x000FFFFF⟩,
  ⟨0x130018, 1, 0x4, 1, 0x4, 0x003C03E8, .rws, 0xFFFFFFFF⟩,
  ⟨0x13001C, 1, 0x4, 1, 0x4, 0x42480000, .rws, 0xFFFFFFFF⟩,
  ⟨0x130020, 1, 0x4, 1, 0x4, 0x3C23D70A, .rws, 0xFFFFFFFF⟩,
  ⟨0x130024, 1, 0x4, 1, 0x4, 0x00640000, .rws, 0xFFFFFFFF⟩,
  ⟨0x130028, 1, 0x4, 1, 0x4, 0x00000001, .rws, 0x00000003⟩,
  ⟨0x13002C, 1, 0x4, 1, 0x4, 0x00006400, .rws, 0x0001FF07⟩,
  ⟨0x130030, 1, 0x4, 1, 0x4, 0x00000000, .rws, 0x00000007⟩,
  ⟨0x130050, 1, 0x4, 1, 0x4, 0x00000000, .ro, 0xFFFFFFFF⟩,
  ⟨0x130054, 1, 0x4, 1, 0x4, 0x00000000, .ro, 0xFFFFFFFF⟩,
  ⟨0x130058, 1, 0x4, 1, 0x4, 0x00000000, .ro, 0x0000FFFF⟩,
  ⟨0x13005C, 1, 0x4, 1, 0x4, 0x00000000, .ro, 0x0000FFFF⟩,
  ⟨0x130060, 1, 0x4, 1, 0x4, 0x00000000, .ro, 0xFFFFFFFF⟩,
  ⟨0x130064, 1, 0x4, 1, 0x4, 0x00000000, .ro, 0xFFFFFFFF⟩,
  ⟨0x130068, 1, 0x4, 1, 0x4, 0xFFFFFFFF, .ro, 0xFFFFFFFF⟩,
  ⟨0x13006C, 1, 0x4, 1, 0x4, 0xFFFFFFFF, .ro, 0xFFFFFFFF⟩,
  ⟨0x130070, 1, 0x4, 1, 0x4, 0x00000000, .ro, 0xFFFFFFFF⟩,
  ⟨0x130074, 1, 0x4, 1, 0x4, 0x00000000, .ro, 0xFFFFFFFF⟩,
  ⟨0x130078, 1, 0x4, 1, 0x4, 0x00000000, .ro, 0xFFFFFFFF⟩,
  ⟨0x13007C, 1, 0x4, 1, 0x4, 0x00000000, .ro, 0xFFFFFFFF⟩,
  ⟨0x130080, 1, 0x4, 1, 0x4, 0x00000000, .ro, 0xFFFFFFFF⟩,
  ⟨0x130084, 1, 0x4, 1, 0x4, 0x00000000, .ro, 0x00000000⟩,
  ⟨0x1300A0, 4, 0x8, 1, 0x4, 0x00000000, .rws, 0xFFFFFFFF⟩,
  ⟨0x1300A4, 4, 0x8, 1, 0x4, 0x00000000, .ro, 0xFFFFFFFF⟩]

/-- The registers of HIF (Tables SYS-20 to SYS-25). -/
def regRowsHif : List RegRow := [
  ⟨0x140000, 1, 0x4, 1, 0x4, 0x00000000, .ro, 0x00000000⟩,
  ⟨0x140004, 1, 0x4, 1, 0x4, 0x00000000, .rws, 0x00000001⟩,
  ⟨0x140008, 1, 0x4, 1, 0x4, 0x00000000, .ro, 0x00000000⟩,
  ⟨0x140010, 1, 0x4, 1, 0x4, 0x00000000, .ro, 0xFFFFFFFF⟩,
  ⟨0x140014, 1, 0x4, 1, 0x4, 0x00000000, .ro, 0xFFFFFFFF⟩,
  ⟨0x140018, 1, 0x4, 1, 0x4, 0x00000000, .ro, 0xFFFFFFFF⟩,
  ⟨0x14001C, 1, 0x4, 1, 0x4, 0x00000000, .ro, 0xFFFFFFFF⟩,
  ⟨0x140020, 1, 0x4, 1, 0x4, 0x00000000, .ro, 0xFFFFFFFF⟩,
  ⟨0x140024, 1, 0x4, 1, 0x4, 0x00000000, .ro, 0xFFFFFFFF⟩,
  ⟨0x140028, 1, 0x4, 1, 0x4, 0x00000000, .ro, 0xFFFFFFFF⟩,
  ⟨0x141000, 64, 0x20, 1, 0x4, 0x00000000, .rws, 0xFFFFF000⟩,
  ⟨0x141004, 64, 0x20, 1, 0x4, 0x00000000, .rws, 0xFFFFFFFF⟩,
  ⟨0x141008, 64, 0x20, 1, 0x4, 0x00000000, .rws, 0x001FFFFF⟩,
  ⟨0x14100C, 64, 0x20, 1, 0x4, 0x00000000, .rw, 0x00000001⟩,
  ⟨0x141010, 64, 0x20, 1, 0x4, 0x00000001, .rw, 0x0FFF0FFF⟩,
  ⟨0x141014, 64, 0x20, 1, 0x4, 0x00000000, .ro, 0x00000000⟩]

/-- The registers of GZL (Tables SYS-20 to SYS-25). -/
def regRowsGzl : List RegRow := [
  ⟨0x150000, 1, 0x4, 1, 0x4, 0x00080300, .rws, 0x007FFFFF⟩,
  ⟨0x150004, 1, 0x4, 1, 0x4, 0x0000020F, .ro, 0x00000000⟩,
  ⟨0x150008, 1, 0x4, 1, 0x4, 0x00000000, .w1c, 0x000000FF⟩,
  ⟨0x150010, 1, 0x4, 1, 0x4, 0x00000000, .ro, 0xFFFFFFFF⟩,
  ⟨0x150014, 1, 0x4, 1, 0x4, 0x00000000, .ro, 0xFFFFFFFF⟩,
  ⟨0x150018, 1, 0x4, 1, 0x4, 0x00000000, .ro, 0xFFFFFFFF⟩,
  ⟨0x15001C, 1, 0x4, 1, 0x4, 0x00000000, .ro, 0xFFFFFFFF⟩,
  ⟨0x150020, 1, 0x4, 1, 0x4, 0x00000000, .ro, 0xFFFFFFFF⟩,
  ⟨0x150040, 1, 0x4, 1, 0x4, 0x00000000, .ro, 0xFFFFFFFF⟩,
  ⟨0x150044, 1, 0x4, 1, 0x4, 0x00000000, .ro, 0xFFFFFFFF⟩,
  ⟨0x150048, 1, 0x4, 1, 0x4, 0x00000000, .ro, 0xFFFFFFFF⟩,
  ⟨0x15004C, 1, 0x4, 1, 0x4, 0x00000000, .ro, 0xFFFFFFFF⟩,
  ⟨0x150050, 1, 0x4, 1, 0x4, 0x00000000, .ro, 0xFFFFFFFF⟩,
  ⟨0x150054, 1, 0x4, 1, 0x4, 0x00000000, .ro, 0xFFFFFFFF⟩,
  ⟨0x150058, 1, 0x4, 1, 0x4, 0x00000000, .ro, 0xFFFFFFFF⟩,
  ⟨0x15005C, 1, 0x4, 1, 0x4, 0x00000000, .ro, 0xFFFFFFFF⟩,
  ⟨0x150060, 1, 0x4, 1, 0x4, 0x00000000, .ro, 0xFFFFFFFF⟩,
  ⟨0x150064, 1, 0x4, 1, 0x4, 0x00000000, .ro, 0xFFFFFFFF⟩,
  ⟨0x150068, 1, 0x4, 1, 0x4, 0x00000000, .ro, 0xFFFFFFFF⟩,
  ⟨0x15006C, 1, 0x4, 1, 0x4, 0x00000000, .ro, 0xFFFFFFFF⟩,
  ⟨0x150070, 1, 0x4, 1, 0x4, 0x00000000, .ro, 0xFFFFFFFF⟩,
  ⟨0x150074, 1, 0x4, 1, 0x4, 0x00000000, .ro, 0xFFFFFFFF⟩]

/-- The registers of EVR (Tables SYS-20 to SYS-25). -/
def regRowsEvr : List RegRow := [
  ⟨0x160000, 1, 0x4, 1, 0x4, 0x03E80000, .rws, 0xFFFF007F⟩,
  ⟨0x160004, 1, 0x4, 1, 0x4, 0x00000000, .ro, 0x00000000⟩,
  ⟨0x160010, 1, 0x4, 1, 0x4, 0x00000000, .ro, 0xFFFFFFFF⟩,
  ⟨0x160014, 1, 0x4, 1, 0x4, 0x00000000, .ro, 0xFFFFFFFF⟩,
  ⟨0x160018, 1, 0x4, 1, 0x4, 0x00000000, .ro, 0xFFFFFFFF⟩,
  ⟨0x16001C, 1, 0x4, 1, 0x4, 0x00000000, .ro, 0xFFFFFFFF⟩,
  ⟨0x160020, 1, 0x4, 1, 0x4, 0x00000000, .ro, 0x0001FFFF⟩,
  ⟨0x160030, 1, 0x4, 1, 0x4, 0x00000000, .ro, 0xFFFFFFFF⟩,
  ⟨0x160034, 1, 0x4, 1, 0x4, 0x00000000, .ro, 0xFFFFFFFF⟩,
  ⟨0x160038, 1, 0x4, 1, 0x4, 0x00000000, .rc, 0x0000007F⟩,
  ⟨0x16003C, 1, 0x4, 1, 0x4, 0x00000000, .ro, 0xFFFFFFFF⟩,
  ⟨0x160040, 1, 0x4, 1, 0x4, 0x00000000, .ro, 0xFFFFFFFF⟩,
  ⟨0x160044, 1, 0x4, 1, 0x4, 0x00000000, .ro, 0xFFFFFFFF⟩,
  ⟨0x160048, 1, 0x4, 1, 0x4, 0x00000000, .ro, 0xFFFFFFFF⟩]

/-- The registers of SEC (Tables SYS-20 to SYS-25). -/
def regRowsSec : List RegRow := [
  ⟨0x170000, 1, 0x4, 1, 0x4, 0x00000000, .ro, 0x00000000⟩,
  ⟨0x170004, 1, 0x4, 1, 0x4, 0x00000000, .ro, 0x00000000⟩,
  ⟨0x170008, 1, 0x4, 1, 0x4, 0x00000000, .wo, 0x00000003⟩,
  ⟨0x17000C, 1, 0x4, 1, 0x4, 0x00000000, .ro, 0x00000000⟩,
  ⟨0x170010, 1, 0x4, 1, 0x4, 0x00000000, .ro, 0x00000000⟩,
  ⟨0x170014, 1, 0x4, 1, 0x4, 0x00000004, .ro, 0x00000000⟩,
  ⟨0x170018, 1, 0x4, 1, 0x4, 0x00000000, .ro, 0xFFFFFFFF⟩,
  ⟨0x170020, 1, 0x4, 1, 0x4, 0x00000000, .ro, 0xFFFFFFFF⟩,
  ⟨0x170024, 1, 0x4, 1, 0x4, 0x00000000, .ro, 0xFFFFFFFF⟩,
  ⟨0x170030, 1, 0x4, 1, 0x4, 0x00000000, .ro, 0xFFFFFFFF⟩,
  ⟨0x170034, 1, 0x4, 1, 0x4, 0x00000000, .ro, 0xFFFFFFFF⟩,
  ⟨0x170038, 1, 0x4, 1, 0x4, 0x00000000, .ro, 0xFFFFFFFF⟩,
  ⟨0x17003C, 1, 0x4, 1, 0x4, 0x00000000, .ro, 0xFFFFFFFF⟩,
  ⟨0x170040, 16, 0x4, 1, 0x4, 0x00000000, .ro, 0x0000FFFF⟩,
  ⟨0x170100, 64, 0x4, 1, 0x4, 0x00000000, .rws, 0xFFFFFFFF⟩]

/-- The registers of CLK (Tables SYS-20 to SYS-25). -/
def regRowsClk : List RegRow := [
  ⟨0x180000, 1, 0x4, 1, 0x4, 0x00000000, .ro, 0x00000000⟩,
  ⟨0x180004, 1, 0x4, 1, 0x4, 0x00000000, .w1c, 0x000001FF⟩,
  ⟨0x180010, 1, 0x4, 1, 0x4, 0x00000000, .rw, 0x0000013F⟩,
  ⟨0x180014, 1, 0x4, 1, 0x4, 0x00000000, .ro, 0x00000000⟩,
  ⟨0x180018, 1, 0x4, 1, 0x4, 0xFFFFFFFF, .ro, 0xFFFFFFFF⟩,
  ⟨0x18001C, 1, 0x4, 1, 0x4, 0x00007FFF, .ro, 0x00007FFF⟩,
  ⟨0x180020, 1, 0x4, 1, 0x4, 0x00000000, .ro, 0x00000000⟩,
  ⟨0x180024, 1, 0x4, 1, 0x4, 0x05B8D800, .ro, 0xFFFFFFFF⟩,
  ⟨0x180028, 1, 0x4, 1, 0x4, 0x00008000, .ro, 0xFFFFFFFF⟩,
  ⟨0x18002C, 1, 0x4, 1, 0x4, 0x00000200, .ro, 0x000003FF⟩,
  ⟨0x180030, 1, 0x4, 1, 0x4, 0x00000000, .ro, 0xFFFFFFFF⟩,
  ⟨0x180100, 1, 4, 1, 4, 0x00000000, .rws, 0x00000007⟩,
  ⟨0x180110, 1, 4, 1, 4, 0x00000000, .rws, 0x00000007⟩,
  ⟨0x180120, 1, 4, 1, 4, 0x00000000, .rws, 0x00000007⟩,
  ⟨0x180130, 1, 4, 1, 4, 0x00000002, .rws, 0x00000007⟩,
  ⟨0x180140, 1, 4, 1, 4, 0x00000000, .rws, 0x00000007⟩,
  ⟨0x180150, 1, 4, 1, 4, 0x00000000, .rws, 0x00000007⟩,
  ⟨0x180160, 1, 4, 1, 4, 0x00000002, .rws, 0x00000007⟩,
  ⟨0x180170, 1, 4, 1, 4, 0x00000003, .rws, 0x00000007⟩,
  ⟨0x180104, 1, 4, 1, 4, 0x00000000, .ro, 0x00000000⟩,
  ⟨0x180114, 1, 4, 1, 4, 0x00000000, .ro, 0x00000000⟩,
  ⟨0x180124, 1, 4, 1, 4, 0x00000000, .ro, 0x00000000⟩,
  ⟨0x180134, 1, 4, 1, 4, 0x00000000, .ro, 0x00000000⟩,
  ⟨0x180144, 1, 4, 1, 4, 0x00000000, .ro, 0x00000000⟩,
  ⟨0x180154, 1, 4, 1, 4, 0x00000000, .ro, 0x00000000⟩,
  ⟨0x180164, 1, 4, 1, 4, 0x00000000, .ro, 0x00000000⟩,
  ⟨0x180174, 1, 4, 1, 4, 0x00000001, .ro, 0x00000000⟩,
  ⟨0x180108, 8, 0x10, 1, 0x4, 0x00000000, .ro, 0xFFFFFFFF⟩]

/-- The registers of PWR (Tables SYS-20 to SYS-25). -/
def regRowsPwr : List RegRow := [
  ⟨0x190000, 1, 0x4, 1, 0x4, 0x0000000C, .ro, 0x00000000⟩,
  ⟨0x190004, 1, 0x4, 1, 0x4, 0x00000496, .rws, 0x00000FFF⟩,
  ⟨0x190008, 1, 0x4, 1, 0x4, 0x00000000, .rws, 0x00000003⟩,
  ⟨0x19000C, 1, 0x4, 1, 0x4, 0x00000000, .rw, 0x00000003⟩,
  ⟨0x190010, 1, 0x4, 1, 0x4, 0x00000000, .ro, 0x00000000⟩,
  ⟨0x190014, 1, 0x4, 1, 0x4, 0x03E80010, .rws, 0xFFFF003F⟩,
  ⟨0x190018, 1, 0x4, 1, 0x4, 0x0000006E, .rws, 0x000000FF⟩,
  ⟨0x19001C, 1, 0x4, 1, 0x4, 0x00000000, .w1c, 0x0000000F⟩,
  ⟨0x190020, 1, 0x4, 1, 0x4, 0x00000000, .wo, 0x0000FF01⟩,
  ⟨0x190024, 1, 0x4, 1, 0x4, 0x00000000, .rw, 0x0000001F⟩,
  ⟨0x190028, 1, 0x4, 1, 0x4, 0x00000000, .rw, 0xFFFFFFFF⟩,
  ⟨0x190030, 1, 0x4, 1, 0x4, 0x00000000, .ro, 0xFFFFFFFF⟩,
  ⟨0x190034, 1, 0x4, 1, 0x4, 0x00000000, .ro, 0xFFFFFFFF⟩,
  ⟨0x190038, 1, 0x4, 1, 0x4, 0x00000000, .rc, 0xFFFFFFFF⟩,
  ⟨0x19003C, 1, 0x4, 1, 0x4, 0x00000000, .ro, 0xFFFFFFFF⟩,
  ⟨0x190040, 1, 0x4, 1, 0x4, 0x00000000, .ro, 0xFFFFFFFF⟩,
  ⟨0x190044, 1, 0x4, 1, 0x4, 0x00000000, .ro, 0xFFFFFFFF⟩,
  ⟨0x190048, 1, 0x4, 1, 0x4, 0x00000000, .ro, 0xFFFFFFFF⟩,
  ⟨0x190080, 8, 0x4, 1, 0x4, 0x00000000, .ro, 0x0000FFFF⟩,
  ⟨0x1900A0, 6, 0x4, 1, 0x4, 0x00000000, .ro, 0x0000FFFF⟩,
  ⟨0x1900C0, 1, 0x4, 1, 0x4, 0x00000000, .rc, 0x0000FFFF⟩]

/-- The rows of one 64 KiB slot: bits 23:16 of a BAR0 offset select the block (R558, Table SYS-17). -/
def regRows (slot : Nat) : List RegRow :=
  match slot with
  | 0x00 => regRowsSys
  | 0x02 => regRowsTck
  | 0x03 => regRowsSch
  | 0x04 => regRowsDpx
  | 0x05 => regRowsPlt
  | 0x06 => regRowsPrt
  | 0x07 => regRowsHdg
  | 0x08 => regRowsFlm
  | 0x0A => regRowsBsn
  | 0x0B => regRowsMod
  | 0x0C => regRowsTop
  | 0x0D => regRowsAlm
  | 0x0E => regRowsPrd
  | 0x0F => regRowsArc
  | 0x10 => regRowsLmu
  | 0x11 => regRowsNrg
  | 0x12 => regRowsCap
  | 0x13 => regRowsTim
  | 0x14 => regRowsHif
  | 0x15 => regRowsGzl
  | 0x16 => regRowsEvr
  | 0x17 => regRowsSec
  | 0x18 => regRowsClk
  | 0x19 => regRowsPwr
  | _ => []

/-- Whether an offset is one of a row's registers. -/
def rowHas (r : RegRow) (off : Nat) : Bool :=
  decide (r.base ≤ off) &&
    decide ((off - r.base) / r.s1 < r.n1) &&
    decide (((off - r.base) % r.s1) / r.s2 < r.n2) &&
    decide (((off - r.base) % r.s1) % r.s2 = 0)

/-- The row of the register at a BAR0 offset; none for an offset that holds no register (R391). -/
def regRow (off : Nat) : Option RegRow := (regRows (off / 65536)).find? (fun r => rowHas r off)

/-- The reset value of the register at an offset (0 where there is none). -/
def regReset (off : Nat) : Word := ((regRow off).map (·.reset)).getD 0

end Sys2Proof.Machine
end

