-- ==== Sys2Proof/Machine/State.lean ====
section
/-! DEFINITION. The state of the Trolor 880 as plain data, the ways a step can stop, and the state after reset. -/
namespace Sys2Proof.Machine

/-- Why a step stops with a fault. No command of this device does: the spec gives each an effect, an unchanged state where
its condition does not hold, or a status. Safe: the type is empty, so no step can answer a fault. -/
inductive Fault where
deriving DecidableEq, Repr

/-- Why a command has no meaning. -/
inductive Refusal where
  /-- Raised by an arm of `exec` whose command has no meaning in the model yet. Safe: the machine stops where the hardware goes on. -/
  | notModelled (mnemonic : String)
deriving DecidableEq, Repr

/-! ### Host interface (chapter 13) -/

/-- The descriptor a completion answers (R400, R403): ring, index in the ring, TAG, and the host-link generation it was
accepted in, which tells a completion that a host-interface reset discards (R392). -/
structure CmdRef where
  ring : Nat
  index : Nat
  tag : BitVec 16
  gen : Nat
deriving DecidableEq, Repr

/-- What a command answers: status (Table HIF-9), DETAIL, LENGTH, RESULT words, and the bytes written to its buffer first, with
the buffer's address (R404). -/
structure CmdResult where
  status : Nat
  detail : Nat := 0
  length : Nat := 0
  result : List Word := []
  data : List Byte := []
  addr : BitVec 64 := 0
deriving DecidableEq, Repr

/-- A completion entry (Table HIF-6) with the record bytes its DMA wrote before it (R404), the buffer they went to, and
the device time at which it was written (for TIME_US, R407). -/
structure Completion where
  index : Nat
  src : Nat
  phase : Bool
  tag : BitVec 16
  status : Nat
  detail : Nat
  length : Nat
  result : List Word
  data : List Byte
  addr : BitVec 64
  time : Nat
  relaxed : Bool := false
deriving DecidableEq, Repr

/-- A ring (R394 to R399, R407). `hostIdx` and `devIdx` are indices as R394 lays them out; `posted` are the unconsumed
buffer descriptors of a buffer ring; `entries` the unconsumed completions of a completion ring, oldest first; `fresh`
how many of them were written since the ring last fired. -/
structure Ring where
  enabled : Bool := false
  error : Bool := false
  cfgErr : Bool := false
  errCause : Nat := 0
  armed : Bool := false
  hostIdx : Nat := 0
  devIdx : Nat := 0
  posted : List BufDesc := []
  entries : List Completion := []
  fresh : Nat := 0
deriving DecidableEq, Repr

/-- The host interface (HIF). `rings` lists the rings that are not as after reset; `gen` counts host-interface resets;
`waiting` are completions of long commands that found their completion ring full (R399, R405); `outstanding` the long
commands in progress, `blocking` the others that have not completed yet; `finishing` those whose delivery is under way, with the result they will report;
`msix` and `config` the words of the MSI-X table and of configuration space that are not as after reset (R390). -/
structure Hif where
  linkUp : Bool := false
  speed : Nat := 0
  lanes : Nat := 0
  rings : List (Nat × Ring) := []
  gen : Nat := 0
  waiting : List (Nat × Completion) := []
  outstanding : List CmdRef := []
  blocking : List CmdRef := []
  finishing : List (CmdRef × CmdResult) := []
  masked : BitVec 128 := BitVec.allOnes 128
  pba : BitVec 128 := 0
  msix : List (Nat × Word) := []
  config : List (Nat × Word) := []
deriving DecidableEq, Repr

/-! ### Event recorder (chapter 15) -/

/-- The event recorder's volatile state (EVR): the pending queue of records without SEQ and CRC (R451), freeze and brace
holds (R454, R456), the pending loss counts with the time of the first loss (R452, R453), the LOST record that goes before the queue once an erase has freed
space (R453), the number of entries formed in the present core-clock cycle while events of one moment are formed (R451), the housekeeping position and the records checked
in the present column (R461). -/
structure Evr where
  queue : List (List Word) := []
  frozen : Bool := false
  frozenAt : Nat := 0
  held : Bool := false
  lostQueue : Nat := 0
  lostFull : Nat := 0
  firstLoss : Option (Word × Word) := none
  owed : Option (List Word) := none
  cycle : Option Nat := none
  cursor : Nat := 0
  checked : Nat := 0
deriving DecidableEq, Repr

/-! ### Timebase (chapter 12) -/

/-- The timebase states of Table TIM-1. -/
inductive TimState where
  | free | acquiring | locked | bivouac
deriving DecidableEq, Repr

/-- The selected source (TIM_STATUS.SOURCE). -/
inductive TimSource where
  | none | ptp | gnss
deriving DecidableEq, Repr

/-- A leap second announcement (R357). -/
inductive Leap where
  | insert | delete
deriving DecidableEq, Repr

/-- A master heard in Announce messages (R361): the dataset IEEE 1588 compares, the port it is heard on, how many
Announce messages it has sent, when the last one came, and the accuracy it credits its source with (R368). -/
structure Master where
  port : Nat
  sender : Nat
  priority1 : Nat
  clockClass : Nat
  accuracy : Nat
  variance : Nat
  priority2 : Nat
  identity : Nat
  steps : Nat
  utcOffset : Int
  offsetValid : Bool
  leap61 : Bool
  leap59 : Bool
  inaccuracy : Option Nat
  logInterval : Int
  heard : Nat
  time : Nat
deriving DecidableEq, Repr

/-- What firmware keeps of one PTP port (R364): the next sequence numbers of Sync, Announce, Pdelay_Req and Delay_Req, the
send time of the Pdelay_Req or Delay_Req in progress, what a two-step response left, the parent's last Sync as received less as sent, and the mean
delay, in 1/65,536 ns. -/
structure PtpPort where
  seqs : List Nat := [0, 0, 0, 0]
  pdelaySent : Option Int := none
  pdelayResp : Option (Int × Int) := none
  syncDelta : Option Int := none
  delay : Option Int := none
deriving DecidableEq, Repr

/-- The timebase (TIM). `now` is the timebase in ns since its epoch (R354); `mono` the device time in ns, which no step
changes and which intervals are measured on. Of the servo (R367): `integ`, `thf`, `freqAdj` in FP32, `thf` none until the first
measurement after a start, step or new source. `errEst` is e in FP32, none when unknown (R368). `slewing` is the clamp of R367, `measuredOnce` whether a
measurement has come since start-up (R381), `slewEnd` when the slew of a TIME_SET has made its offset up (R374). `leapDone` is the last leap second that took
effect (R358), `lastLeap` the same while the offset in force comes from it (R356). -/
structure Tim where
  now : Nat := 0
  mono : Nat := 0
  seeded : Bool := false
  state : TimState := .free
  source : TimSource := .none
  parent : Option Master := none
  masters : List Master := []
  ports : List PtpPort := [{}, {}, {}, {}]
  slewing : Bool := false
  measuredOnce : Bool := false
  slewEnd : Option Nat := none
  utcOffset : Int := 0
  offsetValid : Bool := false
  leap : Option (Leap × Nat) := none
  leapPtp : Bool := false
  leapDone : Option (Leap × Nat) := none
  lastLeap : Option (Leap × Nat) := none
  theta : Int := 0
  integ : Word := 0
  thf : Option Word := none
  freqAdj : Word := 0
  errEst : Option Word := none
  lastMeasured : Option Nat := none
  newSource : Bool := true
  below : Nat := 0
  beyond : Nat := 0
  unlockedAt : Option Nat := none
  bivouacAt : Nat := 0
  bivouacE0 : Word := 0
  lostGnss : Bool := false
  pendingStep : Option (Int × Bool) := none
  syncAt : Option Nat := none
  syncLog : Int := 0
  syncMissed : Nat := 0
  followUp : List (Nat × Nat × Int) := []
  edge : Option (Int × Nat × Nat) := none
  label : Option (Nat × Bool) := none
  labelRun : Nat := 0
  labelledAt : Option Nat := none
  gnssOk : Bool := false
  measured : Option Int := none
  ppsRise : Option Nat := none
  secondDone : Option Nat := none
  tickRise : Option Nat := none
deriving DecidableEq, Repr

/-! ### Tick sequencer and schedule store (chapter 2) -/

/-- The column that the schedule runs on, from its close to the end of its state copy (R18): its overrun causes so far
(Table TCK-2), when it closed, and when its compute window ended. -/
structure Proc where
  tick : Nat
  sec : Nat
  index : Nat
  variant : Nat
  closeAt : Nat
  causes : Nat := 0
  windowEnd : Option Nat := none
deriving DecidableEq, Repr

/-- The tick sequencer (TCK): the next tick ID and grid instant to emit, the last instant emitted, the tick ID and instant of
the next column to open, the phase (TCK_STATUS.PHASE), the column in process, safe idle and its cause, the last closed column, the
moment that the first column under a first image must pass (R61), when the present slack began, the second of the last tick ID
store (R36), whether an early close waits for the predecessor's state copy (R40), and whether the first column after a realignment has yet to open (R173). -/
structure Tck where
  nextId : Nat := 0
  nextInstant : Nat × Nat := (0, 0)
  lastInstant : Option (Nat × Nat) := none
  openId : Nat := 0
  openInstant : Nat × Nat := (0, 0)
  phase : Nat := 3
  variant : Nat := 0
  proc : Option Proc := none
  safeIdle : Bool := false
  idleCause : Nat := 0
  lastClosed : Option Nat := none
  processFrom : Option Nat := none
  slackAt : Option Nat := none
  storedSec : Option Nat := none
  earlyWaiting : Bool := false
  afterStep : Bool := false
deriving DecidableEq, Repr

/-- The states of a PITCH in progress (Table SCH-5). -/
inductive PitchState where
  | loading | verifying | raising | armed
deriving DecidableEq, Repr

/-- A PITCH in progress (R56, R57). -/
structure Pitch where
  ref : CmdRef
  offset : Nat
  length : Nat
  state : PitchState := .loading
deriving DecidableEq, Repr

/-- The schedule store (SCH): the image whose tables are in force, whether it is valid as the active image, the shadow half,
the staging region's two halves as the host has written them (R56), the PITCH in progress, a double-bit error in the active
image that the next close acts on (R64), whether the last PITCH ended in a switch (R62), and how
many switches there have been (R122). -/
structure Sch where
  active : Array Byte := #[]
  activeValid : Bool := false
  shadow : Array Byte := #[]
  shadowValid : Bool := false
  staging0 : List Byte := []
  staging1 : List Byte := []
  pitch : Option Pitch := none
  damaged : Bool := false
  lastReason : Nat := 0
  lastSwitched : Bool := false
  switches : Nat := 0
deriving DecidableEq, Repr

/-! ### Security, clocks, power, reset (chapters 16 to 18) -/

/-- The fuses that tickets blow (Table SEC-1): LC_STATE and LC_WIPED as bit masks over PROVISIONED, FIELD, RETURN, SCRAPPED. -/
structure Fuses where
  lc : BitVec 4 := 0
  wiped : BitVec 4 := 0
  tampEn : BitVec 2 := 0
  imageKeyHash : List Byte := []
deriving DecidableEq, Repr

/-- A stored key slot in NVM (R480): its two copies, each ciphertext then tag, and its marker. -/
structure KeySlot where
  copyA : List Byte := []
  copyB : List Byte := []
  marker : BitVec 64
deriving DecidableEq, Repr

/-- One bank of a point's totals in NVM (R315), as the 100 words stored. DESIGN CHOICE (log 98), the spec giving no order: the 32 counts, low word first, in
words 0 to 63, the wrap counts in 64 to 95, WRAP_SEEN in 96, the latch sequence number in 97 and 98, the CRC-32C of words 0 to 98 in 99. -/
structure Bank where
  words : List Word
deriving DecidableEq, Repr

/-- A bank of zeros with its CRC, as a wipe leaves it (R470). DESIGN CHOICE (log 98). -/
def Bank.blank : Bank := { words := List.replicate 99 0 ++ [0x52D9D9A1] }

/-- An NVM write that brace holds (R523); each is one 'held write' released in the order requested (R524). `slot` is the marker write or clear of a slot command,
`epoch` that of a claim. -/
inductive NvmWrite where
  | ticket (words : List Word)
  | session (v : Word)
  | tickId (n : Nat)
  | bank (p : Nat) (b : Bank)
  | nrgZero
  | copy (slot copy : Nat) (bytes : List Byte)
  | slot (ref : CmdRef)
  | epoch (v : Word)
deriving DecidableEq, Repr

/-- The ferroelectric NVM (Table SYS-12) and the fuses: what survives every reset (R534). `evrSlots` maps a slot number to its
64 bytes as 16 words (R446); `banks` holds two banks for each of four points (R314); `fwConfig` is the firmware configuration area (3,712 KiB, R24) by byte,
one not listed reading 0. DESIGN CHOICE (log 92): firmware owns it, and no command or event of the spec reads or writes it. -/
structure Nvm where
  fuses : Fuses := {}
  epoch : Word := 0
  tickId : Option Nat := none
  session : Word := 0
  evrSlots : List (Nat × List Word) := []
  evrHead : Nat := 0
  evrNext : Nat := 0
  slots : List KeySlot
  banks : List (Bank × Bank)
  nrgHeld : Bool := false
  ticket : Option (List Word) := none
  calibration : List Int
  fwConfig : List (Nat × Byte) := []
deriving DecidableEq, Repr

/-- The always-on domain (R533): the RTC as XTB cycles since its epoch at device time `rtcAt` (R377), the tamper latch and
sampler (R484), the tamper events that no record has been formed of yet, each as its input, the RTC at it and DATA1 (R448, R485), CLK_HOLD_CAUSE and SYS_RESET_CAUSE as words;
`xtaSub` says that XTA stands in for FIRC until the next power-on reset (R505), `rtcSirc` that the RTC counts SIRC until XTB qualifies again (R504). -/
structure Aon where
  rtcTicks : Nat := 0
  rtcAt : Nat := 0
  rtcOffset : Int := 0
  rtcValid : Bool := false
  tampLatch : BitVec 2 := 0
  tampRtc : Word := 0
  open0 : Nat := 0
  open1 : Nat := 0
  vbatLost : Bool := true
  lost : Bool := false
  tampOwed : List (Nat × Nat × Nat) := []
  holdCause : Word := 0
  holdUnrecorded : Bool := false
  xtaSub : Bool := false
  rtcSirc : Bool := false
  resetCause : Word := 1
deriving DecidableEq, Repr

/-- A masked working key with its tag: S = key XOR M (R475), purpose and context (Table SEC-5), and the slot it came from. -/
structure MaskedKey where
  s : List Byte
  m : List Byte
  purpose : Nat
  ctx : List Byte
  slot : Option Nat
deriving DecidableEq, Repr

/-- A job waiting at the key unit (R477). A derivation runs behind the earlier commands to its slot (R483). -/
inductive KeyJob where
  | link (seq : Word) (body : LinkBody)
  | segment (block : Nat)
  | wrap (slot : Nat)
  | check (slot : Nat)
  | derive (ref : CmdRef) (purpose : Nat) (ctx : List Byte) (behind : List CmdRef)
deriving DecidableEq, Repr

/-- How far a slot command has come (R481): accepted, its copy wrapped and its write requested, that copy read back and checked, and its
marker write, or its clear, held by brace. -/
inductive SlotStage where
  | accepted | wrapped | checked | held
deriving DecidableEq, Repr

/-- A slot write, or with no buffer a slot clear, that waits for its NVM commit (R481, R483); `buf` is the staging copy of the 64-byte buffer,
`behind` the earlier commands to the slot. -/
structure SlotWrite where
  ref : CmdRef
  slot : Nat
  buf : Option (List Byte)
  behind : List CmdRef := []
  stage : SlotStage := .accepted
deriving DecidableEq, Repr

/-- The security unit (SEC). `slotStatus` holds the codes of SEC_SLOT_STATUS; `cache` the derived keys, most recently used first (R476); `unwrapped` the
slots unwrapped since start-up and since they last changed. -/
structure Sec where
  fuseErr : Bool := false
  keyLock : Bool := false
  key : Option MaskedKey := none
  cache : List MaskedKey := []
  jobs : List KeyJob := []
  slotStatus : List Nat := List.replicate 16 0
  keyIds : List Nat := List.replicate 16 0
  badReported : List Nat := []
  unwrapped : BitVec 16 := 0
  writes : List SlotWrite := []
  verifying : Option (List Word) := none
  reason : Nat := 0
  fwPatch : Nat := 0
deriving DecidableEq, Repr

/-- The clock unit (CLK): qualified, locked and locked-out sources as bit masks over the codes of Table CLK-1, the source
and the last failed source of each domain, the open sluices, the pending request with its result (R508), whether a return or a
request still waits for a slack to begin (R503, R508), recent trips (R499), and the second of the last calibration (R506). -/
structure Clk where
  qualified : BitVec 8 := 0
  locked : BitVec 8 := 0
  lockout : BitVec 8 := 0
  domSrc : List ClkSrc := [.firc, .firc, .firc, .firc, .firc, .firc, .firc, .sirc]
  lastFailed : List (Option ClkSrc) := List.replicate 8 none
  fallback : List Bool := List.replicate 8 false
  trips : List (ClkSrc × Nat) := []
  calSec : Option Nat := none
  gates : BitVec 47 := BitVec.allOnes 47
  sluice : Option (Nat × Bool) := none
  sluiceGate : Nat := 0
  sluiceResult : Nat := 0
  returnWaits : Bool := false
  sluiceWaits : Bool := false
  hold : Bool := false
  holdAt : Nat := 0
  tbPhase : Nat := 0
deriving DecidableEq, Repr

/-- A DVFS step under way (R527): target level, whether it raises, when its voltage command was sent, whether VDone and its 50 µs
have passed, and whether a PWR_DVFS_REQ asked for it. -/
structure DvfsStep where
  target : Nat
  raise : Bool
  sentAt : Nat
  settled : Bool := false
  requested : Bool
deriving DecidableEq, Repr

/-- The sample to be delivered (R27, R540): words 0 to 11 of its record, and how far its column's reporting instant is from a second boundary, in ns. -/
structure TelemSample where
  words : List Word
  near : Nat
deriving DecidableEq, Repr

/-- The power supervisor (PWR). `held` are the NVM writes that brace holds, in the order requested; `senseHighAt` when PWR_SENSE last rose above VWARN
plus hysteresis; `wakeAt` the timebase value that the wake source TICKS waits for; `avs` the last voltage command sent over AVSBus as its rail and mV (R527);
`retryWaits` that a raise which timed out waits for the next slack (R529), `requestWaits` and `dormantWaits` that a request does (R528, R530); `unordered` that
the supplies rose against R573 and the device waits for SYS_RST_N (R574); `off` says that the main supplies are gone; `sampled` that this column's
telemetry sample is taken, `sampledAt` the device time of the last one, `deliveredSec` the second of the last delivery (R27, R519); `tempPeak` the
highest sample since PWR_TEMP_PEAK was read. -/
structure Pwr where
  brace : Bool := false
  braceAt : Nat := 0
  senseLow : Bool := false
  senseHighAt : Option Nat := none
  held : List NvmWrite := []
  level : Nat := 3
  request : Option Nat := none
  result : Nat := 0
  step : Option DvfsStep := none
  avs : Option (Nat × Nat) := none
  retryWaits : Bool := false
  requestWaits : Bool := false
  dormantWaits : Bool := false
  unordered : Bool := false
  thermWarn : Bool := false
  vbatOk : Bool := false
  dormantPending : Bool := false
  dormant : Bool := false
  off : Bool := false
  wakeAt : Option Nat := none
  telemRing : Option Nat := none
  sample : Option TelemSample := none
  sampled : Bool := false
  sampledAt : Option Nat := none
  deliveredSec : Option Nat := none
  tempPeak : Option Int := none
deriving DecidableEq, Repr

/-- The system block (SYS): start-up (Table PWR-5), the patch (R538), and the scrubber's place in its pass, with the lines it has
processed in this column (R27). `boot` is what the
board shows this start-up while it runs; `patchWait` that the ROM waits for SYS_BOOT_CTL, `patchGo` that GO was written, `checking` the patch whose signature is being checked (step 10); `acqAt` the moment of PLL lock. -/
structure Sys where
  step : Nat := 1
  boot : BootIn := {}
  patchWait : Bool := false
  patchSrc : Nat := 0
  patchVersion : Word := 0
  patchGo : Bool := false
  bootAt : Nat := 0
  goWritten : Bool := false
  checking : Option PatchIn := none
  acqAt : Nat := 0
  tampered : Bool := false
  scrubLine : Nat := 0
  scrubDone : Nat := 0
  scrubAt : Nat := 0
deriving DecidableEq, Repr

/-! ### Greaz link and redundancy (chapter 14) -/

/-- A sequenced frame the sender has not had acknowledged (R426). -/
structure TxFrame where
  seq : Nat
  body : LinkBody
deriving DecidableEq, Repr

/-- A claim of ACTIVE or SOLO whose epoch write is in progress, or held by brace (R434, R523). -/
structure Claim where
  role : Role
  epoch : Word
  held : Bool := false
deriving DecidableEq, Repr

/-- A ROLE_SWAP in progress (R440): its command, the column it waits for or swapped at, and whether step 1 has been taken for it. -/
structure Swap where
  ref : CmdRef
  tick : Option Nat := none
  sent : Bool := false
deriving DecidableEq, Repr

/-- The state copy of the column in process (R427): the STATE frames handed to the link, whether a region is missing, and the
sequence number of its TICK_END once sent. -/
structure CopyState where
  frames : Nat := 0
  complete : Bool := true
  tickEnd : Option Nat := none
deriving DecidableEq, Repr

/-- The Greaz link and the pair (GZL). `epoch` is the own epoch in force, `claim` the claim being written, `claimEpoch` the
epoch of the last claim written in NVM, `partnerEpoch` the highest read since reset; `window` the unacknowledged frames oldest first and `stalled`
those a full window holds back (R426); `rx` the STATE frames of the tick being received, `stateTick` the tick ID of the last commit in the own numbering and
`stateFrom` in the partner's (R428, R431); marks and counts of the guy-lines (R433); the ROLE_SWAPs in progress in the order of their acceptance; `wire` the
last link frame transmitted as it is on the lanes (R422), `hbOut` the last word sent on HB_OUT and `hbAt` the device time at which it
began (R432). -/
structure Gzl where
  role : Role := .resolving
  epoch : Word := 0
  claim : Option Claim := none
  claimEpoch : Option Word := none
  swapMute : Bool := false
  partnerRole : Role := .resolving
  partnerHeard : Bool := false
  partnerEpoch : Word := 0
  partnerSerial : Option Word := none
  partnerStateValid : Bool := false
  lane0 : Bool := false
  lane1 : Bool := false
  hello : Bool := false
  linkUp : Bool := false
  session : Word := 0
  partnerSession : Word := 0
  txSeq : Nat := 1
  txCtr : Nat := 0
  rxCtr : Option Nat := none
  rxSeq : Nat := 0
  rxGap : Bool := false
  unacked : Nat := 0
  badTags : Nat := 0
  window : List TxFrame := []
  stalled : List LinkBody := []
  rx : List StateBody := []
  rxBad : Bool := false
  stateValid : Bool := false
  stateTick : Nat := 0
  stateFrom : Nat := 0
  guyA : Bool := false
  guyB : Bool := false
  markA : Bool := false
  markB : Bool := false
  missA : Nat := 0
  missB : Nat := 0
  missBoth : Nat := 0
  lostBoth : Bool := false
  lostA : Bool := false
  lostB : Bool := false
  heardRun : Nat := 0
  silentRun : Nat := 0
  tickMismatch : Bool := false
  swaps : List Swap := []
  copy : CopyState := {}
  wire : Option (List Byte) := none
  hbOut : Option (BitVec 64) := none
  hbAt : Nat := 0
deriving DecidableEq, Repr

/-! ### Ports, Headgate and Flumes (chapter 4) -/

/-- What a queued frame is (Table PRT-2, R136). -/
inductive TxKind where
  | goose | ptpEvent | forwarded | stream | general
deriving DecidableEq, Repr

/-- A frame in a transmit queue: its kind, its bytes from the destination MAC, what the one-step update or a residence
correction needs (R363, R366), what follows its egress, and the GOOSE template it is of (R238). -/
structure TxItem where
  kind : TxKind
  bytes : List Byte
  ingress : Option (Int × Nat) := none
  ptp : Option Nat := none
  template : Option Nat := none
deriving DecidableEq, Repr

/-- One port (PRT): link, what the PCS reports, its transmit queues in order of queueing, the last frame that its MAC started, and the device time at which
that frame has left whole (R109). -/
structure Port where
  link : Bool := false
  disabled : Bool := false
  localFault : Bool := false
  remoteFault : Bool := false
  fecLock : Bool := false
  queue : List TxItem := []
  sent : Option TxItem := none
  busyUntil : Nat := 0
deriving DecidableEq, Repr

/-- A source of the duplicate-discard table (R107): the last 64 sequence numbers with the directions already forwarded, and when
its last frame came. -/
structure DdEntry where
  source : BitVec 48
  seen : List (Nat × BitVec 2)
  time : Nat
deriving DecidableEq, Repr

/-- The ports and the pair (PRT). `dd` lists the most recently used source first; `replies` are the ARP and
neighbour replies that firmware still owes (R110); `serdes` says that start-up has brought the SerDes up (R536); `supAt` is the device time of the last supervision frame (R108). -/
structure Prt where
  ports : List Port := [{}, {}, {}, {}]
  seq : Nat := 0
  supSeq : Nat := 0
  dd : List DdEntry := []
  replies : List (Nat × List Byte) := []
  serdes : Bool := false
  supAt : Option Nat := none
deriving DecidableEq, Repr

/-- A block as the Headgate passes it to the Basin writer (R118, R119): its first furrow, the words of its linked cells
(Table BSN-2 words that a block fills), its STAT, time and source; `identity` is the stream identity of R60; `bad` the cells with an uncorrectable error (R128); `sec` the timebase second of a local block, which
its instant names without its SOC (R299). -/
structure Block where
  furrow : Nat
  cells : List (List Word)
  stat : BitVec 16
  soc : Nat
  ns : Nat
  flags : Byte
  source : Nat
  identity : List Byte
  bad : List Nat := []
  sec : Option Nat := none
deriving DecidableEq, Repr

/-- A record whose buffer is consumed and whose completion is not written yet (R178): `tick` is the column whose slot's release cuts it off, none for one that
only waits for the records of its ring that were formed before it (R404); `bytes` is what of it lies in the buffer at that release. -/
structure Writing where
  tick : Option Nat
  bytes : Nat
  done : Completion
deriving DecidableEq, Repr

/-- An item of a Flume body: a packet with the switch count it was admitted under (R122), or a spill mark (R125). -/
inductive FlumeItem where
  | packet (image : Nat) (blocks : List Block)
  | mark (count : Nat)
deriving DecidableEq, Repr

/-- One Flume (R123 to R129). `gap` says that the next packet's cells take SPILL_GAP. -/
structure Flume where
  items : List FlumeItem := []
  pendingSpill : Nat := 0
  armed : Bool := true
  gap : Bool := false
deriving DecidableEq, Repr

/-- The Headgate and the Flumes (HDG, FLM). `badSets` are hash sets that miss until the next switch (R116); `turn` are the last Flumes
served in the two groups of R127. -/
structure Hdg where
  badSets : List Nat := []
  flumes : List Flume := List.replicate 9 {}
  turnHigh : Nat := 6
  turnLow : Nat := 8
deriving DecidableEq, Repr

/-! ### Basin (chapter 5) -/

/-- A cell (Table BSN-2): words 0 to 30, STAT, and the cell quality word (Table BSN-3). -/
structure Cell where
  words : List Word
  stat : BitVec 16
  qual : BitVec 16
deriving DecidableEq, Repr

/-- A column in its slot (R158). `sec` and `index` name its reporting instant on the timebase (R34), `soc` the UTC second it had at opening or
emission; `cells` lists its cells by furrow, those not listed being NOT_DUE as at opening (R160); `ended` says that it has
reached one of the ends of R158; `noImage` that no image was active at its close (R61); `unwaited` the furrows set ABSENT at its opening, which an early close does not wait for (R40);
`due` the furrows that were due at its opening (R160); `noFill` the first furrows of the blocks that a stream-table error made invalid while it was open (R176);
`filled` the furrows whose cells held FILLED at its close (R162), `lost` those whose FILLED a double-bit error took while it was open (R168, R175). -/
structure Column where
  tick : Nat
  sec : Nat
  index : Nat
  emitted : Bool := false
  closed : Bool := false
  closeAt : Nat := 0
  early : Bool := false
  flushed : Bool := false
  safeIdle : Bool := false
  noImage : Bool := false
  overran : Bool := false
  variant : Nat := 0
  ended : Bool := false
  unwaited : List Nat := []
  due : List Nat := []
  noFill : List Nat := []
  filled : List Nat := []
  lost : List Nat := []
  cells : List (Nat × Cell) := []
deriving DecidableEq, Repr

/-- A column of the late window (R162): its tick ID, the second and index of its instant, and when it closed. -/
structure WindowColumn where
  tick : Nat
  sec : Nat
  index : Nat
  closeAt : Nat
deriving DecidableEq, Repr

/-- The Basin (BSN). `cols` are the columns in their slots, oldest tick first; `window` the 24 most recently closed columns,
newest first (R162); `runs` the furrows' run counters that are not 0 (R167); `last` the STAT and digital words
of the last block that a closed column held (R169); `invalid` the furrows of R176 and `tableErrs` the errors that made them so, an entry or a scale record;
`dropped` DROPPED_BEFORE of each selection (R178); `writing` the aligned-column records
still being written, by the tick of their column, with the completion ring and the completion that each will have if it is cut off (R178). -/
structure Bsn where
  cols : List Column := []
  window : List WindowColumn := []
  runs : List (Nat × Nat) := []
  last : List (Nat × (BitVec 16 × Word)) := []
  invalid : List Nat := []
  tableErrs : List (Nat × Bool) := []
  dropped : List Nat := List.replicate 8 0
  writing : List Writing := []
deriving DecidableEq, Repr

/-! ### Dispatcher and Plots (chapter 3) -/

/-- Where a held release came from (R91): the Plot whose retirement made it, an engine completion, or the root list. -/
inductive ReleaseSource where
  | plot (logical : Nat) | engine (e : Nat) | root
deriving DecidableEq, Repr

/-- A release that waits for a full general list (R91). -/
structure Held where
  op : Nat
  source : ReleaseSource
deriving DecidableEq, Repr

/-- The three ready lists of a Plot (R85). -/
inductive ReadyList where
  | reserve | sentinel | general
deriving DecidableEq, Repr

/-- An operation in a work slot: the list whose entry it keeps until it retires (R76, R89), and the operands fetched for it (R88). -/
structure Work where
  op : Nat
  list : ReadyList
  args : List (List Word)
deriving DecidableEq, Repr

/-- The ready lists and work slots of one logical Plot (R85 to R88). -/
structure Plot where
  sentinel : List Nat := []
  general : List Nat := []
  reserve : List Nat := []
  executing : Option Work := none
  next : Option Work := none
deriving DecidableEq, Repr

/-- The Dispatcher and Plots (DPX, PLT). `effCause` and `pendCause` mark the fences in force and registered that a poisoned result caused (R99); `map` gives the physical Plot of each logical one (R96); `done` the operations that have
retired with their flags (bit 0 POISONED, bit 1 SKIPPED, R94); `engineDone` the engine jobs completed with their flags; `entered` the
operations released; `held` the releases that wait, oldest first; `stores` the local stores of the physical Plots as words by
word number, a word not listed holding what is unspecified (R77). -/
structure Dpx where
  fenceEff : BitVec 32 := 0
  fencePend : BitVec 32 := 0
  effCause : BitVec 32 := 0
  pendCause : BitVec 32 := 0
  map : List Nat := []
  plots : List Plot := []
  done : List (Nat × BitVec 2) := []
  engineDone : List ((Nat × Nat) × BitVec 2) := []
  entered : List Nat := []
  held : List Held := []
  stores : List (List (Nat × Word)) := List.replicate 32 []
  columnFlags : BitVec 2 := 0
deriving DecidableEq, Repr

/-! ### Modal engine (chapter 6) -/

/-- A modal group's tracker state (R190 to R197): W as r columns of n words, d, the stored eigenvalues, the delay line newest sample first,
held values, CLEAN, the instant of the last push (timebase second and index), the run of suppressed updates, the last extraction as record words
8 to 175 with its number of modes, the tick ID of its column and ζmin, and the condition. `reinitNow` is the REINIT that the next record carries. -/
structure ModGroup where
  w : List (List Word)
  d : List Word
  eig : List (Word × Word)
  line : List (List Word)
  held : List Word
  clean : Nat := 0
  last : Option (Nat × Nat) := none
  suppRun : Nat := 0
  updates : Nat := 0
  nModes : Nat := 0
  modes : List Word := []
  zetaMin : Word := 0x7FC00000
  extAt : Option Nat := none
  dampLow : Bool := false
  dampCnt : Nat := 0
  reinitNow : Bool := true
deriving DecidableEq, Repr

/-- A forced-oscillation slot (R199, R200): ring buffers, recursive bins 1 to 127, floors, accumulators, counters, which of the 256 window
entries are held, the previous qualifying peak, and the last peak as record words 3 to 7. -/
structure FoSlot where
  h0 : List Word := List.replicate 256 0
  h1 : List Word := List.replicate 256 0
  x0 : List (Word × Word) := List.replicate 127 (0, 0)
  x1 : List (Word × Word) := List.replicate 127 (0, 0)
  nf : List Word := List.replicate 127 0
  acc0 : Word := 0
  acc1 : Word := 0
  cols : Nat := 0
  pos : Nat := 0
  kr : Nat := 1
  updates : Nat := 0
  heldNow : Bool := false
  heldMarks : List Bool := List.replicate 256 false
  foCnt : Nat := 0
  forced : Bool := false
  qualified : Option Nat := none
  peak : List Word := [0, 0, 0, 0, 0]
deriving DecidableEq, Repr

/-- A hand-over to the modal engine (R188, R204): the 36 words of the feed block, or flags instead of data. -/
structure ModFeed where
  group : Nat
  sent : Bool
  words : List Word
  flags : BitVec 2 := 0
deriving DecidableEq, Repr

/-- The modal engine (MOD). `queues` are the feeds of the four pipelines, oldest first; `fed` the groups processed in the column; `busy` the
cycles each pipeline has worked in it. -/
structure Mod where
  groups : List (Nat × ModGroup) := []
  slots : List (Nat × FoSlot) := []
  queues : List (List ModFeed) := [[], [], [], []]
  fed : List Nat := []
  busy : List Nat := [0, 0, 0, 0]
deriving DecidableEq, Repr

/-! ### Topology engine (chapter 7) -/

/-- A branch's state (R217): miss counter, KNOWN, last status (true closed), and its effective status in the last column. -/
structure BranchState where
  miss : Nat := 0
  known : Bool := false
  last : Bool := false
  eff : Bool := false
deriving DecidableEq, Repr

/-- The topology engine (TOP). `branches` lists the branches that have been processed; `ages` the islands of the last pass with their AGE (R221);
`prev` the cut-sets with prev_valid and their prev_delta (R223); `feeds` the blocks handed over in the column with their flags; `bad…` the table
entries that cannot be read (R244); the rest is what the last pass reports. -/
structure Top where
  branches : List (Nat × BranchState) := []
  ages : List (Nat × Nat) := []
  prev : List (Nat × Word) := []
  feeds : List (Nat × (List Word × BitVec 2)) := []
  passed : Bool := false
  badBranches : List Nat := []
  badNodes : List Nat := []
  badCuts : List Nat := []
  refSplit : Bool := false
  islands : Nat := 0
deriving DecidableEq, Repr

/-! ### Alarm unit (chapter 7) -/

/-- A rule's state (R231): RAISED (or SUSPENDED holding RAISED), SUSPENDED, CNT, and UNCERTAIN and SUBJECT of its last record, if it
has formed one since its state last started. -/
structure RuleState where
  raised : Bool := false
  suspended : Bool := false
  cnt : Nat := 0
  lastUnc : Bool := false
  lastSubject : Word := 0
deriving DecidableEq, Repr

/-- A GOOSE template's counters (R237 to R239): stNum, sqNum, the t of its last state change with its quality octet, the interval in ms to
the next retransmission and its device time, whether it has stopped (R244), and the content last sent as (stVal, quality) of each entry. -/
structure Goose where
  stNum : Nat := 0
  sqNum : Nat := 0
  time : List Byte := List.replicate 8 0
  interval : Nat := 0
  next : Option Nat := none
  stopped : Bool := false
  content : List (Bool × Nat) := []
deriving DecidableEq, Repr

/-- A hand-over to the alarm unit (R231): rule, first input, flags, and the column's close and tick. -/
structure AlarmEval where
  rule : Nat
  input : List Word
  flags : BitVec 2 := 0
deriving DecidableEq, Repr

/-- The alarm unit (ALM). `rules` lists the rules that are not CLEAR as at their start; `templates` those enabled; `sent` and `general` the queues
of R231; `seq` the SEQ of the next record; `fail` the failure state of R242, `heldPins` the alarm pins active at its entry (Table ALM-5); `restart` says that every enabled template makes a state change at the
next close (R243). -/
structure Alm where
  rules : List (Nat × RuleState) := []
  templates : List (Nat × Goose) := []
  sent : List AlarmEval := []
  general : List AlarmEval := []
  seq : Word := 0
  fail : Bool := false
  heldPins : BitVec 8 := 0
  restart : Bool := false
  announce : List Nat := []
deriving DecidableEq, Repr


/-! ### Neighbour predictor and archive (chapter 8) -/

/-- The neighbour predictor (PRD): the map entries that act as empty until the next switch (R260). -/
structure Prd where
  bad : List Nat := []
deriving DecidableEq, Repr

/-- A column in an open archive block (R261): its grid index, its byte of the column directory, and its 64 cells of 32 words. -/
structure ArcColumn where
  index : Nat
  dir : Byte
  cells : List (List Word)
deriving DecidableEq, Repr

/-- The open block of a group (R261, R263): neighbour lists and REF_SLOTs are those of the map at its first column. -/
structure ArcOpen where
  firstTick : Nat
  soc : Word
  level : Nat
  serial : Word
  nbrs : List (List Nat)
  refs : List Nat
  cols : List ArcColumn
deriving DecidableEq, Repr

/-- Sealing of an ended block (R269): not asked for, waiting for its segment jobs, done with the bytes of the whole block, or failed. -/
inductive SealState where
  | plain
  | waiting (segments : Nat)
  | done (ctx : Word) (bytes : List Byte)
  | failed
deriving DecidableEq, Repr

/-- A block or side-block that has ended and is not yet at its destination: the header fields and the parts of the body. `group` is GROUP or SIDE_NO. -/
structure ArcBlock where
  id : Nat
  type : Nat
  group : Nat
  entries : Nat
  level : Nat
  fmCode : Nat
  firstTick : Nat
  soc : Word
  present : List Nat
  origLen : Nat
  origCrc : Word
  dir : List Byte
  nbr : List Byte
  payload : List Byte
  serial : Word
  state : SealState
deriving DecidableEq, Repr

/-- The replay in progress (R272): its command and ring, the source bytes, the units of the region they lie in, segment jobs outstanding, and
what has happened to it. -/
structure ArcReplay where
  ref : CmdRef
  ring : Nat
  id : Nat
  bytes : List Byte
  range : Option (Nat × Nat)
  jobs : Nat
  overwritten : Bool := false
  aborted : Bool := false
deriving DecidableEq, Repr

/-- The archive (ARC). `queue` are the columns delivered and not yet read, with their directory bytes; `opens` the open blocks by group; `side` the
entries of the open side-block as words; `sideLast` the FIRST_TICK_ID and SIDE_NO of the last side-block ended; `ended` the blocks to be completed;
`mem` the region by 64-byte unit; `undrained` the written blocks not yet drained as (unit, units);
`regionErr` that the last enable of the region was refused (R278); `refs` the REF_SLOTs with which the archive blocks ended since reset were coded, by
FIRST_TICK_ID and group (R264). -/
structure Arc where
  queue : List (Nat × Byte) := []
  opens : List (Nat × ArcOpen) := []
  side : List (List Word) := []
  sideLast : Option (Nat × Nat) := none
  ended : List ArcBlock := []
  nextId : Nat := 0
  mem : List (Nat × List Byte) := []
  wrOff : Nat := 0
  regionErr : Bool := false
  undrained : List (Nat × Nat) := []
  refs : List ((Nat × Nat) × List Nat) := []
  replay : Option ArcReplay := none
deriving DecidableEq, Repr

/-! ### Local measurement unit (chapter 9) -/

/-- A write of LMU_CHc_CTL that governs a channel's samples from a label on (R290, R291): the control word, the setup and bank that an enable latches (R292,
R304), and whether the settle counter starts. -/
structure LmuChange where
  label : Nat
  ctl : Word
  fresh : Option (Word × List Word)
  restart : Bool
deriving DecidableEq, Repr

/-- A channel's chain (R284): LMU_CHc_CFG as latched at its enable (R304), the last 189 modulator values (±1, 0 before the first), and, newest first,
the last 8 sinc⁴ samples, 46 rank-filter outputs, the 64 kS/s delay line of 262 samples and 95 FIR inputs; the settle counter (R290), the
active bank (R292), and the mean being formed with its pending value (R296); the control word in force at the labels being formed, and the changes that later labels bring. -/
structure LmuCh where
  cfg : Word := 0x00080000
  mods : List Int := []
  sinc : List Int := []
  hb : List Word := []
  line : List Word := []
  fir : List Word := []
  settle : Nat := 0
  bank : List Word := []
  sum : Word := 0
  count : Nat := 0
  clean : Bool := true
  mean : Option Word := none
  ctl : Word := 0
  changes : List LmuChange := []
deriving DecidableEq, Repr

/-- A fade pending or running (R293, R294): its command, the masked channels still in it, the new bank, L, the start label, and whether some channel has
left it (R295). -/
structure LmuFade where
  ref : CmdRef
  mask : BitVec 24
  coefs : List Word
  len : Nat
  start : Nat
  lost : Bool := false
deriving DecidableEq, Repr

/-- One sample of a channel as consumers see it: y, whether it is settled, whether it clipped, and whether a fade of it was pending or running. -/
structure LmuSample where
  y : Word := 0
  ok : Bool := false
  clip : Bool := false
deriving DecidableEq, Repr

/-- An estimate not made yet (R297): its point, its instant by second and index, and what R375 takes at that instant: STAT bits 13 and 8:4, and TQ_POOR. -/
structure LmuDue where
  point : Nat
  sec : Nat
  index : Nat
  stat : BitVec 16
  poor : Bool
deriving DecidableEq, Repr

/-- The local measurement unit (LMU). Labels are counted from the timebase epoch, 12,800 a second; `next` is the next label, none until PLLM has locked;
`hist` the labels given, newest first; `due` the estimates not made yet; `lastF` the frequency last reported by a
point; `gains` the class and h of the window from which each enabled point's gain table was filled (R298); `mclkFrom` the first cycle of the MCLK grid, counted from the epoch, that the clocks make after PLLM's lock or the last re-phase (R281, R282). -/
structure Lmu where
  next : Option Nat := none
  chans : List LmuCh := List.replicate 24 {}
  fades : List LmuFade := []
  hist : List (Nat × List LmuSample) := []
  due : List LmuDue := []
  lastF : List (Nat × Word) := []
  gains : List (Nat × (Bool × Nat)) := []
  mclkFrom : Nat := 0
deriving DecidableEq, Repr

/-! ### Energy unit (chapter 10) -/

/-- A metering point. `acc` are the 32 accumulators as their integer counts × 2^32 plus fraction (R309); `totals` the
integer counts of the last latch, with its sequence number and moment (R314); `second` says that the next bank write goes to the second bank, `wrote` when
the last one began and what it overwrote, which a power loss tears (R315); the rest is the line-cycle state (R311 to R313), the labels being counted
from the one that ended the last cycle. -/
structure NrgPoint where
  cfgErr : Bool := false
  acc : List Nat := List.replicate 32 0
  totals : List (BitVec 64) := List.replicate 32 0
  wraps : List Nat := List.replicate 32 0
  seq : Nat := 0
  latchAt : Nat × Nat := (0, 0)
  cycles : Nat := 0
  ke : Word := 0
  armed : Bool := false
  since : Nat := 0
  timedMode : Bool := false
  timed : Bool := false
  vprev : Word := 0
  xprev : Option Word := none
  dq : Word := 0
  sumV : List Word := [0, 0, 0]
  sumI : List Word := [0, 0, 0]
  count : Nat := 0
  g : List Word := [0, 0, 0]
  cph : List Word := [0, 0, 0]
  sph : List Word := [0, 0, 0]
  sa : List Word := [0, 0, 0]
  unsettled : Bool := false
  timedSeen : Bool := false
  gap : Bool := false
  restored : Nat := 0
  adopted : Option Nat := none
  second : Bool := false
  wrote : Option (Nat × Bank) := none
deriving DecidableEq, Repr

/-- Over-current detection of one current channel (R319): labels above THR in succession, whether an episode is in progress, labels in succession without
one, and its peak and length. -/
structure NrgOc where
  run : Nat := 0
  active : Bool := false
  below : Nat := 0
  peak : Word := 0
  len : Nat := 0
deriving DecidableEq, Repr

/-- What a pulse output does (R321): idle, active until a device time, or inactive until one. -/
inductive PulsePhase where
  | idle
  | active (until_ : Nat)
  | gap (until_ : Nat)
deriving DecidableEq, Repr

/-- A pulse output: reference count, phase, backlog and the backlog's peak (R321). -/
structure NrgPulse where
  ref : Nat := 0
  phase : PulsePhase := .idle
  backlog : Nat := 0
  peak : Nat := 0
deriving DecidableEq, Repr

/-- The energy unit (NRG). `label` is the last label processed; `follows` says that the device has been STANDBY and has not unmuted since (R323). -/
structure Nrg where
  points : List NrgPoint := [{}, {}, {}, {}]
  ocs : List NrgOc := List.replicate 12 {}
  pulses : List NrgPulse := List.replicate 8 {}
  label : Nat := 0
  follows : Bool := false
deriving DecidableEq, Repr

/-! ### Capture (chapter 11) -/

/-- The states of Table CAP-2. -/
inductive CapState where
  | idle | armed | triggered | done
deriving DecidableEq, Repr

/-- A row of a capture (R331, R332): its instant on the timebase in 1/65,536 ns, its label or grid index, its tick ID (0 for WAVE), its words, and the
violation it showed as mask index and value (R342). -/
structure CapRow where
  stamp : Nat
  index : Nat
  tick : Nat := 0
  words : List Word
  viol : Option (Nat × Word) := none
deriving DecidableEq, Repr

/-- The trigger of a capture (R339, Table CAP-5): cause, stamp in 1/65,536 ns of the timebase, what the record keeps of the moment, and, once the trigger
row is known, how many rows stand before it, with its index and tick ID. -/
structure CapTrig where
  cause : Nat
  stamp : Nat
  tqPoor : Bool
  refLock : Bool
  refOffset : Word
  align : Word
  epoch : Word
  placed : Option (Nat × Nat × Nat) := none
deriving DecidableEq, Repr

/-- A capture unit (R330 to R345). `source`, `sel`, `pre` and `post` are as at arming; `rows` newest first; `count` the rows since arming or the last step, `seen` the labels since arming;
`low` and `high` re-arm the crossings of Table CAP-3; `prev` is the last row's value if valid; `prevRef`, `xc`, `len`, `ready` are the cycle timing of
R342. -/
structure CapUnit where
  state : CapState := .idle
  source : Nat := 3
  sel : Word := 0
  pre : Nat := 0
  post : Nat := 1
  immediate : Bool := false
  rows : List CapRow := []
  count : Nat := 0
  seen : Nat := 0
  low : Bool := false
  high : Bool := false
  prev : Option Word := none
  prevRef : Option Word := none
  xc : Word := 0
  len : Word := 0
  ready : Bool := false
  trig : Option CapTrig := none
  stopped : Bool := false
  disarmed : Bool := false
  stepped : Bool := false
  skipped : Bool := false
  seq : Nat := 0
deriving DecidableEq, Repr

/-- A pulse that CAP_FIRE owes (R341): its unit, when its edge falls (1/65,536 ns of the timebase), and whether it is a long one; `seq` is CAP_Uu_SEQ at the trigger,
which tells the capture it belongs to. -/
structure CapFire where
  unit : Nat
  due : Nat
  long : Bool
  seq : Word
deriving DecidableEq, Repr

/-- An edge of CAP_FIRE that is to be sampled (R341): its timestamp in 1/65,536 ns, its device time, and the units that take it. `stays` says that
the pulse of another device keeps the pin low after 100 µs: a free value until FIRE_SAMPLE (log 54). -/
structure CapEdge where
  stamp : Nat
  at_ : Nat
  units : List Nat
  stays : Bool
deriving DecidableEq, Repr

/-- The capture units and the cross-device bus (CAP). `sigs` are the CAP_SIG hand-overs of the column as (unit, elements, flags); `fires` the pulses
owed; `driving` when the pulse that the device drives ends; `highAt` the device time at which the line is high again after its last pulse;
`refs` the last offsets of CAP_REF, newest first; `releasing` the reads that release their unit. -/
structure Cap where
  units : List CapUnit := List.replicate 8 {}
  armPin : Bool := false
  sigs : List (Nat × List Word × BitVec 2) := []
  fires : List CapFire := []
  driving : Option Nat := none
  edge : Option CapEdge := none
  highAt : Option Nat := none
  refs : List Int := []
  releasing : List (CmdRef × Nat) := []
deriving DecidableEq, Repr

/-! ### The whole state -/

/-- The states of an IEEE 1149.1 test access port (R584). -/
inductive TapState where
  | reset | idle | selectDr | captureDr | shiftDr | exit1Dr | pauseDr | exit2Dr | updateDr
  | selectIr | captureIr | shiftIr | exit1Ir | pauseIr | exit2Ir | updateIr
deriving DecidableEq, Repr

/-- What the JTAG port serves (R584): BYPASS, IDCODE and the boundary scan of IEEE 1149.1. -/
inductive TapInstr where
  | bypass | idcode | sample | preload | extest
deriving DecidableEq, Repr

/-- The JTAG port (R584): the state of its TAP, the instruction loaded, the instruction and data registers as they shift, next bit out first, and the values
that a boundary scan has put at the balls. -/
structure Tap where
  state : TapState := .reset
  instr : TapInstr := .idcode
  ir : List Bool := []
  dr : List Bool := []
  balls : List Bool := []
deriving DecidableEq, Repr

/-- The whole device. `pending` is the queue of waiting commands, first in first out; `regs` the registers that do not hold their
reset values, by BAR0 offset (R567); `isSealed` the seal (R563); `latched` the high words held for a 64-bit pair (R69, R389); `readData` the bytes
the last register read returned; `free` is the model's own counter: the next index of a free value, never the spec's. -/
structure State where
  pending : List Instr
  regs : List (Nat × Word)
  isSealed : Bool
  latched : List (Nat × Word)
  readData : List Byte
  free : Nat
  hif : Hif
  evr : Evr
  tim : Tim
  tck : Tck
  sch : Sch
  nvm : Nvm
  aon : Aon
  sec : Sec
  clk : Clk
  pwr : Pwr
  sys : Sys
  gzl : Gzl
  prt : Prt
  hdg : Hdg
  bsn : Bsn
  mod : Mod
  top : Top
  alm : Alm
  prd : Prd
  arc : Arc
  lmu : Lmu
  nrg : Nrg
  cap : Cap
  dpx : Dpx
  jtag : Tap
deriving DecidableEq, Repr

/-- A key slot as the wipe leaves it (R470, R480): EMPTY, generation 0, its CRC in bits 63:32. -/
def KeySlot.empty : KeySlot := { marker := 0x48674BC700000000 }

/-- The NVM of a device that has stored nothing and whose lifecycle is BLANK (R36, R467). -/
def Nvm.blank : Nvm :=
  { slots := List.replicate 16 KeySlot.empty
    banks := List.replicate 4 (.blank, .blank)
    calibration := List.replicate 24 0 }

/-- The state right after reset, at step 1 of the start-up sequence (R534 to R536). -/
def State.reset : State :=
  { pending := []
    regs := []
    isSealed := false
    latched := []
    readData := []
    free := 0
    hif := {}
    evr := {}
    tim := {}
    tck := {}
    sch := {}
    nvm := Nvm.blank
    aon := {}
    sec := {}
    clk := {}
    pwr := {}
    sys := {}
    gzl := {}
    prt := {}
    hdg := {}
    bsn := {}
    mod := {}
    top := {}
    alm := {}
    prd := {}
    arc := {}
    lmu := {}
    nrg := {}
    cap := {}
    dpx := {}
    jtag := {} }

end Sys2Proof.Machine
end

