-- ==== Sys2Proof/Machine/Ops.lean ====
section
/-! DEFINITION. The named operations every block is written over: parts of the state, registers and counters, time, free
values, event records. -/
namespace Sys2Proof.Machine

/-! ### Parts of the state -/

/-- The host interface rewritten by f. -/
def State.onHif (s : State) (f : Hif → Hif) : State := { s with hif := f s.hif }
/-- The event recorder rewritten by f. -/
def State.onEvr (s : State) (f : Evr → Evr) : State := { s with evr := f s.evr }
/-- The timebase rewritten by f. -/
def State.onTim (s : State) (f : Tim → Tim) : State := { s with tim := f s.tim }
/-- The tick sequencer rewritten by f. -/
def State.onTck (s : State) (f : Tck → Tck) : State := { s with tck := f s.tck }
/-- The schedule store rewritten by f. -/
def State.onSch (s : State) (f : Sch → Sch) : State := { s with sch := f s.sch }
/-- The NVM rewritten by f. -/
def State.onNvm (s : State) (f : Nvm → Nvm) : State := { s with nvm := f s.nvm }
/-- The always-on domain rewritten by f. -/
def State.onAon (s : State) (f : Aon → Aon) : State := { s with aon := f s.aon }
/-- The security unit rewritten by f. -/
def State.onSec (s : State) (f : Sec → Sec) : State := { s with sec := f s.sec }
/-- The clock unit rewritten by f. -/
def State.onClk (s : State) (f : Clk → Clk) : State := { s with clk := f s.clk }
/-- The power supervisor rewritten by f. -/
def State.onPwr (s : State) (f : Pwr → Pwr) : State := { s with pwr := f s.pwr }
/-- The system block rewritten by f. -/
def State.onSys (s : State) (f : Sys → Sys) : State := { s with sys := f s.sys }
/-- The Greaz link and the pair rewritten by f. -/
def State.onGzl (s : State) (f : Gzl → Gzl) : State := { s with gzl := f s.gzl }
/-- The ports rewritten by f. -/
def State.onPrt (s : State) (f : Prt → Prt) : State := { s with prt := f s.prt }
/-- The Headgate and Flumes rewritten by f. -/
def State.onHdg (s : State) (f : Hdg → Hdg) : State := { s with hdg := f s.hdg }
/-- The Basin rewritten by f. -/
def State.onBsn (s : State) (f : Bsn → Bsn) : State := { s with bsn := f s.bsn }
/-- The Dispatcher and Plots rewritten by f. -/
def State.onDpx (s : State) (f : Dpx → Dpx) : State := { s with dpx := f s.dpx }
/-- The modal engine rewritten by f. -/
def State.onMod (s : State) (f : Mod → Mod) : State := { s with mod := f s.mod }
/-- The topology engine rewritten by f. -/
def State.onTop (s : State) (f : Top → Top) : State := { s with top := f s.top }
/-- The alarm unit rewritten by f. -/
def State.onAlm (s : State) (f : Alm → Alm) : State := { s with alm := f s.alm }
/-- The neighbour predictor rewritten by f. -/
def State.onPrd (s : State) (f : Prd → Prd) : State := { s with prd := f s.prd }
/-- The archive compressor rewritten by f. -/
def State.onArc (s : State) (f : Arc → Arc) : State := { s with arc := f s.arc }
/-- The local measurement unit rewritten by f. -/
def State.onLmu (s : State) (f : Lmu → Lmu) : State := { s with lmu := f s.lmu }
/-- The energy unit rewritten by f. -/
def State.onNrg (s : State) (f : Nrg → Nrg) : State := { s with nrg := f s.nrg }
/-- The capture units rewritten by f. -/
def State.onCap (s : State) (f : Cap → Cap) : State := { s with cap := f s.cap }

/-! ### Registers -/

/-- What a register holds: the value stored for it, or its reset value (R567). -/
def State.reg (s : State) (off : Nat) : Word := (mapGet s.regs off).getD (regReset off)

/-- A register given a value; a register at its reset value is not listed. -/
def State.setReg (s : State) (off : Nat) (v : Word) : State :=
  { s with regs := if v = regReset off then mapDel s.regs off else mapSet s.regs off v }

/-- A modular counter advanced by n (R69: counters marked RO are 32-bit and modular). -/
def State.add (s : State) (off n : Nat) : State := if n = 0 then s else s.setReg off (s.reg off + w32 n)

/-- A modular counter advanced by one. -/
def State.inc (s : State) (off : Nat) : State := s.add off 1

/-- A peak register raised to v if it holds less. -/
def State.peak (s : State) (off v : Nat) : State :=
  if (s.reg off).toNat < v then s.setReg off (w32 v) else s

/-- Bits of a W1C or status register set. -/
def State.setBits (s : State) (off : Nat) (m : Word) : State := s.setReg off (s.reg off ||| m)

/-- One bit of a register. -/
def State.regBit (s : State) (off i : Nat) : Bool := flag (s.reg off) i

/-- A field of a register. -/
def State.regField (s : State) (off hi lo : Nat) : Nat := field (s.reg off) hi lo

/-- A corrected-error counter and an uncorrectable-error counter told of one memory error (R28). -/
def State.countErr (s : State) (k : ErrKind) (ce ue : Nat) : State :=
  match k with
  | .single => s.inc ce
  | .double => s.inc ue

/-! ### Free values -/

/-- The next free word, and the state with the free counter advanced. -/
def State.freeWord (s : State) : Word × State := (Config.freeWord s.free, { s with free := s.free + 1 })

/-- n free words. -/
def State.freeWords (s : State) (n : Nat) : List Word × State :=
  ((List.range n).map (fun i => Config.freeWord (s.free + i)), { s with free := s.free + n })

/-- n free bytes. -/
def State.freeBytes (s : State) (n : Nat) : List Byte × State :=
  ((List.range n).map (fun i => Config.freeByte (s.free + i)), { s with free := s.free + n })

/-- The next free Boolean. -/
def State.freeBool (s : State) : Bool × State := (Config.freeBool s.free, { s with free := s.free + 1 })

/-! ### Time -/

/-- Nanoseconds in a second. -/
@[reducible] def nsPerSec : Nat := 1000000000

/-- The timebase wraps with its 48-bit seconds (R354). -/
@[reducible] def timeModulus : Nat := 2 ^ 48 * 1000000000

/-- Timebase seconds (R354). -/
def State.nowSec (s : State) : Nat := s.tim.now / nsPerSec
/-- Timebase nanoseconds (R354). -/
def State.nowNs (s : State) : Nat := s.tim.now % nsPerSec

/-- The device runs for n more nanoseconds. -/
def State.run (s : State) (n : Nat) : State :=
  s.onTim fun t => { t with now := (t.now + n) % timeModulus, mono := t.mono + n }

/-- The device runs until the timebase shows t, if it does not already show that or more (R35, R40: what happens at a moment of the timebase). -/
def State.runTo (s : State) (t : Nat) : State := if s.tim.now < t then s.run (t - s.tim.now) else s

/-- The device runs until the device time m. -/
def State.runToMono (s : State) (m : Nat) : State := if s.tim.mono < m then s.run (m - s.tim.mono) else s

/-- The change that a leap second makes to the UTC offset (R357). -/
def Leap.delta : Leap → Int
  | .insert => 1
  | .delete => -1

/-- The UTC offset in force in a timebase second (R356, R357): the announced leap counts from its second on, the last one
not before its second. -/
def State.offsetAt (s : State) (sec : Nat) : Int :=
  match s.tim.leap with
  | some (k, l) => if l ≤ sec then s.tim.utcOffset + k.delta else s.tim.utcOffset
  | none => match s.tim.lastLeap with
    | some (k, l) => if sec < l then s.tim.utcOffset - k.delta else s.tim.utcOffset
    | none => s.tim.utcOffset

/-- A UTC offset is given for a timebase second (R356): it is in force in it, whatever leap second came before, and a pending leap second moves with it, so that
it still follows UTC 23:59:59 (R357). A leap second that had come before a second now behind it has not come (R358). DEDUCED (log 34). -/
def State.giveOffset (s : State) (offset : Int) (sec : Nat) : State :=
  let before (x : Option (Leap × Nat)) : Bool := x.any fun q => decide (sec < q.2)
  let forget (t : Tim) : Tim := { t with lastLeap := none, leapDone := if before t.leapDone then none else t.leapDone }
  match s.tim.leap with
  | none => if s.offsetAt sec = offset && !before s.tim.lastLeap then s else s.onTim fun t => { forget t with utcOffset := offset }
  | some (k, l) =>
    if s.offsetAt sec = offset then s
    else
      let l1 := if l ≤ sec then l else (Int.ofNat l + (offset - s.tim.utcOffset)).toNat
      s.onTim fun t => { forget t with utcOffset := if l1 ≤ sec then offset - k.delta else offset, leap := some (k, l1) }

/-- The low 32 bits of UTC seconds in a timebase second (R356): the SOC of frames, records and headers. -/
def State.soc (s : State) (sec : Nat) : Word := wInt ((sec : Int) - s.offsetAt sec)

/-- Frames per second by FM_CODE (Table TCK-1); none for the reserved codes 12 to 15 (R33). -/
def fmOf (code : Nat) : Option Nat := [10, 12, 15, 20, 25, 30, 50, 60, 100, 120, 200, 240][code]?

/-- The master rate Fm that TCK_FM selects (R33); while it holds a reserved code no grid runs and the value has no use. -/
def State.fm (s : State) : Nat := (fmOf (s.regField Reg.tckFm 3 0)).getD 60

/-- Wd in ns (R39: units of 10 µs). -/
def State.wdNs (s : State) : Nat := s.regField Reg.tckWd 17 0 * 10000

/-- The timebase value of grid instant i of second sec (R34). -/
def gridTime (fm sec i : Nat) : Nat := sec * nsPerSec + i * nsPerSec / fm

/-- The grid instant that follows one. -/
def gridNext (fm : Nat) (p : Nat × Nat) : Nat × Nat := if p.2 + 1 < fm then (p.1, p.2 + 1) else (p.1 + 1, 0)

/-- The grid instant i of second sec as its timebase value. -/
def State.instantTime (s : State) (sec i : Nat) : Nat := gridTime s.fm sec i

/-- The first grid instant at or after a timebase value. -/
def gridAtOrAfter (fm t : Nat) : Nat × Nat :=
  let sec := t / nsPerSec
  let i := ((t % nsPerSec) * fm) / nsPerSec
  if gridTime fm sec i ≥ t then (sec, i) else gridNext fm (sec, i)

/-- The first grid instant strictly later than a timebase value (R38). -/
def gridAfter (fm t : Nat) : Nat × Nat := gridAtOrAfter fm (t + 1)

/-- TCK_CFG.EN: the grid runs (R35). -/
def State.gridOn (s : State) : Bool := s.regBit Reg.tckCfg 0

/-- TCK_STATUS.PHASE is 2 or 3, or the grid does not run: work that waits for slack can be taken (R26, R49). -/
def State.slack (s : State) : Bool := !s.gridOn || decide (2 ≤ s.tck.phase)

/-- A slack begins: what waits for the start of a slack is due (R503, R508, R529), the slack is timed (TCK_SLACK_MIN), and a
column's scrub quantum, telemetry sample and record check are due (R27, R461). -/
def State.slackBegins (s : State) : State :=
  ((((s.onTck fun t => { t with slackAt := some s.tim.now }).onClk fun c => { c with returnWaits := false, sluiceWaits := false }).onPwr fun p =>
    { p with retryWaits := false, requestWaits := false, dormantWaits := false, sampled := false }).onSys fun y => { y with scrubDone := 0 }).onEvr fun e => { e with checked := 0 }

/-- The device is powered, out of reset, not held by CLOCK_HOLD, not dormant, and powered in order (R574): it can take part in events of its powered domains (R505, R530). -/
def State.awake (s : State) : Bool := !s.clk.hold && !s.pwr.dormant && !s.pwr.off && !s.pwr.unordered

/-- Host software reaches the registers: from start-up step 9 on, when PCIe training begins (R536, R537). -/
def State.hostUp (s : State) : Bool := s.awake && decide (9 ≤ s.sys.step)

/-- Sluice g is open (Table CLK-5). DEDUCED (log 70): a block behind a closed one takes part in nothing until it opens. -/
def State.gate (s : State) (g : Nat) : Bool := s.clk.gates.getLsbD g

/-- The step of the timebase counter in cycle k of a run of 96 on FIRC: 56 steps of 10 ns and 40 of 11 ns (R504). -/
def fircStep (k : Nat) : Nat := (k + 1) * 1000 / 96 - k * 1000 / 96

/-- TB runs from its source, whose cycles the interpolator divides (R365, R504). -/
def State.tbSteered (s : State) : Bool := decide (s.clk.domSrc.getD 3 .firc = ClkSrc.pllt)

/-- How far the counter's reading lies behind a moment in ns, on a fallback of TB (R504): back to the last cycle of 40 ns on XTA, or of 10 or 11 ns on FIRC. -/
def State.tbBehind (s : State) (ns : Nat) : Nat :=
  if s.clk.domSrc.getD 3 .firc = ClkSrc.xta then (ns + 40 - s.tim.now % 40) % 40
  else
    let k := s.clk.tbPhase
    let x := (ns + 1000 + k * 1000 / 96 - s.tim.now % 1000) % 1000
    x - ((x + 1) * 96 - 1) / 1000 * 1000 / 96

/-- A detection time in 1/64 ns as the device reads it (R365, R504): on a fallback of TB the reading of the counter. -/
def State.tbReading (s : State) (detect : Nat) : Nat := if s.tbSteered then detect else (detect / 64 - s.tbBehind (detect / 64)) * 64

/-- A timestamp in 1/65,536 ns: on a fallback of TB the fraction stays 0 (R504). -/
def State.tbStamp (s : State) (t : Int) : Int := if s.tbSteered then t else t / 65536 * 65536

/-- The RTC's rate in counts per ns, as a fraction (R504, R506): while it counts SIRC, the cycles of SIRC over the frequency that CLK_SIRC_HZ reports. -/
def State.rtcRate (s : State) : Nat × Nat :=
  if s.aon.rtcSirc && s.clk.qualified.getLsbD 1 then (Config.sircHz * 32768, max 1 (s.reg Reg.clkSircHz).toNat * nsPerSec) else (32768, nsPerSec)

/-- The RTC's count of 1/32,768 s: 32-bit seconds and a 15-bit sub-second count (R377). -/
def State.rtcNow (s : State) : Nat := (s.aon.rtcTicks + (s.tim.mono - s.aon.rtcAt) * s.rtcRate.1 / s.rtcRate.2) % 2 ^ 47

/-- The RTC counts on from its present count, ahead of a change of its rate. -/
def State.rtcMark (s : State) : State :=
  if s.aon.rtcSirc then { s with aon := { s.aon with rtcTicks := s.rtcNow, rtcAt := s.tim.mono } } else s

/-- The RTC counts SIRC from now on, or XTB again (R504). -/
def State.rtcCounts (s : State) (sirc : Bool) : State :=
  { s with aon := { s.aon with rtcTicks := s.rtcNow, rtcAt := s.tim.mono, rtcSirc := sirc } }

end Sys2Proof.Machine
end

