-- ==== Sys2Proof/Machine/Image.lean ====
section
/-! DEFINITION. Reading a Yubex image: header, section directory, and the fields of its sections (R51 to R53, and the layout
tables of the chapters that own the sections). -/
namespace Sys2Proof.Machine

/-- An image as its bytes. -/
abbrev Img := Array Byte

/-- The word at a byte offset of an image, little-endian (R7); 0 past its end. -/
def imgWord (a : Img) (off : Nat) : Word :=
  (a.getD (off + 3) 0) ++ (a.getD (off + 2) 0) ++ (a.getD (off + 1) 0) ++ (a.getD off 0)

/-- n bytes of an image. -/
def imgBytes (a : Img) (off n : Nat) : List Byte := (List.range n).map fun i => a.getD (off + i) 0

/-- n words of an image. -/
def imgWords (a : Img) (off n : Nat) : List Word := (List.range n).map fun i => imgWord a (off + 4 * i)

/-! ### Header (Table SCH-1) -/

/-- IMAGE_LEN. -/
def imgLen (a : Img) : Nat := (imgWord a 8).toNat
/-- MIN_LEVEL. -/
def imgMinLevel (a : Img) : Nat := field (imgWord a 12) 15 14
/-- FURROWS. -/
def imgFurrows (a : Img) : Nat := field (imgWord a 20) 13 0
/-- GROUPS. -/
def imgGroups (a : Img) : Nat := field (imgWord a 20) 24 14
/-- OUT_STREAMS. -/
def imgOutStreams (a : Img) : Nat := field (imgWord a 20) 31 25
/-- SERIAL. -/
def imgSerial (a : Img) : Word := imgWord a 24
/-- SECTIONS. -/
def imgSections (a : Img) : Nat := field (imgWord a 28) 15 0
/-- CW_NS of variant v. -/
def imgCw (a : Img) (v : Nat) : Nat := (imgWord a (32 + 4 * v)).toNat
/-- SC_NS of variant v. -/
def imgSc (a : Img) (v : Nat) : Nat := (imgWord a (48 + 4 * v)).toNat
/-- DS_NS of variant v at level l. -/
def imgDs (a : Img) (v l : Nat) : Nat := (imgWord a (64 + 4 * (3 * v + l))).toNat
/-- OPS of variant v. -/
def imgOps (a : Img) (v : Nat) : Nat := field (imgWord a (112 + 4 * v)) 16 0

/-! ### Sections (Tables SCH-2, SCH-3) -/

/-- Word j of directory entry k. -/
def dirWord (a : Img) (k j : Nat) : Word := imgWord a (128 + 16 * k + 4 * j)

/-- The byte offset and length of the section of a type and VARIANT field (0 for all variants). -/
def imgSection (a : Img) (type variant : Nat) : Option (Nat × Nat) :=
  ((List.range (imgSections a)).find? fun k =>
    decide (field (dirWord a k 0) 15 0 = type) && decide (field (dirWord a k 0) 19 16 = variant)).map
    fun k => ((dirWord a k 1).toNat, (dirWord a k 2).toNat)

/-- The word at a byte offset inside a section; 0 where there is none. -/
def secWord (a : Img) (type variant off : Nat) : Word :=
  match imgSection a type variant with
  | some (o, n) => if off + 4 ≤ n then imgWord a (o + off) else 0
  | none => 0

/-- n words of a section from a byte offset. -/
def secWords (a : Img) (type variant off n : Nat) : List Word :=
  match imgSection a type variant with
  | some (o, _) => imgWords a (o + off) n
  | none => List.replicate n 0

/-- The length of a section, 0 where there is none. -/
def secLen (a : Img) (type variant : Nat) : Nat := ((imgSection a type variant).map (·.2)).getD 0

@[reducible] def secStream : Nat := 0x0001
@[reducible] def secHash : Nat := 0x0002
@[reducible] def secOps : Nat := 0x0003
@[reducible] def secReady : Nat := 0x0004
@[reducible] def secConst : Nat := 0x0005
@[reducible] def secKept : Nat := 0x0006
@[reducible] def secModal : Nat := 0x0007
@[reducible] def secGrid : Nat := 0x0008
@[reducible] def secAlarm : Nat := 0x0009
@[reducible] def secNeighbour : Nat := 0x000A
@[reducible] def secOutStream : Nat := 0x000B
@[reducible] def secTemplate : Nat := 0x000C

/-- Plots of variant v (R29). -/
def variantPlots (v : Nat) : Nat := [32, 28, 24, 16].getD v 0

/-! ### Stream table (Table BSN-1) -/

/-- Word j of the stream table entry of furrow f. -/
def stWord (a : Img) (f j : Nat) : Word := secWord a secStream 0 (64 * f + 4 * j)
/-- VALID. -/
def stValid (a : Img) (f : Nat) : Bool := flag (stWord a f 0) 0
/-- LINK_POS. -/
def stLinkPos (a : Img) (f : Nat) : Nat := field (stWord a f 0) 2 1
/-- Linked furrows of the block that starts at f (NL_M1 + 1). -/
def stLinks (a : Img) (f : Nat) : Nat := field (stWord a f 0) 4 3 + 1
/-- HIGH_PRIO. -/
def stHighPrio (a : Img) (f : Nat) : Bool := flag (stWord a f 0) 5
/-- LOCAL_EN. -/
def stLocal (a : Img) (f : Nat) : Bool := flag (stWord a f 0) 6
/-- LOCAL_SRC. -/
def stLocalSrc (a : Img) (f : Nat) : Nat := field (stWord a f 0) 8 7
/-- RATE_DIV. -/
def stRateDiv (a : Img) (f : Nat) : Nat := field (stWord a f 0) 16 9
/-- FILL_MAX. -/
def stFillMax (a : Img) (f : Nat) : Nat := field (stWord a f 0) 19 17
/-- TQ_LIMIT. -/
def stTqLimit (a : Img) (f : Nat) : Nat := field (stWord a f 0) 23 20
/-- TOL, in units of 100 ns. -/
def stTol (a : Img) (f : Nat) : Nat := field (stWord a f 0) 31 24
/-- POLAR. -/
def stPolar (a : Img) (f : Nat) : Bool := flag (stWord a f 1) 0
/-- PH_FLOAT. -/
def stPhFloat (a : Img) (f : Nat) : Bool := flag (stWord a f 1) 1
/-- AN_FLOAT. -/
def stAnFloat (a : Img) (f : Nat) : Bool := flag (stWord a f 1) 2
/-- FR_FLOAT. -/
def stFrFloat (a : Img) (f : Nat) : Bool := flag (stWord a f 1) 3
/-- FNOM50. -/
def stFnom50 (a : Img) (f : Nat) : Bool := flag (stWord a f 1) 4
/-- PHNMR. -/
def stPhnmr (a : Img) (f : Nat) : Nat := field (stWord a f 1) 13 8
/-- ANNMR. -/
def stAnnmr (a : Img) (f : Nat) : Nat := field (stWord a f 1) 18 14
/-- DGNMR. -/
def stDgnmr (a : Img) (f : Nat) : Nat := field (stWord a f 1) 22 19
/-- TIME_BASE. -/
def stTimeBase (a : Img) (f : Nat) : Nat := field (stWord a f 2) 23 0
/-- ph_scale of phasor slot j of the block that starts at f (R152). -/
def stPhScale (a : Img) (f j : Nat) : Word := secWord a secStream 0 (524288 + 64 * (f + j / 12) + 4 * (j % 12))
/-- an_scale of analog slot k of the block that starts at f (R152). -/
def stAnScale (a : Img) (f k : Nat) : Word := secWord a secStream 0 (524288 + 64 * (f + k / 4) + 4 * (12 + k % 4))
/-- The nominal frequency as FP32 (FNOM50). -/
def stFnom (a : Img) (f : Nat) : Word := fpOfInt (if stFnom50 a f then 50 else 60)
/-- The first furrow of the block that furrow f belongs to. -/
def stFirst (a : Img) (f : Nat) : Nat := f - stLinkPos a f
/-- The first furrows of the blocks in use, in ascending order. -/
def stBlocks (a : Img) : List Nat :=
  (List.range (imgFurrows a)).filter fun f => stValid a f && decide (stLinkPos a f = 0)

/-! ### Headgate hash (Table HDG-2) -/

/-- Word j of hash entry e. -/
def hashWord (a : Img) (e j : Nat) : Word := secWord a secHash 0 (32 * e + 4 * j)
/-- VALID. -/
def hashValid (a : Img) (e : Nat) : Bool := flag (hashWord a e 5) 31
/-- FURROW: the first furrow of block 0. -/
def hashFurrow (a : Img) (e : Nat) : Nat := field (hashWord a e 5) 12 0
/-- Blocks in the frame (NUM_PMU_M1 + 1). -/
def hashBlocks (a : Img) (e : Nat) : Nat := field (hashWord a e 5) 20 16 + 1
/-- The 20-byte key of an entry in the order of R113: address, then port and IDCODE, most significant byte first. -/
def hashKey (a : Img) (e : Nat) : List Byte :=
  let w := hashWord a e 4
  (bytesOf [hashWord a e 0, hashWord a e 1, hashWord a e 2, hashWord a e 3]) ++ [byteOf w 1, byteOf w 0, byteOf w 3, byteOf w 2]
/-- The set that a key selects (R113). -/
def hashSet (key : List Byte) : Nat := (crc32c key).toNat % 4096
/-- The first furrows of n chained blocks from a furrow on (R115). -/
def blockChain (a : Img) : Nat → Nat → List Nat
  | 0, _ => []
  | n + 1, f => f :: blockChain a n (f + stLinks a f)
/-- The first furrows of the blocks that an entry chains through. -/
def hashChain (a : Img) (e : Nat) : List Nat := blockChain a (hashBlocks a e) (hashFurrow a e)
/-- The furrows of an entry's span (R115). -/
def hashSpan (a : Img) (e : Nat) : Nat := ((hashChain a e).map (stLinks a)).sum
/-- The valid entries of the hash. -/
def hashEntries (a : Img) : List Nat := (List.range 16384).filter (hashValid a)

/-- What R154 identifies a furrow by: nothing listed for a furrow not in use; the local source; or the key of the entry whose
span holds it, with its offset there. None for a furrow in use that is neither, which no image gives the same identity. -/
def furrowIdentity (a : Img) (f : Nat) : Option (List Byte) :=
  if !stValid a f then some []
  else if stLocal a f then some [1, BitVec.ofNat 8 (stLocalSrc a f)]
  else ((hashEntries a).find? fun e => decide (hashFurrow a e ≤ f) && decide (f < hashFurrow a e + hashSpan a e)).map fun e =>
    2 :: BitVec.ofNat 8 (f - hashFurrow a e) :: hashKey a e

/-- Two images give a furrow the same stream identity (R154). -/
def sameIdentity (old new : Img) (f : Nat) : Bool :=
  match furrowIdentity old f, furrowIdentity new f with
  | some x, some y => decide (x = y)
  | _, _ => false

/-! ### Operations (Tables DPX-1, DPX-2, DPX-4) -/

/-- Word j of the descriptor of operation o in variant v. -/
def opWord (a : Img) (v o j : Nat) : Word := secWord a secOps (v + 1) (32 * o + 4 * j)
/-- TYPE. -/
def opType (a : Img) (v o : Nat) : Nat := field (opWord a v o 0) 7 0
/-- CLASS. -/
def opClass (a : Img) (v o : Nat) : Nat := field (opWord a v o 0) 9 8
/-- PLOT: the logical Plot that runs the operation. -/
def opPlot (a : Img) (v o : Nat) : Nat := field (opWord a v o 0) 14 10
/-- LIST: the general list. -/
def opGeneral (a : Img) (v o : Nat) : Bool := flag (opWord a v o 0) 15
/-- REF_MODE. -/
def opRefMode (a : Img) (v o : Nat) : Nat := field (opWord a v o 0) 17 16
/-- REF_PLOT. -/
def opRefPlot (a : Img) (v o : Nat) : Nat := field (opWord a v o 0) 22 18
/-- N_WAIT. -/
def opWait (a : Img) (v o : Nat) : Nat := field (opWord a v o 1) 3 0
/-- N_ARG. -/
def opArgs (a : Img) (v o : Nat) : Nat := field (opWord a v o 1) 7 4
/-- N_SUCC. -/
def opSuccs (a : Img) (v o : Nat) : Nat := field (opWord a v o 1) 19 8
/-- RESULT_ADDR. -/
def opAddr (a : Img) (v o : Nat) : Nat := field (opWord a v o 4) 17 0
/-- RESULT_LEN. -/
def opLen (a : Img) (v o : Nat) : Nat := field (opWord a v o 5) 18 0
/-- DEST_MASK. -/
def opDest (a : Img) (v o : Nat) : Word := opWord a v o 6
/-- PARAM0. -/
def opParam0 (a : Img) (v o : Nat) : Nat := field (opWord a v o 7) 15 0
/-- PARAM1. -/
def opParam1 (a : Img) (v o : Nat) : Nat := field (opWord a v o 7) 31 16
/-- Successor i of an operation. -/
def opSucc (a : Img) (v o i : Nat) : Nat := field (secWord a secOps (v + 1) ((opWord a v o 3).toNat + 4 * i)) 15 0
/-- Word j of argument i of an operation. -/
def argWord (a : Img) (v o i j : Nat) : Word := secWord a secOps (v + 1) ((opWord a v o 2).toNat + 8 * i + 4 * j)
/-- KIND of an argument. -/
def argKind (a : Img) (v o i : Nat) : Nat := field (argWord a v o i 0) 2 0
/-- BACK of an argument. -/
def argBack (a : Img) (v o i : Nat) : Nat := field (argWord a v o i 0) 7 3
/-- ENGINE of an argument. -/
def argEngine (a : Img) (v o i : Nat) : Nat := field (argWord a v o i 0) 15 8
/-- INDEX of an argument. -/
def argIndex (a : Img) (v o i : Nat) : Nat := field (argWord a v o i 0) 31 16
/-- EXTENT of an argument. -/
def argExtent (a : Img) (v o i : Nat) : Word := argWord a v o i 1
/-- The successors of an operation. -/
def opSuccList (a : Img) (v o : Nat) : List Nat := (List.range (opSuccs a v o)).map (opSucc a v o)
/-- Word w of the ready-list and placement section. -/
def readyWord (a : Img) (v w : Nat) : Word := secWord a secReady (v + 1) (4 * w)
/-- The root operations in list order. -/
def rootList (a : Img) (v : Nat) : List Nat :=
  (List.range (field (readyWord a v 32) 16 0)).map fun i => field (readyWord a v (33 + i)) 15 0
/-- Furrow f stays in the variant's analytics (R98). -/
def keptFurrow (a : Img) (v f : Nat) : Bool :=
  flag (secWord a secKept (v + 1) (f / 32 * 4)) (f % 32)

/-- Bmax: the largest BACK of any CELL argument in any variant (R158). -/
def imgBmax (a : Img) : Nat :=
  maxOf <| (List.range 4).map fun v => maxOf <| (List.range (imgOps a v)).map fun o =>
    maxOf <| (List.range (opArgs a v o)).map fun i => if argKind a v o i = 2 then argBack a v o i else 0

/-- The image whose tables are in force (R60, R116): the last image made active. -/
def State.img (s : State) : Img := s.sch.active

/-- Whether an image is active (SCH_STATUS.ACTIVE_VALID). -/
def State.imageActive (s : State) : Bool := s.sch.activeValid

end Sys2Proof.Machine
end

