-- ==== Sys2Proof/Machine/Flags.lean ====
section
/-! DEFINITION. Every status and quality computation that several blocks share: time quality (Table TIM-5), the leap bits
(R358), the output gate (R439), and the states of Table TCK-1. -/
namespace Sys2Proof.Machine

/-- The code of a timebase state (Table TIM-1). -/
def TimState.code : TimState → Nat
  | .free => 0
  | .acquiring => 1
  | .locked => 2
  | .bivouac => 3

/-- The code of a source (R381). -/
def TimSource.code : TimSource → Nat
  | .none => 0
  | .ptp => 1
  | .gnss => 2

/-- The smallest code c from 1 to 11 with e ≤ 10^(c − 1) ns, 15 if e is larger than that (R375). -/
def codeByE (e : Word) : Nat :=
  ((List.range 11).find? (fun k => fpLe e (fpOfInt (10 ^ k : Nat)))).elim 15 (· + 1)

/-- FRACSEC bits 3:0 (Table TIM-5): the time quality code now. -/
def State.tqCode (s : State) : Nat :=
  match s.tim.state, s.tim.errEst with
  | .free, _ => 15
  | _, none => 15
  | .locked, some e => if fpLe e (fpOfInt 1000) then 0 else codeByE e
  | _, some e => codeByE e

/-- STAT bits 8:6 of local blocks (Table TIM-5). -/
def State.statTq (s : State) : Nat :=
  match s.tim.state, s.tim.errEst with
  | .free, _ => 7
  | _, none => 7
  | _, some e => ((List.range 6).find? (fun k => fpLt e (fpOfInt (10 ^ (k + 2) : Nat)))).elim 7 (· + 1)

/-- TIM_UNLOCK_SEC: seconds since leaving LOCKED, 0 while LOCKED, all ones if never locked (R389). -/
def State.unlockSec (s : State) : Word :=
  if s.tim.state = .locked then 0
  else match s.tim.unlockedAt with
    | none => BitVec.allOnes 32
    | some m => sat32 ((s.tim.mono - m) / nsPerSec)

/-- The slew of a TIME_SET has made its offset up (R374). -/
def State.slewOver (s : State) : Bool := s.tim.slewEnd.any fun m => decide (m ≤ s.tim.mono)
/-- The PLLT offset in force (R355). -/
def State.freqNow (s : State) : Word := if s.slewOver then s.tim.integ else s.tim.freqAdj
/-- SLEWING (R367, R381): the clamp acts, or no measurement has come since start-up. -/
def State.slewingNow (s : State) : Bool := !s.tim.measuredOnce || (s.tim.slewing && !s.slewOver)

/-- The PPS seconds missed from the last labelled edge to a device time, while GNSS is the source (R370): each half a second after the expected edge, three at
most. -/
def State.ppsMissesTo (s : State) (m : Nat) : Nat :=
  match s.tim.source, s.tim.labelledAt with
  | .gnss, some a => min 3 ((m - a + 500000000) / nsPerSec - 1)
  | _, _ => 0

/-- The PPS seconds missed so far (R370). DEDUCED (log 33): an edge that can still be labelled is not missed. -/
def State.ppsMisses (s : State) : Nat :=
  match s.tim.edge with
  | some (_, _, m) => s.ppsMissesTo (if s.tim.mono ≤ m + 900000000 then m else s.tim.mono)
  | none => s.ppsMissesTo s.tim.mono

/-- STAT bits 5:4 of local blocks (Table TIM-5). -/
def State.statUnlock (s : State) : Nat :=
  match s.tim.state with
  | .locked => 0
  | .free => 3
  | _ =>
    let u := s.unlockSec.toNat
    if u < 10 then 0 else if u < 100 then 1 else if u < 1000 then 2 else 3

/-- TQ_POOR of local cells (Table TIM-5, R164). -/
def State.tqPoor (s : State) : Bool := decide (s.tim.state ≠ .locked)

/-- n of Table TIM-5: the largest from 0 to 24 with 2^−n s ≥ e, 31 when e exceeds 1 s. -/
def accuracyBits (e : Word) : Nat :=
  ((List.range 25).reverse.find? (fun (n : Nat) => fpLe e (fpOfScaled 1000000000 (-(Int.ofNat n))))).getD 31

/-- The GOOSE TimeQuality octet (Table TIM-5). -/
def State.gooseQuality (s : State) : Nat :=
  let valid := if s.tim.offsetValid then 0x80 else 0
  match s.tim.state, s.tim.errEst with
  | .free, _ => 0x7F + valid
  | .locked, some e => valid + accuracyBits e
  | .locked, none => valid + 31
  | _, some e => valid + 0x20 + accuracyBits e
  | _, none => valid + 0x20 + 31

/-- A leap second's timebase second l lies at most 60 s after a second. -/
def nearLeap (sec : Nat) (l : Option (Leap × Nat)) : Bool := l.any fun p => decide (p.2 ≤ sec + 60) && decide (sec < p.2)

/-- A second lies in the 86,400 s from a leap second's on. -/
def afterLeap (sec : Nat) (l : Option (Leap × Nat)) : Bool := l.any fun p => decide (p.2 ≤ sec) && decide (sec < p.2 + 86400)

/-- A leap second is pending in a timebase second: the 60 s before the offset changes (R358). -/
def State.leapPending (s : State) (sec : Nat) : Bool := nearLeap sec s.tim.leap || nearLeap sec s.tim.leapDone

/-- A leap second occurred, in a timebase second: from the first second with the new offset, for 86,400 s (R358). -/
def State.leapOccurred (s : State) (sec : Nat) : Bool := afterLeap sec s.tim.leap || afterLeap sec s.tim.leapDone

/-- The leap direction: 1 for a deletion (R358). DEDUCED (log 24): that of the announcement, else of the last leap while
bit 4 or 5 shows it. -/
def State.leapDir (s : State) (sec : Nat) : Bool :=
  match s.tim.leap with
  | some (k, _) => decide (k = .delete)
  | none => (nearLeap sec s.tim.leapDone || afterLeap sec s.tim.leapDone) && decide ((s.tim.leapDone.map (·.1)) = some .delete)

/-- FRACSEC bits 31:24 of the frames the device builds, beside the SOC of a timebase second (R358). -/
def State.fracFlags (s : State) (sec : Nat) : Nat :=
  (if s.leapDir sec then 64 else 0) + (if s.leapOccurred sec then 32 else 0) + (if s.leapPending sec then 16 else 0) + s.tqCode

/-- The output gate is open (R439). -/
def State.gateOpen (s : State) : Bool :=
  (decide (s.gzl.role = .active) || decide (s.gzl.role = .solo)) &&
  s.gzl.claim.isNone && !s.gzl.swapMute &&
  match s.gzl.claimEpoch with
  | none => false
  | some e => decide (s.gzl.partnerEpoch.toNat ≤ e.toNat)

/-- Outputs are muted (R439). -/
def State.muted (s : State) : Bool := !s.gateOpen

/-- The device runs the schedule: it is ACTIVE or SOLO and has unmuted (R22, R434). -/
def State.runsSchedule (s : State) : Bool := s.gateOpen

/-- Guy-lines and link in use: GZL_CFG.EN. -/
def State.gzlOn (s : State) : Bool := s.regBit Reg.gzlCfg 0

/-- CORE or PLOT runs from a fallback (R44, R68). -/
def State.clkFallback (s : State) : Bool := s.clk.fallback.getD 0 false || s.clk.fallback.getD 1 false

/-- The lifecycle state code (R467): the highest LC_STATE bit blown, visible from step 3. -/
def Fuses.state (f : Fuses) : Nat :=
  if f.lc.getLsbD 3 then 4 else if f.lc.getLsbD 2 then 3 else if f.lc.getLsbD 1 then 2 else if f.lc.getLsbD 0 then 1 else 0

/-- Whether the lifecycle lets the key unit and PITCH serve: PROVISIONED or FIELD (Table SEC-2). -/
def State.inService (s : State) : Bool := decide (s.nvm.fuses.state = 1) || decide (s.nvm.fuses.state = 2)

/-- The level in force, with P2 for the reserved code 3 of a field ("3 treated as 2", R544, R545). -/
def levelOf (code : Nat) : Nat := if 2 ≤ code then 2 else code

end Sys2Proof.Machine
end

