-- ==== Sys2Proof/Machine/Event.lean ====
section
/-! DEFINITION. Forming an event record and queueing it at the recorder (R447, R448, R451, R452). -/
namespace Sys2Proof.Machine

/-- The time labels of an event record (Table EVR-1 words 3 to 6). -/
structure EventTime where
  sec : Nat
  ns : Nat
  offset : Int
  state : Nat
  offsetValid : Bool
  tq : Nat
  rtc : Bool := false
deriving DecidableEq, Repr

/-- What a source names itself: its tick ID, epoch and time (R447, R448). -/
structure EventSource where
  tick : Option Nat := none
  epoch : Option Word := none
  time : Option EventTime := none
  rtc : Bool := false
  flags : Nat := 0
deriving DecidableEq, Repr

/-- The timebase as an event's time (R448). -/
def State.timebaseTime (s : State) : EventTime :=
  { sec := s.nowSec, ns := s.nowNs, offset := s.offsetAt s.nowSec, state := s.tim.state.code,
    offsetValid := s.tim.offsetValid, tq := s.tqCode }

/-- A time of the RTC, in its ticks, as an event's time (R448); TIME_STATE is 7. DEDUCED (log 25): the RTC's UTC second plus its offset, as R378 seeds the
timebase. -/
def State.rtcTimeAt (s : State) (ticks : Nat) : EventTime :=
  { sec := ((ticks / 32768 : Nat) + s.aon.rtcOffset).toNat
    ns := ticks % 32768 * nsPerSec / 32768
    offset := s.aon.rtcOffset, state := 7, offsetValid := s.tim.offsetValid, tq := s.tqCode, rtc := true }

/-- The RTC as an event's time (R448). -/
def State.rtcTime (s : State) : EventTime := s.rtcTimeAt s.rtcNow

/-- An event record without SEQ and CRC (Table EVR-1, R451). -/
def State.eventWords (s : State) (code cls : Nat) (data : List Word) (src : EventSource) : List Word :=
  let t := src.time.getD (if src.rtc || !s.tim.seeded then s.rtcTime else s.timebaseTime)
  let tick := src.tick.orElse (fun _ => s.tck.lastClosed)
  let d : DWord := BitVec.ofNat 64 (tick.getD 0)
  [ place 0x71 0 ||| place cls 8 ||| placeB t.rtc 10 ||| placeB tick.isSome 11 ||| place src.flags 12 ||| place code 16,
    0, 0, w32 t.sec,
    place (t.sec / 2 ^ 32 % 65536) 0 ||| place (unsigned 16 t.offset) 16,
    w32 t.ns,
    place t.state 0 ||| placeB t.offsetValid 3 ||| place t.tq 4,
    lo32 d, hi32 d, src.epoch.getD s.gzl.epoch,
    wordAt data 0, wordAt data 1, wordAt data 2, wordAt data 3, wordAt data 4, 0 ]

/-- CODE of a record (Table EVR-1). -/
def eventCode (r : List Word) : Nat := field (wordAt r 0) 31 16

/-- A record among those of its cycle: ascending CODE, in order of formation within one CODE (R451). -/
def insertByCode (r : List Word) : List (List Word) → List (List Word)
  | [] => [r]
  | x :: xs => if eventCode r < eventCode x then r :: x :: xs else x :: insertByCode r xs

/-- A record is lost: the pending losses keep the time of the first one (R450, R452, R453). -/
def Evr.loses (e : Evr) (r : List Word) : Evr := { e with firstLoss := e.firstLoss.orElse fun _ => some (wordAt r 3, wordAt r 5) }

/-- A formed record enters the pending queue of 64, behind all that were formed before its cycle; one that finds the queue full is lost and counted
(R451, R452). -/
def State.queueEvent (s : State) (r : List Word) : State :=
  let q := s.evr.queue
  let before := q.length - s.evr.cycle.getD 0
  let all := q.take before ++ insertByCode r (q.drop before)
  let s1 := s.onEvr fun e => { e with queue := all.take 64, cycle := e.cycle.map fun _ => min all.length 64 - before }
  match all.drop 64 with
  | [] => s1.peak Reg.evrQueuePeak all.length
  | x :: _ => (s1.inc Reg.evrQlostCnt).onEvr fun e => { e.loses x with lostQueue := e.lostQueue + 1 }

/-- What happens in one core-clock cycle: the events it forms enter the queue in ascending CODE order (R451). -/
def State.oneCycle (s : State) (f : State → State) : State :=
  if s.evr.cycle.isSome then f s else (f (s.onEvr fun e => { e with cycle := some 0 })).onEvr fun e => { e with cycle := none }

/-- An event is formed and queued (R450). -/
def State.event (s : State) (code cls : Nat) (data : List Word) (src : EventSource := {}) : State :=
  s.queueEvent (s.eventWords code cls data src)

/-- The classes of Table EVR-2. -/
@[reducible] def clsWatch : Nat := 1
@[reducible] def clsNotice : Nat := 2
@[reducible] def clsLog : Nat := 3

end Sys2Proof.Machine
end

