-- ==== Sys2Proof/Machine/Operands.lean ====
section
/-! DEFINITION. The rings that carry every command and record: indices, completions, interrupts, the acceptance and the
completion of commands, and the delivery of records (R394 to R408). -/
namespace Sys2Proof.Machine

/-! ### Status codes (Table HIF-9) -/

@[reducible] def stOk : Nat := 0x00
@[reducible] def stBadOpcode : Nat := 0x01
@[reducible] def stBadArg : Nat := 0x02
@[reducible] def stBusy : Nat := 0x03
@[reducible] def stRefused : Nat := 0x04
@[reducible] def stAborted : Nat := 0x05
@[reducible] def stTooLate : Nat := 0x06
@[reducible] def stIdle : Nat := 0x07
@[reducible] def stGated : Nat := 0x08
@[reducible] def stSourceActive : Nat := 0x09
@[reducible] def stNotMaster : Nat := 0x0A
@[reducible] def stEmpty : Nat := 0x0B
@[reducible] def stState : Nat := 0x0C
@[reducible] def stTamper : Nat := 0x0D
@[reducible] def stLifecycle : Nat := 0x0E
@[reducible] def stMemError : Nat := 0x0F
@[reducible] def stFormat : Nat := 0x10
@[reducible] def stTag : Nat := 0x11
@[reducible] def stCrc : Nat := 0x12
@[reducible] def stOverwritten : Nat := 0x13
@[reducible] def stTruncated : Nat := 0x14
@[reducible] def stBufSmall : Nat := 0x15
@[reducible] def stDmaError : Nat := 0x16

/-! ### Rings and their indices -/

/-- Ring n. -/
def State.ring (s : State) (n : Nat) : Ring := (mapGet s.hif.rings n).getD {}

/-- Ring n replaced; a ring as after reset is not listed. -/
def State.setRing (s : State) (n : Nat) (r : Ring) : State :=
  s.onHif fun h => { h with rings := if r = {} then mapDel h.rings n else mapSet h.rings n r }

/-- HIF_RINGn_CFG.TYPE, the values 10 to 15 acting as 0 (R393). -/
def State.ringType (s : State) (n : Nat) : Nat :=
  let t := s.regField (Reg.hifRingCfg n) 3 0
  if 10 ≤ t then 0 else t

/-- HIF_RINGn_CFG.CQ: the completion ring of ring n (R416). -/
def State.ringCq (s : State) (n : Nat) : Nat := s.regField (Reg.hifRingCfg n) 13 8

/-- Entries of ring n: 2^LOG2SIZE (R394). -/
def State.ringSize (s : State) (n : Nat) : Nat := 2 ^ s.regField (Reg.hifRingCfg n) 7 4

/-- The position of an index: bits 11:0 (R394). -/
def idxPos (i : Nat) : Nat := i % 4096
/-- The wrap bit of an index: bit 15 (R394). -/
def idxWrap (i : Nat) : Bool := decide (i / 32768 % 2 = 1)

/-- The index after an index of a ring of this size (R394). -/
def idxNext (size i : Nat) : Nat :=
  if idxPos i + 1 < size then i + 1 else if idxWrap i then 0 else 32768

/-- An index n entries further on. -/
def idxAdd (size i : Nat) : Nat → Nat
  | 0 => i
  | n + 1 => idxAdd size (idxNext size i) n

/-- How many entries the index b is ahead of the index a (R394). -/
def idxDist (size a b : Nat) : Nat :=
  let va := (if idxWrap a then size else 0) + idxPos a
  let vb := (if idxWrap b then size else 0) + idxPos b
  (vb + 2 * size - va) % (2 * size)

/-- An index as R397 accepts it: bits 14:12 are 0 and the position lies below the ring size. -/
def idxValid (size i : Nat) : Bool := decide (i / 4096 % 8 = 0) && decide (idxPos i < size)

/-- The ring works: enabled and not in ERROR (R397). -/
def Ring.works (r : Ring) : Bool := r.enabled && !r.error

/-- The ring is a completion ring that works (R395). -/
def State.cqWorks (s : State) (n : Nat) : Bool := (s.ring n).works && decide (s.ringType n = 2)

/-- A completion ring holds a free entry (R394). -/
def State.cqFree (s : State) (n : Nat) : Bool :=
  s.cqWorks n && decide ((s.ring n).entries.length < s.ringSize n)

/-! ### Interrupts (R407) -/

/-- The Function Mask bit of the MSI-X capability is set, which masks every vector (R407). -/
def State.functionMasked (s : State) : Bool := flag ((mapGet s.hif.config 0x80).getD 0) 30

/-- Completion ring n fires: its vector's message is sent, or its PBA bit set while the vector is masked; the ring disarms. -/
def State.fire (s : State) (n : Nat) : State :=
  let v := s.regField (Reg.hifRingCfg n) 20 14
  let s1 := s.setRing n { s.ring n with armed := false, fresh := 0 }
  if s.hif.masked.getLsbD v || s.functionMasked then s1.onHif fun h => { h with pba := h.pba ||| (1 <<< v) }
  else s1.inc Reg.hifIntrCnt

/-- When the oldest completion that a ring counts was written. -/
def Ring.oldest (r : Ring) : Option Nat := (r.entries[r.entries.length - r.fresh]?).map (·.time)

/-- The time condition of R407 holds now. -/
def State.waited (s : State) (n : Nat) : Bool :=
  let us := s.regField (Reg.hifRingMod n) 27 16
  decide (us ≠ 0) && match (s.ring n).oldest with
    | some t => decide (t + us * 1000 ≤ s.tim.mono)
    | none => false

/-- While armed, a ring fires when COUNT completions are written and unconsumed, or the oldest has waited TIME_US (R407). -/
def State.checkFire (s : State) (n : Nat) : State :=
  let r := s.ring n
  if r.armed && decide (0 < r.fresh) && (decide (max 1 (s.regField (Reg.hifRingMod n) 11 0) ≤ r.fresh) || s.waited n)
  then s.fire n else s

/-! ### Completions (R403 to R405) -/

/-- The eight words of a completion entry (Table HIF-6). -/
def Completion.words (c : Completion) : List Word :=
  [ place (c.index % 65536) 0 ||| place c.src 16 ||| placeB c.phase 31,
    place c.tag.toNat 0 ||| place c.status 16 ||| place c.detail 24,
    w32 c.length, wordAt c.result 0, wordAt c.result 1, wordAt c.result 2, wordAt c.result 3, wordAt c.result 4 ]

/-- The bytes of records and results carry the relaxed-ordering attribute: HIF_CFG.RO_EN (R404). -/
def State.relaxedData (s : State) : Bool := s.regBit Reg.hifCfg 0

/-- A completion is written at the producer index of ring n, with PHASE the inverse of the wrap bit (R403). -/
def State.writeCompletion (s : State) (n : Nat) (c : Completion) : State :=
  let r := s.ring n
  let c1 := { c with phase := !idxWrap r.devIdx, time := s.tim.mono }
  (s.setRing n { r with devIdx := idxNext (s.ringSize n) r.devIdx, entries := r.entries ++ [c1], fresh := r.fresh + 1 }).checkFire n

/-- A completion goes to ring n: it waits while the ring is full, and goes nowhere when the ring does not work (R399, R405). -/
def State.post (s : State) (n : Nat) (c : Completion) : State :=
  if !s.cqWorks n then s
  else if s.cqFree n then s.writeCompletion n c
  else s.onHif fun h => { h with waiting := h.waiting ++ [(n, c)] }

/-- Completions that waited for ring n are written as far as entries are free, in order (R404). -/
def State.drainWaiting (s : State) (n : Nat) : List (Nat × Completion) → State
  | [] => s
  | (m, c) :: rest =>
    if m = n && s.cqFree n then
      State.drainWaiting ((s.writeCompletion n c).onHif fun h => { h with waiting := h.waiting.erase (m, c) }) n rest
    else s.drainWaiting n rest

/-! ### Commands (R400, R405, R408) -/

/-- The descriptor a command header names. -/
def State.refOf (s : State) (h : CmdHdr) : CmdRef :=
  { ring := h.ring.val, index := (s.ring h.ring.val).devIdx, tag := h.tag, gen := s.hif.gen }

/-- The command ring has a descriptor to read: it works, the host's index is ahead, its completion ring is not full, and no
earlier command of the ring still has to complete before the next is accepted (R397, R399, R405). Commands are served from the end of start-up step 10 (R537). -/
def State.canAccept (s : State) (h : CmdHdr) : Bool :=
  let r := s.ring h.ring.val
  r.works && decide (s.ringType h.ring.val = 1) && decide (r.hostIdx ≠ r.devIdx) &&
  s.cqFree (s.ringCq h.ring.val) && decide (10 < s.sys.step) &&
  !(s.hif.blocking.any fun c => decide (c.ring = h.ring.val) && decide (c.gen = s.hif.gen))

/-- A command completes: its completion is written to the completion ring of its command ring and counted (R403, R420). A
command accepted before a host-interface reset runs to its end and its completion is discarded (R392). -/
def State.complete (s : State) (c : CmdRef) (r : CmdResult) : State :=
  if c.gen ≠ s.hif.gen then s
  else
    let s1 := s.inc Reg.hifCmdCnt
    let s2 := if r.status = stOk then s1 else s1.inc Reg.hifCmdErrCnt
    s2.post (s.ringCq c.ring)
      { index := c.index, src := c.ring, phase := false, tag := c.tag, status := r.status, detail := r.detail,
        length := r.length, result := r.result, data := r.data, addr := r.addr, time := 0, relaxed := s.relaxedData }

/-- A command that did not complete at once completes now. -/
def State.finish (s : State) (c : CmdRef) (r : CmdResult) : State :=
  (s.onHif fun h => { h with outstanding := h.outstanding.erase c, blocking := h.blocking.erase c }).complete c r

/-- How a command ends in its own step: with a completion, or later, as one of the long commands of R405 or holding its ring. -/
inductive CmdEnd where
  | done (r : CmdResult)
  | long
  | later
deriving DecidableEq, Repr

/-- A command is accepted in ring order and given to `body`, which answers how it ends. One that is not accepted changes
nothing: its descriptor stays in the ring (R399, R405). In TAMPERED only the commands of R486 are served, all others completing with TAMPER. -/
def State.command (s : State) (h : CmdHdr) (tamperOk : Bool) (body : CmdRef → State → State × CmdEnd) : State :=
  if !s.canAccept h then s
  else
    let c := s.refOf h
    let n := h.ring.val
    let s1 := s.setRing n { s.ring n with devIdx := idxNext (s.ringSize n) (s.ring n).devIdx }
    if s.sys.tampered && !tamperOk then s1.complete c { status := stTamper }
    else match body c s1 with
      | (s2, .done r) => s2.complete c r
      | (s2, .long) =>
        if 32 ≤ s.hif.outstanding.length then s
        else s2.onHif fun x => { x with outstanding := x.outstanding ++ [c] }
      | (s2, .later) => s2.onHif fun x => { x with blocking := x.blocking ++ [c] }

/-- A DMA read of a command's data buffer ended in an error: DMA_ERROR, counted (R406). -/
def State.dmaError (s : State) : State × CmdEnd := (s.inc Reg.hifDmaErrCnt, .done { status := stDmaError })

/-! ### Records (R396, R399, R402) -/

/-- A ring of the given type can take a record now: a posted buffer and a free completion entry (R399). -/
def State.canDeliver (s : State) (n type : Nat) : Bool :=
  (s.ring n).works && decide (s.ringType n = type) && !(s.ring n).posted.isEmpty && s.cqFree (s.ringCq n)

/-- The buffer at the head of ring n is consumed; answers its completion before anything is written. -/
def State.takeBuffer (s : State) (n : Nat) (b : BufDesc) (rest : List BufDesc) (result : List Word) : State × Completion :=
  let r := s.ring n
  (s.setRing n { r with posted := rest, devIdx := idxNext (s.ringSize n) r.devIdx },
    { index := r.devIdx, src := n, phase := false, tag := b.tag, status := stOk, detail := 0, length := 0, result := result, data := [], addr := b.addr, time := 0, relaxed := s.relaxedData })

/-- The completion of a record: it waits while an earlier record of its ring is still being written (R404). -/
def State.postRecord (s : State) (c : Completion) : State :=
  if s.bsn.writing.any fun w => decide (w.done.src = c.src) then s.onBsn fun b => { b with writing := b.writing ++ [{ tick := none, bytes := 0, done := c }] }
  else s.post (s.ringCq c.src) c

/-- A record is written whole into one buffer of ring n and completed there; a buffer too short is consumed with BUF_SMALL. Answers
whether the record was written; the routing block counts one that was not (R396, R399, R402). `slow` says that it is still being written when the slot of a
column is released (R178). -/
def State.deliverSlow (s : State) (n type : Nat) (data : List Byte) (result : List Word) (slow : Option (Nat × Nat)) : State × Bool :=
  if !s.canDeliver n type then (s, false)
  else match (s.ring n).posted with
    | [] => (s, false)
    | b :: rest =>
      let (s1, base) := s.takeBuffer n b rest result
      if b.len.toNat < data.length then ((s1.inc Reg.hifBufSmallCnt).postRecord { base with status := stBufSmall }, false)
      else
        let whole : Completion := { base with length := data.length, data := data }
        match slow with
        | none => (s1.postRecord whole, true)
        | some (tick, bytes) => (s1.onBsn fun x => { x with writing := x.writing ++ [{ tick := some tick, bytes := bytes, done := whole }] }, true)

/-- A record that is written at once (R396, R399, R402). -/
def State.deliver (s : State) (n type : Nat) (data : List Byte) (result : List Word) : State × Bool := s.deliverSlow n type data result none

/-- A record delivered, and counted by its routing block when it was dropped. -/
def State.deliverOr (s : State) (n type : Nat) (data : List Byte) (result : List Word) (dropCnt : Nat) : State :=
  match s.deliver n type data result with
  | (s1, true) => s1
  | (s1, false) => s1.inc dropCnt

/-- A transfer to ring n that fails after it began: its buffer is consumed with a status (R271). -/
def State.deliverFail (s : State) (n type status : Nat) (result : List Word) : State :=
  if !s.canDeliver n type then s
  else match (s.ring n).posted with
    | [] => s
    | b :: rest =>
      let (s1, base) := s.takeBuffer n b rest result
      s1.postRecord { base with status := status }

end Sys2Proof.Machine
end

