-- ==== Sys2Proof/Machine/Hif.lean ====
section
/-! DEFINITION. The host interface: rings, doorbells, completions, interrupts, link (chapter 13). -/
namespace Sys2Proof.Machine

/-- What every meaning answers. -/
abbrev Answer := Host.Outcome State Fault Refusal

/-! ### Rings -/

/-- Some ring other than n is enabled and names n as its completion ring (R395). -/
def State.cqInUse (s : State) (n : Nat) : Bool :=
  (List.range 64).any fun m => (s.ring m).enabled && decide (s.ringType m ≠ 2) && decide (s.ringCq m = n)

/-- The conditions under which ring n enables (R395); a base is aligned by its reserved bits (R414). -/
def State.ringCfgOk (s : State) (n : Nat) : Bool :=
  let t := s.ringType n
  let lg := s.regField (Reg.hifRingCfg n) 7 4
  decide (1 ≤ t) && decide (6 ≤ lg) && decide (lg ≤ 12) &&
  (decide (t = 2) || (decide (s.ringType (s.ringCq n) = 2) && (s.ring (s.ringCq n)).enabled))

/-- A write of HIF_RINGn_CTL.EN = 1 (R395, R397): a disabled ring enables with both indices 0 if its configuration is valid. -/
def State.enableRing (s : State) (n : Nat) : State :=
  let r := s.ring n
  if r.enabled then s
  else if s.ringCfgOk n then s.setRing n { enabled := true, armed := decide (s.ringType n = 2) }
  else s.setRing n { r with cfgErr := true }

/-- A write of HIF_RINGn_CTL.EN = 0 (R395): without effect on a completion ring that an enabled ring names. -/
def State.disableRing (s : State) (n : Nat) : State :=
  let r := s.ring n
  if !r.enabled then s
  else if s.ringType n = 2 && s.cqInUse n then s
  else (s.setRing n { r with enabled := false, armed := false, posted := [], entries := [], fresh := 0 }).onHif
    fun h => { h with waiting := h.waiting.filter (fun p => decide (p.1 ≠ n)) }

/-- Ring n enters ERROR and HIF_ERR_LOG records ring and cause (R397, R413). -/
def State.ringError (s : State) (n cause : Nat) : State :=
  let r := s.ring n
  (s.setRing n { r with error := true, errCause := cause, armed := false, posted := [], entries := [], fresh := 0 }).setReg
    Reg.hifErrLog (place n 0 ||| place cause 8 ||| bit 31)

/-- A buffer descriptor from its words (Table HIF-5). -/
def bufDescOf (ws : List Word) : BufDesc := { tag := (wordAt ws 0 >>> 16).setWidth 16, addr := dword (wordAt ws 2) (wordAt ws 1), len := wordAt ws 3 }

/-- HOST_IDX of a descriptor ring (R397, R398): the descriptors up to it, given by their words, are posted. A read of them that ended in an error
puts the ring in ERROR (R406), in which its unconsumed descriptors return to the host (R395, R397). -/
def State.hostPosts (s : State) (n idx : Nat) (descs : List (List Word)) (readErr : Bool) : State :=
  let r := s.ring n
  let size := s.ringSize n
  if !idxValid size idx then s.ringError n 1
  else if size < idxDist size r.devIdx idx then s.ringError n 2
  else if readErr then ((s.setRing n { r with hostIdx := idx }).inc Reg.hifDmaErrCnt).ringError n 3
  else
    let posted := if s.ringType n = 1 || s.ringType n = 4 then [] else (r.posted ++ descs.map bufDescOf).take (idxDist size r.devIdx idx)
    s.setRing n { r with hostIdx := idx, posted := posted }

/-- HOST_IDX of a completion ring (R397, R407): the entries before it are consumed, the ring re-arms and its conditions are
evaluated at once, and completions that waited for space are written (R399). -/
def State.hostConsumes (s : State) (n idx : Nat) : State :=
  let r := s.ring n
  let size := s.ringSize n
  if !idxValid size idx then s.ringError n 1
  else
    let d := idxDist size r.hostIdx idx
    if r.entries.length < d then s.ringError n 2
    else
      let rest := r.entries.drop d
      let s1 := (s.setRing n { r with hostIdx := idx, entries := rest, armed := true, fresh := rest.length }).checkFire n
      s1.drainWaiting n s1.hif.waiting

/-- A write of HOST_IDX in the doorbell page of ring n (Table HIF-3). DESIGN CHOICE (log 12): on a ring that is disabled or
in ERROR it has no effect. -/
def State.hostIdxWrite (s : State) (n idx : Nat) (descs : List (List Word)) (readErr : Bool) : State :=
  if !(s.ring n).works then s
  else if s.ringType n = 2 then s.hostConsumes n idx
  else if s.ringType n = 0 then s
  else s.hostPosts n idx descs readErr

/-- HOST_IDX of ring n is written as a word of BAR2 (R391). The buffer descriptors that it posts stand in host memory, whose contents the write does not
carry: their words are free values (log 107). -/
def State.hostIdxWord (s : State) (n : Nat) (v : Word) : State :=
  let idx := v.toNat % 65536
  let k := if [1, 2, 4].contains (s.ringType n) then 0 else idxDist (s.ringSize n) (s.ring n).hostIdx idx
  let r := s.freeWords (4 * k)
  r.2.hostIdxWrite n idx ((List.range k).map fun i => (r.1.drop (4 * i)).take 4) false

/-- RING_ENABLE (R395). -/
def execRingEnable (n : Fin 64) (s : State) : Answer := .next (if s.hostUp then s.enableRing n.val else s)

/-- RING_DISABLE (R395). -/
def execRingDisable (n : Fin 64) (s : State) : Answer := .next (if s.hostUp then s.disableRing n.val else s)

/-- DOORBELL (R397, R398, R406). -/
def execDoorbell (n : Fin 64) (idx : BitVec 16) (descs : List (List Word)) (readErr : Bool) (s : State) : Answer :=
  .next (if s.hostUp then s.hostIdxWrite n.val idx.toNat descs readErr else s)

/-- COMPLETION_CONSUME (R397, R407). -/
def execCompletionConsume (n : Fin 64) (idx : BitVec 16) (s : State) : Answer :=
  .next (if s.hostUp then s.hostIdxWrite n.val idx.toNat [] false else s)

/-- INTERRUPT_TIMER (R407): the oldest completion that an armed ring counts has waited TIME_US, and the ring fires. -/
def execInterruptTimer (n : Fin 64) (s : State) : Answer :=
  let r := s.ring n.val
  let us := s.regField (Reg.hifRingMod n.val) 27 16
  match r.oldest with
  | some t => if r.armed && decide (0 < r.fresh) && decide (us ≠ 0) then .next ((s.runToMono (t + us * 1000)).checkFire n.val) else .next s
  | none => .next s

/-! ### Link -/

/-- The host interface resets (R392): every ring stops, accepted commands run on and lose their completions. -/
def State.resetHostLink (s : State) : State :=
  (((s.add Reg.bsnOutDropCnt (s.bsn.writing.filter (·.tick.isSome)).length).onBsn fun b => { b with writing := [] }).onHif fun h =>
    { gen := h.gen + 1, outstanding := h.outstanding, blocking := h.blocking, finishing := h.finishing }).setReg
    Reg.hifErrLog (place 4 8 ||| bit 31) |>.inc Reg.hifResetCnt

/-- HOST_LINK_RESET (R392). -/
def execHostLinkReset (s : State) : Answer := .next s.resetHostLink

/-- PCIE_LINK_UP (R390, R537): from start-up step 9 on the link trains, at 2.5 to 16 GT/s on 1, 2, 4 or 8 lanes. -/
def execPcieLinkUp (speed : Fin 5) (lanes : Fin 9) (s : State) : Answer :=
  if decide (9 ≤ s.sys.step) && s.awake && !s.hif.linkUp && decide (1 ≤ speed.val) && [1, 2, 4, 8].contains lanes.val
  then .next (s.onHif fun h => { h with linkUp := true, speed := speed.val, lanes := lanes.val })
  else .next s

/-! ### Commands of the interface itself -/

/-- The opcodes of Table HIF-7. -/
def opcodes : List Nat :=
  [0x01, 0x02, 0x03, 0x04, 0x08, 0x09, 0x10, 0x18, 0x19, 0x1A, 0x1B, 0x20, 0x21, 0x22, 0x28, 0x30, 0x31, 0x32, 0x38, 0x40, 0x48]

/-- BAD_OPCODE (R408): an opcode that Table HIF-7 does not list completes with BAD_OPCODE. -/
def execBadOpcode (h : CmdHdr) (opcode : Byte) (s : State) : Answer :=
  if opcodes.contains opcode.toNat then .next s
  else .next (s.command h false fun _ x => (x, .done { status := stBadOpcode }))

/-- A long command whose work is its delivery: its result waits for the end of the DMA (R405). -/
def State.deliverLater (s : State) (c : CmdRef) (r : CmdResult) : State × CmdEnd :=
  (s.onHif fun h => { h with finishing := h.finishing ++ [(c, r)] }, .long)

end Sys2Proof.Machine
end

