-- ==== Sys2Proof/Machine/Evr.lean ====
section
/-! DEFINITION. The event recorder (chapter 15). -/
namespace Sys2Proof.Machine

/-- Records stored: NEXT − HEAD (R446). -/
def State.evrCount (s : State) : Nat := s.nvm.evrNext - s.nvm.evrHead

/-- The store holds 65,536 records (R453). -/
def State.evrFull (s : State) : Bool := decide (65536 ≤ s.evrCount)

/-- Writing is held by a freeze or by brace (R454, R456). -/
def State.evrHeldOff (s : State) : Bool := s.evr.frozen || s.evr.held

/-- A record with its SEQ and CRC (R446, R447). -/
def sealRecord (r : List Word) (seq : Nat) : List Word :=
  let d : DWord := BitVec.ofNat 64 seq
  let r1 := setAt (setAt r 1 (lo32 d)) 2 (hi32 d)
  setAt r1 15 (crc32c (bytesOf (r1.take 15)))

/-- Writes that a committed record completes elsewhere: TAMPER clears its latch (R485), CLOCK_HOLD its owed record (R505). DEDUCED (log 78): VBAT_LOST goes with
the latch, since TAMPER is the record of that register. -/
def State.recorded (s : State) (code : Nat) : State :=
  if code = 0x0B01 then s.onAon fun a => { a with tampLatch := 0, vbatLost := false, tampOwed := [] }
  else if code = 0x0C02 then s.onAon fun a => { a with holdUnrecorded := false }
  else s

/-- One record is committed with the next SEQ, and copied to the recorder ring when RING_EN is 1 (R451, R460). -/
def State.commitRecord (s : State) (r : List Word) : State :=
  let seq := s.nvm.evrNext
  let rec_ := sealRecord r seq
  let s1 := s.onNvm fun n => { n with evrSlots := mapSet n.evrSlots (seq % 65536) rec_, evrNext := seq + 1 }
  let s2 := s1.recorded (field (wordAt r 0) 31 16)
  if s2.regBit Reg.evrCfg 0 then
    s2.deliverOr (s2.regField Reg.evrCfg 6 1) 7 (bytesOf rec_) [0x71] Reg.evrRingDropCnt
  else s2

/-- The LOST record of the pending counts (R452, R453); both then return to 0. -/
def State.lostRecord (s : State) : List Word :=
  s.eventWords 0x0001 clsNotice
    [w32 s.evr.lostQueue, w32 s.evr.lostFull, (s.evr.firstLoss.map (·.1)).getD 0, (s.evr.firstLoss.map (·.2)).getD 0] {}

/-- The pending loss counts return to 0. -/
def State.clearLosses (s : State) : State :=
  s.onEvr fun e => { e with lostQueue := 0, lostFull := 0, firstLoss := none }

/-- When the queue has become empty with losses at the queue pending and the store not full, LOST is formed (R452). -/
def State.owedLost (s : State) : State :=
  if s.evr.queue.isEmpty && decide (0 < s.evr.lostQueue) && !s.evrFull then
    let r := s.lostRecord
    s.clearLosses.queueEvent r
  else s

/-- A record is lost at the full store and counted (R453). -/
def State.lostAtStore (s : State) (r : List Word) : State :=
  (s.inc Reg.evrFullCnt).onEvr fun e => { e.loses r with lostFull := e.lostFull + 1 }

/-- The LOST record owed since an erase is written (R453); else the entry at the head of the queue is, or is discarded and counted when the store is full
(R451, R453). -/
def State.drainOne (s : State) : State :=
  match s.evr.owed.filter fun _ => !s.evrFull, s.evr.queue with
  | some r, _ => ((s.onEvr fun e => { e with owed := none }).commitRecord r).owedLost
  | none, [] => s
  | none, r :: rest =>
    let s1 := s.onEvr fun e => { e with queue := rest }
    if s.evrFull then s1.lostAtStore r else (s1.commitRecord r).owedLost

/-- n records are written, or all there are. -/
def State.drain : Nat → State → State
  | 0, s => s
  | n + 1, s => State.drain n s.drainOne

/-- The recorder's part of the brace commit (R456): every entry of the queue with the LOST records owed before and after it (R452, R453), then the BRACE
record, then writing is held. DEDUCED (log 26): the commit is made under a freeze too. -/
def State.evrBrace (s : State) : State :=
  let s1 := State.drain (s.evr.queue.length + 2) s
  let r := s.eventWords 0x0D01 clsNotice [] {}
  let s2 := if s1.evrFull then s1.lostAtStore r else s1.commitRecord r
  s2.onEvr fun e => { e with held := true }

/-- EVR_WRITE (R451 to R453): from start-up step 6, unless a freeze or brace holds writing. -/
def execEvrWrite (s : State) : Answer :=
  if s.evrHeldOff || decide (s.sys.step < 6) || !s.awake then .next s else .next (s.run 1600).drainOne

/-- REC_FREEZE (R454). -/
def execRecFreeze (h : CmdHdr) (s : State) : Answer :=
  .next (s.command h true fun _ x =>
    if x.evr.frozen then (x, .done { status := stState })
    else (x.onEvr fun e => { e with frozen := true, frozenAt := x.tim.mono }, .done { status := stOk }))

/-- REC_THAW (R454). -/
def execRecThaw (h : CmdHdr) (s : State) : Answer :=
  .next (s.command h true fun _ x =>
    if x.evr.frozen then (x.onEvr fun e => { e with frozen := false }, .done { status := stOk })
    else (x, .done { status := stState }))

/-- EVR_CFG.FREEZE_MS, 0 acting as 1 (R462). -/
def State.freezeMs (s : State) : Nat := max 1 (s.regField Reg.evrCfg 31 16)

/-- FREEZE_TIMEOUT (R455): a freeze longer than FREEZE_MS ends by itself. -/
def execFreezeTimeout (s : State) : Answer :=
  if !s.evr.frozen then .next s
  else
    let s1 := s.runToMono (s.evr.frozenAt + s.freezeMs * 1000000)
    let s2 := (s1.onEvr fun e => { e with frozen := false }).inc Reg.evrFreezeToCnt
    .next (s2.event 0x0002 clsLog [w32 s1.freezeMs])

/-- The stored record that the low 32 bits name: its distance from HEAD (R458). -/
def State.evrNamed (s : State) (w : Word) : Nat := (w - w32 s.nvm.evrHead).toNat

/-- The stored words of the record with sequence q, 16 zero words for a slot never written. -/
def State.storedRecord (s : State) (q : Nat) : List Word :=
  (mapGet s.nvm.evrSlots (q % 65536)).getD (List.replicate 16 0)

/-- The first sequence REC_READ delivers, none when nothing can be delivered (R458). -/
def State.readStart (s : State) (first : Word) : Option Nat :=
  let d := s.evrNamed first
  if s.evrCount = 0 then none
  else if d < s.evrCount then some (s.nvm.evrHead + d)
  else if 2 ^ 31 ≤ d then some s.nvm.evrHead
  else none

/-- REC_READ (R458). -/
def execRecRead (h : CmdHdr) (first count : Word) (addr : BitVec 64) (len : Word) (s : State) : Answer :=
  .next (s.command h true fun c x =>
    if count.toNat = 0 || decide (65536 < count.toNat) then (x, .done { status := stBadArg })
    else if len.toNat < 64 then (x, .done { status := stBufSmall })
    else match x.readStart first with
      | none => (x, .done { status := stEmpty })
      | some q =>
        let n := min (min count.toNat (len.toNat / 64)) (x.nvm.evrNext - q)
        let data := (List.range n).flatMap fun i => bytesOf (x.storedRecord (q + i))
        x.deliverLater c { status := stOk, length := 64 * n, result := [w32 q, w32 n], data := data, addr := addr })

/-- REC_ERASE (R459): HEAD moves past the named record; the first record written after a full store is a LOST record (R453). -/
def execRecErase (h : CmdHdr) (upTo : Word) (s : State) : Answer :=
  .next (s.command h true fun _ x =>
    if x.evrHeldOff then (x, .done { status := stState })
    else
      let d := x.evrNamed upTo
      if x.evrCount ≤ d then (x, .done { status := stBadArg })
      else
        let x1 := x.onNvm fun n => { n with evrHead := n.evrHead + d + 1 }
        let x2 := if x.evrFull && (decide (0 < x.evr.lostFull) || decide (0 < x.evr.lostQueue))
          then x1.clearLosses.onEvr fun e => { e with owed := some x1.lostRecord } else x1
        (x2, .done { status := stOk, result := [w32 (d + 1)] }))

/-- A stored record passes its CRC (R451, R461). -/
def recordSound (r : List Word) : Bool := decide (wordAt r 15 = crc32c (bytesOf (r.take 15)))

/-- Checks n stored records from sequence q on, covering the store cyclically (R461). -/
def State.checkRecords : Nat → Nat → State → State
  | 0, q, s => s.onEvr fun e => { e with cursor := q }
  | n + 1, q, s =>
    let q1 := if q < s.nvm.evrHead || s.nvm.evrNext ≤ q then s.nvm.evrHead else q
    let s1 := if recordSound (s.storedRecord q1) then s else (s.inc Reg.evrBadCnt).setReg Reg.evrBadSeq (w32 q1)
    State.checkRecords n (q1 + 1) s1

/-- Power is lost while the recorder writes the head of its queue (R451): the slot holds some of the record's words, never all, and fails its CRC. How many is a
free value. -/
def State.tearRecord (s : State) : State :=
  match s.evr.owed.orElse fun _ => s.evr.queue.head? with
  | none => s
  | some r =>
    if s.evrHeldOff || s.evrFull || decide (s.sys.step < 6) then s
    else
      let (w, s1) := s.freeWord
      let k := w.toNat % 16
      let new := (sealRecord r s.nvm.evrNext).take k ++ (s.storedRecord s.nvm.evrNext).drop k
      s1.onNvm fun n => { n with evrSlots := mapSet n.evrSlots (n.evrNext % 65536) new }

/-- The sequence after the last slot that passes its CRC (R457): 0 when no slot does. -/
def evrScan (slots : List (Nat × List Word)) : Nat :=
  maxOf ((slots.filter fun p => recordSound p.2).map fun p => (dword (wordAt p.2 2) (wordAt p.2 1)).toNat + 1)

end Sys2Proof.Machine
end

