-- ==== Sys2Proof/Machine/Keys.lean ====
section
/-! DEFINITION. NVM writes under brace (R523), stored key slots (R480), working keys and the masked register and cache
(R473 to R476). -/
namespace Sys2Proof.Machine

/-! ### NVM writes -/

/-- The counts in a bank (R315). -/
def Bank.totals (b : Bank) : List (BitVec 64) := (List.range 32).map fun a => dword (wordAt b.words (2 * a + 1)) (wordAt b.words (2 * a))
/-- The wrap counts in a bank (R315). -/
def Bank.wraps (b : Bank) : List Nat := (List.range 32).map fun a => (wordAt b.words (64 + a)).toNat
/-- WRAP_SEEN in a bank (R315). -/
def Bank.seen (b : Bank) : Word := wordAt b.words 96
/-- The latch sequence number of a bank (R315). -/
def Bank.seq (b : Bank) : Nat := (dword (wordAt b.words 98) (wordAt b.words 97)).toNat
/-- The CRC-32C of a bank passes (R315). -/
def Bank.sound (b : Bank) : Bool := decide (wordAt b.words 99 = crc32c (bytesOf (b.words.take 99)))

/-- A bank of these contents with its CRC-32C (R315). -/
def Bank.seal (totals : List (BitVec 64)) (wraps : List Nat) (seen : Word) (seq : Nat) : Bank :=
  let d : DWord := BitVec.ofNat 64 seq
  let ws := ((List.range 32).flatMap fun a => let t := totals.getD a 0; [lo32 t, hi32 t]) ++ ((List.range 32).map fun a => w32 (wraps.getD a 0)) ++
    [seen, lo32 d, hi32 d]
  { words := ws ++ [crc32c (bytesOf ws)] }

/-- The bank that restores a point: the sound one of the higher sequence number, whether it is the second, and the code of RESTORE (R315, R326). -/
def restoredBank (b : Bank × Bank) : Option (Bank × Bool × Nat) :=
  let later := decide (b.1.seq ≤ b.2.seq)
  let hi := if later then b.2 else b.1
  let lo := if later then b.1 else b.2
  if hi.sound then some (hi, later, 0) else if lo.sound then some (lo, !later, 1) else none

/-- A bank of point p is written: the one after that last written or restored, so that writes alternate (R315). What it held and when its write began stay
known while the write may be torn. -/
def State.writeBank (s : State) (p : Nat) (n : Bank) : State :=
  let second := (s.nrg.points.getD p {}).second
  let b := s.nvm.banks.getD p (.blank, .blank)
  (s.onNrg fun x => { x with points := modifyAt x.points p fun q =>
    { q with second := !second, wrote := some (s.tim.mono, if second then b.2 else b.1) } }).onNvm fun x =>
    { x with banks := setAt x.banks p (if second then (b.1, n) else (n, b.2)) }

/-- Power is lost (R315, R521): a bank whose write began less than 1 ms ago may be torn. How many of its words hold the new contents is a free value. -/
def State.tearBank (s : State) (p : Nat) : State :=
  let q := s.nrg.points.getD p {}
  match q.wrote with
  | none => s
  | some (t, old) =>
    if t + 1000000 ≤ s.tim.mono then s
    else
      let (w, s1) := s.freeWord
      let torn (n : Bank) : Bank := { words := let k := w.toNat % 101; n.words.take k ++ old.words.drop k }
      s1.onNvm fun x => { x with banks := modifyAt x.banks p fun b => if q.second then (torn b.1, b.2) else (b.1, torn b.2) }

/-- Every bank whose write power loss may tear. -/
def State.tearBanks (s : State) : State := (List.range 4).foldl State.tearBank s

/-- An NRG_RELEASE is carried out (R471): both banks and the totals are 0, NRG_HELD clears, and the release is recorded. -/
def State.releaseTotals (s : State) : State :=
  let s1 := (s.onNvm fun n => { n with banks := List.replicate 4 (.blank, .blank), nrgHeld := false }).onNrg fun x =>
    { x with points := x.points.map fun p => { p with acc := List.replicate 32 0, totals := List.replicate 32 0, wraps := List.replicate 32 0, seq := 0, second := false, wrote := none } }
  let s2 := (List.range 4).foldl (fun (x : State) p =>
    (List.range 32).foldl (fun (y : State) a => y.setReg (Reg.nrgCnt p a) 0) ((x.setReg (Reg.nrgPtLatchCnt p) 0).setReg (Reg.nrgPtWrapSeen p) 0)) s1
  s2.event 0x0B03 clsNotice [3, 3]

/-- A key slot replaced in NVM. -/
def State.setSlot (s : State) (n : Nat) (k : KeySlot) : State := s.onNvm fun v => { v with slots := setAt v.slots n k }

/-- One copy of a key slot is written (R481). -/
def State.writeCopy (s : State) (n copy : Nat) (bytes : List Byte) : State :=
  s.onNvm fun v => { v with slots := modifyAt v.slots n fun k => if copy = 0 then { k with copyA := bytes } else { k with copyB := bytes } }

/-- An NVM write takes effect. What else the end of a slot command or of a claim does comes with its release. -/
def State.applyNvm (s : State) : NvmWrite → State
  | .ticket ws => s.onNvm fun n => { n with ticket := if ws.isEmpty then none else some ws }
  | .session v => s.onNvm fun n => { n with session := v }
  | .tickId k => s.onNvm fun n => { n with tickId := some k }
  | .bank p b => s.writeBank p b
  | .nrgZero => s.releaseTotals
  | .copy n c bytes => s.writeCopy n c bytes
  | .slot _ => s
  | .epoch e => s.onNvm fun n => { n with epoch := e }

/-- A bank write of point p. -/
def NvmWrite.ofPoint (w : NvmWrite) (p : Nat) : Bool :=
  match w with
  | .bank q _ => decide (q = p)
  | _ => false

/-- An NVM write requested now: brace holds it, in the order requested (R522, R523); a bank replaces the held one of its point (R316). -/
def State.nvmWrite (s : State) (w : NvmWrite) : State :=
  if s.pwr.brace then
    s.onPwr fun p =>
      { p with held := (match w with | .bank q _ => p.held.filter (fun x => !x.ofPoint q) | _ => p.held) ++ [w] }
  else s.applyNvm w

/-! ### Key slots -/

/-- ROOT_SECRET as bytes (Table SEC-1). -/
def rootSecret : List Byte := (List.range 32).map Config.rootSecret

/-- FW_KEY_HASH as bytes (Table SEC-1). -/
def fwKeyHash : List Byte := (List.range 32).map Config.fwKeyHash

/-- The ASCII bytes of a label (R473). -/
def ascii (t : String) : List Byte := t.toList.map fun c => BitVec.ofNat 8 c.toNat

/-- The working key that wraps slot n (Table SEC-5, SLOTWRAP). -/
def wrapKey (slot : Nat) : List Byte := kdf rootSecret (ascii "TROLOR880 SLOTWRAP") [BitVec.ofNat 8 slot]

/-- The IV of a slot copy (R480). DEDUCED (log 32): slot number, copy index and generation, 4 bytes each, little-endian. -/
def slotIv (slot copy gen : Nat) : List Byte := leNat 4 slot ++ leNat 4 copy ++ leNat 4 gen

/-- A buffer encrypted as a copy of its slot: ciphertext, then tag (R480). -/
def wrapCopy (slot copy gen : Nat) (buf : List Byte) : List Byte :=
  let r := gcmSeal (wrapKey slot) (slotIv slot copy gen) [] buf
  r.1 ++ r.2

/-- COPY of a marker (R480). -/
def markerCopy (m : BitVec 64) : Nat := m.toNat % 2
/-- VALID of a marker (R480). -/
def markerValid (m : BitVec 64) : Bool := m.getLsbD 1
/-- GEN of a marker (R480). -/
def markerGen (m : BitVec 64) : Nat := (lo32 m).toNat / 4
/-- The marker's CRC is right (R480). -/
def markerSound (m : BitVec 64) : Bool := decide (hi32 m = crc32c (leBytes (lo32 m)))

/-- A marker of these fields with its CRC (R480). -/
def markerOf (copy gen : Nat) (valid : Bool) : BitVec 64 :=
  let l : Word := place (copy % 2) 0 ||| placeB valid 1 ||| w32 (gen * 4)
  dword (crc32c (leBytes l)) l

/-- CHECK of a key slot buffer (Table SEC-6). -/
def slotCheckOk (buf : List Byte) : Bool := decide (wordLe (buf.drop 60) = crc32c (buf.take 60))

/-- The buffer that a slot's current copy holds, if the marker and the copy are sound (R480, R482). -/
def KeySlot.content (k : KeySlot) (slot : Nat) : Option (List Byte) :=
  if !markerSound k.marker || !markerValid k.marker then none
  else
    let c := if markerCopy k.marker = 0 then k.copyA else k.copyB
    match gcmOpen (wrapKey slot) (slotIv slot (markerCopy k.marker) (markerGen k.marker)) [] (c.take 64) (c.drop 64) with
    | none => none
    | some buf => if slotCheckOk buf then some buf else none

/-- The code of a slot in SEC_SLOT_STATUS: 0 EMPTY, 1 VALID, 2 BAD (R482, R492). -/
def KeySlot.status (k : KeySlot) (slot : Nat) : Nat :=
  if !markerSound k.marker then 2
  else if !markerValid k.marker then 0
  else if (k.content slot).isSome then 1 else 2

/-- Slot n of the NVM. -/
def State.keySlot (s : State) (n : Nat) : KeySlot := s.nvm.slots.getD n KeySlot.empty

/-- A slot is checked: its status and KEY_ID show, and a slot found BAD forms one record per start-up (R482). -/
def State.checkSlot (s : State) (n : Nat) : State :=
  let st := (s.keySlot n).status n
  let id := match (s.keySlot n).content n with
    | some b => ofLe ((b.drop 2).take 2)
    | none => 0
  let s1 := s.onSec fun x => { x with slotStatus := setAt x.slotStatus n st, keyIds := setAt x.keyIds n id }
  if st = 2 && !s.sec.badReported.contains n then
    ((s1.onSec fun x => { x with badReported := n :: x.badReported }).inc Reg.secSlotBadCnt).event 0x0B02 clsNotice [w32 n]
  else s1

/-! ### Working keys -/

@[reducible] def purposeGreaz : Nat := 0x01
@[reducible] def purposeArchive : Nat := 0x02
@[reducible] def purposeWrap : Nat := 0x03

/-- GZL_CFG.KEY_SLOT: the stored slot of the link key (R423). -/
def State.linkSlot (s : State) : Nat := s.regField Reg.gzlCfg 7 4

/-- GZL_CFG.UNIT. -/
def State.unit (s : State) : Nat := s.regField Reg.gzlCfg 1 1

/-- The context of the link's key: both SESSIONs, that of UNIT 0 first, zeros until the session is up (R423, Table SEC-5). -/
def State.linkCtx (s : State) : List Byte :=
  if !s.gzl.linkUp then List.replicate 8 0
  else
    let own := leBytes s.gzl.session
    let other := leBytes s.gzl.partnerSession
    if s.unit = 0 then own ++ other else other ++ own

/-- The key unit serves: the lifecycle allows it, no KEY_LOCK, not TAMPERED (Table SEC-2, R486, R487). -/
def State.keyUnitServes (s : State) : Bool := s.inService && !s.sec.keyLock && !s.sys.tampered

/-- The working key of a purpose and context (Table SEC-5); none when its slot is not usable (R482). -/
def State.workingKey (s : State) (purpose : Nat) (ctx : List Byte) : Option (List Byte) :=
  if purpose = purposeGreaz then
    ((s.keySlot s.linkSlot).content s.linkSlot).map fun b => kdf ((b.drop 4).take 32) (ascii "TROLOR880 GREAZ") ctx
  else if purpose = purposeArchive then some (kdf rootSecret (ascii "TROLOR880 ARCHIVE") ctx)
  else if purpose = purposeWrap then some (wrapKey (ofLe ctx))
  else none

/-- A key entry answers a purpose, a context and, for GREAZ, the link's slot (R475, R476). -/
def MaskedKey.answers (k : MaskedKey) (purpose : Nat) (ctx : List Byte) (slot : Option Nat) : Bool :=
  decide (k.purpose = purpose) && decide (k.ctx = ctx) && decide (k.slot = slot)

/-- The key unmasked (R475). -/
def MaskedKey.key (k : MaskedKey) : List Byte := xorBytes k.s k.m

/-- The key that the key register holds, or that a cache entry brings into it (R476). -/
def State.heldKey (s : State) (purpose : Nat) (ctx : List Byte) (slot : Option Nat) : State × Option (List Byte) :=
  match s.sec.key.filter (·.answers purpose ctx slot) with
  | some k => (s, some k.key)
  | none =>
    match s.sec.cache.find? (·.answers purpose ctx slot) with
    | some k => (s.onSec fun x => { x with key := some k, cache := k :: x.cache.erase k }, some k.key)
    | none => (s, none)

/-- A derived key goes into the register and the cache (R476). -/
def State.deriveKey (s : State) (purpose : Nat) (ctx : List Byte) (slot : Option Nat) (ko : List Byte) : State :=
  let (m, s1) := s.freeBytes 32
  let e : MaskedKey := { s := xorBytes ko m, m := m, purpose := purpose, ctx := ctx, slot := slot }
  (s1.onSec fun x => { x with key := some e, cache := (e :: x.cache).take 4 }).inc Reg.secDeriveCnt

/-- Slot n's SLOTWRAP key is brought into the key register (Table SEC-5). -/
def State.loadWrapKey (s : State) (n : Nat) : State :=
  match s.heldKey purposeWrap [BitVec.ofNat 8 n] none with
  | (s1, some _) => s1
  | (s1, none) => s1.deriveKey purposeWrap [BitVec.ofNat 8 n] none (wrapKey n)

/-- The unwrap of slot n, a job under its SLOTWRAP key, with the check that every unwrap makes (R477, R482). A slot whose marker names no copy is checked
without one. -/
def State.unwrapSlot (s : State) (n : Nat) : State :=
  let m := (s.keySlot n).marker
  (if s.keyUnitServes && markerSound m && markerValid m then (s.loadWrapKey n).inc Reg.secJobCnt else s).checkSlot n

/-- Slots 0 to 15 are checked in order (R482). DEDUCED (log 68): these unwraps belong to start-up, so that R476 counts none of them as since start-up. -/
def State.checkSlots (s : State) : State := (List.range 16).foldl State.unwrapSlot s

/-- The unwrap that comes before a derivation from a slot not yet unwrapped since start-up or since it last changed (R476). -/
def State.unwrapFirst (s : State) (n : Nat) : State :=
  if s.sec.unwrapped.getLsbD n then s else (s.unwrapSlot n).onSec fun x => { x with unwrapped := x.unwrapped ||| 1 <<< n }

/-- The unwrap before a derivation, where the key comes from a slot (R476). -/
def State.unwrapBefore (s : State) (slot : Option Nat) : State :=
  match slot with
  | some n => s.unwrapFirst n
  | none => s

/-- The working key is brought into the key register: from the register, from the cache, or derived into both (R476). Answers none
when the key unit does not serve it. -/
def State.loadKey (s : State) (purpose : Nat) (ctx : List Byte) : State × Option (List Byte) :=
  let slot := if purpose = purposeGreaz then some s.linkSlot else none
  if !s.keyUnitServes then (s, none)
  else match s.heldKey purpose ctx slot with
    | (s1, some k) => (s1, some k)
    | (s1, none) =>
      let s2 := s1.unwrapBefore slot
      match s2.workingKey purpose ctx with
      | none => (s2, none)
      | some ko => (s2.deriveKey purpose ctx slot ko, some ko)

/-- The ticket that is pending (R469): one that brace still holds, or that of NVM. -/
def State.pendingTicket (s : State) : Option (List Word) :=
  s.pwr.held.foldl (fun t w => match w with
    | .ticket ws => if ws.isEmpty then none else some ws
    | _ => t) s.nvm.ticket

/-- Keys and key jobs are cleared: a job in progress is aborted and its command completes with TAMPER (R478, R485). -/
def State.clearKeys (s : State) : State :=
  let s1 := if s.sec.jobs.isEmpty then s else s.inc Reg.secAbortCnt
  let s2 := s.sec.jobs.foldl (fun (x : State) j => match j with
    | .derive c _ _ _ => x.finish c { status := stTamper }
    | _ => x) s1
  let s3 := s.sec.writes.foldl (fun (x : State) w => x.finish w.ref { status := stTamper }) s2
  let s4 := s3.onArc fun a =>
    { a with
      ended := a.ended.map fun b => match b.state with
        | .waiting _ => { b with state := .failed }
        | _ => b
      replay := a.replay.map fun r => if 0 < r.jobs then { r with jobs := 0, aborted := true } else r }
  s4.onSec fun x => { x with key := none, cache := [], jobs := [], writes := [] }

/-- The keys derived from one slot are cleared (R478, R483). -/
def State.clearSlotKeys (s : State) (n : Nat) : State :=
  s.onSec fun x =>
    { x with
      unwrapped := x.unwrapped &&& ~~~((1 : BitVec 16) <<< n)
      key := x.key.filter fun k => decide (k.slot ≠ some n)
      cache := x.cache.filter fun k => decide (k.slot ≠ some n) }

end Sys2Proof.Machine
end

