-- ==== Sys2Proof/Machine/Link.lean ====
section
/-! DEFINITION. The Greaz link: frames, the sender's window, session, state regions of the column in process (R421 to R427). -/
namespace Sys2Proof.Machine

/-! ### Frames (Tables GZL-1, GZL-2) -/

/-- TYPE of a frame (Table GZL-2). -/
def linkType : LinkBody → Nat
  | .hello _ => 0x01
  | .heartbeat _ => 0x02
  | .ack => 0x03
  | .nak => 0x04
  | .state _ => 0x10
  | .tickEnd _ => 0x11
  | .alarm _ => 0x12
  | .swap _ _ => 0x13

/-- The words of a body (Table GZL-2). DESIGN CHOICE (log 39): the spec gives the contents of a body and not its layout; each field takes a word, or two for
64 bits, in the table's order, and a flag shares the word before it. -/
def linkWords : LinkBody → List Word
  | .hello b => [lo32 b.serial, hi32 b.serial, w32 b.unit, b.session, b.epoch, w32 b.role.code, b.imageSerial]
  | .heartbeat b =>
    [w32 b.role.code ||| placeB b.stateValid 8 ||| placeB b.hasInstant 9, b.epoch, lo32 b.tick, hi32 b.tick, b.soc, w32 b.index, b.imageSerial]
  | .ack => []
  | .nak => []
  | .state b => [w32 b.region.toNat ||| placeB b.last 16, lo32 b.tick, hi32 b.tick, w32 b.offset] ++ b.data
  | .tickEnd b => [lo32 b.tick, hi32 b.tick, b.soc, w32 b.index, w32 b.frames, placeB b.complete 0, b.imageSerial, w32 b.variant]
  | .alarm rs => rs.flatten
  | .swap e t => [e, lo32 t, hi32 t]

/-- Bytes of a frame with its header and tag (R422). -/
def linkSize (b : LinkBody) : Nat := 32 + 4 * (linkWords b).length

/-- The header of a frame of device `unit` (Table GZL-1). -/
def linkHeader (unit : Nat) (seq : Word) (ctr : Nat) (b : LinkBody) : List Word :=
  [w32 (linkType b) ||| place unit 8, seq, w32 ctr, place (ctr / 2 ^ 32 % 2 ^ 16) 0 ||| place (4 * (linkWords b).length) 16]

/-- The IV of a frame: SESSION of the sender, CTR, DIR, 0 (R422). -/
def linkIv (session : Word) (ctr unit : Nat) : List Byte := leBytes session ++ leNat 6 ctr ++ [BitVec.ofNat 8 unit, 0]

/-- A frame as it is transmitted: its header as additional data, its body encrypted, its tag (R422). -/
def linkFrame (key : List Byte) (session : Word) (unit : Nat) (seq : Word) (ctr : Nat) (b : LinkBody) : List Byte :=
  let h := bytesOf (linkHeader unit seq ctr b)
  let sealed_ := gcmSeal key (linkIv session ctr unit) h (bytesOf (linkWords b))
  h ++ sealed_.1 ++ sealed_.2

/-- HELLO frames use the key of context 0, and SESSION 0 in the IV (R423). -/
def linkIsHello : LinkBody → Bool
  | .hello _ => true
  | _ => false

/-- The key of a link frame is loaded (R423): of context 0 for HELLO, else of the two SESSIONs. -/
def State.frameKey (s : State) (hello : Bool) : State × Option (List Byte) :=
  s.loadKey purposeGreaz (if hello then List.replicate 8 0 else s.linkCtx)

/-- A link frame's job at the key unit (R422, R477): it is sealed under its key with the next CTR and transmitted. Without the key nothing is transmitted. -/
def State.frameJob (s : State) (seq : Word) (b : LinkBody) : State :=
  match s.frameKey (linkIsHello b) with
  | (s1, none) => s1
  | (s1, some key) =>
    ((s1.onGzl fun g =>
      let ctr := g.txCtr + 1
      { g with txCtr := ctr, wire := some (linkFrame key (if (linkIsHello b) then 0 else g.session) s.unit seq ctr b) }).inc Reg.gzlTxFrameCnt).inc Reg.secJobCnt

/-- The window holds at most 256 KiB (R426). -/
@[reducible] def linkWindow : Nat := 262144

/-- Bytes of the unacknowledged frames. -/
def windowBytes (w : List TxFrame) : Nat := (w.map fun f => linkSize f.body).sum

/-- Frames are given to the key unit, each a job of its own (R477), with their SEQ. -/
def State.linkTx (s : State) (fs : List (Word × LinkBody)) : State :=
  s.onSec fun x => { x with jobs := x.jobs ++ fs.map fun f => KeyJob.link f.1 f.2 }

/-- Stalled frames enter the window as far as it has room, in order (R426). -/
def State.pump : Nat → State → State
  | 0, s => s
  | n + 1, s =>
    match s.gzl.stalled with
    | [] => s
    | b :: rest =>
      if linkWindow < windowBytes s.gzl.window + linkSize b then s
      else State.pump n ((s.onGzl fun g =>
        { g with stalled := rest, window := g.window ++ [{ seq := g.txSeq, body := b }], txSeq := g.txSeq + 1 }).linkTx [(w32 s.gzl.txSeq, b)])

/-- A sequenced frame is given to the link; without a session it goes nowhere. -/
def State.sendSeq (s : State) (b : LinkBody) : State :=
  if !s.gzl.linkUp then s
  else
    let s1 := s.onGzl fun g => { g with stalled := g.stalled ++ [b] }
    State.pump s1.gzl.stalled.length s1

/-- A control frame is sent, SEQ the highest number applied for an ACK, the first one missing for a NAK, else the next own number (Table GZL-1). -/
def State.sendControl (s : State) (b : LinkBody) : State :=
  s.linkTx [(match b with
    | .ack => w32 s.gzl.rxSeq
    | .nak => w32 (s.gzl.rxSeq + 1)
    | _ => w32 s.gzl.txSeq, b)]

/-- SCH_ACTIVE_SERIAL: the SERIAL of the active image, 0 with none. -/
def State.activeSerial (s : State) : Word := if s.imageActive then imgSerial s.img else 0

/-! ### Session (R424) -/

/-- Lanes that hold block lock, on a device that uses the link. -/
def State.lanes (s : State) : Nat := if s.gzlOn then (if s.gzl.lane0 then 1 else 0) + (if s.gzl.lane1 then 1 else 0) else 0

/-- SESSION as NVM holds it, or will once brace lets the writes it holds go (R424, R523). -/
def State.lastSession (s : State) : Word := s.pwr.held.foldl (fun v w => match w with | .session x => x | _ => v) s.nvm.session

/-- A HELLO exchange starts: SESSION is incremented in NVM (R424); brace holds that write (R523), the session number counting on. -/
def State.startHello (s : State) : State :=
  if decide (0 < s.lanes) && s.keyUnitServes && decide (13 ≤ s.sys.step) && !s.gzl.hello && !s.gzl.linkUp then
    let v := s.lastSession + 1
    (s.onGzl fun g =>
      { g with
        hello := true, session := v, txSeq := 1, rxSeq := 0, rxGap := false, unacked := 0
        badTags := 0, window := [], stalled := [], rx := [], rxBad := false }).nvmWrite (.session v)
  else s

/-- The causes of LINK_DOWN in the order of Table GZL-6. -/
@[reducible] def downLanes : Nat := 0
@[reducible] def downTags : Nat := 1
@[reducible] def downSilence : Nat := 2
@[reducible] def downKey : Nat := 3

/-- A job that seals a link frame (R477). -/
def KeyJob.isLink : KeyJob → Bool
  | .link _ _ => true
  | _ => false

/-- The session ends (R424): unacknowledged frames and those not yet sealed are discarded; an exchange not completed ends without a record. -/
def State.sessionEnds (s : State) (cause : Nat) : State :=
  let s1 := (s.onGzl fun g => { g with hello := false, linkUp := false, window := [], stalled := [], rx := [], rxBad := false }).onSec fun x =>
    { x with jobs := x.jobs.filter fun j => !j.isLink }
  if s.gzl.linkUp then
    ((s1.inc Reg.gzlLinkDownCnt).setBits Reg.gzlFault (bit 3)).event 0x0A06 clsNotice [w32 cause]
  else s1

/-! ### Regions of the column in process (R427) -/

/-- The STATE frames of a region: at most 4,096 bytes of data each, LAST on the final one. -/
def regionFrames (region tick : Nat) : Nat → Nat → List Word → List LinkBody
  | 0, _, _ => []
  | n + 1, off, ws =>
    let data := ws.take 1024
    let rest := ws.drop 1024
    .state { region := BitVec.ofNat 16 region, last := rest.isEmpty, tick := BitVec.ofNat 64 tick, offset := off, data := data } ::
      (if rest.isEmpty then [] else regionFrames region tick n (off + 4096) rest)

/-- A region of the column in process is handed to the link (R427); with the link down nothing is sent and the copy is not complete. -/
def State.sendRegion (s : State) (region : Nat) (words : List Word) : State :=
  match s.tck.proc with
  | none => s
  | some p =>
    if s.gzl.role ≠ .active then s
    else if !s.gzl.linkUp then s.onGzl fun g => { g with copy := { g.copy with complete := false } }
    else
      let fs := regionFrames region p.tick (words.length / 1024 + 1) 0 words
      (fs.foldl State.sendSeq s).onGzl fun g => { g with copy := { g.copy with frames := g.copy.frames + fs.length } }

/-- A region that could not be handed over (R94): nothing is sent for it. -/
def State.skipRegion (s : State) : State := s.onGzl fun g => { g with copy := { g.copy with complete := false } }

/-- The tick's TICK_END is given to the link (R427). -/
def State.sendTickEnd (s : State) (p : Proc) : State :=
  let seq := s.gzl.txSeq + s.gzl.stalled.length
  (s.sendSeq (.tickEnd
    { tick := BitVec.ofNat 64 p.tick, soc := s.soc p.sec, index := p.index, frames := s.gzl.copy.frames, complete := s.gzl.copy.complete,
      imageSerial := s.activeSerial, variant := p.variant })).onGzl fun g => { g with copy := { g.copy with tickEnd := some seq } }

end Sys2Proof.Machine
end

