-- ==== Sys2Proof/Machine/Ports.lean ====
section
/-! DEFINITION. The ports: modes, the PRP or HSR pair, duplicate discard, transmit queues (R102 to R109, R130, R136). -/
namespace Sys2Proof.Machine

/-! ### Bytes of frames -/

/-- The big-endian 16-bit value at an offset of a frame. -/
def be16 (bs : List Byte) (off : Nat) : Nat := ofBe ((bs.drop off).take 2)
/-- n bytes of a frame from an offset. -/
def sub (bs : List Byte) (off n : Nat) : List Byte := (bs.drop off).take n
/-- A frame zero-padded to 60 bytes, 64 with its FCS. -/
def pad60 (bs : List Byte) : List Byte := bs ++ List.replicate (60 - bs.length) 0

/-! ### Modes -/

/-- SPEED of port n. -/
def State.speed (s : State) (n : Nat) : Nat := s.regField (Reg.prtCfg n) 1 0
/-- FEC of port n. -/
def State.fec (s : State) (n : Nat) : Nat := s.regField (Reg.prtCfg n) 3 2
/-- A combination of SPEED and FEC of Table PRT-1. -/
def modeOk (speed fec : Nat) : Bool :=
  match speed with
  | 0 => decide (fec = 0)
  | 1 => decide (fec = 0)
  | 2 => decide (fec ≤ 1)
  | _ => decide (fec ≤ 2)
/-- JUMBO of port n. -/
def State.jumbo (s : State) (n : Nat) : Bool := s.regBit (Reg.prtCfg n) 5

/-- PRT_PAIR_CFG.MODE, 3 treated as 0 (R142). -/
def State.pairMode (s : State) : Nat :=
  let m := s.regField Reg.prtPairCfg 1 0
  if m = 3 then 0 else m
/-- Ports 0 and 1 hold the same non-zero SPEED and the same FEC (R104). -/
def State.pairMatches (s : State) : Bool :=
  decide (s.speed 0 = s.speed 1) && decide (s.speed 0 ≠ 0) && decide (s.fec 0 = s.fec 1)
/-- The pair is active (R104). -/
def State.pairActive (s : State) : Bool := decide (s.pairMode ≠ 0) && s.pairMatches
/-- PRT_PAIR_STATUS.MISMATCH: both ports stay down (R104). -/
def State.pairMismatch (s : State) : Bool := decide (s.pairMode ≠ 0) && !s.pairMatches
/-- Port n belongs to the active pair. -/
def State.inPair (s : State) (n : Nat) : Bool := decide (n < 2) && s.pairActive
/-- The port whose addresses port n uses: those of port 0 for an active pair (R104). -/
def State.addrPort (s : State) (n : Nat) : Nat := if s.inPair n then 0 else n

/-- Port n. -/
def State.port (s : State) (n : Nat) : Port := s.prt.ports.getD n {}
/-- Port n rewritten. -/
def State.onPort (s : State) (n : Nat) (f : Port → Port) : State := s.onPrt fun p => { p with ports := modifyAt p.ports n f }
/-- The sluice of port n is open (Table CLK-5). -/
def State.portGate (s : State) (n : Nat) : Bool := s.gate (41 + n) && s.gate 40
/-- Port n can hold a link: its mode is valid and not disabled, the SerDes are up, the pair does not mismatch, NET runs from its source and
its sluice is open (R102, R104, R109, R504, R507). -/
def State.portReady (s : State) (n : Nat) : Bool :=
  modeOk (s.speed n) (s.fec n) && decide (s.speed n ≠ 0) && s.prt.serdes && !(s.pairMismatch && decide (n < 2)) &&
  !(s.clk.fallback.getD 5 false) && s.portGate n && !(s.port n).disabled && s.awake
/-- Port n is up. -/
def State.portUp (s : State) (n : Nat) : Bool := (s.port n).link && s.portReady n

/-- The MAC address of a port's node, in wire order (R141). -/
def State.mac (s : State) (n : Nat) : List Byte :=
  leBytes (s.reg (Reg.prtMacLo (s.addrPort n))) ++ (leBytes (s.reg (Reg.prtMacHi (s.addrPort n)))).take 2
/-- PRT_IPV4n of a port's node. -/
def State.ipv4 (s : State) (n : Nat) : List Byte := leBytes (s.reg (Reg.prtIpv4 (s.addrPort n)))
/-- PRT_IPV6n of a port's node. -/
def State.ipv6 (s : State) (n : Nat) : List Byte :=
  (List.range 4).flatMap fun i => leBytes (s.reg (Reg.prtIpv6 (s.addrPort n) i))

/-! ### Queues -/

/-- Transmit priority of a frame (Table PRT-2). -/
def TxKind.priority : TxKind → Nat
  | .goose => 1
  | .ptpEvent => 2
  | .forwarded => 3
  | .stream => 4
  | .general => 5

/-- Frames that muting discards (R136). -/
def TxKind.muted : TxKind → Bool
  | .goose => true
  | .stream => true
  | _ => false

/-- A frame is queued at port n: counted and discarded while the port is down or disabled (R109), or muted (R136). -/
def State.enqueue (s : State) (n : Nat) (x : TxItem) : State :=
  if !s.portUp n then s.inc (Reg.prtTxDropCnt n)
  else if s.muted && x.kind.muted then s.inc (Reg.prtTxMutedCnt n)
  else s.onPort n fun p => { p with queue := p.queue ++ [x] }

/-- Every frame queued at port n is discarded and counted (R109). -/
def State.dropQueue (s : State) (n : Nat) : State :=
  (s.onPort n fun p => { p with queue := [] }).add (Reg.prtTxDropCnt n) (s.port n).queue.length

/-- Where the LSDU of a frame begins: after the addresses, a VLAN tag if there is one, and the EtherType. -/
def lsduAt (bs : List Byte) : Nat := if be16 bs 12 = 0x8100 then 18 else 14

/-- A frame with its redundancy control trailer for a LAN (R105): sequence number, LAN identifier and LSDU size, suffix. -/
def withTrailer (bs : List Byte) (seq lan : Nat) : List Byte :=
  let p := pad60 bs
  p ++ beNat 2 seq ++ beNat 2 (lan * 4096 + (p.length - lsduAt p + 6) % 4096) ++ [0x88, 0xFB]

/-- A frame with its HSR tag for a path (R106). -/
def withTag (bs : List Byte) (seq path : Nat) : List Byte :=
  let h := lsduAt bs - 2
  bs.take h ++ [0x89, 0x2F] ++ beNat 2 (path * 4096 + (bs.length - h + 4) % 4096) ++ beNat 2 seq ++ bs.drop h

/-- A frame as port n of the active pair sends it. DESIGN CHOICE (log 90): a short frame is padded to Ethernet's 64 bytes before its trailer or tag is added. -/
def State.pairFrame (s : State) (n : Nat) (bs : List Byte) : List Byte :=
  if s.pairMode = 1 then withTrailer bs s.prt.seq (0xA + n) else withTag (pad60 bs) s.prt.seq n

/-- A frame of the node is sent: on port n, or, when the port belongs to the active pair, on both of its ports (R104 to R106, R135). -/
def State.send (s : State) (n : Nat) (x : TxItem) : State :=
  if s.inPair n then
    let s1 := s.enqueue 0 { x with bytes := s.pairFrame 0 x.bytes }
    (s1.enqueue 1 { x with bytes := s.pairFrame 1 x.bytes }).onPrt fun p => { p with seq := (p.seq + 1) % 65536 }
  else s.enqueue n { x with bytes := pad60 x.bytes }

/-- The frame to send next: the first of the highest priority (R130). -/
def nextFrame (q : List TxItem) : Option TxItem :=
  (List.range 6).findSome? fun p => q.find? fun x => decide (x.kind.priority = p)

/-- Frames that muting catches in the queue of port n are discarded and counted (R136). -/
def State.purgeMuted (s : State) (n : Nat) : State :=
  if !s.muted then s
  else
    let gone := (s.port n).queue.filter fun x => x.kind.muted
    (s.onPort n fun p => { p with queue := p.queue.filter fun x => !x.kind.muted }).add (Reg.prtTxMutedCnt n) gone.length

/-! ### Link -/

/-- The time in ns that a frame takes to leave port n: preamble, bytes and FCS at the line rate of its mode (Table PRT-1). -/
def State.frameTime (s : State) (n len : Nat) : Nat :=
  ((len + 12) * (match s.speed n with
    | 1 => 8000
    | 2 => 800
    | _ => 320) + 999) / 1000

/-- A frame that port n is still sending is aborted: it counts as dropped, not as transmitted (R109). -/
def State.abortFrame (s : State) (n : Nat) : State :=
  if s.tim.mono < (s.port n).busyUntil then
    ((s.onPort n fun p => { p with sent := none, busyUntil := 0 }).inc (Reg.prtTxDropCnt n)).add (Reg.prtTxCnt n) (2 ^ 32 - 1)
  else s

/-- Port n goes down: the frame in transmission is aborted, its queue is discarded, each counted (R109). -/
def State.portDown (s : State) (n : Nat) : State :=
  ((s.abortFrame n).dropQueue n).onPort n fun p => { p with link := false, fecLock := false }

/-- Port n loses link (R109, PRT_LINK_DOWN_CNTn). -/
def State.linkLost (s : State) (n : Nat) : State :=
  if !(s.port n).link then s else (s.portDown n).inc (Reg.prtLinkDownCnt n)

/-- PORT_LINK_DOWN (R32, R109, R139): the faults are those that the port's PCS receives. -/
def execPortLinkDown (loss : LinkLoss) (s : State) : Host.Outcome State Fault Refusal :=
  .next ((s.linkLost loss.port.val).onPort loss.port.val fun p => { p with localFault := loss.localFault, remoteFault := loss.remoteFault })

/-- PORT_LINK_UP (R32): a port whose mode and clocks allow it trains. -/
def execPortLinkUp (n : Fin 4) (s : State) : Host.Outcome State Fault Refusal :=
  if s.portReady n.val then
    .next (s.onPort n.val fun p =>
      { p with link := true, localFault := false, remoteFault := false, fecLock := decide (s.fec n.val ≠ 0) })
  else .next s

/-- A write of PRT_CTLn.DISABLE (R109): transmission and reception stop at once and the queue is discarded, or the port restarts. -/
def State.disablePort (s : State) (n : Nat) (d : Bool) : State :=
  if d then (s.portDown n).onPort n fun p => { p with disabled := true }
  else s.onPort n fun p => { p with disabled := false }

/-! ### Duplicate discard (R107) -/

/-- The table without sources silent for 400 ms. -/
def ddLive (dd : List DdEntry) (now : Nat) : List DdEntry := dd.filter fun e => decide (now < e.time + 400000000)

/-- A frame of a source and sequence number is looked up and entered. DESIGN CHOICE (log 90): the window is the last 64 distinct numbers received. `dir` marks directions it is now forwarded in. Answers whether it is a
duplicate and the directions it had been forwarded in. -/
def State.ddEnter (s : State) (source : BitVec 48) (seq : Nat) (dir : BitVec 2) : State × Bool × BitVec 2 :=
  let live := ddLive s.prt.dd s.tim.mono
  match live.find? fun e => decide (e.source = source) with
  | some e =>
    let old := (e.seen.find? fun p => decide (p.1 = seq)).map (·.2)
    let entry := (seq, old.getD 0 ||| dir)
    let e1 : DdEntry :=
      { source := source, seen := (entry :: e.seen.filter fun p => decide (p.1 ≠ seq)).take 64, time := s.tim.mono }
    (s.onPrt fun p => { p with dd := e1 :: live.erase e }, old.isSome, old.getD 0)
  | none =>
    let e1 : DdEntry := { source := source, seen := [(seq, dir)], time := s.tim.mono }
    let s1 := s.onPrt fun p => { p with dd := e1 :: live.take 1023 }
    (if 1024 ≤ live.length then s1.inc Reg.prtDdEvictCnt else s1, false, 0)

/-- DD_ENTRY_EXPIRE (R107): an entry is forgotten 400 ms after its last frame. -/
def execDdEntryExpire (source : BitVec 48) (s : State) : Host.Outcome State Fault Refusal :=
  match s.prt.dd.find? fun e => decide (e.source = source) with
  | none => .next s
  | some e =>
    let s1 := s.runToMono (e.time + 400000000)
    .next (s1.onPrt fun p => { p with dd := p.dd.filter fun x => decide (x.source ≠ source) || decide (s1.tim.mono < x.time + 400000000) })

/-! ### Supervision and replies -/

/-- A supervision frame of the node (R108): PRP or HSR supervision with the node's MAC address. -/
def State.supervision (s : State) : List Byte :=
  [0x01, 0x15, 0x4E, 0x00, 0x01, 0x00] ++ s.mac 0 ++ [0x88, 0xFB] ++ beNat 2 1 ++ beNat 2 s.prt.supSeq ++
    [if s.pairMode = 1 then 20 else 23, 6] ++ s.mac 0 ++ [0, 0]

/-- When the next supervision frame is due: 2 s after the last one (R108). -/
def State.supervisionAt (s : State) : Nat := s.prt.supAt.elim 0 (· + 2000000000)

/-- SUPERVISION_FRAME (R108): every 2 s the active pair sends a supervision frame at priority 5. -/
def execSupervisionFrame (s : State) : Host.Outcome State Fault Refusal :=
  if s.pairActive && s.awake then
    let s1 := s.runToMono s.supervisionAt
    .next ((s1.send 0 { kind := .general, bytes := s1.supervision }).onPrt fun p =>
      { p with supSeq := (p.supSeq + 1) % 65536, supAt := some s1.tim.mono })
  else .next s

/-- ARP_REPLY (R110 row 6): firmware sends the oldest reply it owes on a port, at priority 5. -/
def execArpReply (n : Fin 4) (s : State) : Host.Outcome State Fault Refusal :=
  match s.prt.replies.find? fun p => decide (p.1 = n.val) with
  | none => .next s
  | some r =>
    .next ((s.onPrt fun p => { p with replies := p.replies.erase r }).send n.val { kind := .general, bytes := r.2 })

end Sys2Proof.Machine
end

