-- ==== Sys2Proof/Machine/Basin.lean ====
section
/-! DEFINITION. The Basin: cells, columns, opening, the placing of blocks, memory errors and time steps (chapter 5). -/
namespace Sys2Proof.Machine

/-! ### The cell quality word (Table BSN-3) -/

@[reducible] def qFilled : BitVec 16 := 0x0001
@[reducible] def qNotDue : BitVec 16 := 0x0002
@[reducible] def qAbsent : BitVec 16 := 0x0004
@[reducible] def qLateFill : BitVec 16 := 0x0008
@[reducible] def qDupSeen : BitVec 16 := 0x0010
@[reducible] def qCorrupt : BitVec 16 := 0x0020
@[reducible] def qSpillGap : BitVec 16 := 0x0040
@[reducible] def qTqPoor : BitVec 16 := 0x0080
@[reducible] def qLocal : BitVec 16 := 0x0100
@[reducible] def qUncertain : BitVec 16 := 0x0200

/-- FILL_RUN in its place. -/
def qRun (n : Nat) : BitVec 16 := BitVec.ofNat 16 (min n 7) <<< 10

/-- A quality word holds a bit of a mask. -/
def qHas (q m : BitVec 16) : Bool := decide (q &&& m ≠ 0)

/-- A cell in none of the four states is empty (R157). -/
def Cell.empty (c : Cell) : Bool := !qHas c.qual (qFilled ||| qNotDue ||| qAbsent ||| qLateFill)

/-- The words and STAT of a cell as initialised at opening, with a quality word (R160). -/
def cellInit (q : BitVec 16) : Cell :=
  { words := List.replicate 30 fpNaN ++ [0], stat := 0, qual := q }

/-- The 32 words of a cell as a reader receives them (Table BSN-2). -/
def Cell.all (c : Cell) : List Word := c.words ++ [c.qual ++ c.stat]

/-- The cell of furrow f in a column: one not listed is NOT_DUE as at opening (R160). -/
def Column.cell (c : Column) (f : Nat) : Cell := (mapGet c.cells f).getD (cellInit qNotDue)

/-- The cell of furrow f replaced. -/
def Column.setCell (c : Column) (f : Nat) (x : Cell) : Column := { c with cells := mapSet c.cells f x }

/-- The furrows of the block that starts at f. -/
def blockFurrows (a : Img) (f : Nat) : List Nat := (List.range (stLinks a f)).map (f + ·)

/-- A block is due in a column of grid index i (R37). -/
def blockDue (a : Img) (f i : Nat) : Bool := decide (0 < stRateDiv a f) && decide (i % stRateDiv a f = 0)

/-- The bit LOCAL of a furrow's cells. -/
def localBit (a : Img) (f : Nat) : BitVec 16 := if stLocal a f then qLocal else 0

/-- The furrows due in a column of grid index i (R37, R160). -/
def dueFurrows (a : Img) (i : Nat) : List Nat := ((stBlocks a).filter fun f => blockDue a f i).flatMap (blockFurrows a)

/-- The cells of a column at its opening (R160, R176): those that are due; the others are NOT_DUE and not listed. -/
def openCells (a : Img) (invalid : List Nat) (i : Nat) : List (Nat × Cell) :=
  ((stBlocks a).filter fun f => blockDue a f i).flatMap fun f =>
    (blockFurrows a f).map fun g =>
      (g, cellInit (localBit a g ||| if invalid.contains f then qAbsent else 0))

/-! ### Columns -/

/-- The open columns. -/
def State.openCols (s : State) : List Column := s.bsn.cols.filter fun c => !c.closed

/-- The column with a tick ID, if it is in its slot. -/
def State.column (s : State) (tick : Nat) : Option Column := s.bsn.cols.find? fun c => decide (c.tick = tick)

/-- The column with a tick ID rewritten. -/
def State.onCol (s : State) (tick : Nat) (f : Column → Column) : State :=
  s.onBsn fun b => { b with cols := b.cols.map fun c => if c.tick = tick then f c else c }

/-- Bmax of the image in force (R158). -/
def State.bmax (s : State) : Nat := if s.sch.activeValid then imgBmax s.img else 0

/-- The slot that tick N takes is released: every column from N − 24 to N − 24 + Bmax has reached its end (R158). -/
def State.slotFree (s : State) (n : Nat) : Bool :=
  s.bsn.cols.all fun c =>
    c.ended || decide (c.tick + 24 < n) || decide (n + s.bmax < c.tick + 24)

/-- The slot of column `tick` is released: the columns from it to Bmax later have opened and reached their ends (R158). -/
def State.slotReleased (s : State) (tick : Nat) : Bool := decide (tick + s.bmax < s.tck.openId) && s.slotFree (tick + 24)

/-- The moment a column opens at the earliest: its reporting instant minus T, the grid instant before it (R158). -/
def State.openTime (s : State) (p : Nat × Nat) : Nat :=
  if 0 < p.2 then s.instantTime p.1 (p.2 - 1) else if 0 < p.1 then s.instantTime (p.1 - 1) (s.fm - 1) else 0

/-- The next column opens in its slot (R158, R160). -/
def State.openColumn (s : State) : State :=
  let n := s.tck.openId
  let (sec, i) := s.tck.openInstant
  let c : Column :=
    { tick := n, sec := sec, index := i, emitted := decide (n < s.tck.nextId), cells := openCells s.img s.bsn.invalid i
      unwaited := ((stBlocks s.img).filter s.bsn.invalid.contains).flatMap (blockFurrows s.img), due := dueFurrows s.img i }
  (s.onBsn fun b => { b with cols := b.cols.filter (fun x => decide (n < x.tick + 24)) ++ [c] }).onTck fun t =>
    { t with openId := n + 1, openInstant := gridNext s.fm (sec, i), afterStep := false }

/-- COLUMN_OPEN (R158): at the later of its instant minus T and the release of its slot. -/
def execOpen (s : State) : State :=
  if !s.gridOn || !s.awake || !s.slotFree s.tck.openId then s else (s.runTo (s.openTime s.tck.openInstant)).openColumn

/-! ### Memory errors (R175, R176) -/

/-- A cell with an uncorrectable error in unit u: its two words as found, which the spec leaves unspecified (free values, log 2), CORRUPT in its quality
word, and nothing else in that word when the unit holds it (R175). -/
def Cell.corrupted (x : Cell) (u : Nat) (w v : Word) : Cell :=
  if u = 15 then { words := setAt x.words 30 w, stat := v.setWidth 16, qual := qCorrupt }
  else { x with words := setAt (setAt x.words (2 * u) w) (2 * u + 1) v, qual := x.qual ||| qCorrupt }

/-- BSN_UE_LOG and BSN_UE_TICK record a cell, and the error counts (R175, R181). -/
def State.logCell (s : State) (slot f u : Nat) (tick : Word) : State :=
  ((s.inc Reg.bsnUeCnt).setReg Reg.bsnUeLog (place f 0 ||| place slot 13 ||| place u 18 ||| bit 31)).setReg Reg.bsnUeTick tick

/-- A memory error in unit u of the cell of furrow f in a slot, found by any reader, the writer or the scrubber (R175). A slot that holds no column has no
tick ID to log, and BSN_UE_TICK takes a free value (log 94). -/
def State.cellError (s : State) (k : ErrKind) (slot f u : Nat) : State :=
  match k with
  | .single => s.inc Reg.bsnCeCnt
  | .double =>
    let (ws, s1) := s.freeWords 2
    match s.bsn.cols.find? fun c => decide (c.tick % 24 = slot) with
    | none => s1.logCell slot f u (wordAt ws 0)
    | some c =>
      let took := !c.closed && decide (u = 15) && qHas (c.cell f).qual qFilled
      (s1.onCol c.tick fun d =>
        { d.setCell f ((c.cell f).corrupted u (wordAt ws 0) (wordAt ws 1)) with lost := if took then c.lost ++ [f] else c.lost }).logCell slot f u (w32 c.tick)

/-- A memory error in the stream table entry of furrow f, or in its scale record (R176): its block is invalid until the next switch, each error counts
once, and the block is not late-filled in the columns open now. -/
def State.streamError (s : State) (k : ErrKind) (f : Nat) (scale : Bool) : State :=
  match k with
  | .single => s.inc Reg.bsnCeCnt
  | .double =>
    let g := stFirst s.img f
    if s.bsn.tableErrs.contains (f, scale) then s
    else
      (s.onBsn fun b =>
        if b.invalid.contains g then { b with tableErrs := b.tableErrs ++ [(f, scale)] }
        else
          { b with
            invalid := b.invalid ++ [g], tableErrs := b.tableErrs ++ [(f, scale)]
            cols := b.cols.map fun c => if c.closed then c else { c with noFill := c.noFill ++ [g] } }).inc Reg.bsnStUeCnt

/-- A memory error in a furrow's run counter (R176): an uncorrectable one sets it to 7. -/
def State.runError (s : State) (k : ErrKind) (f : Nat) : State :=
  match k with
  | .single => s.inc Reg.bsnCeCnt
  | .double => s.onBsn fun b => { b with runs := mapSet b.runs f 7 }

/-! ### Placing blocks -/

/-- The timebase second that a block's SOC names (R356, R359): of the two seconds that share the SOC of an inserted leap second, the
later one when FRACSEC bit 5 is 1 and bit 4 is 0. None for a SOC that no second has. -/
def State.secondOf (s : State) (soc : Nat) (flags : Byte) : Option Nat :=
  let base := s.nowSec / 2 ^ 32 * 2 ^ 32 + soc
  let cands := [(-1 : Int), 0, 1].filterMap fun d =>
    let t : Int := Int.ofNat base + s.tim.utcOffset + d
    if decide (0 ≤ t) && decide (s.soc t.toNat = w32 soc) then some t.toNat else none
  match cands with
  | [] => none
  | [t] => some t
  | t :: u :: _ => if flags.getLsbD 5 && !flags.getLsbD 4 then some (max t u) else some (min t u)

/-- The grid instant of a timestamp (R161): none when it lies off the master grid or off the stream's own. The second answered is 0 or 1
more than the block's. -/
def gridInstantOf (fm ns tol rateDiv : Nat) : Option (Nat × Nat) :=
  let i0 := (ns * fm + 500000000) / nsPerSec
  let up := decide (i0 = fm)
  let g := if up then nsPerSec else i0 * nsPerSec / fm
  let i := if up then 0 else i0
  let d := max ns g - min ns g
  if tol * 100 < d then none
  else if rateDiv = 0 || decide (i % rateDiv ≠ 0) then none
  else some (if up then 1 else 0, i)

/-- The outcomes of Table BSN-4. -/
inductive Placing where
  | offGrid | placed (tick : Nat) | switchDiscard | duplicate (tick : Nat) | early | lateDuplicate | late (tick : Nat) | stale
deriving DecidableEq, Repr

/-- An instant that is ahead of the columns (row 5): later than that of every open one; with none open, at or after the next instant to be emitted, or, until
the first column after a realignment opens, at or after that column's (R162, R173). -/
def State.instantAhead (s : State) (t : Nat) : Bool :=
  match s.openCols with
  | [] =>
    decide (s.instantTime s.tck.nextInstant.1 s.tck.nextInstant.2 ≤ t) ||
      (s.tck.afterStep && decide (s.instantTime s.tck.openInstant.1 s.tck.openInstant.2 ≤ t))
  | cs => cs.all fun c => decide (s.instantTime c.sec c.index < t)

/-- Rows 1 to 4 for a block whose instant is that of an open column. -/
def classifyOpen (c : Column) (f : Nat) : Placing :=
  let x := c.cell f
  if qHas x.qual qNotDue then .offGrid
  else if x.empty then .placed c.tick
  else if qHas x.qual qAbsent then .switchDiscard
  else .duplicate c.tick

/-- Table BSN-4 in the order of its rows (R162); every block of a furrow that a stream-table error made invalid is discarded at row 3 (R176). -/
def State.classify (s : State) (b : Block) : Placing :=
  let a := s.img
  if s.bsn.invalid.contains b.furrow then .switchDiscard
  else match gridInstantOf s.fm b.ns (stTol a b.furrow) (stRateDiv a b.furrow) with
  | none => .offGrid
  | some (up, i) =>
    match b.sec.orElse fun _ => s.secondOf b.soc b.flags with
    | none => .stale
    | some sec0 =>
      let sec := sec0 + up
      match s.openCols.find? fun c => decide (c.sec = sec) && decide (c.index = i) with
      | some c => classifyOpen c b.furrow
      | none =>
        if s.instantAhead (s.instantTime sec i) then .early
        else match s.bsn.window.find? fun w => decide (w.sec = sec) && decide (w.index = i) with
          | none => .stale
          | some w =>
            if (s.column w.tick).any fun c => c.filled.contains b.furrow then .lateDuplicate else .late w.tick

/-- The quality word that a placed block gives a cell, before LOCAL (R163, R164). -/
def placedQual (gap poor bad : Bool) : BitVec 16 :=
  qFilled ||| (if gap then qSpillGap else 0) ||| (if poor then qTqPoor else 0) ||| (if bad then qCorrupt else 0)

/-- A network block is poor in time: STAT bit 13, or its message time quality above TQ_LIMIT (R164). -/
def State.blockPoor (s : State) (b : Block) : Bool :=
  b.stat.getLsbD 13 || decide (stTqLimit s.img b.furrow < b.flags.toNat % 16)

/-- The cells of a block as they are written (R163). -/
def State.blockCells (s : State) (b : Block) (gap poor : Bool) : List (Nat × Cell) :=
  (List.range b.cells.length).map fun j =>
    (b.furrow + j,
      { words := b.cells.getD j [], stat := b.stat,
        qual := placedQual gap poor (b.bad.contains (b.furrow + j)) ||| localBit s.img (b.furrow + j) })

/-- A block is classified and placed, discarded or passed on as late (R162 to R166). Answers the late block with its tick ID, its
cells as they would have been written. -/
def State.placeBlock (s : State) (b : Block) (gap poor : Bool) : State × Option (Nat × List (Nat × Cell)) :=
  match s.classify b with
  | .offGrid => (s.inc Reg.bsnOffgridCnt, none)
  | .switchDiscard => (s.inc Reg.bsnSwitchDiscCnt, none)
  | .early => (s.inc Reg.bsnEarlyCnt, none)
  | .lateDuplicate => (s.inc Reg.bsnDupCnt, none)
  | .stale => (s.inc Reg.bsnStaleCnt, none)
  | .late tick => (s.inc Reg.bsnLateCnt, some (tick, s.blockCells b gap poor))
  | .duplicate tick =>
    ((s.onCol tick fun c => (List.range b.cells.length).foldl (fun (d : Column) j =>
      let x := d.cell (b.furrow + j)
      d.setCell (b.furrow + j) { x with qual := x.qual ||| qDupSeen }) c).inc Reg.bsnDupCnt, none)
  | .placed tick =>
    let cells := s.blockCells b gap poor
    let s1 := s.onCol tick fun c => cells.foldl (fun (d : Column) p =>
      d.setCell p.1 { p.2 with qual := p.2.qual ||| ((d.cell p.1).qual &&& qCorrupt) }) c
    (s1.inc Reg.bsnPlacedCnt, none)

/-! ### Time steps (R171) -/

/-- The late window takes a column that closes now (R162). -/
def State.windowed (s : State) (c : Column) : State :=
  s.onBsn fun b => { b with window := ({ tick := c.tick, sec := c.sec, index := c.index, closeAt := s.tim.now } :: b.window).take 24 }

/-- The blocks already placed in a column: one for each first furrow that holds FILLED. -/
def placedBlocks (a : Img) (c : Column) : Nat :=
  ((stBlocks a).filter fun f => qHas (c.cell f).qual qFilled).length

/-- The furrows whose cells hold FILLED. -/
def Column.filledCells (c : Column) : List Nat := (c.cells.filter fun p => qHas p.2.qual qFilled).map (·.1)

/-- The STAT and digital words of the last blocks after a column has closed (R169): those of the blocks placed in it. They are taken at the close, so that
a late fill depends on its own column and on earlier ones only. -/
def lastWords (last : List (Nat × (BitVec 16 × Word))) (c : Column) : List (Nat × (BitVec 16 × Word)) :=
  c.cells.foldl (fun m p => if qHas p.2.qual qFilled then mapSet m p.1 (p.2.stat, wordAt p.2.words 30) else m) last

/-- An empty cell becomes ABSENT (R168): as it was initialised, also where it has lost a block. -/
def Column.absentCell (c : Column) (f : Nat) : Cell :=
  let x := c.cell f
  if x.empty && !c.lost.contains f then x else cellInit x.qual

/-- A flushed column: it closes as incomplete, every empty cell becoming ABSENT (R171). DESIGN CHOICE (log 90): FILL_RUN of these cells is the run counter as
it stands. -/
def flushColumn (a : Img) (runs : List (Nat × Nat)) (now variant : Nat) (c : Column) : Column :=
  { c with
    closed := true, flushed := true, ended := true, closeAt := now, variant := variant, filled := c.filledCells
    cells := c.cells.map fun p =>
      if p.2.empty then (p.1, { c.absentCell p.1 with qual := p.2.qual ||| qAbsent ||| qRun ((mapGet runs (stFirst a p.1)).getD 0) }) else p }

/-- Open columns are withdrawn: their blocks are discarded and counted, and their slots cleared (R171, R431). -/
def State.withdraw (s : State) (which : Column → Bool) : State :=
  let gone := s.openCols.filter which
  (s.onBsn fun b => { b with cols := b.cols.filter fun c => c.closed || !which c }).add Reg.bsnStepDiscCnt
    ((gone.map (placedBlocks s.img)).sum)

/-- Open columns whose instant was emitted are flushed (R171); answers their tick IDs. -/
def State.flush (s : State) : State × List Nat :=
  let cols := s.openCols.filter (·.emitted)
  let s1 := s.onBsn fun b =>
    { b with
      cols := b.cols.map fun c => if !c.closed && c.emitted then flushColumn s.img b.runs s.tim.now s.tck.variant c else c
      last := cols.foldl lastWords b.last }
  ((cols.foldl State.windowed s1).add Reg.bsnFlushCnt cols.length, cols.map (·.tick))

/-! ### Switches (R174) -/

/-- The cells of changed furrows in every open column become ABSENT with FILL_RUN 0; their run counters and last words are
forgotten; BSN_SWITCH_CNT counts the cells. A NOT_DUE cell that is not listed takes ABSENT too. -/
def State.switchCells (s : State) (changed : List Nat) : State :=
  let n := s.openCols.length * changed.length
  (s.onBsn fun b =>
    { b with
      cols := b.cols.map fun c => if c.closed then c else
        { changed.foldl (fun (d : Column) f => d.setCell f { d.cell f with qual := qAbsent ||| ((d.cell f).qual &&& (qCorrupt ||| qLocal)) }) c with
          unwaited := c.unwaited.filter fun f => !changed.contains f }
      runs := b.runs.filter fun p => !changed.contains p.1
      last := b.last.filter fun p => !changed.contains p.1 }).add Reg.bsnSwitchCnt n

/-- A first image: every open column is initialised again under the new entries, and every run counter is 0 (R174). -/
def State.reinitCells (s : State) : State :=
  s.onBsn fun b =>
    { b with
      cols := b.cols.map fun c => if c.closed then c else { c with cells := openCells s.img [] c.index, unwaited := [], due := dueFurrows s.img c.index, noFill := [] }
      runs := [], last := [] }

end Sys2Proof.Machine
end

