-- ==== Sys2Proof/Machine/Modal.lean ====
section
/-! DEFINITION. The modal engine: groups, the subspace tracker, extraction, conditions, forced oscillations, records and state
regions (R186 to R206). -/
namespace Sys2Proof.Machine

/-! ### Vectors -/

/-- One level of the pairwise tree of R90: adjacent terms are added, an odd last one passes. -/
def pairLevel : List Word → List Word
  | a :: b :: rest => fpAdd a b :: pairLevel rest
  | l => l

/-- n levels of the pairwise tree. -/
def pairTree : Nat → List Word → Word
  | 0, l => wordAt l 0
  | n + 1, l => match l with
    | [] => 0
    | [a] => a
    | _ => pairTree n (pairLevel l)

/-- A sum by the pairwise tree of R90 over its terms in index order. -/
def pairSum (l : List Word) : Word := pairTree (bitLen l.length + 1) l

/-- A dot product: the products, then the pairwise tree (R192). -/
def dot (x y : List Word) : Word := pairSum (List.zipWith fpMul x y)

/-- 2^k as FP32. -/
def fpPow2 (k : Int) : Word := fpOfScaled 1 k

/-- A complex product as (ac − bd, ad + bc) (R195). -/
def cMul (x y : Word × Word) : Word × Word :=
  (fpSub (fpMul x.1 y.1) (fpMul x.2 y.2), fpAdd (fpMul x.1 y.2) (fpMul x.2 y.1))

/-- The squared magnitude of a complex number. -/
def cNorm (x : Word × Word) : Word := fpAdd (fpMul x.1 x.1) (fpMul x.2 x.2)

/-- The magnitude of a complex number. -/
def cAbs (x : Word × Word) : Word := fpSqrt (cNorm x)

/-- A complex quotient. DEDUCED (log 35): the product with the conjugate over the squared magnitude, each operation rounded. -/
def cDiv (x y : Word × Word) : Word × Word :=
  let n := cNorm y
  let p := cMul x (y.1, fpNeg y.2)
  (fpDiv p.1 n, fpDiv p.2 n)

/-! ### The group table (Table MOD-1) -/

/-- Word j of the entry of group g. -/
def mgWord (a : Img) (g j : Nat) : Word := secWord a secModal 0 (64 * g + 4 * j)
/-- EN. -/
def mgEn (a : Img) (g : Nat) : Bool := flag (mgWord a g 0) 0
/-- SENT. -/
def mgSent (a : Img) (g : Nat) : Bool := flag (mgWord a g 0) 1
/-- FO_EN. -/
def mgFo (a : Img) (g : Nat) : Bool := flag (mgWord a g 0) 2
/-- PIPE. -/
def mgPipe (a : Img) (g : Nat) : Nat := field (mgWord a g 0) 4 3
/-- Signals m. -/
def mgM (a : Img) (g : Nat) : Nat := field (mgWord a g 0) 9 5 + 1
/-- Lag depth L. -/
def mgL (a : Img) (g : Nat) : Nat := field (mgWord a g 0) 13 10
/-- Model order r. -/
def mgR (a : Img) (g : Nat) : Nat := field (mgWord a g 0) 18 14
/-- Extraction stride. -/
def mgStride (a : Img) (g : Nat) : Nat := field (mgWord a g 0) 22 19 + 1
/-- PHASE. -/
def mgPhase (a : Img) (g : Nat) : Nat := field (mgWord a g 0) 26 23
/-- Most modes reported. -/
def mgModes (a : Img) (g : Nat) : Nat := field (mgWord a g 0) 29 27 + 1
/-- λ = 1 − (FORGET + 1) × 2^−20. -/
def mgLambda (a : Img) (g : Nat) : Word := fpOfScaled (1048576 - (field (mgWord a g 1) 15 0 + 1 : Nat)) (-20)
/-- WARM. -/
def mgWarm (a : Img) (g : Nat) : Nat := field (mgWord a g 1) 31 16
/-- GAP_RESET. -/
def mgGap (a : Img) (g : Nat) : Nat := field (mgWord a g 2) 15 0
/-- Forced-oscillation decimation. -/
def mgDec (a : Img) (g : Nat) : Nat := field (mgWord a g 2) 19 16 + 1
/-- FLOOR_UP. -/
def mgUp (a : Img) (g : Nat) : Nat := field (mgWord a g 2) 23 20
/-- FLOOR_DN. -/
def mgDn (a : Img) (g : Nat) : Nat := field (mgWord a g 2) 27 24
/-- STATE_OFF. -/
def mgOff (a : Img) (g : Nat) : Nat := field (mgWord a g 3) 14 0
/-- FO_SLOT. -/
def mgSlot (a : Img) (g : Nat) : Nat := field (mgWord a g 3) 24 15
/-- n = m × L. -/
def mgN (a : Img) (g : Nat) : Nat := mgM a g * mgL a g
/-- S(g) in bytes (R186). -/
def mgSize (a : Img) (g : Nat) : Nat :=
  256 * ((4 * (mgN a g * mgR a g + mgN a g + mgM a g + 3 * mgR a g + 64) + 255) / 256)
/-- The groups in use. -/
def mgGroups (a : Img) : List Nat := (List.range (imgGroups a)).filter (mgEn a)

/-! ### Reinitialisation (R191) -/

/-- A zero delay line. -/
def zeroLine (a : Img) (g : Nat) : List (List Word) := List.replicate (mgL a g) (List.replicate (mgM a g) 0)

/-- A group after reinitialisation (R191): W, d, spread eigenvalues; delay line, counters and conditions cleared. -/
def freshGroup (a : Img) (g : Nat) : ModGroup :=
  let n := mgN a g
  let r := mgR a g
  { w := (List.range r).map fun c => (List.range n).map fun i => if i = c then fpOne else 0
    d := List.replicate r (mgWord a g 4)
    eig := (List.range (r / 2)).flatMap fun i =>
      let th := fpDiv (fpMul fpPi (fpOfInt (2 * i + 1 : Nat))) (fpOfInt r)
      let (c, s) := fpCosSin th
      [(fpMul 0x3F7D70A4 c, fpMul 0x3F7D70A4 s), (fpMul 0x3F7D70A4 c, fpNeg (fpMul 0x3F7D70A4 s))]
    line := zeroLine a g
    held := List.replicate (mgM a g) 0 }

/-- Group g is reinitialised, with its slot (R191); causes are those of R211. -/
def State.reinitGroup (s : State) (g cause : Nat) : State :=
  let a := s.img
  let last := (mapGet s.mod.groups g).bind (·.last)
  ((s.onMod fun m =>
    { m with
      groups := mapSet m.groups g { freshGroup a g with last := last }
      slots := if mgFo a g then mapSet m.slots (mgSlot a g) {} else m.slots }).inc Reg.modReinitCnt).setReg Reg.modLastReinit
    (place g 0 ||| place cause 10 ||| bit 31)

/-- Every group of the image in force is reinitialised. -/
def State.reinitAll (s : State) (cause : Nat) : State := (mgGroups s.img).foldl (fun (x : State) g => x.reinitGroup g cause) s

/-- At a switch from one image to the one now in force (R204): a group with the same identity keeps its tracker state, and its slot when
FO_EN and FO_SLOT are also unchanged. -/
def State.modSwitch (s : State) (old : Img) (first : Bool) : State :=
  let a := s.img
  let same (g : Nat) : Bool :=
    !first && mgEn old g && decide (mgWord old g 13 = mgWord a g 13) && decide (mgM old g = mgM a g) && decide (mgL old g = mgL a g) &&
    decide (mgR old g = mgR a g) && decide (mgOff old g = mgOff a g) && (mapGet s.mod.groups g).isSome
  let keptSlot (g : Nat) : Bool := same g && decide (mgFo old g = mgFo a g) && decide (mgSlot old g = mgSlot a g)
  let s1 := s.onMod fun m =>
    { m with
      groups := m.groups.filter (fun p => same p.1)
      slots := m.slots.filter (fun p => (mgGroups a).any fun g => keptSlot g && mgFo a g && decide (mgSlot a g = p.1)) }
  (mgGroups a).foldl (fun (x : State) g =>
    if same g then
      if mgFo a g && !keptSlot g then x.onMod fun m => { m with slots := mapSet m.slots (mgSlot a g) {} } else x
    else x.reinitGroup g (if first then 0 else 1)) s1

/-- An uncorrectable error in a group's region (R206). -/
def State.modError (s : State) (k : ErrKind) (g : Nat) (slot : Bool) : State :=
  match k with
  | .single => s.inc Reg.modCeCnt
  | .double =>
    let s1 := ((s.inc Reg.modUeCnt).setReg Reg.modUeLog
      (place g 0 ||| placeB slot 10 ||| placeB (decide (s.gzl.role = .standby)) 11 ||| bit 31)).setReg Reg.modUeTick
      (w32 ((s.tck.proc.map (·.tick)).getD (s.tck.lastClosed.getD 0)))
    if slot then
      (s1.onMod fun m =>
        { m with
          slots := mapSet m.slots (mgSlot s.img g) {}
          groups := match mapGet m.groups g with
            | some x => mapSet m.groups g { x with reinitNow := true }
            | none => m.groups }).setReg Reg.modLastReinit (place g 0 ||| place 4 10 ||| bit 31)
    else s1.reinitGroup g 4

/-! ### The tracker (R190, R192) -/

/-- The columns of W updated by one deflation (R192): answers the new columns, variances and projections, or none on a divergence. -/
def trackColumns (lam : Word) : List (List Word) → List Word → List Word → Option (List (List Word) × List Word × List Word)
  | [], _, _ => some ([], [], [])
  | w :: ws, ds, xc =>
    let y := dot w xc
    let d := fpFma lam (wordAt ds 0) (fpMul y y)
    if !fpIsFinite d || !fpGt d 0 then none
    else
      let gain := fpDiv y d
      let w1 := List.zipWith (fun x wi => fpFma (fpSub x (fpMul wi y)) gain wi) xc w
      let xc1 := List.zipWith (fun x wi => fpSub x (fpMul wi y)) xc w1
      match trackColumns lam ws (ds.drop 1) xc1 with
      | none => none
      | some (wr, dr, yr) => some (w1 :: wr, d :: dr, y :: yr)

/-- The two leading projections of x with W unchanged (R199). DEDUCED (log 36): with the deflation of R192 between them. -/
def leading (w : List (List Word)) (x : List Word) : Word × Word :=
  let w0 := w.getD 0 []
  let y0 := dot w0 x
  let xc := List.zipWith (fun v wi => fpSub v (fpMul wi y0)) x w0
  (y0, dot (w.getD 1 []) xc)

/-! ### Extraction (R195, R196) -/

/-- An eigenvalue as the factorisation of R195 leaves it: its value, whether its block converged, its right eigenvector (a column of v)
and the matching row of u. -/
structure EigenOut where
  value : Word × Word
  converged : Bool
  right : List (Word × Word)
  left : List (Word × Word)
deriving DecidableEq, Repr, Inhabited

/-- Element (i, j) of a matrix given by rows. -/
def entry (h : List (List Word)) (i j : Nat) : Word := wordAt (h.getD i []) j

/-- Entry (i + 1, i) below the diagonal is not zero. -/
def linked (h : List (List Word)) (i : Nat) : Bool := !fpEq (entry h (i + 1) i) 0

/-- read_blocks of R195 from row i on: the eigenvalues of the 1 × 1 and 2 × 2 diagonal blocks, each with whether its block converged. -/
def readBlocks (h : List (List Word)) (r : Nat) : Nat → Nat → List ((Word × Word) × Bool)
  | 0, _ => []
  | n + 1, i =>
    if r ≤ i then []
    else if decide (i + 1 < r) && linked h i then
      let conv := !((decide (0 < i) && linked h (i - 1)) || (decide (i + 2 < r) && linked h (i + 1)))
      let e := Config.blockEigen (entry h i i) (entry h i (i + 1)) (entry h (i + 1) i) (entry h (i + 1) (i + 1))
      (e.1, conv) :: (e.2, conv) :: readBlocks h r n (i + 2)
    else ((entry h i i, 0), true) :: readBlocks h r n (i + 1)

/-- The entries below the diagonal that are small beside their neighbours on it become 0.0 (R195). -/
def deflate (h : List (List Word)) (r : Nat) : List (List Word) :=
  (List.range (r - 1)).foldl (fun (m : List (List Word)) i =>
    let near := fpMul (fpPow2 (-22)) (fpAdd (fpAbs (entry m i i)) (fpAbs (entry m (i + 1) (i + 1))))
    if fpLe (fpAbs (entry m (i + 1) i)) near then modifyAt m (i + 1) fun row => setAt row i 0 else m) h

/-- A matrix given by rows as the list of its r columns. -/
def columnsOf (r : Nat) (m : List (List Word)) : List (List Word) := (List.range r).map fun j => m.map fun row => wordAt row j

/-- A vector with a reflection made on its entries from i on: x − v × (b × (v · x)). DEDUCED (log 2): the products are formed in this order. -/
def reflectAt (i : Nat) (vb : List Word × Word) (x : List Word) : List Word :=
  let part := (x.drop i).take vb.1.length
  let k := fpMul vb.2 (dot vb.1 part)
  x.take i ++ List.zipWith (fun e v => fpSub e (fpMul v k)) part vb.1 ++ x.drop (i + vb.1.length)

/-- A square matrix given by rows with a reflection made on both sides, from row and column i on. -/
def reflectBoth (r i : Nat) (vb : List Word × Word) (h : List (List Word)) : List (List Word) :=
  (columnsOf r ((columnsOf r h).map (reflectAt i vb))).map (reflectAt i vb)

/-- Back substitution in an upper triangle given by columns: the entries of the solution from i on are known. -/
def solveUpper (cols : List (List Word)) (y : List Word) : Nat → List Word → List Word
  | 0, xs => xs
  | i + 1, xs =>
    let row := (List.range xs.length).map fun k => wordAt (cols.getD (i + 1 + k) []) i
    solveUpper cols y i (fpDiv (fpSub (wordAt y i) (dot row xs)) (wordAt (cols.getD i []) i) :: xs)

/-- lstsq of R195 by Householder QR of wd, its columns in order; both matrices are given by columns, the answer by rows. -/
def leastSquares (wd wu : List (List Word)) : List (List Word) :=
  let r := wd.length
  let t := (List.range r).foldl (fun (m : List (List Word) × List (List Word)) j =>
    let vb := Config.reflector ((m.1.getD j []).drop j)
    (m.1.map (reflectAt j vb), m.2.map (reflectAt j vb))) (wd, wu)
  columnsOf r (t.2.map fun y => solveUpper t.1 y r [])

/-- A reflection from row i + 1 on that clears column i below its subdiagonal, over `len` entries, in h and accumulated in q. -/
def reduceColumn (r i len : Nat) (hq : List (List Word) × List (List Word)) : List (List Word) × List (List Word) :=
  let vb := Config.reflector (((hq.1.map fun row => wordAt row i).drop (i + 1)).take len)
  let h := reflectBoth r (i + 1) vb hq.1
  ((List.range (len - 1)).foldl (fun (m : List (List Word)) k => modifyAt m (i + 2 + k) fun row => setAt row i 0) h, hq.2.map (reflectAt (i + 1) vb))

/-- The r × r unit matrix. -/
def unitMatrix (r : Nat) : List (List Word) := (List.range r).map fun i => (List.range r).map fun j => if i = j then fpOne else 0

/-- hessenberg of R195: Householder reflections column by column, with q accumulated. -/
def hessenberg (r : Nat) (a : List (List Word)) : List (List Word) × List (List Word) :=
  (List.range (r - 2)).foldl (fun hq i => reduceColumn r i (r - 1 - i) hq) (a, unitMatrix r)

/-- A double-shift bulge is brought in at the top and chased through the whole matrix (R195). -/
def chaseBulge (r : Nat) (hq : List (List Word) × List (List Word)) (s1 s2 : Word × Word) : List (List Word) × List (List Word) :=
  let e := entry hq.1
  let sum := fpAdd s1.1 s2.1
  let x := fpAdd (fpSub (fpAdd (fpMul (e 0 0) (e 0 0)) (fpMul (e 0 1) (e 1 0))) (fpMul sum (e 0 0))) (cMul s1 s2).1
  let y := fpMul (e 1 0) (fpSub (fpAdd (e 0 0) (e 1 1)) sum)
  let vb := Config.reflector ([x, y, fpMul (e 1 0) (e 2 1)].take r)
  (List.range (r - 2)).foldl (fun m i => reduceColumn r i (min 3 (r - 1 - i)) m) (reflectBoth r 0 vb hq.1, hq.2.map (reflectAt 0 vb))

/-- multishift_sweep of R195: r/2 bulges, each with two shifts. DEDUCED (log 2): the shifts are taken in pairs in their order. -/
def multishiftSweep (r : Nat) (hq : List (List Word) × List (List Word)) (shifts : List (Word × Word)) : List (List Word) × List (List Word) :=
  (List.range (r / 2)).foldl (fun m b => chaseBulge r m (shifts.getD (2 * b) (0, 0)) (shifts.getD (2 * b + 1) (0, 0))) hq

/-- The sweeps of R195 that are still to be made, the first of them with the shifts given, the others with those of the diagonal blocks. -/
def sweeps (r : Nat) : Nat → List (List Word) × List (List Word) → List (Word × Word) → List (List Word) × List (List Word)
  | 0, hq, _ => hq
  | n + 1, hq, shifts =>
    let w := multishiftSweep r hq shifts
    let h := deflate w.1 r
    sweeps r n (h, w.2) ((readBlocks h r r 0).map (·.1))

/-- The eigenvalues and eigenvectors of R195 from the columns of wd and wu and the previous eigenvalues; q times a complex vector is taken by its real and
imaginary parts. -/
def modalEigen (r : Nat) (wd wu : List (List Word)) (prev : List (Word × Word)) : List EigenOut :=
  let hq := sweeps r 8 (hessenberg r (leastSquares wd wu)) prev
  let blocks := readBlocks hq.1 r r 0
  let v := (Config.backSubstitute hq.1 (blocks.map (·.1))).map fun y =>
    (List.range r).map fun k => (dot (hq.2.getD k []) (y.map (·.1)), dot (hq.2.getD k []) (y.map (·.2)))
  let u := Config.complexInverse v
  (List.range blocks.length).map fun i =>
    let b := blocks.getD i ((0, 0), true)
    { value := b.1, converged := b.2, right := v.getD i [], left := u.getD i [] }

/-- A mode before sorting: frequency, damping, energy, converged, shape. -/
structure ModeOut where
  freq : Word
  zeta : Word
  energy : Word
  converged : Bool
  shape : List (Word × Word)
deriving DecidableEq, Repr

/-- The mode of one eigenvalue of positive imaginary part (R195); c holds the rows of W at lag 0, by columns. -/
def modeOf (t : Word) (c : List (List Word)) (d : List Word) (m : Nat) (e : EigenOut) : ModeOut :=
  let lr := fpLn (cAbs e.value)
  let th := fpAtan2 e.value.2 e.value.1
  let freq := fpDiv th (fpMul fpTwoPi t)
  let zeta := fpDiv (fpNeg lr) (fpSqrt (fpAdd (fpMul lr lr) (fpMul th th)))
  let phi := (List.range m).map fun k =>
    let row := c.map fun col => wordAt col k
    (dot row (e.right.map (·.1)), dot row (e.right.map (·.2)))
  let mags := phi.map cAbs
  let k0 := (List.range m).foldl (fun (b : Nat) k => if fpGt (wordAt mags k) (wordAt mags b) then k else b) 0
  let p0 := phi.getD k0 (0, 0)
  let shape := (List.range m).map fun k => if k = k0 then (fpOne, 0) else cDiv (phi.getD k (0, 0)) p0
  let gen := pairSum (List.zipWith (fun x dv => fpMul (cNorm x) dv) e.left d)
  let energy := fpMul (fpMul (fpOfInt 2) gen) (pairSum (shape.map cNorm))
  { freq := freq, zeta := zeta, energy := energy, converged := e.converged, shape := shape }

/-- Modes by descending energy, ties by lower frequency (R196). -/
def modeBefore (x y : ModeOut) : Bool := fpGt x.energy y.energy || (fpEq x.energy y.energy && fpLe x.freq y.freq)

/-- A mode inserted in order. -/
def insertMode (x : ModeOut) : List ModeOut → List ModeOut
  | [] => [x]
  | y :: ys => if modeBefore y x then y :: insertMode x ys else x :: y :: ys

/-- The shape words of a mode (Table MOD-3): 64 words, absent entries 0x7FC0_0000. -/
def shapeWords (m : Option ModeOut) : List Word :=
  let l := ((m.map (·.shape)).getD []).flatMap fun p => [p.1, p.2]
  (l ++ List.replicate (64 - l.length) fpNaN).take 64

/-- The four words of a mode entry (Table MOD-3). -/
def modeWords (eMin : Word) (m : Option ModeOut) : List Word :=
  match m with
  | none => [fpNaN, fpNaN, fpNaN, 0]
  | some x => [x.freq, x.zeta, x.energy, placeB (!x.converged) 0 ||| placeB (fpLt x.energy eMin) 1]

/-- What an extraction reports: the modes, and whether a block was not converged (R195, R196). -/
def extract (a : Img) (g fm : Nat) (x : ModGroup) : List ModeOut × List (Word × Word) × Bool :=
  let m := mgM a g
  let n := mgN a g
  let t := fpDiv fpOne (fpOfInt fm)
  let eigs := modalEigen (mgR a g) (x.w.map (·.drop m)) (x.w.map (·.take (n - m))) x.eig
  let c := x.w.map (·.take m)
  let kept := ((eigs.filter fun e => fpGt e.value.2 0).map (modeOf t c x.d m)).filter fun o =>
    fpLe (mgWord a g 5) o.freq && fpLe o.freq (mgWord a g 6)
  ((kept.foldl (fun l o => insertMode o l) []).take (mgModes a g), eigs.map (·.value), eigs.any fun e => !e.converged)

/-- ζmin of reported modes (R197). -/
def zetaMinOf (eMin : Word) (modes : List ModeOut) : Option Word :=
  (modes.filter fun o => o.converged && !fpLt o.energy eMin).foldl (fun (b : Option Word) o => match b with
    | none => some o.zeta
    | some z => some (if fpLt o.zeta z then o.zeta else z)) none

/-- DAMP_LOW and DAMP_CNT after an extraction of a group that is not WARMING (R197). -/
def dampStep (a : Img) (g : Nat) (x : ModGroup) (z : Option Word) : ModGroup :=
  let low := match z with | some v => fpLt v (mgWord a g 7) | none => false
  let high := match z with | some v => fpGe v (mgWord a g 8) | none => true
  let push := if x.dampLow then high else low
  let need := if x.dampLow then field (mgWord a g 10) 31 16 else field (mgWord a g 10) 15 0
  let n := if push then x.dampCnt + 1 else 0
  if push && decide (need ≤ n) then { x with dampLow := !x.dampLow, dampCnt := 0 } else { x with dampCnt := n }

/-- A group after an extraction (R195 to R197). -/
def extracted (a : Img) (g tick : Nat) (x : ModGroup) (modes : List ModeOut) (eig : List (Word × Word)) : ModGroup :=
  let eMin := mgWord a g 9
  let warming := decide (x.updates < mgWarm a g)
  let z := if warming then none else zetaMinOf eMin modes
  let y :=
    { x with
      eig := eig, extAt := some tick, nModes := modes.length, zetaMin := z.getD fpNaN
      modes := ((List.range 8).flatMap fun i => modeWords eMin modes[i]?) ++ shapeWords modes[0]? ++ shapeWords modes[1]? }
  if warming then y else dampStep a g y z

/-! ### Forced oscillations (R199, R200) -/

/-- tw[k] = exp(j 2πk/256), correctly rounded; exact at the quarter turns. -/
def twiddle (k : Nat) : Word × Word :=
  let j := k % 64
  let r : Int := (fxPi * 2 * j / 256 : Nat)
  let c := if j = 0 then fpOne else fpOfFx (fxCos r)
  let s := if j = 0 then 0 else fpOfFx (fxSin r)
  let neg (w : Word) : Word := if w = 0 then 0 else fpNeg w
  match k / 64 % 4 with
  | 0 => (c, s)
  | 1 => (neg s, c)
  | 2 => (neg c, neg s)
  | _ => (s, neg c)

/-- A bin of the recursive DFT: (x + d) × tw[k], d real. -/
def binStep (x : Word × Word) (d : Word) (k : Nat) : Word × Word := cMul (fpAdd x.1 d, x.2) (twiddle k)

/-- A bin by its direct sum over the ring buffer, newest value first (R199): Σ u(t − i) × tw[k (i + 1) mod 256]. -/
def directBin (h : List Word) (pos k : Nat) : Word × Word :=
  let terms := (List.range 256).map fun i =>
    let u := wordAt h ((pos + 255 - i) % 256)
    let w := twiddle (k * (i + 1) % 256)
    (fpMul u w.1, fpMul u w.2)
  (pairSum (terms.map (·.1)), pairSum (terms.map (·.2)))

/-- p[k] for k from 1 to 127, 0 elsewhere. -/
def FoSlot.power (f : FoSlot) (k : Nat) : Word :=
  if k < 1 || 127 < k then 0 else fpAdd (cNorm (f.x0.getD (k - 1) (0, 0))) (cNorm (f.x1.getD (k - 1) (0, 0)))

/-- The bin spacing Fm / (256 × DEC). -/
def foSpacing (fm dec : Nat) : Word := fpDiv (fpOfInt fm) (fpOfInt (256 * dec : Nat))

/-- Bin k lies in the band (R199). -/
def foBand (a : Img) (g fm k : Nat) : Bool :=
  let f := fpMul (fpOfInt k) (foSpacing fm (mgDec a g))
  fpLe (mgWord a g 5) f && fpLe f (fpMin (mgWord a g 6) (fpDiv (fpOfInt fm) (fpOfInt (2 * mgDec a g : Nat))))

/-- The peak bin and its ratio (R200): the greatest p/nf among band bins that are local maxima, the lowest of equals. -/
def FoSlot.peakBin (f : FoSlot) (a : Img) (g fm : Nat) : Option (Nat × Word) :=
  ((List.range 127).map (· + 1)).foldl (fun (b : Option (Nat × Word)) k =>
    if foBand a g fm k && fpGt (f.power k) (f.power (k - 1)) && fpGe (f.power k) (f.power (k + 1)) then
      let r := fpDiv (f.power k) (wordAt f.nf (k - 1))
      match b with
      | some (_, q) => if fpGt r q then some (k, r) else b
      | none => some (k, r)
    else b) none

/-- Words 3 to 7 of the record for a peak (Table MOD-4), FO_CNT left 0. -/
def FoSlot.peakWords (f : FoSlot) (fm dec : Nat) (p : Option (Nat × Word)) : List Word :=
  match p with
  | none => [0, 0, 0, 0, 0]
  | some (k, r) =>
    let a := f.power (k - 1)
    let b := f.power k
    let c := f.power (k + 1)
    let den := fpAdd (fpSub a (fpMul (fpOfInt 2) b)) c
    let delta := if fpEq den 0 then 0 else fpDiv (fpMul 0x3F000000 (fpSub a c)) den
    [place k 16, fpMul (fpAdd (fpOfInt k) delta) (foSpacing fm dec), b, wordAt f.nf (k - 1), r]

/-- FORCED and FO_CNT after a DFT update with a peak (R200). -/
def foStep (a : Img) (g : Nat) (f : FoSlot) (p : Option (Nat × Word)) : FoSlot :=
  let ratio := mgWord a g 11
  let warming := decide (f.updates < 512)
  if f.forced then
    let low := match p with | some (_, r) => fpLt r (fpMul ratio 0x3F000000) | none => false
    let n := if low then f.foCnt + 1 else 0
    if low && decide (field (mgWord a g 12) 31 16 ≤ n) then { f with forced := false, foCnt := 0 } else { f with foCnt := n }
  else
    match p with
    | some (k, r) =>
      if fpGe r ratio then
        let near := match f.qualified with | some q => decide (k ≤ q + 1) && decide (q ≤ k + 1) | none => false
        let n := if near then f.foCnt + 1 else 1
        if decide (field (mgWord a g 12) 15 0 ≤ n) && !warming then { f with forced := true, foCnt := 0, qualified := some k }
        else { f with foCnt := n, qualified := some k }
      else { f with foCnt := 0 }
    | none => { f with foCnt := 0 }

/-- A DFT update (R199): answers the slot after it. -/
def dftUpdate (a : Img) (g fm : Nat) (f : FoSlot) : FoSlot :=
  let dec := fpOfInt (mgDec a g)
  let u0 := fpDiv f.acc0 dec
  let u1 := fpDiv f.acc1 dec
  let d0 := fpSub u0 (wordAt f.h0 f.pos)
  let d1 := fpSub u1 (wordAt f.h1 f.pos)
  let h0 := setAt f.h0 f.pos u0
  let h1 := setAt f.h1 f.pos u1
  let pos := (f.pos + 1) % 256
  let x0 := (List.range 127).map fun i => if i + 1 = f.kr then directBin h0 pos f.kr else binStep (f.x0.getD i (0, 0)) d0 (i + 1)
  let x1 := (List.range 127).map fun i => if i + 1 = f.kr then directBin h1 pos f.kr else binStep (f.x1.getD i (0, 0)) d1 (i + 1)
  let f1 : FoSlot :=
    { f with
      h0 := h0, h1 := h1, x0 := x0, x1 := x1, acc0 := 0, acc1 := 0, cols := 0, pos := pos, kr := f.kr % 127 + 1
      updates := f.updates + 1, heldMarks := setAt f.heldMarks f.pos f.heldNow, heldNow := false }
  let f2 : FoSlot :=
    { f1 with
      nf := (List.range 127).map fun i =>
        let p := f1.power (i + 1)
        let q := wordAt f.nf i
        if f1.updates = 256 then p
        else if 256 < f1.updates then
          fpFma (fpSub p q) (fpPow2 (-(if fpGt p q then mgUp a g else mgDn a g : Nat))) q
        else q }
  if 256 < f2.updates then
    let p := f2.peakBin a g fm
    let f3 := foStep a g f2 p
    { f3 with peak := f3.peakWords fm (mgDec a g) p }
  else f2

/-! ### One column of one group -/

/-- What the processing of one fed column answers, besides the group and its slot. -/
structure ModResult where
  group : ModGroup
  slot : Option FoSlot
  updated : Bool := false
  suppressed : Bool := false
  extracted : Bool := false
  noconv : Bool := false
  nonfinite : Nat := 0
  reinit : Option Nat := none
  dft : Bool := false
deriving DecidableEq, Repr

/-- The next group state after R191 within a column. -/
def regroup (a : Img) (g : Nat) (x : ModGroup) : ModGroup := { freshGroup a g with last := x.last, reinitNow := true }

/-- The samples of a feed (R189): valid values, else the held ones; which were valid; how many were marked valid and not finite. -/
def feedSample (m : Nat) (held : List Word) (feed : ModFeed) : List Word × List Bool × Nat :=
  let vmask := if feed.flags = 0 then wordAt feed.words 32 else 0
  let ok := (List.range m).map fun s => flag vmask s && fpIsFinite (wordAt feed.words s)
  let bad := ((List.range m).filter fun s => flag vmask s && !fpIsFinite (wordAt feed.words s)).length
  ((List.range m).map fun s => if ok.getD s false then wordAt feed.words s else wordAt held s, ok, bad)

/-- One fed column of group g (R190 to R200). `cut` is the treatment at the overrun limit (R203): no update, CLEAN 0. -/
def modColumn (a : Img) (g fm : Nat) (prev cur : Nat × Nat) (tick : Nat) (x : ModGroup) (slot : Option FoSlot) (feed : ModFeed)
    (cut : Bool) : ModResult :=
  let m := mgM a g
  let x1 := if x.last = some prev then x
    else { x with line := zeroLine a g, held := List.replicate m 0, clean := 0 }
  let (sample, ok, bad) := feedSample m x1.held feed
  let x2 := { x1 with line := sample :: x1.line.take (mgL a g - 1), held := sample, last := some cur }
  let clean := if cut then 0 else if ok.all id then x1.clean + 1 else 0
  let xs := x2.line.flatten
  let x3 := { x2 with clean := clean }
  let (x4, y, upd, supp, ext, noc, re) : ModGroup × (Word × Word) × Bool × Bool × Bool × Bool × Option Nat :=
    if mgL a g ≤ clean then
      match trackColumns (mgLambda a g) x3.w x3.d xs with
      | none => (regroup a g x3, (0, 0), false, false, false, false, some 3)
      | some (w, d, ys) =>
        let z := { x3 with w := w, d := d, updates := min (x3.updates + 1) 0xFFFFFFFF, suppRun := 0 }
        let yy := (wordAt ys 0, wordAt ys 1)
        if tick % mgStride a g = mgPhase a g then
          let (modes, eig, nc) := extract a g fm z
          (extracted a g tick z modes eig, yy, true, false, true, nc, none)
        else (z, yy, true, false, false, false, none)
    else
      let run := x3.suppRun + 1
      if decide (0 < mgGap a g) && decide (mgGap a g < run) then (regroup a g x3, (0, 0), false, true, false, false, some 2)
      else ({ x3 with suppRun := run }, leading x3.w xs, false, true, false, false, none)
  let slot1 := if re.isSome then slot.map fun _ => {} else slot
  let held := supp || re.isSome
  let (slot2, dft) := match slot1 with
    | none => (none, false)
    | some f =>
      let f1 : FoSlot := { f with acc0 := fpAdd f.acc0 y.1, acc1 := fpAdd f.acc1 y.2, cols := f.cols + 1, heldNow := f.heldNow || held }
      if mgDec a g ≤ f1.cols then (some (dftUpdate a g fm f1), true) else (some f1, false)
  { group := x4, slot := slot2, updated := upd, suppressed := supp, extracted := ext, noconv := noc, nonfinite := bad, reinit := re, dft := dft }

/-! ### Records (R198, R201) -/

/-- AGE of a mode record: the columns since the reported extraction. None where the spec gives it no value (log 95): no extraction has been made since the
reinitialisation, or the number exceeds the field. -/
def modeAge (tick : Nat) (x : ModGroup) : Option Nat := (x.extAt.map (tick - ·)).filter (· < 65536)

/-- The mode record of a column (Table MOD-3). -/
def modeRecord (a : Img) (g tick age : Nat) (x : ModGroup) (r : ModResult) (feed : ModFeed) : List Word :=
  let t : DWord := BitVec.ofNat 64 tick
  let warming := decide (x.updates < mgWarm a g)
  let fill := decide (feed.flags = 0) && decide (wordAt feed.words 33 ≠ 0)
  let empty := ((List.range 8).flatMap fun _ => modeWords 0 none) ++ shapeWords none ++ shapeWords none
  [ place 0x21 0 ||| place g 8 ||| place x.nModes 18 ||| placeB r.extracted 22 ||| placeB warming 23 ||| placeB r.suppressed 24 |||
      placeB x.reinitNow 25 ||| placeB fill 26 ||| placeB x.dampLow 27,
    lo32 t, hi32 t, place age 0 ||| place (x.dampCnt % 65536) 16, w32 x.updates, x.zetaMin, 0, 0 ] ++
    (if x.modes.isEmpty then empty else x.modes) ++ List.replicate 8 0

/-- The forced-oscillation record of a column (Table MOD-4). -/
def foRecord (a : Img) (g fm tick : Nat) (f : FoSlot) (dft : Bool) : List Word :=
  let t : DWord := BitVec.ofNat 64 tick
  [ place 0x22 0 ||| place g 8 ||| placeB f.forced 18 ||| placeB (decide (f.updates < 512)) 19 ||| placeB dft 20 |||
      placeB (f.heldMarks.any id || f.heldNow) 21,
    lo32 t, hi32 t, place (f.foCnt % 65536) 0 ||| wordAt f.peak 0 ] ++ f.peak.drop 1 ++ [foSpacing fm (mgDec a g)] ++ List.replicate 7 0

/-! ### The engine -/

/-- The grid instant before one. -/
def gridPrev (fm : Nat) (p : Nat × Nat) : Nat × Nat := if 0 < p.2 then (p.1, p.2 - 1) else (p.1 - 1, fm - 1)

/-- Counters of one processed column (Table MOD-7). -/
def State.countMod (s : State) (g : Nat) (r : ModResult) : State :=
  let s1 := if r.updated then s.inc Reg.modUpdateCnt else s
  let s2 := if r.suppressed then s1.inc Reg.modSuppressCnt else s1
  let s3 := if r.extracted then s2.inc Reg.modExtractCnt else s2
  let s4 := if r.noconv then s3.inc Reg.modNoconvCnt else s3
  let s5 := s4.add Reg.modNonfiniteCnt r.nonfinite
  let s6 := if r.dft then s5.inc Reg.modFoUpdateCnt else s5
  match r.reinit with
  | none => s6
  | some c => (s6.inc Reg.modReinitCnt).setReg Reg.modLastReinit (place g 0 ||| place c 10 ||| bit 31)

/-- A feed of the column in process is processed (R190 to R201): answers the mode record and the forced-oscillation record. -/
def State.processFeed (s : State) (feed : ModFeed) (cut : Bool) : State × List Word × Option (List Word) :=
  match s.tck.proc with
  | none => (s, [], none)
  | some p =>
    let a := s.img
    let g := feed.group
    let x := (mapGet s.mod.groups g).getD (freshGroup a g)
    let slot := if mgFo a g then some ((mapGet s.mod.slots (mgSlot a g)).getD {}) else none
    let cur := (p.sec, p.index)
    let r := modColumn a g s.fm (gridPrev s.fm cur) cur p.tick x slot feed cut
    let (age, s0) := match modeAge p.tick r.group with
      | some n => (n, s)
      | none => let (ws, t) := s.freeWords 1; (field (wordAt ws 0) 15 0, t)
    let rec_ := modeRecord a g p.tick age r.group r feed
    let fo := r.slot.map fun f => foRecord a g s.fm p.tick f r.dft
    let s1 := s0.onMod fun m =>
      { m with
        groups := mapSet m.groups g { r.group with reinitNow := false }
        slots := match r.slot with | some f => mapSet m.slots (mgSlot a g) f | none => m.slots
        fed := g :: m.fed }
    (s1.countMod g r, rec_, fo)

/-- Cycles of one feed (Table MOD-5), with the records delivered to n consuming arguments. -/
def modCycles (a : Img) (g : Nat) (updated extracted dft : Bool) (n : Nat) : Nat :=
  let r := mgR a g
  let nn := (mgN a g + 7) / 8
  (if updated then 96 + r * (24 + 3 * nn) else if mgFo a g then 64 + 3 * nn * r else 64) +
  (if extracted then 2000 + 2 * r * r * r + 4 * mgM a g * r else 0) +
  (if mgFo a g then (if dft then 1100 else 40) else 0) + 24 * n

/-- The core clock in kHz (Table CLK-1, Table PWR-2). -/
def State.coreKhz (s : State) : Nat :=
  match s.clk.domSrc.getD 0 .firc with
  | .pllc => match s.pwr.level with
    | 0 => 1200000
    | 1 => 900000
    | _ => 600000
  | .pllt => 250000
  | .xta => 25000
  | _ => 96000

/-- Pipeline p has worked n more cycles in the column; its peak is in ns. -/
def State.modBusy (s : State) (p n : Nat) : State :=
  let b := s.mod.busy.getD p 0 + n
  (s.onMod fun m => { m with busy := setAt m.busy p b }).peak (Reg.modBusyPeak p) (b * 1000000 / s.coreKhz)

/-- A MOD_FEED hands over (R188): the group's pipeline queues it. -/
def State.modHandOver (s : State) (g : Nat) (words : List Word) (flags : BitVec 2) : State :=
  s.onMod fun m =>
    { m with queues := modifyAt m.queues (mgPipe s.img g) fun q => q ++ [{ group := g, sent := mgSent s.img g, words := words, flags := flags }] }

/-- The feed a pipeline takes next: the oldest Sentinel feed before any general one (R202). -/
def nextFeed (q : List ModFeed) : Option ModFeed := (q.find? (·.sent)).orElse fun _ => q.head?

/-- The feed that completes next. DESIGN CHOICE (log 37): among pipelines, the one that has worked least in the column, the lowest of equals. -/
def State.dueFeed (s : State) : Option (Nat × ModFeed) :=
  (List.range 4).foldl (fun (b : Option (Nat × ModFeed)) p =>
    match nextFeed (s.mod.queues.getD p []) with
    | none => b
    | some f => match b with
      | none => some (p, f)
      | some (q, _) => if s.mod.busy.getD p 0 < s.mod.busy.getD q 0 then some (p, f) else b) none

/-- The feed of a group that never came: every signal invalid (R203). -/
def absentFeed (a : Img) (g : Nat) : ModFeed := { group := g, sent := mgSent a g, words := List.replicate 36 0 }

/-- The groups that the variant feeds. -/
def fedGroups (a : Img) (v : Nat) : List Nat :=
  ((List.range (imgOps a v)).filter fun o => decide (opType a v o = 0x09)).map (opParam1 a v)

/-- At the overrun limit (R203): feeds not processed are treated as suppressed columns, groups whose feed never came get held values; one count
per group. -/
def State.modOverrun (s : State) (variant : Nat) : State :=
  let a := s.img
  let queued := s.mod.queues.flatten
  let rest := (fedGroups a variant).filter fun g => !s.mod.fed.contains g && !(queued.any fun f => decide (f.group = g))
  let all := queued ++ rest.map (absentFeed a)
  let s1 := s.onMod fun m => { m with queues := [[], [], [], []] }
  (all.foldl (fun (x : State) f => (x.processFeed f true).1) s1).add Reg.modDiscardCnt all.length

/-- A column begins: no pipeline has worked in it. -/
def State.modBegin (s : State) : State := s.onMod fun m => { m with busy := [0, 0, 0, 0], fed := [], queues := [[], [], [], []] }

/-! ### State regions (R205). The order of the words inside a region is the model's own: DESIGN CHOICE (log 38) -/

/-- A natural number as two words. -/
def words2 (n : Nat) : List Word := [w32 n, w32 (n / 2 ^ 32)]

/-- The tracker region of a group: its S(g) bytes, and after them the last extraction's report, which the next record repeats (R194) and a planned swap keeps
(R205). -/
def groupRegion (a : Img) (g : Nat) (x : ModGroup) : List Word :=
  let l := x.w.flatten ++ x.line.flatten ++ x.held ++ x.d ++ (x.eig.flatMap fun e => [e.1, e.2]) ++
    [w32 x.clean, placeB x.last.isSome 0] ++ words2 ((x.last.map (·.1)).getD 0) ++
    [w32 ((x.last.map (·.2)).getD 0), w32 x.suppRun, w32 x.updates, placeB x.dampLow 31 ||| w32 x.dampCnt]
  let report := [w32 x.nModes, placeB x.extAt.isSome 0] ++ words2 (x.extAt.getD 0) ++ [x.zetaMin, placeB x.modes.isEmpty 0] ++ x.modes
  l ++ List.replicate (mgSize a g / 4 - l.length) 0 ++ report

/-- n pieces of k words. -/
def pieces (k : Nat) : Nat → List Word → List (List Word)
  | 0, _ => []
  | n + 1, l => l.take k :: pieces k n (l.drop k)

/-- A group as its tracker region gives it; `shift` takes the partner's tick IDs to the own ones (R431). -/
def groupOfRegion (a : Img) (g : Nat) (shift : Int) (ws : List Word) : ModGroup :=
  let n := mgN a g
  let m := mgM a g
  let r := mgR a g
  let t := ws.drop (n * r + n + m + 3 * r)
  let e := ws.drop (mgSize a g / 4)
  { w := pieces n r ws
    line := pieces m (mgL a g) (ws.drop (n * r))
    held := (ws.drop (n * r + n)).take m
    d := (ws.drop (n * r + n + m)).take r
    eig := (pieces 2 r (ws.drop (n * r + n + m + r))).map fun l => (wordAt l 0, wordAt l 1)
    clean := (wordAt t 0).toNat
    last := if flag (wordAt t 1) 0 then some ((wordAt t 2).toNat + (wordAt t 3).toNat * 2 ^ 32, (wordAt t 4).toNat) else none
    suppRun := (wordAt t 5).toNat
    updates := (wordAt t 6).toNat
    nModes := (wordAt e 0).toNat
    extAt := if flag (wordAt e 1) 0 then some (Int.ofNat ((wordAt e 2).toNat + (wordAt e 3).toNat * 2 ^ 32) + shift).toNat else none
    zetaMin := wordAt e 4
    modes := if flag (wordAt e 5) 0 then [] else (e.drop 6).take 160
    dampLow := flag (wordAt t 7) 31
    dampCnt := field (wordAt t 7) 30 0
    reinitNow := false }

/-- The bits of a list of Booleans, 32 to a word. -/
def boolWords (l : List Bool) : List Word :=
  (List.range ((l.length + 31) / 32)).map fun k =>
    (List.range 32).foldl (fun (w : Word) i => w ||| placeB (l.getD (32 * k + i) false) i) 0

/-- n Booleans of words. -/
def boolsOf (n : Nat) (ws : List Word) : List Bool := (List.range n).map fun i => flag (wordAt ws (i / 32)) (i % 32)

/-- The forced-oscillation region of a slot: 4,864 bytes. -/
def slotRegion (f : FoSlot) : List Word :=
  let l := f.h0 ++ f.h1 ++ (f.x0.flatMap fun p => [p.1, p.2]) ++ (f.x1.flatMap fun p => [p.1, p.2]) ++ f.nf ++ boolWords f.heldMarks ++
    [f.acc0, f.acc1, w32 f.cols, w32 f.pos, w32 f.kr, w32 f.updates, placeB f.heldNow 0 ||| placeB f.forced 1 ||| placeB f.qualified.isSome 2,
      w32 f.foCnt, w32 (f.qualified.getD 0)] ++ f.peak
  l ++ List.replicate (1216 - l.length) 0

/-- A slot as its region gives it. -/
def slotOfRegion (ws : List Word) : FoSlot :=
  let cplx (o : Nat) : List (Word × Word) := (pieces 2 127 (ws.drop o)).map fun l => (wordAt l 0, wordAt l 1)
  let t := ws.drop (512 + 508 + 127 + 8)
  { h0 := ws.take 256, h1 := (ws.drop 256).take 256, x0 := cplx 512, x1 := cplx 766, nf := (ws.drop 1020).take 127
    heldMarks := boolsOf 256 (ws.drop 1147)
    acc0 := wordAt t 0, acc1 := wordAt t 1, cols := (wordAt t 2).toNat, pos := (wordAt t 3).toNat, kr := (wordAt t 4).toNat
    updates := (wordAt t 5).toNat, heldNow := flag (wordAt t 6) 0, forced := flag (wordAt t 6) 1
    qualified := if flag (wordAt t 6) 2 then some (wordAt t 8).toNat else none
    foCnt := (wordAt t 7).toNat, peak := (t.drop 9).take 5 }

end Sys2Proof.Machine
end

