-- ==== Sys2Proof/Machine/Topology.lean ====
section
/-! DEFINITION. The topology engine: branch status, components, islands, cut-sets, records, state region (R213 to R227, R244). -/
namespace Sys2Proof.Machine

/-! ### The grid graph section (Tables TOP-1 to TOP-3) -/

/-- A word of the grid graph section. -/
def ggWord (a : Img) (off : Nat) : Word := secWord a secGrid 0 off
/-- NODES. -/
def ggNodes (a : Img) : Nat := field (ggWord a 0) 14 0
/-- BRANCHES. -/
def ggBranches (a : Img) : Nat := field (ggWord a 4) 14 0
/-- CUTSETS. -/
def ggCuts (a : Img) : Nat := field (ggWord a 8) 7 0
/-- ISLAND_MIN. -/
def ggIslandMin (a : Img) : Nat := field (ggWord a 12) 14 0
/-- GRAPH_KEY. -/
def ggKey (a : Img) : Word := ggWord a 16
/-- REF of node n. -/
def ggRef (a : Img) (n : Nat) : Bool := flag (ggWord a (64 + 4 * n)) 0
/-- Word j of branch b. -/
def brWord (a : Img) (b j : Nat) : Word := ggWord a (65600 + 16 * b + 4 * j)
/-- FROM. -/
def brFrom (a : Img) (b : Nat) : Nat := field (brWord a b 0) 13 0
/-- TO. -/
def brTo (a : Img) (b : Nat) : Nat := field (brWord a b 0) 27 14
/-- SRC. -/
def brSrc (a : Img) (b : Nat) : Nat := field (brWord a b 0) 30 28
/-- POLICY. -/
def brPolicy (a : Img) (b : Nat) : Bool := flag (brWord a b 0) 31
/-- HOLD. -/
def brHold (a : Img) (b : Nat) : Nat := field (brWord a b 1) 15 8
/-- Word j of cut-set c. -/
def cutWord (a : Img) (c j : Nat) : Word := ggWord a (458816 + 128 * c + 4 * j)
/-- The branches of cut-set c. -/
def cutBranches (a : Img) (c : Nat) : List Nat :=
  (List.range (field (cutWord a c 0) 6 1)).map fun i =>
    if i % 2 = 0 then field (cutWord a c (4 + i / 2)) 14 0 else field (cutWord a c (4 + i / 2)) 30 16

/-! ### Branch status (R217, R218) -/

/-- A branch whose state starts afresh (R217). -/
def freshBranch (a : Img) (b : Nat) : BranchState :=
  { eff := match brSrc a b with
      | 0 => false
      | 1 => true
      | _ => brPolicy a b }

/-- Branch b of the engine. -/
def Top.branch (t : Top) (a : Img) (b : Nat) : BranchState := (mapGet t.branches b).getD (freshBranch a b)

/-- The element of branch b in the feeds of the column: value and quality word; none when its block was flagged or did not come. -/
def Top.element (t : Top) (b : Nat) : Option (Word × BitVec 16) :=
  match mapGet t.feeds (b / 256) with
  | some (ws, fl) =>
    if fl = 0 then some (wordAt ws (2 * (b % 256)), (wordAt ws (2 * (b % 256) + 1)).setWidth 16) else none
  | none => none

/-- The status update of one branch (R217): an element that is none is absent. -/
def branchStep (a : Img) (b : Nat) (x : BranchState) (e : Option (Word × BitVec 16)) : BranchState :=
  let src := brSrc a b
  let missed := { x with miss := min (x.miss + 1) 255, known := x.known && decide (min (x.miss + 1) 255 ≤ brHold a b) }
  let y :=
    if src < 2 then x
    else match e with
      | none => missed
      | some (v, q) =>
        if qHas q qNotDue && !qHas q qCorrupt then x
        else if qHas q qFilled && !qHas q qCorrupt && (decide (src = 2) || fpIsFinite v) then
          let st : Option Bool :=
            if src = 2 then some (decide (v.getLsbD (field (brWord a b 1) 3 0) = flag (brWord a b 1) 4))
            else if fpGe v (brWord a b 2) then some true
            else if fpLe v (brWord a b 3) then some false
            else none
          match st with
          | some c => { x with miss := 0, last := c, known := true }
          | none => { x with miss := 0 }
        else missed
  { y with eff := match src with
      | 0 => false
      | 1 => true
      | _ => if y.known then y.last else brPolicy a b }

/-- A branch's status is unknown. -/
def branchUnknown (a : Img) (b : Nat) (x : BranchState) : Bool := decide (2 ≤ brSrc a b) && !x.known

/-! ### Components (R219 to R221) -/

/-- The root of a node in a forest of parents. -/
def rootOf (p : Array Nat) : Nat → Nat → Nat
  | 0, n => n
  | f + 1, n => let m := p.getD n n; if m = n then n else rootOf p f m

/-- Two nodes joined; the lower root stays a root, so that a root is its component's lowest node. -/
def joinNodes (p : Array Nat) (n m : Nat) : Array Nat :=
  let r := rootOf p p.size n
  let q := rootOf p p.size m
  if r = q then p else p.setIfInBounds (max r q) (min r q)

/-- The identity of each node's component: its lowest node. -/
def components (nodes : Nat) (closed : List (Nat × Nat)) : Array Nat :=
  let p := closed.foldl (fun p e => joinNodes p e.1 e.2) (Array.range nodes)
  (Array.range nodes).map (rootOf p nodes)

/-- A component: identity, nodes, REF nodes, UNCERTAIN. -/
structure Component where
  id : Nat
  nodes : Nat
  refs : Nat
  uncertain : Bool
deriving DecidableEq, Repr

/-- The components of the column's graph in ascending identity. -/
def componentList (nodes : Nat) (ids : Array Nat) (isRef : Nat → Bool) (unknownEnds : List Nat) : List Component :=
  let cnt := (List.range nodes).foldl (fun (c : Array Nat) n => c.modify (ids.getD n n) (· + 1)) (Array.replicate nodes 0)
  let refs := (List.range nodes).foldl (fun (c : Array Nat) n => if isRef n then c.modify (ids.getD n n) (· + 1) else c) (Array.replicate nodes 0)
  let unc := unknownEnds.foldl (fun (c : Array Bool) n => c.setIfInBounds (ids.getD n n) true) (Array.replicate nodes false)
  ((List.range nodes).filter fun n => decide (ids.getD n n = n)).map fun n =>
    { id := n, nodes := cnt.getD n 0, refs := refs.getD n 0, uncertain := unc.getD n false }

/-- The reference component: most REF nodes, ties to the lower identity (R220). -/
def refComponent (l : List Component) : Option Component :=
  l.foldl (fun (b : Option Component) c => match b with
    | none => some c
    | some x => if x.refs < c.refs then some c else b) none

/-- An island inserted in descending order of node count, ties to the lower identity (R221). -/
def insertIsland (x : Component) : List Component → List Component
  | [] => [x]
  | y :: ys => if decide (x.nodes < y.nodes) || (decide (x.nodes = y.nodes) && decide (y.id < x.id)) then y :: insertIsland x ys else x :: y :: ys

/-! ### Cut-sets (R222, R223, Table TOP-5) -/

/-- The record of cut-set c with the delta it keeps; `stat` gives a branch's effective status and whether it is unknown, none for an unreadable
entry. -/
def cutRecord (a : Img) (t : Top) (c fm tick : Nat) (stat : Nat → Option (Bool × Bool)) (tableErr : Bool) : List Word × Option Word :=
  let tk : DWord := BitVec.ofNat 64 tick
  let feed := mapGet t.feeds (0x0100 + c)
  let flagged := match feed with | some (_, fl) => decide (fl ≠ 0) | none => true
  let ws := (feed.map (·.1)).getD []
  let qa : BitVec 16 := if flagged then qAbsent else (wordAt ws 6).setWidth 16
  let qb : BitVec 16 := if flagged then qAbsent else (wordAt ws 6 >>> 16).setWidth 16
  let good (q : BitVec 16) : Bool := qHas q (qFilled ||| qLateFill) && !qHas q qCorrupt
  let bad := t.badCuts.contains c
  let brs := (cutBranches a c).filterMap stat
  let closedN := (brs.filter (·.1)).length
  let unknownN := (brs.filter (·.2)).length
  let valid := !flagged && good qa && good qb && ((List.range 6).all fun i => fpIsFinite (wordAt ws i))
  let ar := wordAt ws 0
  let ai := wordAt ws 1
  let br := wordAt ws 2
  let bi := wordAt ws 3
  let delta := fpAtan2 (fpSub (fpMul ai br) (fpMul ar bi)) (fpAdd (fpMul ar br) (fpMul ai bi))
  let df := fpSub (wordAt ws 4) (wordAt ws 5)
  let rate := match mapGet t.prev c with
    | none => fpNaN
    | some p =>
      let d := fpSub delta p
      let d1 := if fpGt d fpPi then fpSub d fpTwoPi else if fpLe d (fpNeg fpPi) then fpAdd d fpTwoPi else d
      fpMul d1 (fpOfInt fm)
  let lim (j : Nat) : Word := cutWord a c j
  let past (v l : Word) : Bool := fpGt l 0 && fpGe (fpAbs v) l
  let ok := valid && !bad
  let unc := (decide (0 < unknownN) && !bad) || tableErr
  let q9 (q : BitVec 16) : BitVec 16 := if unc then q ||| qUncertain else q
  let w0 := place 0x24 0 ||| place c 8 ||| placeB (decide (closedN = 0) && !bad) 15 ||| placeB (ok && past delta (lim 1)) 16 |||
    placeB (ok && past df (lim 2)) 17 ||| placeB (ok && fpIsFinite rate && past rate (lim 3)) 18 ||| placeB unc 19 ||| placeB ok 20 |||
    placeB (!flagged && (qHas qa qLateFill || qHas qb qLateFill)) 21
  ([w0, lo32 tk, hi32 tk, (if bad then 0 else place closedN 0 ||| place unknownN 6),
    (if ok then delta else fpNaN), (if ok then df else fpNaN), (if ok then rate else fpNaN), q9 qb ++ q9 qa] ++ List.replicate 8 0,
   if valid then some delta else none)

/-! ### The pass (R219 to R225) -/

/-- What a pass answers: the engine after it, and the records of its jobs. -/
structure TopResult where
  top : Top
  summary : List Word
  cuts : List (Nat × List Word)
  unknown : Nat
  toUnknown : Nat
  changed : Nat
  newIslands : Nat
  flagged : Bool
deriving DecidableEq, Repr

/-- Tables damaged (R244). -/
def Top.tableErr (t : Top) : Bool := !t.badBranches.isEmpty || !t.badNodes.isEmpty || !t.badCuts.isEmpty

/-- One pass over the feeds of a column (R217 to R224). -/
def topPass (a : Img) (t : Top) (fm tick : Nat) : TopResult :=
  let te := t.tableErr
  let all := (List.range (ggBranches a)).filter fun b => !t.badBranches.contains b
  let steps := all.map fun b => let x := t.branch a b; (b, x, branchStep a b x (t.element b))
  let next := steps.map fun e => (e.1, e.2.2)
  let held := (List.range (ggBranches a)).filterMap fun b => if t.badBranches.contains b then (mapGet t.branches b).map fun x => (b, x) else none
  let arr : Array (Option BranchState) :=
    next.foldl (fun (r : Array (Option BranchState)) e => r.setIfInBounds e.1 (some e.2)) (Array.replicate (ggBranches a) none)
  let stat (b : Nat) : Option (Bool × Bool) := (arr.getD b none).map fun x => (x.eff, branchUnknown a b x)
  let ids := components (ggNodes a) ((next.filter fun e => e.2.eff).map fun e => (brFrom a e.1, brTo a e.1))
  let ends := (next.filter fun e => branchUnknown a e.1 e.2).flatMap fun e => [brFrom a e.1, brTo a e.1]
  let comps := componentList (ggNodes a) ids (fun n => ggRef a n && !t.badNodes.contains n) ends
  let ref := refComponent comps
  let others := comps.filter fun c => decide (some c.id ≠ ref.map (·.id))
  let isl := (others.filter fun c => decide (ggIslandMin a ≤ c.nodes)).foldl (fun l c => insertIsland c l) []
  let ages := (isl.map fun c => (c.id, (mapGet t.ages c.id).getD 0 + 1)).foldl (fun m p => mapSet m p.1 p.2) []
  let shown := isl.take 32
  let flagged := t.feeds.any fun f => decide (f.1 < 0x0100) && decide (f.2.2 ≠ 0)
  let tk : DWord := BitVec.ofNat 64 tick
  let unknown := (next.filter fun e => branchUnknown a e.1 e.2).length
  let heldBr := (next.filter fun e => decide (2 ≤ brSrc a e.1) && e.2.known && decide (0 < e.2.miss)).length
  let changed := (steps.filter fun e => e.2.1.eff != e.2.2.eff).length
  let toUnknown := (steps.filter fun e => e.2.1.known && !e.2.2.known).length
  let split := 1 < (comps.filter fun c => decide (0 < c.refs)).length
  let refUnc := ((ref.map (·.uncertain)).getD false) || te
  let dead := (others.filter fun c => decide (c.nodes < ggIslandMin a)).length
  let entries := shown.flatMap fun c =>
    let age := (mapGet ages c.id).getD 1
    [place c.id 0 ||| placeB (c.uncertain || te) 14 ||| placeB (decide (age = 1)) 15 ||| place (c.nodes % 16384) 16, sat32 age]
  let summary :=
    [ place 0x23 0 ||| placeB split 8 ||| placeB refUnc 9 ||| placeB (decide (32 < isl.length)) 10 ||| placeB flagged 11 ||| placeB te 12,
      lo32 tk, hi32 tk, w32 comps.length, place isl.length 0 ||| place shown.length 16, w32 ((ref.map (·.id)).getD 0),
      place ((ref.map (·.nodes)).getD 0) 0 ||| place dead 16, place unknown 0 ||| place heldBr 16, w32 changed ] ++
    List.replicate 7 0 ++ entries ++ List.replicate (64 - entries.length) 0
  let cuts := (List.range (ggCuts a)).map fun c => (c, cutRecord a t c fm tick stat te)
  { top :=
      { t with
        branches := held.foldl (fun m e => mapSet m e.1 e.2) next, ages := ages, passed := true, refSplit := split, islands := isl.length
        prev := cuts.filterMap fun p => p.2.2.map fun d => (p.1, d) }
    summary := summary
    cuts := cuts.map fun p => (p.1, p.2.1)
    unknown := unknown, toUnknown := toUnknown, changed := changed, flagged := flagged
    newIslands := (shown.filter fun c => decide ((mapGet ages c.id).getD 1 = 1)).length }

/-- The TOP_FEED blocks of an image (R216). -/
def topBlocks (a : Img) : List Nat :=
  List.range ((ggBranches a + 255) / 256) ++ (List.range (ggCuts a)).map (0x0100 + ·)

/-- The pass of the column in process can be made: every TOP_FEED has handed over (R225), and none has been made. -/
def State.passDue (s : State) : Bool :=
  match s.tck.proc with
  | none => false
  | some p => p.windowEnd.isNone && s.imageActive && !s.top.passed && ((topBlocks s.img).all fun b => (mapGet s.top.feeds b).isSome)

/-- The counters of a pass (Table TOP-6). -/
def State.countPass (s : State) (r : TopResult) (passNs : Nat) : State :=
  let s1 := ((((s.inc Reg.topPassCnt).peak Reg.topPassPeak passNs).setReg Reg.topUnknownNow (w32 r.unknown)).add Reg.topUnknownCnt r.toUnknown).add
    Reg.topChangeCnt r.changed
  let s2 := s1.add Reg.topNewIslandCnt r.newIslands
  if r.flagged then s2.inc Reg.topFlaggedCnt else s2

/-- A TOP_FEED hands over (R215, R222). -/
def State.topHandOver (s : State) (block : Nat) (words : List Word) (flags : BitVec 2) : State :=
  s.onTop fun t => { t with feeds := mapSet t.feeds block (words, flags) }

/-- A column begins: no feed has come and no pass has been made. -/
def State.topBegin (s : State) : State := s.onTop fun t => { t with feeds := [], passed := false }

/-- At a switch (R241, R244): the tables are reloaded; the state is kept when GRAPH_KEY, NODES and BRANCHES are those of the image last in force. TOP_STATUS
goes on showing the last pass (R245). -/
def State.topSwitch (s : State) (old : Img) : State :=
  let a := s.img
  let same := decide (ggKey old = ggKey a) && decide (ggNodes old = ggNodes a) && decide (ggBranches old = ggBranches a)
  s.onTop fun t => if same then { t with badBranches := [], badNodes := [], badCuts := [] } else { refSplit := t.refSplit, islands := t.islands }

/-- An uncorrectable error in graph tables or branch state (R244); areas are those of R246. A branch that it makes unknown counts in TOP_UNKNOWN_CNT. -/
def State.topError (s : State) (k : ErrKind) (area index : Nat) : State :=
  match k with
  | .single => s.inc Reg.topCeCnt
  | .double =>
    let ins (l : List Nat) : List Nat := if l.contains index then l else l ++ [index]
    let s1 := s.onTop fun t => match area with
      | 0 => { t with badBranches := ins t.badBranches }
      | 1 => { t with badNodes := ins t.badNodes }
      | 2 => { t with badCuts := ins t.badCuts }
      | _ => { t with branches := mapSet t.branches index { t.branch s.img index with miss := 255, known := false } }
    let lost := decide (3 ≤ area) && (s.top.branch s.img index).known
    (((if lost then s1.inc Reg.topUnknownCnt else s1).inc Reg.topUeCnt).setReg Reg.topUeLog (place index 0 ||| place area 15 ||| bit 31)).setReg Reg.topUeTick
      (w32 ((s.tck.proc.map (·.tick)).getD (s.tck.lastClosed.getD 0)))

/-! ### State region 0x0800 (R227); the order of its words is the model's own: DESIGN CHOICE (log 38) -/

/-- The topology region: branches, cut-sets, islands. -/
def topRegion (a : Img) (t : Top) : List Word :=
  ((List.range (ggBranches a)).map fun b =>
    let x := t.branch a b
    place x.miss 0 ||| placeB x.known 8 ||| placeB x.last 9 ||| placeB x.eff 10) ++
  ((List.range (ggCuts a)).flatMap fun c => [placeB (mapGet t.prev c).isSome 0, (mapGet t.prev c).getD 0]) ++
  [w32 t.ages.length] ++ t.ages.flatMap fun p => [w32 p.1, sat32 p.2]

/-- The engine as its region gives it. -/
def topOfRegion (a : Img) (t : Top) (ws : List Word) : Top :=
  let nb := ggBranches a
  let nc := ggCuts a
  let cw := ws.drop nb
  let aw := cw.drop (2 * nc)
  { t with
    branches := (List.range nb).map fun b =>
      let w := wordAt ws b
      (b, { miss := field w 7 0, known := flag w 8, last := flag w 9, eff := flag w 10 })
    prev := (List.range nc).filterMap fun c => if flag (wordAt cw (2 * c)) 0 then some (c, wordAt cw (2 * c + 1)) else none
    ages := (List.range (wordAt aw 0).toNat).map fun i => ((wordAt aw (1 + 2 * i)).toNat, (wordAt aw (2 + 2 * i)).toNat) }

end Sys2Proof.Machine
end

