-- ==== Sys2Proof/Machine/Alarm.lean ====
section
/-! DEFINITION. The alarm unit: rules, records, routing, GOOSE templates, failure state, switches, state region (R228 to R244). -/
namespace Sys2Proof.Machine

/-! ### The alarm section (Tables ALM-1, ALM-6) -/

/-- Word j of rule r. -/
def ruleWord (a : Img) (r j : Nat) : Word := secWord a secAlarm 0 (64 + 64 * r + 4 * j)
/-- RULES. -/
def ruleCount (a : Img) : Nat := field (secWord a secAlarm 0 0) 11 0
/-- Rule r is in use. -/
def ruleEn (a : Img) (r : Nat) : Bool := decide (r < ruleCount a) && flag (ruleWord a r 0) 0
/-- CLASS. -/
def ruleClass (a : Img) (r : Nat) : Nat := field (ruleWord a r 0) 2 1
/-- KIND. -/
def ruleKind (a : Img) (r : Nat) : Nat := field (ruleWord a r 0) 5 3
/-- The rules in use. -/
def rulesOf (a : Img) : List Nat := (List.range (ruleCount a)).filter (ruleEn a)
/-- Rule r is suspended in variant v (R230): its span contains a furrow that the variant does not keep. -/
def ruleSuspended (a : Img) (v r : Nat) : Bool :=
  let w := ruleWord a r 4
  (List.range (field w 26 13)).any fun i => !keptFurrow a v (field w 12 0 + i)
/-- Word j of template t. -/
def tplWord (a : Img) (t j : Nat) : Word := secWord a secAlarm 0 (131136 + 64 * t + 4 * j)
/-- EN of template t. -/
def tplEn (a : Img) (t : Nat) : Bool := flag (tplWord a t 0) 0
/-- PORT of template t. -/
def tplPort (a : Img) (t : Nat) : Nat := field (tplWord a t 0) 3 1
/-- Entries of template t. -/
def tplEntries (a : Img) (t : Nat) : Nat := field (tplWord a t 0) 9 4
/-- Word j of entry e of template t. -/
def tplEntry (a : Img) (t e j : Nat) : Word := secWord a secAlarm 0 ((tplWord a t 6).toNat + 8 * e + 4 * j)
/-- The rules of template t in entry order. -/
def tplRules (a : Img) (t : Nat) : List Nat := (List.range (tplEntries a t)).map fun e => field (tplEntry a t e 0) 10 0
/-- T0_MS. -/
def tplT0 (a : Img) (t : Nat) : Nat := field (tplWord a t 3) 15 0
/-- T1_MS. -/
def tplT1 (a : Img) (t : Nat) : Nat := field (tplWord a t 3) 31 16
/-- The enabled templates. -/
def templatesOf (a : Img) : List Nat := (List.range 32).filter (tplEn a)

/-- Rule r of the unit. -/
def Alm.rule (m : Alm) (r : Nat) : RuleState := (mapGet m.rules r).getD {}
/-- Rule r replaced; a rule as at its start is not listed. -/
def Alm.setRule (m : Alm) (r : Nat) (x : RuleState) : Alm :=
  { m with rules := if x = {} then mapDel m.rules r else mapSet m.rules r x }
/-- Template t of the unit. -/
def Alm.template (m : Alm) (t : Nat) : Goose := (mapGet m.templates t).getD {}

/-! ### GOOSE frames (R236 to R239) -/

/-- stVal and first quality octet of entry e of template t, which shows rule r (R237, R242); one held in the failure state stays as last sent. -/
def entryContent (a : Img) (m : Alm) (t e r : Nat) : Bool × Nat :=
  let x := m.rule r
  if m.fail then
    ((match field (tplWord a t 0) 11 10 with
      | 0 => false
      | 1 => true
      | _ => ((m.template t).content[e]?.map (·.1)).getD x.raised), 0x40)
  else (x.raised, if x.suspended then 0x40 else if x.lastUnc then 0xC0 else 0)

/-- The content of template t (R237). -/
def gooseContent (a : Img) (m : Alm) (t : Nat) : List (Bool × Nat) :=
  (List.range (tplEntries a t)).map fun e => entryContent a m t e (field (tplEntry a t e 0) 10 0)

/-- The frame of template t (R237). -/
def gooseFrame (a : Img) (t : Nat) (g : Goose) : List Byte :=
  let w (j : Nat) : Word := tplWord a t j
  let base := match imgSection a secAlarm 0 with
    | some (o, _) => imgBytes a (o + (w 1).toNat) (field (w 2) 10 0)
    | none => []
  let f1 := putBytes base (field (w 4) 10 0) (0 :: beNat 4 g.stNum)
  let f2 := putBytes f1 (field (w 4) 26 16) (0 :: beNat 4 g.sqNum)
  let f3 := putBytes f2 (field (w 5) 10 0) g.time
  let f4 := putBytes f3 (field (w 5) 26 16) (beNat 4 (2 * g.interval))
  (List.range g.content.length).foldl (fun f e =>
    let c := g.content.getD e (false, 0)
    let o := tplEntry a t e 1
    putBytes (putBytes f (field o 10 0) [if c.1 then 0x01 else 0x00]) (field o 26 16) [BitVec.ofNat 8 c.2, 0]) f4
where
  /-- Bytes of a frame replaced from an offset. -/
  putBytes (bs : List Byte) (off : Nat) (v : List Byte) : List Byte := bs.take off ++ v ++ bs.drop (off + v.length)

/-- A frame of template t waits at port n. -/
def State.gooseWaits (s : State) (n t : Nat) : Bool := (s.port n).queue.any fun x => decide (x.template = some t)

/-- A frame as a pair port would send it under the sequence number that a waiting frame holds. -/
def State.reframe (s : State) (n : Nat) (old bs : List Byte) : List Byte :=
  if s.inPair n then
    if s.pairMode = 1 then withTrailer bs (be16 old (old.length - 6)) (0xA + n) else withTag bs (be16 old (lsduAt bs + 2)) n
  else pad60 bs

/-- A frame of template t goes to port n: a waiting one is updated in place (R238), else it is queued. -/
def State.goosePort (s : State) (n t : Nat) (bs : List Byte) : State :=
  if s.gooseWaits n t then
    s.onPort n fun p => { p with queue := p.queue.map fun x => if x.template = some t then { x with bytes := s.reframe n x.bytes bs } else x }
  else s.enqueue n { kind := .goose, bytes := if s.inPair n then s.pairFrame n bs else pad60 bs, template := some t }

/-- A frame of template t is queued at its port or pair; `replace` lets a waiting frame be updated in place (R135, R238). -/
def State.gooseSend (s : State) (t : Nat) (bs : List Byte) (replace : Bool) : State :=
  let p := tplPort s.img t
  let ports := if decide (p = 4) || s.inPair p then [0, 1] else [p]
  let fresh := ports.any fun n => !s.gooseWaits n t || !replace
  let s1 := ports.foldl (fun (x : State) n =>
    if replace then x.goosePort n t bs
    else x.enqueue n { kind := .goose, bytes := if x.inPair n then x.pairFrame n bs else pad60 bs, template := some t }) s
  if fresh && s.inPair (ports.getD 0 0) then s1.onPrt fun q => { q with seq := (q.seq + 1) % 65536 } else s1

/-- The IEC 61850 UtcTime of a moment with the quality octet now (R237). -/
def State.utcTime (s : State) : List Byte :=
  beNat 4 (s.soc s.nowSec).toNat ++ beNat 3 (s.nowNs * 2 ^ 24 / nsPerSec) ++ [BitVec.ofNat 8 s.gooseQuality]

/-- A state change of template t now (R238): stNum, sqNum, t, and a frame at priority 1. -/
def State.gooseChange (s : State) (t : Nat) : State :=
  let a := s.img
  let g := s.alm.template t
  if g.stopped then s
  else
    let g1 : Goose :=
      { g with
        stNum := (g.stNum + 1) % 2 ^ 32, sqNum := 0, time := s.utcTime, interval := tplT1 a t
        next := some (s.tim.mono + tplT1 a t * 1000000), content := gooseContent a s.alm t }
    ((s.onAlm fun m => { m with templates := mapSet m.templates t g1 }).inc Reg.almGooseChgCnt).gooseSend t (gooseFrame a t g1) true

/-- A record may change template t (R238): a changed stVal or quality makes a state change. -/
def State.gooseRefresh (s : State) (t : Nat) : State :=
  if (mapGet s.alm.templates t).isSome && decide ((s.alm.template t).content ≠ gooseContent s.img s.alm t) && !s.alm.announce.contains t
  then s.gooseChange t else s

/-- The device publishes: it is ACTIVE or SOLO. -/
def State.publishes (s : State) : Bool := decide (s.gzl.role = .active) || decide (s.gzl.role = .solo)

/-- GOOSE_RETRANSMIT (R239): the next sqNum at the scheduled time; the interval doubles up to T0. -/
def execGooseRetransmit (t : Fin 32) (s : State) : Host.Outcome State Fault Refusal :=
  let g := s.alm.template t.val
  match g.next with
  | none => .next s
  | some m =>
    if g.stopped || !s.publishes || !s.imageActive && !s.alm.fail || !s.awake then .next s
    else
      let a := s.img
      let s1 := s.runToMono m
      let iv := min (2 * g.interval) (tplT0 a t.val)
      let g1 := { g with sqNum := (g.sqNum + 1) % 2 ^ 32, interval := iv, next := some (m + iv * 1000000) }
      .next ((s1.onAlm fun x => { x with templates := mapSet x.templates t.val g1 }).gooseSend t.val (gooseFrame a t.val g1) false)

/-! ### Records (R233, R234) -/

/-- The column that a record belongs to: tick, close on the timebase, variant, overrun causes, flags. -/
structure AlarmColumn where
  tick : Nat
  closeAt : Nat
  variant : Nat
  overrun : Bool := false
  flags : BitVec 2 := 0
deriving DecidableEq, Repr

/-- The column that a record formed now belongs to: the one in process, else the one closed last. -/
def State.alarmColumn (s : State) : AlarmColumn :=
  match s.tck.proc with
  | some p => { tick := p.tick, closeAt := p.closeAt, variant := p.variant, overrun := decide (p.causes ≠ 0), flags := s.dpx.columnFlags }
  | none =>
    match s.tck.lastClosed.bind s.column with
    | some c => { tick := c.tick, closeAt := c.closeAt, variant := c.variant, overrun := c.overran, flags := s.dpx.columnFlags }
    | none => { tick := s.tck.lastClosed.getD 0, closeAt := s.tim.now, variant := s.tck.variant }

@[reducible] def trRaise : Nat := 0
@[reducible] def trClear : Nat := 1
@[reducible] def trChange : Nat := 2
@[reducible] def trSuspend : Nat := 3
@[reducible] def trResume : Nat := 4
@[reducible] def trRetire : Nat := 5
@[reducible] def trLost : Nat := 6
@[reducible] def trFail : Nat := 7

/-- An alarm record of a rule of image a (Table ALM-4). -/
def State.alarmWords (s : State) (a : Img) (c : AlarmColumn) (tr r : Nat) (x : RuleState) (unc : Bool) (value subject : Word) : List Word :=
  let t : DWord := BitVec.ofNat 64 c.tick
  [ place 0x31 0 ||| place tr 8 ||| place (ruleClass a r) 11 ||| place (ruleKind a r) 13 ||| placeB unc 16 ||| placeB c.overrun 17 |||
      placeB (c.flags.getLsbD 0) 18 ||| placeB (c.flags.getLsbD 1) 19 ||| place c.variant 22 ||| placeB x.raised 24,
    w32 r, lo32 t, hi32 t, s.alm.seq, s.gzl.epoch, value, subject, w32 (s.tim.now - c.closeAt),
    w32 s.nowSec, place (s.nowSec / 2 ^ 32 % 65536) 0, w32 s.nowNs, place (x.cnt % 65536) 0, 0, 0, 0 ]

/-- A record goes to the host alarm ring (R234). -/
def State.alarmToRing (s : State) (ws : List Word) : State :=
  if s.regBit Reg.almCfg 6 then s.deliverOr (s.regField Reg.almCfg 5 0) 5 (bytesOf ws) [0x31, wordAt ws 4] Reg.almRingDropCnt
  else s.inc Reg.almRingDropCnt

/-- A record goes to the partner (R430). -/
def State.alarmToPartner (s : State) (ws : List Word) : State :=
  if s.gzl.role = .active then s.sendSeq (.alarm [ws]) else s

/-- The bound of R20 in ns. -/
def State.sentinelBound (s : State) : Nat := if s.pwr.level < 2 then 1250000 else 2500000

/-- A record of rule r of image a is formed and routed (R233, R234); the rule has its new state already. `templates` is false for a rule of
an image no longer in force. -/
def State.formRecord (s : State) (a : Img) (c : AlarmColumn) (tr r : Nat) (unc : Bool) (value subject : Word) (templates : Bool) : State :=
  let ws := s.alarmWords a c tr r (s.alm.rule r) unc value subject
  let s1 := (s.onAlm fun m => { m with seq := m.seq + 1 }).inc Reg.almRecCnt
  let s2 := match tr with
    | 0 => s1.inc Reg.almRaiseCnt
    | 1 => s1.inc Reg.almClearCnt
    | 3 => s1.inc Reg.almSuspendCnt
    | _ => s1
  let s3 := if decide (ruleClass a r = 0) && decide (tr ≤ 2) && decide (s.sentinelBound < s.tim.now - c.closeAt) then s2.inc Reg.tckSentLateCnt else s2
  let w2 := ruleWord a r 2
  let s4 := if templates then ((List.range 32).filter fun t => flag (ruleWord a r 3) t).foldl State.gooseRefresh s3 else s3
  let s5 := if flag w2 8 then s4.alarmToRing ws else s4
  let s6 := if flag w2 9 then s5.alarmToPartner ws else s5
  if flag (ruleWord a r 0) 8 then
    s6.event 0x0601 (ruleClass a r) [wordAt ws 0, w32 r, wordAt ws 4, value, subject]
      { tick := some c.tick, epoch := some s.gzl.epoch, time := some s.timebaseTime }
  else s6

/-- A GLOBAL record (R242). -/
def State.formGlobal (s : State) (tick closeAt : Nat) (entering : Bool) : State :=
  let t : DWord := BitVec.ofNat 64 tick
  let ws : List Word :=
    [ place 0x31 0 ||| place trFail 8 ||| placeB s.alarmColumn.overrun 17 ||| bit 20, 0, lo32 t, hi32 t, s.alm.seq, s.gzl.epoch, fpNaN, placeB entering 0, w32 (s.tim.now - closeAt),
      w32 s.nowSec, place (s.nowSec / 2 ^ 32 % 65536) 0, w32 s.nowNs, 0, 0, 0, 0 ]
  let s1 := (s.onAlm fun m => { m with seq := m.seq + 1 }).inc Reg.almRecCnt
  let s2 := if s.regBit Reg.almCfg 6 then s1.alarmToRing ws else s1
  s2.alarmToPartner ws

/-! ### Evaluation (R229, R231) -/

/-- Condition, value, subject and UNCERTAIN of a rule's first input (Table ALM-2). -/
def readInput (kind : Nat) (param : Word) (i : List Word) : Bool × Word × Word × Bool :=
  let w (k : Nat) : Word := wordAt i k
  match kind with
  | 0 => (flag (w 0) 0, w 1, param, flag (w 0) 1)
  | 1 => (flag (w 0) 27, w 5, w32 (field (w 0) 17 8), false)
  | 2 => (flag (w 0) 18, w 4, w32 (field (w 0) 17 8), false)
  | 3 =>
    let n := field (w 4) 21 16
    (decide (0 < field (w 4) 14 0) || (flag param 0 && flag (w 0) 8),
      if 0 < n then fpOfInt (field (w 16) 29 16) else 0,
      if 0 < n then w32 (field (w 16) 13 0) else 0x3FFF,
      flag (w 0) 9 || (List.range n).any fun k => flag (w (16 + 2 * k)) 14)
  | _ =>
    ((List.range 4).any fun k => flag param k && flag (w 0) (15 + k), w 4, w32 (field (w 0) 14 8), flag (w 0) 19)

/-- One evaluation (R231, Table ALM-3). -/
def State.evaluate (s : State) (e : AlarmEval) : State :=
  let a := s.img
  if e.flags ≠ 0 then s.inc Reg.almHeldCnt
  else
    let x := s.alm.rule e.rule
    let (cond0, value, subject, unc) := readInput (ruleKind a e.rule) (ruleWord a e.rule 5) e.input
    let cond := cond0 && !(unc && flag (ruleWord a e.rule 0) 6)
    let emit (y : RuleState) (tr : Nat) : State :=
      (s.onAlm fun m => m.setRule e.rule { y with lastUnc := unc, lastSubject := subject }).formRecord a s.alarmColumn tr e.rule unc value subject true
    if !x.raised then
      let n := if cond then x.cnt + 1 else 0
      if decide (field (ruleWord a e.rule 1) 15 0 ≤ n) then emit { x with raised := true, cnt := 0 } trRaise
      else s.onAlm fun m => m.setRule e.rule { x with cnt := n }
    else
      let n := if cond then 0 else x.cnt + 1
      if decide (field (ruleWord a e.rule 1) 31 16 ≤ n) then emit { x with raised := false, cnt := 0 } trClear
      else if unc != x.lastUnc then emit { x with cnt := n } trChange
      else s.onAlm fun m => m.setRule e.rule { x with cnt := n }

/-- An ALM_EVAL hands over (R231): the Sentinel queue or the general one. -/
def State.almHandOver (s : State) (e : AlarmEval) : State :=
  if ruleClass s.img e.rule = 0 then s.onAlm fun m => { m with sent := m.sent ++ [e] }
  else s.onAlm fun m => { m with general := m.general ++ [e] }

/-- The hand-over that is evaluated next is evaluated: the Sentinel queue first. -/
def State.evaluateNext (s : State) : State :=
  match s.alm.sent, s.alm.general with
  | e :: rest, _ => (s.onAlm fun m => { m with sent := rest }).evaluate e
  | [], e :: rest => (s.onAlm fun m => { m with general := rest }).evaluate e
  | [], [] => s

/-- n hand-overs are evaluated. -/
def State.evaluateAll : Nat → State → State
  | 0, s => s
  | n + 1, s => State.evaluateAll n s.evaluateNext

/-- Hand-overs that wait. -/
def State.evalsWaiting (s : State) : Nat := s.alm.sent.length + s.alm.general.length

/-! ### Closes, switches, failure state (R230, R239, R241 to R243) -/

/-- Suspensions and resumptions at a close (R230, R231). -/
def State.suspendRules (s : State) (c : AlarmColumn) : State :=
  let a := s.img
  (rulesOf a).foldl (fun (x : State) r =>
    let st := x.alm.rule r
    let susp := ruleSuspended a c.variant r
    if susp && !st.suspended then
      let y := { st with suspended := true, cnt := 0, raised := st.raised && !flag (ruleWord a r 0) 7 }
      (x.onAlm fun m => m.setRule r y).formRecord a c trSuspend r st.lastUnc fpNaN st.lastSubject true
    else if !susp && st.suspended then
      (x.onAlm fun m => m.setRule r { st with suspended := false, cnt := 0 }).formRecord a c trResume r st.lastUnc fpNaN st.lastSubject true
    else x) s

/-- The first frames of templates newly in use, and after a takeover the state change of each (R239, R243). -/
def State.announceTemplates (s : State) : State :=
  let ts := if s.alm.restart then templatesOf s.img else s.alm.announce
  ts.foldl State.gooseChange (s.onAlm fun m => { m with announce := [], restart := false })

/-- A column that the schedule runs on closes: suspensions, then template starts. -/
def State.alarmClose (s : State) (c : AlarmColumn) : State := (s.suspendRules c).announceTemplates

/-- What a template that stays enabled shows before the rules change at a switch: a rule that it showed already as it was, one new to it as it is (R238). -/
def stayingContent (old a : Img) (was now : Alm) (t : Nat) : List (Bool × Nat) :=
  (List.range (tplEntries a t)).map fun e =>
    let r := field (tplEntry a t e 0) 10 0
    entryContent a (if (tplRules old t).contains r then was else now) t e r

/-- At a switch to the image now in force from the one last in force, be it lost since (R241, R242): rules of the same identity stay, others that were
RAISED or SUSPENDED form RETIRE records, templates start, stay or go (R239). -/
def State.alarmSwitch (s : State) (old : Img) (c : AlarmColumn) : State :=
  let a := s.img
  let same (r : Nat) : Bool :=
    ruleEn a r && ruleEn old r && decide (ruleWord a r 6 = ruleWord old r 6) && decide (ruleKind a r = ruleKind old r) &&
    decide (ruleClass a r = ruleClass old r)
  let gone := s.alm.rules.filter fun p => !same p.1
  let stays (t : Nat) : Bool := tplEn old t && (mapGet s.alm.templates t).isSome
  let kept := s.alm.rules.filter fun p => same p.1
  let tpl := (templatesOf a).map fun t =>
    let g := s.alm.template t
    (t, if stays t then { g with stopped := false } else ({} : Goose))
  let start := (templatesOf a).filter fun t => !stays t || (s.alm.template t).stopped
  let s1 := s.onAlm fun m => { m with rules := kept, templates := tpl, announce := start }
  let s2 := (templatesOf a).foldl (fun (x : State) t =>
    if stays t && decide (tplRules old t ≠ tplRules a t) then
      x.onAlm fun m => { m with templates := mapSet m.templates t { m.template t with content := stayingContent old a s.alm m t } }
    else x) s1
  let s3 := (gone.filter fun p => p.2.raised || p.2.suspended).foldl (fun (x : State) p =>
    let y := x.formRecord old c trRetire p.1 p.2.lastUnc fpNaN p.2.lastSubject false
    ((List.range 32).filter fun t => flag (ruleWord old p.1 3) t).foldl State.gooseRefresh y) s2
  if s.publishes then s3 else s2

/-- ALMp is logically active (R235). -/
def State.almActive (s : State) (p : Nat) : Bool :=
  s.alm.rules.any fun e => e.2.raised && flag (ruleWord s.img e.1 2) p

/-- The alarm pins that are logically active. -/
def State.activePins (s : State) : BitVec 8 :=
  (List.range 8).foldl (fun (w : BitVec 8) p => if s.almActive p then w ||| (1 <<< p) else w) 0

/-- The failure state begins (R242): the GLOBAL record, and a state change of every enabled template. A device that does not publish forms no record
(R22). -/
def State.alarmFail (s : State) (tick closeAt : Nat) : State :=
  let s1 := s.onAlm fun m => { m with fail := true, heldPins := s.activePins, sent := [], general := [] }
  if s.publishes then (s1.alm.templates.map (·.1)).foldl State.gooseChange (s1.formGlobal tick closeAt true) else s1

/-- The failure state ends (R242). -/
def State.alarmFailEnds (s : State) (tick closeAt : Nat) : State :=
  if !s.alm.fail then s
  else
    let s1 := s.onAlm fun m => { m with fail := false }
    if s.publishes then
      ((s1.alm.templates.map (·.1)).filter fun t => !s1.alm.restart && !s1.alm.announce.contains t).foldl State.gooseChange (s1.formGlobal tick closeAt false)
    else s1

/-- An uncorrectable error in a rule or a template (R244). A device whose alarm unit is idle forms no LOST record (R22). -/
def State.almError (s : State) (k : ErrKind) (template : Bool) (i : Nat) : State :=
  match k with
  | .single => s.inc Reg.almCeCnt
  | .double =>
    let s1 := ((s.inc Reg.almUeCnt).setReg Reg.almUeLog (place i 0 ||| placeB template 11 ||| bit 31)).setReg Reg.almUeTick
      (w32 ((s.tck.proc.map (·.tick)).getD (s.tck.lastClosed.getD 0)))
    if template then
      if (mapGet s.alm.templates i).isSome then
        s1.onAlm fun m => { m with templates := mapSet m.templates i { m.template i with stopped := true } }
      else s1
    else if ruleEn s.img i then
      let s2 := s1.onAlm fun m => m.setRule i {}
      if s.publishes then s2.formRecord s.img s.alarmColumn trLost i false fpNaN 0 true else s2
    else s1

/-! ### Pins (R235) -/

/-- What a pin does: driven to a level, or released. -/
inductive PinLevel where
  | driven (high : Bool)
  | released
deriving DecidableEq, Repr

/-- What ALMp shows (Table ALM-5): inactive while muted, as its FAIL field says in the failure state. -/
def State.almLogical (s : State) (p : Nat) : Bool :=
  if s.muted then false
  else if s.alm.fail then
    (match field (s.reg (Reg.almPin p)) 3 2 with
    | 1 => true
    | 2 => s.alm.heldPins.getLsbD p
    | _ => false)
  else s.almActive p

/-- The level of ALMp (Table ALM-5). -/
def State.almPin (s : State) (p : Nat) : PinLevel :=
  let w := s.reg (Reg.almPin p)
  let active := s.almLogical p
  if flag w 1 then (if active then .driven false else .released)
  else .driven (active != flag w 0)

/-! ### State region 0x0C00 (R243); the order of its words is the model's own: DESIGN CHOICE (log 38) -/

/-- The alarm region. -/
def almRegion (a : Img) (m : Alm) : List Word :=
  [m.seq] ++
  ((List.range (ruleCount a)).flatMap fun r =>
    let x := m.rule r
    [placeB x.raised 0 ||| placeB x.suspended 1 ||| placeB x.lastUnc 2 ||| place x.cnt 8, x.lastSubject]) ++
  (List.range 32).flatMap fun t =>
    let g := m.template t
    [placeB (mapGet m.templates t).isSome 0, w32 g.stNum, w32 g.sqNum, wordLe g.time, wordLe (g.time.drop 4)]

/-- The unit as its region gives it; every enabled template makes a state change at the first close (R243). A template that an error of this device stopped
stays stopped (R244). -/
def almOfRegion (a : Img) (m : Alm) (ws : List Word) : Alm :=
  let n := ruleCount a
  let rules := (List.range n).filterMap fun r =>
    let w := wordAt ws (1 + 2 * r)
    let x : RuleState :=
      { raised := flag w 0, suspended := flag w 1, lastUnc := flag w 2, cnt := field w 31 8, lastSubject := wordAt ws (2 + 2 * r) }
    if x = {} then none else some (r, x)
  let tpl := (templatesOf a).map fun t =>
    let l := ws.drop (1 + 2 * n + 5 * t)
    let g : Goose :=
      { stNum := (wordAt l 1).toNat, sqNum := (wordAt l 2).toNat, stopped := (m.template t).stopped
        time := leBytes (wordAt l 3) ++ leBytes (wordAt l 4) }
    (t, g)
  { m with rules := rules, templates := tpl, seq := wordAt ws 0, restart := true, announce := [] }

/-- ALARM_EVALUATE (R231 to R234). -/
def execAlarmEvaluate (errs : List MemErr) (s : State) : Host.Outcome State Fault Refusal :=
  let s1 := errs.foldl (fun (x : State) e => match e.site with
    | .almRule r => x.almError e.kind false r
    | .almTemplate t => x.almError e.kind true t
    | _ => x) s
  .next (if s.tck.proc.isSome then s1.evaluateNext else s1)

end Sys2Proof.Machine
end

