-- ==== Sys2Proof/Machine/Predict.lean ====
section
/-! DEFINITION. The neighbour predictor: map, prediction functions, late fill of a closing column (R167 to R169, R253 to R260). -/
namespace Sys2Proof.Machine

/-! ### The neighbour map (Table PRD-1) -/

/-- Word j of the map entry of furrow f. -/
def nbWord (a : Img) (f j : Nat) : Word := secWord a secNeighbour 0 (72 * f + 4 * j)
/-- NC. -/
def nbCount (a : Img) (f : Nat) : Nat := field (nbWord a f 0) 5 0
/-- TEMPORAL_ONLY. -/
def nbTemporal (a : Img) (f : Nat) : Bool := flag (nbWord a f 0) 6
/-- REF_SLOT. -/
def nbRef (a : Img) (f : Nat) : Nat := field (nbWord a f 0) 10 7
/-- The candidate of rank i. -/
def nbCand (a : Img) (f i : Nat) : Nat :=
  if i % 2 = 0 then field (nbWord a f (1 + i / 2)) 12 0 else field (nbWord a f (1 + i / 2)) 28 16
/-- The candidates of furrow f in rank order. -/
def nbCands (a : Img) (f : Nat) : List Nat := (List.range (nbCount a f)).map (nbCand a f)

/-! ### Prediction functions (R256), over words 0 to 29 -/

/-- pred_hold. -/
def predHold (x1 : List Word) : List Word := x1.take 30

/-- pred_extrap. -/
def predExtrap (x1 x2 : List Word) : List Word :=
  (List.range 30).map fun w =>
    if w < 25 then fpAdd (wordAt x1 w) (fpSub (wordAt x1 w) (wordAt x2 w)) else wordAt x1 w

/-- den of pred_spatial: the squared magnitude of the neighbour's reference phasor one step back. -/
def spatialDen (n1 : List Word) (rs : Nat) : Word :=
  fpAdd (fpMul (wordAt n1 (2 * rs)) (wordAt n1 (2 * rs))) (fpMul (wordAt n1 (2 * rs + 1)) (wordAt n1 (2 * rs + 1)))

/-- pred_spatial. -/
def predSpatial (x1 n0 n1 : List Word) (rs : Nat) : List Word :=
  let ar := wordAt n1 (2 * rs)
  let ai := wordAt n1 (2 * rs + 1)
  let den := spatialDen n1 rs
  let br := wordAt n0 (2 * rs)
  let bi := wordAt n0 (2 * rs + 1)
  ((List.range 12).flatMap fun i =>
    let cr := wordAt x1 (2 * i)
    let ci := wordAt x1 (2 * i + 1)
    let qr := fpDiv (fpAdd (fpMul cr ar) (fpMul ci ai)) den
    let qi := fpDiv (fpSub (fpMul ci ar) (fpMul cr ai)) den
    [fpSub (fpMul br qr) (fpMul bi qi), fpAdd (fpMul br qi) (fpMul bi qr)]) ++
  [fpAdd (wordAt n0 24) (fpSub (wordAt x1 24) (wordAt n1 24)), fpAdd (wordAt n0 25) (fpSub (wordAt x1 25) (wordAt n1 25))] ++
  (List.range 4).map fun k => wordAt x1 (26 + k)

/-! ### Late fill (R255, R257) -/

/-- A cell is usable (R255). -/
def Cell.usable (c : Cell) : Bool := qHas c.qual (qFilled ||| qLateFill) && !qHas c.qual qCorrupt

/-- The methods of R257. -/
inductive FillMethod where
  | spatial | extrap | hold
deriving DecidableEq, Repr

/-- The grid instant j steps before one (R190, R255). -/
def gridBack (fm : Nat) : Nat → Nat × Nat → Nat × Nat
  | 0, p => p
  | j + 1, p => gridBack fm j (if 0 < p.2 then (p.1, p.2 - 1) else (p.1 - 1, fm - 1))

/-- The column that cell(f, j) reads: tick j less than that of the closing one, exactly j grid steps before it (R255). -/
def State.columnBack (s : State) (c : Column) (j : Nat) : Option Column :=
  s.bsn.cols.find? fun d =>
    decide (d.tick + j = c.tick) && d.closed && decide ((d.sec, d.index) = gridBack s.fm j (c.sec, c.index))

/-- late_fill_method with its value (R257). `c` is the closing column after step 1 of R167; `p1` and `p2` those one and two steps back. -/
def lateFillMethod (a : Img) (bad : List Nat) (c : Column) (p1 p2 : Option Column) (f : Nat) : Option (FillMethod × List Word) :=
  let ok (p : Option Column) (g : Nat) : Option (List Word) :=
    match p with
    | none => none
    | some d => if (d.cell g).usable then some (d.cell g).words else none
  match ok p1 f with
  | none => none
  | some x1 =>
    let cands := if bad.contains f || nbTemporal a f then [] else nbCands a f
    let hit := cands.findSome? fun g =>
      let n0 := c.cell g
      if qHas n0.qual qFilled && !qHas n0.qual qCorrupt then
        match ok p1 g with
        | none => none
        | some n1 =>
          let den := spatialDen n1 (nbRef a f)
          if fpIsFinite den && fpGt den 0 then some (FillMethod.spatial, predSpatial x1 n0.words n1 (nbRef a f)) else none
      else none
    match hit with
    | some r => some r
    | none => match ok p2 f with
      | some x2 => some (.extrap, predExtrap x1 x2)
      | none => some (.hold, predHold x1)

/-- What a close decides of one due block that is empty (R167, R168): its new run counter, and the values of its furrows when it is late-filled. -/
structure FillPlan where
  furrow : Nat
  run : Nat
  values : Option (List (Nat × FillMethod × List Word))
  tried : Bool
deriving DecidableEq, Repr

/-- Step 2 of R167: the decision of each due empty block of column c. `fill` is false in safe idle, without an image, and with NO_LATE_FILL. -/
def State.fillPlans (s : State) (c : Column) (fill : Bool) : List FillPlan :=
  let a := s.img
  let p1 := s.columnBack c 1
  let p2 := s.columnBack c 2
  ((stBlocks a).filter fun f => c.due.contains f && (c.cell f).empty).map fun f =>
    let run := min 7 ((mapGet s.bsn.runs f).getD 0 + 1)
    let tried := fill && decide (run ≤ stFillMax a f) && !s.bsn.invalid.contains f && !c.noFill.contains f
    let vals := (blockFurrows a f).filterMap fun g => (lateFillMethod a s.prd.bad c p1 p2 g).map fun r => (g, r.1, r.2)
    { furrow := f, run := run, tried := tried
      values := if tried && decide (vals.length = stLinks a f) then some vals else none }

/-- The quality word of a cell that takes the state of its block at a close (R157, R168): CORRUPT and LOCAL stay, FILL_RUN is the run counter. -/
def decidedQual (q state : BitVec 16) (run : Nat) : BitVec 16 := (q &&& (qCorrupt ||| qLocal)) ||| state ||| qRun run

/-- The cells that a plan writes: LATE_FILL with predicted words and the last STAT and digital words (R169), or ABSENT as it was initialised; both with
FILL_RUN (R168). -/
def State.planCells (s : State) (c : Column) (p : FillPlan) : List (Nat × Cell) :=
  match p.values with
  | some vs => vs.map fun v =>
    let last := (mapGet s.bsn.last v.1).getD (0, 0)
    (v.1, { words := v.2.2 ++ [last.2], stat := last.1, qual := decidedQual (c.cell v.1).qual qLateFill p.run })
  | none => (blockFurrows s.img p.furrow).map fun g =>
    let x := c.cell g
    (g, { c.absentCell g with qual := decidedQual x.qual qAbsent p.run })

/-- The run counter of one furrow set; 0 is not listed. -/
def setRun (m : List (Nat × Nat)) (f n : Nat) : List (Nat × Nat) := if n = 0 then mapDel m f else mapSet m f n

/-- The counters of one plan (Tables BSN-7, PRD-3). -/
def State.countPlan (s : State) (p : FillPlan) : State :=
  match p.values with
  | some vs =>
    vs.foldl (fun (x : State) v => match v.2.1 with
      | .spatial => x.inc Reg.prdSpatialCnt
      | .extrap => x.inc Reg.prdExtrapCnt
      | .hold => x.inc Reg.prdHoldCnt) (s.inc Reg.bsnLatefillCnt)
  | none => (if p.tried then s.inc Reg.prdNoneCnt else s).inc Reg.bsnAbsentCnt

/-- The Basin's close of the column with a tick ID (R167 to R169): states, late fill, run counters; the column is frozen. `mark` gives it its close
time and flags. -/
def State.closeCells (s : State) (c : Column) (fill : Bool) (mark : Column → Column) : State :=
  let a := s.img
  let plans := s.fillPlans c fill
  let filled := (stBlocks a).filter fun f => qHas (c.cell f).qual qFilled
  let s1 := s.onCol c.tick fun d => mark { (plans.foldl (fun (e : Column) p => (s.planCells c p).foldl (fun (e : Column) q => e.setCell q.1 q.2) e) d) with filled := c.filledCells }
  let runs := plans.foldl (fun m p => setRun m p.furrow p.run) (filled.foldl (fun m f => setRun m f 0) s.bsn.runs)
  plans.foldl State.countPlan (s1.onBsn fun b => { b with runs := runs, last := lastWords b.last c })

/-- An uncorrectable error in a map entry (R260): it acts as NC = 0 and TEMPORAL_ONLY = 1 until the next switch. -/
def State.prdError (s : State) (k : ErrKind) (f : Nat) : State :=
  match k with
  | .single => s.inc Reg.prdCeCnt
  | .double =>
    let s1 := { s with prd := { bad := if s.prd.bad.contains f then s.prd.bad else s.prd.bad ++ [f] } }
    ((s1.inc Reg.prdUeCnt).setReg Reg.prdUeLog (place f 0 ||| bit 31)).setReg Reg.prdUeTick (w32 (s.tck.lastClosed.getD 0))

/-- NC_MAX of the map in force (R273). -/
def State.ncMax (s : State) : Nat := maxOf ((List.range (imgFurrows s.img)).map (nbCount s.img))

end Sys2Proof.Machine
end

