-- ==== Sys2Proof/Machine/Codec.lean ====
section
/-! DEFINITION. The archive's block format: the coder and the decoder of a group's columns, headers, sealing (R262 to R266, R269). -/
namespace Sys2Proof.Machine

/-! ### Golomb-Rice contexts (R265) -/

/-- A context: A and N. -/
abbrev Ctx := Nat × Nat

/-- The contexts of a block at its start: one for each (local furrow, word). -/
def freshCtx : Array Ctx := Array.replicate 2048 (16, 1)

/-- k of a context: the least k in 0 .. 31 with n << k ≥ a. -/
def ctxK (c : Ctx) : Nat := ((List.range 32).find? fun k => decide (c.1 ≤ c.2 <<< k)).getD 31

/-- A context after a residue. -/
def ctxNext (c : Ctx) (z : Nat) : Ctx :=
  let a := c.1 + min z 0x00FFFFFF
  let n := c.2 + 1
  if n = 64 then (a / 2, 32) else (a, n)

/-- n bits of a number, most significant first. -/
def bitsMsb : Nat → Nat → List Bool
  | 0, _ => []
  | n + 1, v => decide (v / 2 ^ n % 2 = 1) :: bitsMsb n v

/-- The code of residue z under parameter k. -/
def riceBits (k z : Nat) : List Bool :=
  let q := z / 2 ^ k
  if q < 24 then List.replicate q true ++ [false] ++ bitsMsb k z else List.replicate 24 true ++ bitsMsb 32 z

/-- n bits read as a number; none when the string ends. -/
def takeBits : Nat → Nat → List Bool → Option (Nat × List Bool)
  | 0, v, bs => some (v, bs)
  | _ + 1, _, [] => none
  | n + 1, v, b :: bs => takeBits n (2 * v + (if b then 1 else 0)) bs

/-- One-bits up to 24 are counted: how many, and the rest after the zero-bit that ends a shorter run. -/
def takeOnes : Nat → List Bool → Option (Nat × List Bool)
  | 0, bs => some (0, bs)
  | _ + 1, [] => none
  | _ + 1, false :: bs => some (0, bs)
  | n + 1, true :: bs => (takeOnes n bs).map fun p => (p.1 + 1, p.2)

/-- A residue read under parameter k. -/
def readRice (k : Nat) (bs : List Bool) : Option (Nat × List Bool) :=
  match takeOnes 24 bs with
  | none => none
  | some (q, rest) => if q < 24 then (takeBits k 0 rest).map fun p => (q * 2 ^ k + p.1, p.2) else takeBits 32 0 rest

/-! ### Residues (R265) -/

/-- m(b): the order-preserving map. -/
def orderMap (b : Word) : Word := if b.getLsbD 31 then ~~~b else b ^^^ 0x80000000

/-- The inverse of m. -/
def orderUnmap (b : Word) : Word := if b.getLsbD 31 then b ^^^ 0x80000000 else ~~~b

/-- The residue of a word of words 0 to 29 against its prediction. -/
def residue (word pred : Word) : Word :=
  let e := orderMap word - orderMap pred
  (e <<< 1) ^^^ (if e.getLsbD 31 then 0xFFFFFFFF else 0)

/-- The word that a residue and a prediction give. -/
def unresidue (z pred : Word) : Word :=
  let e := (z >>> 1) ^^^ (if z.getLsbD 0 then 0xFFFFFFFF else 0)
  orderUnmap (e + orderMap pred)

/-- bitlen(z). -/
def bitlen (z : Word) : Nat := bitLen z.toNat

/-! ### Columns of a block (R264) -/

/-- A cell whose words other than 31 hold what an absent or not-due cell holds. -/
def cellImplied (c : List Word) : Bool :=
  ((List.range 30).all fun w => decide (wordAt c w = fpNaN)) && decide (wordAt c 30 = 0) && decide (field (wordAt c 31) 15 0 = 0)

/-- The words of an IMPLIED cell with its word 31. -/
def impliedCell (w31 : Word) : List Word := List.replicate 30 fpNaN ++ [0, w31]

/-- The cells of local furrow l of a column. -/
def colCell (c : List (List Word)) (l : Nat) : List Word := c.getD l []

/-- The prediction of candidate j of local furrow l in the column whose cells so far are `cur`, with the one and two columns before (R264). -/
def candidate (nbrs : List (List Nat)) (refs : List Nat) (cur p1 : List (List Word)) (p2 : Option (List (List Word))) (l j : Nat) : List Word :=
  if j = 0 then
    match p2 with
    | some q => predExtrap (colCell p1 l) (colCell q l)
    | none => predHold (colCell p1 l)
  else
    let g := (nbrs.getD l []).getD (j - 1) 0
    predSpatial (colCell p1 l) (colCell cur g) (colCell p1 g) (refs.getD l 0)

/-- The cost of a prediction of a cell. -/
def predCost (cell pred : List Word) : Nat := ((List.range 30).map fun w => bitlen (residue (wordAt cell w) (wordAt pred w))).sum

/-- The candidate of least cost, the lowest of equals. -/
def leastCost : List Nat → Nat → Nat × Nat → Nat
  | [], _, b => b.1
  | c :: cs, j, b => leastCost cs (j + 1) (if c < b.2 then (j, c) else b)

/-- The candidate each local furrow uses in the column after one (R264): that of least cost in it; candidate 0 after the first column. -/
def nextChoice (nbrs : List (List Nat)) (refs : List Nat) (col : List (List Word)) (p1 p2 : Option (List (List Word))) : List Nat :=
  (List.range 64).map fun l =>
    match p1 with
    | none => 0
    | some q =>
      let costs := (List.range ((nbrs.getD l []).length + 1)).map fun j => predCost (colCell col l) (candidate nbrs refs col q p2 l j)
      leastCost costs 0 (0, costs.headD 0 + 1)

/-- What a coder carries from column to column: contexts, the columns one and two back, the candidates of the next column. -/
structure CodeState where
  ctx : Array Ctx := freshCtx
  p1 : Option (List (List Word)) := none
  p2 : Option (List (List Word)) := none
  choice : List Nat := List.replicate 64 0

/-- The residue of word w of a cell: raw in the first column, against the prediction for words 0 to 29, else against the column before. -/
def wordResidue (first : Bool) (prev pred : List Word) (w : Nat) (v : Word) : Word :=
  if first then v else if w < 30 then residue v (wordAt pred w) else v ^^^ wordAt prev w

/-- The word that a residue stands for. -/
def wordOfResidue (first : Bool) (prev pred : List Word) (w : Nat) (z : Word) : Word :=
  if first then z else if w < 30 then unresidue z (wordAt pred w) else z ^^^ wordAt prev w

/-- The prediction in use for local furrow l. -/
def CodeState.pred (k : CodeState) (nbrs : List (List Nat)) (refs : List Nat) (cur : List (List Word)) (l : Nat) : List Word :=
  match k.p1 with
  | none => []
  | some q => candidate nbrs refs cur q k.p2 l (k.choice.getD l 0)

/-- The state after a column. -/
def CodeState.next (k : CodeState) (nbrs : List (List Nat)) (refs : List Nat) (ctx : Array Ctx) (col : List (List Word)) : CodeState :=
  { ctx := ctx, p1 := some col, p2 := k.p1, choice := nextChoice nbrs refs col k.p1 k.p2 }

/-- The words of a cell that are coded. -/
def codedWords (implied : Bool) : List Nat := if implied then [31] else List.range 32

/-- One column coded; the bits are gathered backwards. -/
def encodeColumn (nbrs : List (List Nat)) (refs : List Nat) (k : CodeState) (acc : List Bool) (col : List (List Word)) : CodeState × List Bool :=
  let r := (List.range 64).foldl (fun (b : Array Ctx × List Bool) l =>
    let cell := colCell col l
    let pred := k.pred nbrs refs col l
    let prev := (k.p1.map fun q => colCell q l).getD []
    let imp := cellImplied cell
    (codedWords imp).foldl (fun (b : Array Ctx × List Bool) w =>
      let i := 32 * l + w
      let c := b.1.getD i (16, 1)
      let z := (wordResidue k.p1.isNone prev pred w (wordAt cell w)).toNat
      (b.1.setIfInBounds i (ctxNext c z), (riceBits (ctxK c) z).reverse ++ b.2)) (b.1, imp :: b.2)) (k.ctx, acc)
  (k.next nbrs refs r.1 col, r.2)

/-- The bits of a block's columns in order. -/
def encodeColumns (nbrs : List (List Nat)) (refs : List Nat) : CodeState → List Bool → List (List (List Word)) → List Bool
  | _, acc, [] => acc.reverse
  | k, acc, c :: cs => let r := encodeColumn nbrs refs k acc c; encodeColumns nbrs refs r.1 r.2 cs

/-- Words of one cell decoded, in ascending word order. -/
def decodeWords (first : Bool) (prev pred : List Word) (l : Nat) :
    List Nat → Array Ctx → List Bool → List Word → Option (Array Ctx × List Bool × List Word)
  | [], ctx, bs, acc => some (ctx, bs, acc.reverse)
  | w :: ws, ctx, bs, acc =>
    let i := 32 * l + w
    let c := ctx.getD i (16, 1)
    match readRice (ctxK c) bs with
    | none => none
    | some (z, rest) =>
      decodeWords first prev pred l ws (ctx.setIfInBounds i (ctxNext c z)) rest (wordOfResidue first prev pred w (w32 z) :: acc)

/-- The cells of one column decoded from local furrow l on (`n` left). -/
def decodeCellsGo (nbrs : List (List Nat)) (refs : List Nat) (k : CodeState) :
    Nat → Nat → Array Ctx → List Bool → List (List Word) → Option (Array Ctx × List Bool × List (List Word))
  | 0, _, ctx, bs, cur => some (ctx, bs, cur)
  | n + 1, l, ctx, bs, cur =>
    match bs with
    | [] => none
    | imp :: rest =>
      let prev := (k.p1.map fun q => colCell q l).getD []
      match decodeWords k.p1.isNone prev (k.pred nbrs refs cur l) l (codedWords imp) ctx rest [] with
      | none => none
      | some (ctx1, rest1, ws) =>
        decodeCellsGo nbrs refs k n (l + 1) ctx1 rest1 (cur ++ [if imp then impliedCell (wordAt ws 0) else ws])

/-- n columns decoded. -/
def decodeColumns (nbrs : List (List Nat)) (refs : List Nat) : Nat → CodeState → List Bool → Option (List (List (List Word)))
  | 0, _, _ => some []
  | n + 1, k, bs =>
    match decodeCellsGo nbrs refs k 64 0 k.ctx bs [] with
    | none => none
    | some (ctx, rest, col) => (decodeColumns nbrs refs n (k.next nbrs refs ctx col) rest).map (col :: ·)

/-! ### Bytes of a block (R262, R263, R269) -/

/-- A byte string padded with zeros to a multiple of n. -/
def padTo (n : Nat) (bs : List Byte) : List Byte := bs ++ List.replicate ((n - bs.length % n) % n) 0

/-- The first n bits of a string as a number, missing ones 0, and the rest. -/
def eightBits : Nat → Nat → List Bool → Nat × List Bool
  | 0, v, bs => (v, bs)
  | n + 1, v, [] => eightBits n (2 * v) []
  | n + 1, v, b :: bs => eightBits n (2 * v + (if b then 1 else 0)) bs

/-- Bits packed from the most significant bit of each byte; `fuel` bounds the recursion. -/
def packBits : Nat → List Bool → List Byte
  | 0, _ => []
  | _ + 1, [] => []
  | n + 1, bs => let r := eightBits 8 0 bs; BitVec.ofNat 8 r.1 :: packBits n r.2

/-- The bits of bytes. -/
def bitsOfBytes (bs : List Byte) : List Bool := bs.flatMap fun b => bitsMsb 8 b.toNat

/-- The payload of columns. -/
def encodePayload (nbrs : List (List Nat)) (refs : List Nat) (cols : List (List (List Word))) : List Byte :=
  let bits := encodeColumns nbrs refs {} [] cols
  padTo 4 (packBits bits.length bits)

/-- The neighbour list of a block. -/
def nbrBytes (nbrs : List (List Nat)) : List Byte :=
  padTo 4 (nbrs.flatMap fun l => BitVec.ofNat 8 l.length :: l.map (BitVec.ofNat 8))

/-- n neighbour lists read from bytes, local furrow l first; none when the bytes end or a number is not below its furrow. -/
def readNbrs : Nat → Nat → List Byte → Option (List (List Nat))
  | 0, _, _ => some []
  | _ + 1, _, [] => none
  | n + 1, l, c :: bs =>
    let k := c.toNat
    let ns := (bs.take k).map BitVec.toNat
    if ns.length < k || ns.any (fun g => decide (l ≤ g)) then none
    else (readNbrs n (l + 1) (bs.drop k)).map (ns :: ·)

/-- Search count S of a level (Table ARC-2). -/
def searchCount (level : Nat) : Nat := [1, 2, 4, 6, 8, 12, 16, 32].getD level 1

/-- The neighbour list of local furrow l of group g (R263). -/
def localNbrs (a : Img) (bad : List Nat) (g level l : Nat) : List Nat :=
  let f := 64 * g + l
  (((if bad.contains f then [] else nbCands a f).take (searchCount level)).filter fun c => decide (c / 64 = g) && decide (c % 64 < l)).map (· % 64)

/-- The body of a block. -/
def ArcBlock.body (b : ArcBlock) : List Byte := b.dir ++ b.nbr ++ b.payload

/-- TOTAL_LEN. -/
def ArcBlock.total (b : ArcBlock) (tagged : Bool) : Nat :=
  let n := 128 + b.body.length + (if tagged then 16 else 0)
  (n + 63) / 64 * 64

/-- PRESENT: the eight words whose bits name grid indices. -/
def presentWords (is_ : List Nat) : List Word :=
  (List.range 8).map fun k => is_.foldl (fun (w : Word) i => if i / 32 = k then w ||| bit (i % 32) else w) 0

/-- The header (Table ARC-1). -/
def ArcBlock.header (b : ArcBlock) (tagged : Bool) (ctx : Word) : List Word :=
  [ place b.type 0 ||| placeB tagged 8 ||| place b.level 9 ||| place b.fmCode 12,
    place b.group 0 ||| place b.entries 16 ] ++ [w32 b.firstTick, w32 (b.firstTick / 2 ^ 32), b.soc, w32 b.present.length] ++ presentWords b.present ++
  [ w32 b.origLen, b.origCrc, w32 b.dir.length, w32 b.nbr.length, w32 b.payload.length, w32 (b.total tagged), b.serial, if tagged then ctx else 0 ] ++
  List.replicate 10 0

/-- The IV of a block (R269). -/
def arcIv (firstTick group type : Nat) : List Byte := leNat 8 firstTick ++ leNat 2 group ++ [BitVec.ofNat 8 type, 0]

/-- A block that is not sealed, as bytes. -/
def ArcBlock.plainBytes (b : ArcBlock) : List Byte := padTo 64 (bytesOf (b.header false 0) ++ b.body)

/-- A block sealed under a key, as bytes. -/
def ArcBlock.sealedBytes (b : ArcBlock) (key : List Byte) (ctx : Word) : List Byte :=
  let h := bytesOf (b.header true ctx)
  let r := gcmSeal key (arcIv b.firstTick b.group b.type) h b.body
  padTo 64 (h ++ r.1 ++ r.2)

/-! ### Replay (R272) -/

/-- What decoding a block's bytes answers: its TYPE and the replay record, or a status of R272. -/
inductive Decoded where
  | record (type : Nat) (data : List Byte)
  | failed (status : Nat)
deriving DecidableEq, Repr

/-- Word j of a block's header. -/
def hdrWord (bs : List Byte) (j : Nat) : Word := wordLe (bs.drop (4 * j))
/-- SEALED of a block. -/
def hdrSealed (bs : List Byte) : Bool := flag (hdrWord bs 0) 8

/-- TYPE, LEVEL and length fields of a block agree, and its bytes are all there (R272 FORMAT). -/
def blockFormatOk (bs : List Byte) : Bool :=
  let w (j : Nat) : Nat := (hdrWord bs j).toNat
  let type := w 0 % 256
  let nc := w 5 % 256
  let body := w 16 + w 17 + w 18
  decide (128 ≤ bs.length) && decide (w 19 ≤ bs.length) && decide (w 19 = (128 + body + (if hdrSealed bs then 16 else 0) + 63) / 64 * 64) &&
  decide (w 18 % 4 = 0) &&
  (if type = 0x41 then
    decide (1 ≤ nc) && decide (nc ≤ 240) && decide (w 14 = nc * 8192) && decide (w 16 = (nc + 3) / 4 * 4) && decide (64 ≤ w 17) && decide (w 17 % 4 = 0)
  else
    decide (type = 0x42) && decide (field (hdrWord bs 0) 11 9 = 0) && decide (w 16 = 0) && decide (w 17 = 0) && decide (w 14 = w 18))

/-- The original of a body (R262 to R265); none when it does not decode. -/
def decodeBody (bs body : List Byte) (refs : List Nat) : Option (List Byte) :=
  let w (j : Nat) : Nat := (hdrWord bs j).toNat
  let payload := (body.drop (w 16 + w 17)).take (w 18)
  if w 0 % 256 = 0x42 then some payload
  else match readNbrs 64 0 ((body.drop (w 16)).take (w 17)) with
    | none => none
    | some nbrs => (decodeColumns nbrs refs (w 5 % 256) {} (bitsOfBytes payload)).map fun cols => bytesOf cols.flatten.flatten

/-- A block decoded with the key that its SEAL_CTX gives, if it is sealed and there is one (R272). -/
def decodeBlock (bs : List Byte) (key : Option (List Byte)) (refs : List Nat) : Decoded :=
  let w (j : Nat) : Nat := (hdrWord bs j).toNat
  if !blockFormatOk bs then .failed stFormat
  else
    let hdr := bs.take 128
    let n := w 16 + w 17 + w 18
    let raw := (bs.drop 128).take n
    let opened := if hdrSealed bs then
        key.bind fun k => gcmOpen k (arcIv (w 2 + w 3 * 2 ^ 32) (w 1 % 65536) (w 0 % 256)) hdr raw ((bs.drop (128 + n)).take 16)
      else some raw
    match opened with
    | none => .failed stTag
    | some body => match decodeBody bs body refs with
      | none => .failed stFormat
      | some orig =>
        if crc32c orig ≠ hdrWord bs 15 then .failed stCrc
        else if w 0 % 256 = 0x42 then .record 0x42 (hdr ++ orig)
        else .record 0x41 (hdr ++ (body.take (w 5 % 256) ++ List.replicate (256 - w 5 % 256) 0) ++ orig)

end Sys2Proof.Machine
end

