-- ==== Sys2Proof/Machine/Archive.lean ====
section
/-! DEFINITION. The archive: open blocks, side-blocks, sealing, region and ring, drain, replay (R261 to R272). -/
namespace Sys2Proof.Machine

/-! ### Setup -/

/-- ARC_CFG.EN: the compressor runs. -/
def State.arcOn (s : State) : Bool := s.regBit Reg.arcCfg 0 && s.gate 36
/-- ARC_CFG.RING. -/
def State.arcRing (s : State) : Nat := s.regField Reg.arcCfg 13 8
/-- Group g is enabled (R261). -/
def State.arcGroup (s : State) (g : Nat) : Bool := s.regBit (Reg.arcGrp (g / 32)) (g % 32)
/-- The archive region is in use: ARC_REGION.EN, which stays 0 for a region that is not valid (R25). -/
def State.arcRegionOn (s : State) : Bool := s.regBit Reg.arcRegion 31
/-- Units of 64 bytes of the archive region. -/
def State.arcUnits (s : State) : Nat := s.regField Reg.arcRegion 26 13 * 32768

/-- A closed column is delivered to the compressor (R167, R172). -/
def State.arcDeliver (s : State) (c : Column) : State :=
  if s.arcOn then
    let dir : Byte := BitVec.ofNat 8 ((if c.flushed then 1 else 0) + (if c.safeIdle then 2 else 0) + (if c.early then 4 else 0) + 8 * c.variant)
    s.onArc fun a => { a with queue := a.queue ++ [(c.tick, dir)] }
  else s

/-! ### Ending a block (R261, R268, R269) -/

/-- Segments of 4,096 bytes of a body; a job at least (R477). -/
def segmentsOf (n : Nat) : Nat := max 1 ((n + 4095) / 4096)

/-- A block ends: it waits for its completion, and, with SEAL, for its segment jobs. -/
def State.endBlock (s : State) (b : ArcBlock) : State :=
  let id := s.arc.nextId
  let n := segmentsOf b.body.length
  let sealing := s.regBit Reg.arcCfg 6
  let s1 := s.onArc fun a =>
    { a with nextId := id + 1, ended := a.ended ++ [{ b with id := id, state := if sealing then SealState.waiting n else .plain }] }
  if sealing then s1.onSec fun x => { x with jobs := x.jobs ++ List.replicate n (KeyJob.segment id) } else s1

/-- An open block as the block it ends as (R262 to R265). -/
def blockOf (g fmCode : Nat) (o : ArcOpen) : ArcBlock :=
  let cells := o.cols.map (·.cells)
  let orig := bytesOf cells.flatten.flatten
  { id := 0, type := 0x41, group := g, entries := 0, level := o.level, fmCode := fmCode, firstTick := o.firstTick, soc := o.soc
    present := o.cols.map (·.index), origLen := orig.length, origCrc := crc32c orig
    dir := padTo 4 (o.cols.map (·.dir)), nbr := nbrBytes o.nbrs, payload := encodePayload o.nbrs o.refs cells
    serial := o.serial, state := .plain }

/-- The open block of group g ends. -/
def State.endOpen (s : State) (g : Nat) : State :=
  match mapGet s.arc.opens g with
  | none => s
  | some o => (s.onArc fun a => { a with opens := mapDel a.opens g, refs := ((o.firstTick, g), o.refs) :: a.refs }).endBlock (blockOf g (s.regField Reg.tckFm 3 0) o)

/-- The open side-block ends (R268), if it holds an entry. -/
def State.endSide (s : State) : State :=
  if s.arc.side.isEmpty then s
  else
    let (tick, sec) := match s.bsn.window with
      | w :: _ => (w.tick, w.sec)
      | [] => (0, 0)
    let no := match s.arc.sideLast with
      | some (t, n) => if t = tick then n + 1 else 0
      | none => 0
    let body := bytesOf s.arc.side.flatten
    (s.onArc fun a => { a with side := [], sideLast := some (tick, no) }).endBlock
      { id := 0, type := 0x42, group := no, entries := s.arc.side.length, level := 0, fmCode := s.regField Reg.tckFm 3 0, firstTick := tick
        soc := s.soc sec, present := [], origLen := body.length, origCrc := crc32c body, dir := [], nbr := [], payload := body
        serial := if s.imageActive then imgSerial s.img else 0, state := .plain }

/-- A late block (R166, R268): its entry goes to the open side-block, which ends with its 64th. -/
def State.lateBlock (s : State) (f tick : Nat) (cells : List (Nat × Cell)) : State :=
  if s.arcOn && s.regBit Reg.arcCfg 7 && s.arcGroup (f / 64) then
    let closeAt := ((s.bsn.window.find? fun w => decide (w.tick = tick)).map (·.closeAt)).getD s.tim.now
    let t : DWord := BitVec.ofNat 64 tick
    let entry := [place f 0 ||| place (cells.length - 1) 13, lo32 t, hi32 t, sat32 (s.tim.now - closeAt)] ++ cells.flatMap fun p => p.2.all
    let s1 := s.onArc fun a => { a with side := a.side ++ [entry] }
    if 64 ≤ s1.arc.side.length then s1.endSide else s1
  else s

/-! ### Compression (R261, R263, R267) -/

/-- The cells of group g in a column. -/
def groupCells (c : Column) (g : Nat) : List (List Word) := (List.range 64).map fun l => (c.cell (64 * g + l)).all

/-- A column is added to the open block of group g, which it may end or open (R261). -/
def State.arcTake (s : State) (c : Column) (dir : Byte) (g : Nat) : State :=
  let soc := s.soc c.sec
  let fits := match mapGet s.arc.opens g with
    | some o => decide (o.soc = soc) && (o.cols.all fun x => decide (x.index < c.index))
    | none => false
  let s1 := if fits then s else s.endOpen g
  let col : ArcColumn := { index := c.index, dir := dir, cells := groupCells c g }
  let level := s.regField Reg.arcCfg 3 1
  let o : ArcOpen := match mapGet s1.arc.opens g with
    | some o => { o with cols := o.cols ++ [col] }
    | none =>
      { firstTick := c.tick, soc := soc, level := level, serial := if s.imageActive then imgSerial s.img else 0
        nbrs := (List.range 64).map (localNbrs s.img s.prd.bad g level), refs := (List.range 64).map fun l => nbRef s.img (64 * g + l)
        cols := [col] }
  let s2 := s1.onArc fun a => { a with opens := mapSet a.opens g o }
  if c.index + 1 = s.fm then s2.endOpen g else s2

/-- An error in archive staging (R271): an uncorrectable one abandons the open block; group 128 names the side-block. -/
def State.arcError (s : State) (k : ErrKind) (g : Nat) : State :=
  match k with
  | .single => s.inc Reg.arcCeCnt
  | .double =>
    (s.onArc fun a => if g < 128 then { a with opens := mapDel a.opens g } else { a with side := [] }).inc Reg.arcUeCnt

/-- ARCHIVE_COMPRESS (R261, R267): the compressor reads the next delivered column into the open blocks of the enabled groups. -/
def execArchiveCompress (errs : List MemErr) (s : State) : Host.Outcome State Fault Refusal :=
  match s.arc.queue with
  | [] => .next s
  | (tick, dir) :: rest =>
    if !s.gate 36 then .next s else
    let s1 := errs.foldl (fun (x : State) e => match e.site with
      | .cell slot f u => x.cellError e.kind slot f u
      | .arcStaging g => x.arcError e.kind g
      | _ => x) (s.onArc fun a => { a with queue := rest })
    match s1.column tick with
    | none => .next s1
    | some c => .next (((List.range 128).filter s1.arcGroup).foldl (fun (x : State) g => x.arcTake c dir g) s1)

/-! ### Sealing (R269, R477) -/

/-- ARC_SEAL_CTX as bytes. -/
def State.sealCtx (s : State) : List Byte := leBytes (s.reg Reg.arcSealCtx)

/-- One segment job of an ended block: with the last one its bytes are sealed; without a key it fails and its other jobs go. -/
def State.sealSegment (s : State) (id : Nat) : State :=
  match s.arc.ended.find? fun b => decide (b.id = id) with
  | none => s
  | some b =>
    let upd (x : State) (st : SealState) : State :=
      x.onArc fun a => { a with ended := a.ended.map fun y => if y.id = id then { y with state := st } else y }
    match s.loadKey purposeArchive s.sealCtx with
    | (s1, none) => (upd s1 .failed).onSec fun x => { x with jobs := x.jobs.filter fun j => decide (j ≠ .segment id) }
    | (s0, some key) =>
      let s1 := s0.inc Reg.secJobCnt
      match b.state with
      | .waiting n => if n ≤ 1 then upd s1 (.done (s.reg Reg.arcSealCtx) (b.sealedBytes key (s.reg Reg.arcSealCtx))) else upd s1 (.waiting (n - 1))
      | _ => s1

/-- One segment job of the replay in progress. -/
def State.replaySegment (s : State) (r : ArcReplay) : State :=
  match s.loadKey purposeArchive (leBytes (hdrWord r.bytes 21)) with
  | (s1, none) => (s1.onArc fun a => { a with replay := some { r with jobs := 0, aborted := true } }).onSec fun x =>
      { x with jobs := x.jobs.filter fun j => decide (j ≠ .segment r.id) }
  | (s1, some _) => (s1.inc Reg.secJobCnt).onArc fun a => { a with replay := some { r with jobs := r.jobs - 1 } }

/-- A segment job is carried out. -/
def State.segmentJob (s : State) (id : Nat) : State :=
  match s.arc.replay with
  | some r => if r.id = id then s.replaySegment r else s.sealSegment id
  | none => s.sealSegment id

/-! ### Destinations (R270) -/

/-- The 64-byte units of a block. -/
def unitsOf : Nat → List Byte → List (List Byte)
  | 0, _ => []
  | n + 1, bs => bs.take 64 :: unitsOf n (bs.drop 64)

/-- Two ranges of units overlap. -/
def overlaps (a b : Nat × Nat) : Bool := decide (a.1 < b.1 + b.2) && decide (b.1 < a.1 + a.2)

/-- A block is written into the region, or discarded (R270). One that ends at the region's end leaves its base as the next offset (R279). -/
def State.regionWrite (s : State) (bs : List Byte) : State :=
  let n := bs.length / 64
  let size := s.arcUnits
  if !s.arcRegionOn || decide (size < n) then s.inc Reg.arcDropCnt
  else
    let off := if size < s.arc.wrOff + n then 0 else s.arc.wrOff
    let hit := s.arc.undrained.filter fun u => overlaps u (off, n)
    if !hit.isEmpty && s.regBit Reg.arcCfg 5 then s.inc Reg.arcDropCnt
    else
      let us := unitsOf n bs
      (s.onArc fun a =>
        { a with
          mem := (List.range n).foldl (fun m i => mapSet m (off + i) (us.getD i [])) a.mem
          wrOff := if off + n < size then off + n else 0
          undrained := (a.undrained.filter fun u => !overlaps u (off, n)) ++ [(off, n)]
          replay := a.replay.map fun r => match r.range with
            | some q => if overlaps q (off, n) then { r with overwritten := true } else r
            | none => r }).add Reg.arcOverwriteCnt hit.length

/-- The sluices through which an ended block reaches its destination are open (R507): ARC, and DDR for the region. -/
def State.arcReaches (s : State) : Bool := s.gate 36 && (s.regBit Reg.arcCfg 4 || s.gate 46)

/-- A block goes to its destination. -/
def State.arcPlace (s : State) (type : Nat) (bs : List Byte) : State :=
  if s.regBit Reg.arcCfg 4 then s.deliverOr s.arcRing 6 bs [0xFFFFFFFF, w32 type, 0] Reg.arcDropCnt
  else s.regionWrite bs

/-- A completed block is counted and placed. -/
def State.arcFinish (s : State) (b : ArcBlock) (bs : List Byte) : State :=
  (((s.inc (if b.type = 0x41 then Reg.arcBlockCnt else Reg.arcSideCnt)).add Reg.arcInBytes b.origLen).add Reg.arcOutBytes bs.length).arcPlace b.type bs

/-- ARCHIVE_BLOCK_COMPLETE (R267, R269, R270): the oldest ended block, once its key jobs are done. -/
def execArchiveBlockComplete (s : State) : Host.Outcome State Fault Refusal :=
  match s.arc.ended with
  | [] => .next s
  | b :: rest =>
    let s1 := s.onArc fun a => { a with ended := rest }
    if !s.arcReaches then .next s
    else match b.state with
    | .waiting _ => .next s
    | .failed => .next (s1.inc Reg.arcSealFailCnt)
    | .plain => .next (s1.arcFinish b b.plainBytes)
    | .done _ bs => .next (s1.arcFinish b bs)

/-- n units of the region from a unit on; a unit that nothing has written reads 0 (log 42). -/
def State.regionRead (s : State) (off n : Nat) : List Byte :=
  (List.range n).flatMap fun i => (mapGet s.arc.mem (off + i)).getD (List.replicate 64 0)

/-- ARCHIVE_DRAIN (R270, R271, R396, R399, R402): the next block that is not drained goes to the archive ring; one that the ring cannot take is dropped and
counted, and stays in the region. -/
def execArchiveDrain (memErr : Bool) (s : State) : Host.Outcome State Fault Refusal :=
  match s.arc.undrained with
  | [] => .next s
  | (off, n) :: rest =>
    let s1 := s.onArc fun a => { a with undrained := rest }
    let bs := s.regionRead off n
    let type := field (hdrWord bs 0) 7 0
    if !s.gate 36 || !s.gate 46 then .next s
    else if !s.canDeliver s.arcRing 6 then .next (s1.inc Reg.arcDropCnt)
    else if memErr then .next ((s1.deliverFail s.arcRing 6 stMemError [w32 off, w32 type, 0]).inc Reg.arcUeCnt)
    else .next (s1.deliverOr s.arcRing 6 bs [w32 off, w32 type, 0] Reg.arcDropCnt)

/-! ### Replay (R272) -/

/-- The bytes that a replay of the region reads, with the units they lie in. -/
def State.replaySource (s : State) (off : Nat) : List Byte × (Nat × Nat) :=
  let hdr := s.regionRead off 2
  let n := min (s.arcUnits - off) (max 2 ((hdrWord hdr 19).toNat / 64))
  (s.regionRead off n, (off, n))

/-- A replay begins. -/
def State.startReplay (s : State) (c : CmdRef) (ring : Nat) (bs : List Byte) (range : Option (Nat × Nat)) : State :=
  let id := s.arc.nextId
  let body := (hdrWord bs 16).toNat + (hdrWord bs 17).toNat + (hdrWord bs 18).toNat
  let n := if blockFormatOk bs && hdrSealed bs then segmentsOf body else 0
  (s.onArc fun a => { a with nextId := id + 1, replay := some { ref := c, ring := ring, id := id, bytes := bs, range := range, jobs := n } }).onSec
    fun x => { x with jobs := x.jobs ++ List.replicate n (KeyJob.segment id) }

/-- ARC_REPLAY (R272, R399, R408). -/
def execArcReplay (h : CmdHdr) (w1 w2 _w3 w4 : Word) (block : List Byte) (s : State) : Host.Outcome State Fault Refusal :=
  .next (s.command h false fun c x =>
    let ring := field w1 13 8
    let host := flag w1 0
    if !((x.ring ring).works && decide (x.ringType ring = 6)) then (x, .done { status := stBadArg })
    else if !host && (!x.arcRegionOn || decide (x.arcUnits ≤ w2.toNat)) then (x, .done { status := stBadArg })
    else if x.arc.replay.isSome then (x, .done { status := stBusy })
    else if host && h.dmaErr then x.dmaError
    else if host then (x.startReplay c ring (block.take w4.toNat) none, .long)
    else (x.startReplay c ring (x.replaySource w2.toNat).1 (some (x.replaySource w2.toNat).2), .long))

/-- The replay ends with a status. -/
def State.endReplay (s : State) (r : ArcReplay) (status type : Nat) : State :=
  ((s.onArc fun a => { a with replay := none }).inc (if status = stOk then Reg.arcReplayCnt else Reg.arcReplayErrCnt)).finish r.ref
    { status := status, result := if status = stOk then [w32 type] else [] }

/-- The REF_SLOTs of a block's first column, which the block does not carry (R264): those the device coded it with, else those of the map of the image that
its IMAGE_SERIAL names, while that image is in the device. The spec names no other source, and they are free values (log 41). -/
def State.replayRefs (s : State) (bs : List Byte) : List Nat × State :=
  let g := field (hdrWord bs 1) 15 0
  let first := (hdrWord bs 2).toNat + (hdrWord bs 3).toNat * 2 ^ 32
  let ofMap (a : Img) : List Nat := (List.range 64).map fun l => nbRef a (64 * g + l)
  match s.arc.refs.find? fun e => decide (e.1 = (first, g)) with
  | some e => (e.2, s)
  | none =>
    if s.sch.activeValid && decide (imgSerial s.img = hdrWord bs 20) then (ofMap s.img, s)
    else if s.sch.shadowValid && decide (imgSerial s.sch.shadow = hdrWord bs 20) then (ofMap s.sch.shadow, s)
    else let (ws, s1) := s.freeWords 64; (ws.map fun w => w.toNat % 12, s1)

/-- What a replay's bytes decode to, the key being that of their SEAL_CTX. -/
def State.decodeReplay (s : State) (r : ArcReplay) : Decoded × State :=
  let (refs, s1) := s.replayRefs r.bytes
  (decodeBlock r.bytes (s.workingKey purposeArchive (leBytes (hdrWord r.bytes 21))) refs, s1)

/-- REPLAY_COMPLETE (R271, R272): the record waits for a buffer of its ring (R399). -/
def execReplayComplete (memErr : Bool) (s : State) : Host.Outcome State Fault Refusal :=
  match s.arc.replay with
  | none => .next s
  | some r =>
    if !s.gate 36 || (r.range.isSome && !s.gate 46) then .next s
    else if memErr && r.range.isSome then .next ((s.inc Reg.arcUeCnt).endReplay r stMemError 0)
    else if r.overwritten then .next (s.endReplay r stOverwritten 0)
    else if r.aborted then .next (s.endReplay r stTamper 0)
    else if 0 < r.jobs then .next s
    else match s.decodeReplay r with
      | (.failed st, s1) => .next (s1.endReplay r st 0)
      | (.record type data, s1) =>
        if (s.ring r.ring).works && decide (s.ringType r.ring = 6) && !s.canDeliver r.ring 6 then .next s
        else .next ((s1.deliverOr r.ring 6 data [0xFFFFFFFF, w32 type, r.ref.tag.setWidth 32] Reg.arcDropCnt).endReplay r stOk type)

end Sys2Proof.Machine
end

