-- ==== Sys2Proof/Machine/Lmu.lean ====
section
/-! DEFINITION. The local measurement unit: decimation chain, settling, fades, offset tracking, local phasors (R280 to R299). -/
namespace Sys2Proof.Machine

/-! ### Channels -/

/-- Labels in a second. -/
@[reducible] def labelRate : Nat := 12800

/-- The instant of a label in ns of the timebase, floored (R285). -/
def labelNs (l : Nat) : Nat := l * nsPerSec / labelRate

/-- The first label after now: the first one whose instant lies after it. DEDUCED (log 103). -/
def State.labelAfter (s : State) : Nat := s.tim.now * labelRate / nsPerSec + 1

/-- The first label at or after a timebase value. -/
def labelAtOrAfter (t : Nat) : Nat := (t * labelRate + nsPerSec - 1) / nsPerSec

/-- Channel c. -/
def State.lmuCh (s : State) (c : Nat) : LmuCh := s.lmu.chans.getD c {}
/-- Channel c rewritten. -/
def State.onCh (s : State) (c : Nat) (f : LmuCh → LmuCh) : State := s.onLmu fun l => { l with chans := modifyAt l.chans c f }
/-- LMU_CHc_CTL.EN. -/
def State.chOn (s : State) (c : Nat) : Bool := s.regBit (Reg.lmuChCtl c) 0
/-- SRC of channel c. -/
def State.chSrc (s : State) (c : Nat) : Nat := s.regField (Reg.lmuChCtl c) 5 1
/-- Tap k of the ROM default bank. It is symmetric, as every coefficient set is, with the group delay of 47.5 samples that R285 absorbs (R286). -/
def romTap (k : Nat) : Word := Config.lmuRomBank (min k (95 - k))

/-- Tap k of the half-band filter, symmetric about its 24th. DEDUCED (log 44): the chain's group delay, which R285 absorbs, is the same at every frequency. -/
def halfBandTap (k : Nat) : Word := Config.lmuHalfBand (min k (46 - k))

/-- The clock of the pin that a control word selects runs (R280, R281). -/
def State.chClock (s : State) (ctl : Word) : Bool := s.regBit Reg.lmuCfg (if field ctl 5 1 < 12 then 0 else 1)

/-- N of the rank filter, 1 when bypassed (R287). -/
def rankN (cfg : Word) : Nat := [1, 3, 5, 7, 9].getD (field cfg 3 1) 1
/-- DELAY_INT. -/
def delayInt (cfg : Word) : Nat := field cfg 11 4
/-- DELAY_FRAC. -/
def delayFrac (cfg : Word) : Nat := field cfg 16 12
/-- S of R290. -/
def settleCount (cfg : Word) : Nat := (130 + (rankN cfg + 1) / 2 + delayInt cfg + 4) / 5

/-- The bank that COEF_SET names (R292). -/
def State.coefBank (s : State) (cfg : Word) : List Word :=
  let n := field cfg 19 17
  (List.range 96).map fun k => if n < 4 then s.reg (Reg.lmuCoef n k) else romTap k

/-- The settle counter of a channel starts (R290), and with it the second of its mean no longer counts (R296). -/
def LmuCh.restart (x : LmuCh) : LmuCh := { x with settle := settleCount x.cfg, clean := false }

/-- A change of a channel's control takes effect (R290 to R292): an enable empties the chain. -/
def LmuCh.changed (x : LmuCh) (d : LmuChange) : LmuCh :=
  match d.fresh with
  | some (cfg, bank) => LmuCh.restart { cfg := cfg, bank := bank, mean := x.mean, ctl := d.ctl, changes := x.changes }
  | none => if d.restart then { x with ctl := d.ctl }.restart else { x with ctl := d.ctl }

/-- A channel with the changes that govern label l, and those before, in effect. -/
def LmuCh.upTo (x : LmuCh) (l : Nat) : LmuCh :=
  (x.changes.filter fun d => decide (d.label ≤ l)).foldl LmuCh.changed { x with changes := x.changes.filter fun d => decide (l < d.label) }

/-! ### Fades (R293 to R295) -/

/-- Channel c has a fade pending or running. -/
def State.fading (s : State) (c : Nat) : Bool := s.lmu.fades.any fun f => f.mask.getLsbD c

/-- A fade that no channel is in any more completes: with ABORTED if one had left it (R295), with OK else (R294). -/
def State.endFade (s : State) (f : LmuFade) : State :=
  let r : List Word := [s.soc (f.start / labelRate), w32 (f.start % labelRate)]
  let s1 := s.onLmu fun l => { l with fades := l.fades.filter fun g => decide (g.ref ≠ f.ref) }
  if f.lost then s1.finish f.ref { status := stAborted, result := r }
  else (s1.inc Reg.lmuXfadeCnt).finish f.ref { status := stOk, result := r }

/-- Fades whose last channel is gone end. -/
def State.endFades (s : State) : State := (s.lmu.fades.filter fun f => decide (f.mask = 0)).foldl State.endFade s

/-- Channel c forgets its fade (R295). -/
def State.dropFade (s : State) (c : Nat) : State :=
  let m : BitVec 24 := 1 <<< c
  (s.onLmu fun l =>
    { l with fades := l.fades.map fun f => if f.mask.getLsbD c then { f with mask := f.mask &&& ~~~m, lost := true } else f }).endFades

/-- Channel c takes a change of its control from the next label on. -/
def State.changeChannel (s : State) (c : Nat) (ctl : Word) (fresh : Option (Word × List Word)) (restart : Bool) : State :=
  s.onCh c fun x => { x with changes := x.changes ++ [{ label := s.labelAfter, ctl := ctl, fresh := fresh, restart := restart }] }

/-- A write to LMU_CHc_CTL (R290 to R292, R295). -/
def State.writeChannel (s : State) (c : Nat) (v : Word) : State :=
  let w := v &&& 0x7F
  let old := s.reg (Reg.lmuChCtl c)
  let on := flag w 0
  if on && decide (23 < field w 5 1) then s
  else
    let s1 := s.setReg (Reg.lmuChCtl c) w
    if on && !flag old 0 then let cfg := s.reg (Reg.lmuChCfg c); s1.changeChannel c w (some (cfg, s.coefBank cfg)) true
    else if on && decide (field w 6 1 ≠ field old 6 1) then (s1.changeChannel c w none true).dropFade c
    else if !on && flag old 0 then (s1.changeChannel c w none false).dropFade c
    else s1

/-- What the settle counter of channel c stands at now, and from which label it counts on: at the last event, be its label formed yet or not (R290). -/
def State.settleCounter (s : State) (c n : Nat) : Nat × Nat :=
  let x := s.lmuCh c
  let here := s.tim.now * labelRate / nsPerSec
  let base : Nat × Nat := match (x.changes.filter (·.restart)).getLast? with
    | some d => (settleCount ((d.fresh.map (·.1)).getD x.cfg), d.label)
    | none => (x.settle, n)
  match s.lmu.fades.find? fun f => f.mask.getLsbD c with
  | some f => if f.len = 0 && decide (n ≤ f.start) && decide (f.start ≤ here) then (settleCount x.cfg, f.start + 1) else base
  | none => base

/-- Channel c is enabled and its settle counter has run out by the present label (R290, Table LMU-5). -/
def State.chSettled (s : State) (c : Nat) : Bool :=
  s.chOn c && match s.lmu.next with
  | none => false
  | some n =>
    let k := s.settleCounter c n
    decide (k.1 ≤ if s.gate 38 && s.chClock (s.reg (Reg.lmuChCtl c)) then s.tim.now * labelRate / nsPerSec - k.2 else 0)

/-- CHANNEL_ENABLE (R290, R291). -/
def execChannelEnable (c : Fin 24) (value : Word) (s : State) : Answer :=
  .next (if s.hostUp then s.writeChannel c.val value else s)

/-- The start label that LMU_XFADE names, in labels from the epoch (R293, R294); none when it lies less than 2 ms ahead. -/
def State.fadeStart (s : State) (w5 w6 : Word) : Option Nat :=
  let soonest := labelAtOrAfter (s.tim.now + 2000000)
  let n := field w6 13 0
  if w5 = 0 && n = 0 then some ((soonest + 63) / 64 * 64)
  else if labelRate ≤ n then none
  else match s.secondOf w5.toNat 0 with
    | none => none
    | some sec => if soonest ≤ sec * labelRate + n then some (sec * labelRate + n) else none

/-- LMU_XFADE (R293, R294). -/
def execLmuXfade (h : CmdHdr) (w1 : Word) (_addr : BitVec 64) (w4 w5 w6 : Word) (buf : List Byte) (s : State) : Answer :=
  .next (s.command h false fun c x =>
    let len := field w4 12 0
    let coefs := wordsOf (buf.take 384)
    let chans := (List.range 24).filter fun k => flag w1 k
    if w1 = 0 || decide (field w1 31 24 ≠ 0) || (chans.any fun k => !x.chOn k) || (decide (len ≠ 0) && (decide (len < 64) || decide (4096 < len))) then
      (x, .done { status := stBadArg })
    else if h.dmaErr then x.dmaError
    else if decide (coefs.length < 96) || (coefs.any fun k => !fpIsFinite k) ||
      ((List.range 96).any fun k => decide (wordAt coefs k ≠ wordAt coefs (95 - k))) then (x, .done { status := stBadArg })
    else match x.fadeStart w5 w6 with
      | none => (x, .done { status := stBadArg })
      | some l =>
        if chans.any x.fading then (x, .done { status := stBusy })
        else (x.onLmu fun m => { m with fades := m.fades ++ [{ ref := c, mask := w1.setWidth 24, coefs := coefs, len := len, start := l }] }, .long))

/-! ### The decimation chain (R283, R284, R287, R288) -/

/-- Tap k of the sinc⁴ filter: the number of ways to write k as a sum of four numbers below 64. -/
def sincTap (k : Nat) : Int :=
  let c (n : Nat) : Int := (n + 3 : Nat) * (n + 2 : Nat) * (n + 1 : Nat) / 6
  let t (i : Nat) (m : Int) : Int := if 64 * i ≤ k then m * c (k - 64 * i) else 0
  t 0 1 + t 1 (-4) + t 2 6 + t 3 (-4)

/-- The sinc⁴ sums at every 64th of new modulator values; `xs` are the values newest first, `n` the samples still to form. -/
def sincSamples (xs : List Int) : Nat → List Int
  | 0 => []
  | n + 1 => ((List.range 253).map fun k => sincTap k * xs.getD (64 * n + k) 0).sum :: sincSamples xs n

/-- The median of a list of odd length. -/
def median (l : List Int) : Int :=
  (l.find? fun x => decide ((l.filter fun y => decide (y < x)).length ≤ l.length / 2) &&
    decide ((l.filter fun y => decide (x < y)).length ≤ l.length / 2)).getD 0

/-- The window of N samples centred four samples before sample i of a list, newest first. DEDUCED (log 45): the chain's timing, which R285 makes the
same for every RANK, leaves room for the widest window. -/
def rankWindow (xs : List Int) (n i : Nat) : List Int := (xs.drop (i + 4 - (n - 1) / 2)).take n

/-- A FIR sum as fused multiply-adds in tap order (R284); `xs` newest first. -/
def firSum (n : Nat) (h : Nat → Word) (xs : List Word) : Word := (List.range n).foldl (fun acc k => fpFma (h k) (wordAt xs k) acc) 0

/-- What one label makes of a channel: its chain, the input history of its FIR, and the sinc⁴ samples that clipped (R283). -/
structure ChainOut where
  ch : LmuCh
  taps : List Word
  clips : Nat

/-- The chain of a channel takes the 640 modulator bits of a label (R283, R284, R287, R288). -/
def chainStep (x : LmuCh) (bits : List Bool) : ChainOut :=
  let inv := flag x.cfg 0
  let mods := (bits.take 640).reverse.map (fun b => if b != inv then (1 : Int) else -1) ++ x.mods
  let ten := (sincSamples mods 10).reverse
  let sinc := ten ++ x.sinc
  let clips := (ten.filter fun v => decide (14680064 ≤ v.natAbs)).length
  let n := rankN x.cfg
  let ranked := ((List.range 10).map fun i => fpOfScaled (median (rankWindow sinc n i)) (-24)) ++ x.hb
  let five := (List.range 5).map fun i => firSum 47 halfBandTap (ranked.drop (2 * i))
  let line := five ++ x.line
  let di := delayInt x.cfg
  let frac := (List.range 5).map fun i => firSum 8 (Config.lmuPolyphase (delayFrac x.cfg)) (line.drop (i + di))
  let taps := frac ++ x.fir
  { ch := { x with mods := mods.take 189, sinc := sinc.take 8, hb := ranked.take 46, line := line.take 262, fir := taps.take 95 }
    taps := taps, clips := clips }

/-- The fade that channel c is in. -/
def State.fadeOf (s : State) (c : Nat) : Option LmuFade := s.lmu.fades.find? fun f => f.mask.getLsbD c

/-- The FIR output of channel c at a label, with the bank it leaves active (R294). -/
def State.firOut (s : State) (c label : Nat) (bank taps : List Word) : Word × List Word :=
  let yo := firSum 96 (wordAt bank) taps
  match s.fadeOf c with
  | none => (yo, bank)
  | some f =>
    if label < f.start then (yo, bank)
    else
      let k := label + 1 - f.start
      let yn := firSum 96 (wordAt f.coefs) taps
      if k < f.len then (fpAdd yo (fpMul (fpSub yn yo) (fpDiv (fpOfInt k) (fpOfInt f.len))), bank) else (yn, f.coefs)

/-- The mean of a second (R296). DEDUCED (log 46): an FP32 sum in label order over the number of labels. -/
def meanStep (x : LmuCh) (label : Nat) (v : Word) (good : Bool) : LmuCh :=
  let first := decide (label % labelRate = 0)
  let sum := if first then v else fpAdd x.sum v
  let count := if first then 1 else x.count + 1
  let clean := (if first then true else x.clean) && good
  if label % labelRate = labelRate - 1 && clean && count = labelRate then
    { x with sum := sum, count := count, clean := clean, mean := some (fpDiv sum (fpOfInt labelRate)) }
  else { x with sum := sum, count := count, clean := clean }

/-- Channel c gives its sample of a label (R283, R284, R290, R291, R294). -/
def State.channelLabel (s : State) (label : Nat) (bits : List (List Bool)) (c : Nat) : State × LmuSample :=
  let x0 := (s.lmuCh c).upTo label
  if !flag x0.ctl 0 then (s.onCh c fun _ => x0, {})
  else if !s.chClock x0.ctl then (s.onCh c fun _ => { x0 with clean := false }, {})
  else
    let pin := 2 * field x0.ctl 5 1 + (if flag x0.ctl 6 then 1 else 0)
    let o := chainStep x0 (bits.getD pin [])
    let (v, bank) := s.firOut c label o.ch.bank o.taps
    let restart := match s.fadeOf c with
      | some f => decide (f.len = 0) && decide (f.start ≤ label)
      | none => false
    let settle := if restart then settleCount o.ch.cfg else o.ch.settle
    let ok := decide (settle = 0)
    let x := meanStep { o.ch with bank := bank, settle := if restart then settle else settle - 1 } label v
      (ok && decide (o.clips = 0) && s.regBit Reg.lmuTrk 0)
    let s1 := (s.onCh c fun _ => x).add (Reg.lmuClipCnt c) o.clips
    let s2 := if 0 < o.clips then s1.setBits Reg.lmuClip (bit c) else s1
    let y := fpMul (fpSub v (s.reg (Reg.lmuChOffset c))) (s.reg (Reg.lmuChGain c))
    (s2, { y := if ok then y else 0, ok := ok, clip := decide (0 < o.clips) })

/-- Channels whose fade reaches its end at a label leave it; a fade left by all completes (R294). -/
def State.fadeEnds (s : State) (label : Nat) : State :=
  (s.onLmu fun l => { l with fades := l.fades.map fun f => if f.start + (f.len - 1) ≤ label then { f with mask := 0 } else f }).endFades

/-- How many labels are kept for estimates: 2 (h + d) + 1 at most (Table LMU-3), and as many again as lie between an instant and its estimate. -/
@[reducible] def labelsKept : Nat := 8192

/-- The samples of a label are formed in all channels (R284, R285); `bits` gives, for pin m and edge e, item 2 m + e: the 640 modulator bits that end the
label. -/
def State.lmuAdvance (s : State) (label : Nat) (bits : List (List Bool)) : State × List LmuSample :=
  let r := (List.range 24).foldl (fun (b : State × List LmuSample) c =>
    let q := b.1.channelLabel label bits c
    (q.1, b.2 ++ [q.2])) (s, [])
  ((r.1.onLmu fun l => { l with next := some (label + 1), hist := ((label, r.2) :: l.hist).take labelsKept }).fadeEnds label, r.2)

/-- Edges of MCLK in a second, which is cycles of it (R281). -/
@[reducible] def mclkRate : Nat := 8192000

/-- The first cycle of the MCLK grid at or after now. -/
def State.mclkNext (s : State) : Nat := (s.tim.now * mclkRate + nsPerSec - 1) / nsPerSec

/-- MCLK0 or MCLK1 is high now (R281, R282): low while disabled or unlocked and up to the first edge after a re-phase, else high in the first half of each
cycle of the second's grid. -/
def State.mclkPin (s : State) (m : Fin 2) : Bool :=
  let half := s.tim.now * (2 * mclkRate) / nsPerSec
  s.regBit Reg.lmuCfg m.val && s.lmu.next.isSome && decide (s.lmu.mclkFrom ≤ half / 2) && decide (half % 2 = 0)

/-- A re-phase (R282, R290, R295): labels start afresh at the new time, settle counters restart, fades end. -/
def State.lmuRephase (s : State) : State :=
  let s1 := s.onLmu fun l => { l with next := l.next.map fun _ => labelAtOrAfter s.tim.now, hist := [], due := [], mclkFrom := s.mclkNext }
  let s2 := s.lmu.due.foldl (fun (x : State) e => x.inc (Reg.lmuSuppressCnt e.point)) s1
  let now (x : LmuCh) : LmuCh := x.changes.foldl LmuCh.changed { x with changes := [] }
  ((List.range 24).foldl (fun (x : State) c => if x.chOn c then (x.onCh c fun y => (now y).restart).dropFade c else x.onCh c now) s2).inc Reg.lmuResyncCnt

/-- PLLM locks: labels begin (R281). -/
def State.lmuStart (s : State) : State :=
  s.onLmu fun l => { l with next := some (labelAtOrAfter s.tim.now), mclkFrom := s.mclkNext }

/-! ### The default response (R286, Table LMU-2) -/

/-- A finite FP32 word as a rational number. -/
def fpRat (w : Word) : Rat :=
  match fpRead w with
  | .fin neg m e => (if neg then -1 else 1) * (m : Rat) * (if 0 ≤ e then (2 ^ e.toNat : Rat) else 1 / 2 ^ (-e).toNat)
  | _ => 0

/-- A complex number by its rational parts. -/
structure CRat where
  re : Rat
  im : Rat

/-- A product. -/
def CRat.mul (x y : CRat) : CRat := { re := x.re * y.re - x.im * y.im, im := x.re * y.im + x.im * y.re }
/-- A power. -/
def CRat.pow (x : CRat) : Nat → CRat
  | 0 => { re := 1, im := 0 }
  | n + 1 => (x.pow n).mul x
/-- The squared magnitude. -/
def CRat.norm (x : CRat) : Rat := x.re * x.re + x.im * x.im
/-- The response of a FIR of n taps at a tone that turns by z from one sample to the next, conjugated. -/
def firRat (n : Nat) (h : Nat → Word) (z : CRat) : CRat :=
  (List.range n).foldl (fun (a : CRat) k => let p := z.pow k; { re := a.re + fpRat (h k) * p.re, im := a.im + fpRat (h k) * p.im }) { re := 0, im := 0 }

/-- The squared gain of the sinc⁴ stage at a tone that turns by z in a modulator cycle. -/
def sincGain (z : CRat) : Rat :=
  let a := (List.range 64).foldl (fun (a : CRat) k => let p := z.pow k; { re := a.re + p.re, im := a.im + p.im }) { re := 0, im := 0 }
  a.norm ^ 4 / (64 : Rat) ^ 8

/-- The squared gain of the whole chain with the ROM bank, the rank filter bypassed, for fraction q of the phase delay. -/
def chainGain (q : Nat) (z : CRat) : Rat :=
  let z1 := z.pow 64
  let z2 := z1.mul z1
  sincGain z * (firRat 47 halfBandTap z1).norm * (firRat 8 (Config.lmuPolyphase q) z2).norm * (firRat 96 romTap z2).norm

/-- The response that Table LMU-2 states for every device: what R286 says of the taps, whose values the spec does not give (log 44). A tone of frequency f
is a rational point z of the unit circle with real part cos(2π f / 8.192 MHz); the bounds are written to 18 places, and gains are relative to that at 0 Hz. DESIGN CHOICE (log 97): a proposition
about the constants, to be a premise where a claim needs it; the typical −3 dB point is not part of it. -/
def defaultResponse : Prop :=
  ∀ q < 32, ∀ z : CRat, z.norm = 1 →
    let dc := chainGain q { re := 1, im := 0 }
    0 < dc ∧
    (999993223088128542 / 10 ^ 18 ≤ z.re → dc * (995405417351526962 / 10 ^ 18) ≤ chainGain q z ∧ chainGain q z ≤ dc * (1004615790278395143 / 10 ^ 18)) ∧
    (999077727752645383 / 10 ^ 18 ≤ z.re → z.re ≤ 999981175282601143 / 10 ^ 18 → chainGain q z ≤ dc / 10 ^ 9) ∧
    (998475580573294752 / 10 ^ 18 ≤ z.re → z.re ≤ 999077727752645383 / 10 ^ 18 → chainGain q z ≤ dc / 10 ^ 10) ∧
    (923879532511286756 / 10 ^ 18 ≤ (z.pow 64).re → z.re ≤ 995767414467659794 / 10 ^ 18 → sincGain z ≤ 398107170553497 / 10 ^ 24)

/-! ### Local phasors (R297 to R299) -/

/-- LMU_PTp_CFG.EN. -/
def State.ptOn (s : State) (p : Nat) : Bool := s.regBit (Reg.lmuPtCfg p) 0
/-- M class. -/
def State.ptM (s : State) (p : Nat) : Bool := s.regBit (Reg.lmuPtCfg p) 1
/-- f0. -/
def State.ptF0 (s : State) (p : Nat) : Nat := if s.regBit (Reg.lmuPtCfg p) 2 then 50 else 60
/-- A_p in ns (R289). -/
def State.ptAlign (s : State) (p : Nat) : Nat := min 4000000 (s.reg (Reg.lmuPtAlign p)).toNat
/-- h of Table LMU-3. -/
def State.ptH (s : State) (p : Nat) : Nat := if s.ptM p then 25600 / min s.fm 120 else labelRate / s.ptF0 p
/-- d of Table LMU-3. -/
def State.ptD (s : State) (p : Nat) : Nat := if s.ptM p then 64 else 16

/-- Window weights (R297). -/
def windowWeights (m : Bool) (h : Nat) : List Word :=
  (List.range (2 * h + 1)).map fun (i : Nat) =>
    if m then
      fpSub (fpDiv (fpOfInt 54) (fpOfInt 100))
        (fpMul (fpDiv (fpOfInt 46) (fpOfInt 100)) (fpCos (fpDiv (fpMul fpTwoPi (fpOfInt i)) (fpOfInt (2 * h : Nat)))))
    else fpOfInt (Int.ofNat (h + 1 - (max i h - min i h)))

/-- The window from which the gain table of point p was filled when it was enabled (R298). -/
def State.gainWindow (s : State) (p : Nat) : List Word :=
  let x := (mapGet s.lmu.gains p).getD (s.ptM p, s.ptH p)
  windowWeights x.1 x.2

/-- Words added in order. -/
def sumWords (l : List Word) : Word := l.foldl fpAdd 0

/-- ph: the reference phase of label n, counted from the second, in 2^-32 of a cycle (R298). -/
def refPhase (f0 align : Nat) (n : Int) : Nat :=
  ((((f0 * 2 ^ 32 : Nat) : Int) * (n * (1000000000 : Nat) - ((align * labelRate : Nat) : Int))) / ((labelRate * 1000000000 : Nat) : Int) %
    ((2 ^ 32 : Nat) : Int)).toNat

/-- The samples that an estimate reads: label number and row. -/
abbrev LabelRows := List (Nat × List LmuSample)

/-- A sample of role k of point p at a label. -/
def sampleAt (rows : LabelRows) (p k label : Nat) : LmuSample := ((rows.find? fun r => decide (r.1 = label)).map fun r => r.2.getD (6 * p + k) {}).getD {}

/-- est(k, m) (R298): `m` is the label from the epoch, `sec` the second of tr. -/
def estimate (rows : LabelRows) (w : List Word) (f0 align p sec k m : Nat) : Word × Word :=
  let h := w.length / 2
  let acc := (List.range w.length).foldl (fun (acc : Word × Word) i =>
    let l := m + i - h
    let ph := refPhase f0 align (Int.ofNat l - Int.ofNat (sec * labelRate))
    let cs := fpCosSin (fpNeg (fpMul (fpMul fpTwoPi (fpOfInt ph)) (fpPow2 (-32))))
    let t := fpMul (wordAt w i) (sampleAt rows p k l).y
    (fpAdd acc.1 (fpMul t cs.1), fpAdd acc.2 (fpMul t cs.2))) (0, 0)
  let scale := fpDiv (fpSqrt (fpOfInt 2)) (sumWords w)
  (fpMul acc.1 scale, fpMul acc.2 scale)

/-- a = exp(j 2π/3). -/
def phA : Word × Word := fpCosSin (fpDiv fpTwoPi (fpOfInt 3))
/-- conj. -/
def cConj (x : Word × Word) : Word × Word := (x.1, fpNeg x.2)
/-- x + y. -/
def cAdd (x y : Word × Word) : Word × Word := (fpAdd x.1 y.1, fpAdd x.2 y.2)
/-- x divided by a real. -/
def cScaleDiv (x : Word × Word) (d : Word) : Word × Word := (fpDiv x.1 d, fpDiv x.2 d)
/-- The symmetrical component (A + u B + v C) / 3. -/
def seqComp (u v a b c : Word × Word) : Word × Word := cScaleDiv (cAdd (cAdd a (cMul u b)) (cMul v c)) (fpOfInt 3)

/-- Entry e of the gain table (R298). -/
def gainEntry (w : List Word) (e : Nat) : Word :=
  let h := w.length / 2
  fpDiv (sumWords ((List.range w.length).map fun i =>
    fpMul (wordAt w i) (fpCos (fpDiv (fpMul (fpMul fpTwoPi (fpDiv (fpOfInt e) (fpOfInt 32))) (fpOfInt (Int.ofNat i - Int.ofNat h))) (fpOfInt labelRate)))))
    (sumWords w)

/-- gain_table at a frequency difference: linear interpolation, held at 10 Hz (R298). DEDUCED (log 46): g + (g' − g) × fraction. -/
def gainAt (w : List Word) (df : Word) : Word :=
  let x := fpMul df (fpOfInt 32)
  if fpGe x (fpOfInt 320) then gainEntry w 320
  else
    let e := (fpFloor x).toNat
    let g0 := gainEntry w e
    fpAdd g0 (fpMul (fpSub (gainEntry w (e + 1)) g0) (fpSub x (fpOfInt e)))

/-- What an estimate answers: the six phasors, f, ROCOF, held. -/
structure LocalPhasors where
  ph : List (Word × Word)
  f : Word
  rocof : Word
  held : Bool
deriving DecidableEq, Repr

/-- The estimate of R298 for an instant `tr` ns into second `sec`. -/
def localPhasors (rows : LabelRows) (w gains : List Word) (f0 align d p sec tr : Nat) (vmin lastF : Word) : LocalPhasors :=
  let tc := tr + align
  let cn := (tc * labelRate + 500000000) / nsPerSec
  let c := sec * labelRate + cn
  let dt := fpMul (fpOfInt (Int.ofNat tc - Int.ofNat (labelNs cn))) (fpDiv fpOne (fpOfInt nsPerSec))
  let est (k m : Nat) : Word × Word := estimate rows w f0 align p sec k m
  let v1 (m : Nat) : Word × Word := seqComp phA (cConj phA) (est 0 m) (est 1 m) (est 2 m)
  let f0w := fpOfInt f0
  let vc := v1 c
  let good := fpGe (cAbs vc) vmin && fpGt (cAbs vc) 0
  let step (x y : Word × Word) : Word :=
    let q := cMul x (cConj y)
    fpAdd f0w (fpDiv (fpMul (fpAtan2 q.2 q.1) (fpOfInt labelRate)) (fpMul fpTwoPi (fpOfInt d)))
  let f1 := step vc (v1 (c - d))
  let f2 := step (v1 (c + d)) vc
  let f := if good then fpDiv (fpAdd f1 f2) (fpOfInt 2) else lastF
  let rocof := if good then fpDiv (fpMul (fpSub f2 f1) (fpOfInt labelRate)) (fpOfInt d) else 0
  let g := gainAt gains (fpAbs (fpSub f f0w))
  let rot := fpCosSin (fpMul (fpMul fpTwoPi (fpSub f f0w)) dt)
  { ph := (List.range 6).map fun k => cScaleDiv (cMul (est k c) rot) g, f := f, rocof := rocof, held := !good }

/-- The words of a local block's cell and its DIGITAL0 (Table LMU-4). -/
def localCell (e : LocalPhasors) (clips : List Bool) (fade : Bool) : List Word × Nat :=
  let ph (k : Nat) : Word × Word := e.ph.getD k (0, 0)
  let a2 := cConj phA
  let one : Word × Word := (fpOne, 0)
  let v1 := seqComp phA a2 (ph 0) (ph 1) (ph 2)
  let i1 := seqComp phA a2 (ph 3) (ph 4) (ph 5)
  let v2 := seqComp a2 phA (ph 0) (ph 1) (ph 2)
  let i2 := seqComp a2 phA (ph 3) (ph 4) (ph 5)
  let zero (a b c : Word × Word) : Word × Word := cScaleDiv (cAdd (cAdd a b) c) (fpOfInt 3)
  let v0 := zero (ph 0) (ph 1) (ph 2)
  let i0 := zero (ph 3) (ph 4) (ph 5)
  let pq := (List.range 3).map fun k => cMul (ph k) (cConj (ph (3 + k)))
  let tot := cAdd (cAdd (pq.getD 0 one) (pq.getD 1 one)) (pq.getD 2 one)
  let ratio (x y : Word × Word) : Word := if fpEq (cAbs y) 0 then fpNaN else fpDiv (cAbs x) (cAbs y)
  let d0 := ((List.range 6).map fun k => if clips.getD k false then 2 ^ k else 0).sum + (if e.held then 64 else 0) + (if fade then 128 else 0)
  (([ph 0, ph 1, ph 2, v1, ph 3, ph 4, ph 5, i1, v2, i2, v0, i0].flatMap fun x => [x.1, x.2]) ++
    [e.f, e.rocof, tot.1, tot.2, ratio v2 v1, ratio i2 i1, w32 d0], d0)

/-- The bits of STAT of a local block that say its time quality (Table LMU-4, R375). -/
def State.timeStat (s : State) : BitVec 16 := BitVec.ofNat 16 ((if s.tqPoor then 0x2000 else 0) + s.statTq * 64 + s.statUnlock * 16)

/-- STAT of a local block (Table LMU-4), its time quality as it was at its instant. -/
def localStat (time : BitVec 16) (clipped : Bool) : BitVec 16 := time ||| (if clipped then 0x4000 else 0)

/-- A local block reaches the Basin (R299, R162): it goes to the furrow that LOCAL_SRC binds, if one is in force. Answers a late block as the Basin
does. -/
def State.placeLocal (s : State) (p sec ns : Nat) (words : List Word) (stat : BitVec 16) (poor : Bool) :
    State × Option (Nat × Nat × List (Nat × Cell)) :=
  match (stBlocks s.img).find? fun f => stLocal s.img f && decide (stLocalSrc s.img f = p) with
  | none => (s, none)
  | some f =>
    let b : Block :=
      { furrow := f, cells := [words], stat := stat, soc := (s.soc sec).toNat, ns := ns, flags := BitVec.ofNat 8 (s.fracFlags sec), source := 9
        identity := [1, BitVec.ofNat 8 p], sec := some sec }
    match s.placeBlock b false poor with
    | (s1, none) => (s1, none)
    | (s1, some (tick, cells)) => (s1, some (f, tick, cells))

/-- The estimate that point p owes next is made, if its labels have all come (R298, R299); the late block of the outcome goes to `late`. -/
def State.localEstimate (s : State) (p : Nat) (late : State → Nat → Nat → List (Nat × Cell) → State) : State :=
  match s.lmu.due.find? fun e => decide (e.point = p) with
  | none => s
  | some e =>
    let sec := e.sec
    let i := e.index
    let tr := s.instantTime sec i - sec * nsPerSec
    let h := s.ptH p
    let d := s.ptD p
    let c := sec * labelRate + ((tr + s.ptAlign p) * labelRate + 500000000) / nsPerSec
    let newest := (s.lmu.hist.head?.map (·.1)).getD 0
    if s.lmu.hist.isEmpty || decide (newest < c + h + d) then s
    else
      let used := s.lmu.hist.filter fun r => decide (c ≤ r.1 + h + d) && decide (r.1 ≤ c + h + d)
      let s1 := s.onLmu fun l => { l with due := l.due.erase e }
      let ok := decide (used.length = 2 * (h + d) + 1) && (List.range 6).all fun k => used.all fun r => (r.2.getD (6 * p + k) {}).ok
      if !ok then s1.inc (Reg.lmuSuppressCnt p)
      else
        let lastF := (mapGet s.lmu.lastF p).getD (fpOfInt (s.ptF0 p))
        let q := localPhasors used (windowWeights (s.ptM p) h) (s.gainWindow p) (s.ptF0 p) (s.ptAlign p) d p sec tr (s.reg (Reg.lmuPtVmin p)) lastF
        let clips := (List.range 6).map fun k => used.any fun r => (r.2.getD (6 * p + k) {}).clip
        let fade := (List.range 6).any fun k => s.fading (6 * p + k)
        let (words, _) := localCell q clips fade
        let s2 := (s1.onLmu fun l => { l with lastF := mapSet l.lastF p q.f }).inc (Reg.lmuBlockCnt p)
        match s2.placeLocal p sec tr words (localStat e.stat (clips.any id)) e.poor with
        | (s3, none) => s3
        | (s3, some (f, tick, cells)) => late s3 f tick cells

/-- A grid instant is emitted: every point in use owes an estimate (R297), with the time quality of this moment (R375). -/
def State.owesEstimates (s : State) (sec i : Nat) : State :=
  s.onLmu fun l => { l with due := l.due ++ ((List.range 4).filter s.ptOn).map fun p =>
    { point := p, sec := sec, index := i, stat := s.timeStat, poor := s.tqPoor } }

end Sys2Proof.Machine
end

