-- ==== Sys2Proof/Machine/Nrg.lean ====
section
/-! DEFINITION. The energy unit: accumulators, line cycles, latches, banks, over-current, pulse outputs, region (R308 to R325). -/
namespace Sys2Proof.Machine

/-! ### Points -/

/-- Point p. -/
def State.nrgPt (s : State) (p : Nat) : NrgPoint := s.nrg.points.getD p {}
/-- Point p rewritten. -/
def State.onPt (s : State) (p : Nat) (f : NrgPoint → NrgPoint) : State := s.onNrg fun n => { n with points := modifyAt n.points p f }
/-- NRG_PTp_CFG.EN. -/
def State.nrgOn (s : State) (p : Nat) : Bool := s.regBit (Reg.nrgPtCfg p) 0
/-- The reference phase: REF, 3 treated as 0 (R325). -/
def State.nrgRef (s : State) (p : Nat) : Nat := let r := s.regField (Reg.nrgPtCfg p) 2 1; if r = 3 then 0 else r
/-- Line cycles per latch: N, 0 acting as 1 (R314). -/
def State.nrgN (s : State) (p : Nat) : Nat := max 1 (s.regField (Reg.nrgPtCfg p) 31 16)
/-- The integer count of an accumulator. -/
def intCount (acc : Nat) : BitVec 64 := BitVec.ofNat 64 (acc / 2 ^ 32)
/-- The lifecycle state lets the points meter (Table SEC-2). -/
def State.nrgRuns (s : State) : Bool := decide (s.nvm.fuses.state ≤ 2) && !s.nvm.nrgHeld
/-- The accumulators follow the partner (R323): those of a STANDBY device, and of one that has been STANDBY and has not unmuted since. -/
def State.nrgAdopted (s : State) : Bool := decide (s.gzl.role = .standby) || (s.nrg.follows && s.muted)

/-! ### Correction (R312) -/

/-- The correction of current channel k at an RMS current. -/
def State.correction (s : State) (k : Nat) (x : Word) : Word × Word :=
  let b (j : Nat) : Word := s.reg (Reg.nrgCorBp k j)
  let gn (j : Nat) : Word := s.reg (Reg.nrgCorGain k j)
  let ph (j : Nat) : Word := s.reg (Reg.nrgCorPhase k j)
  if fpLe x (b 0) then (gn 0, ph 0)
  else if fpGe x (b 8) then (gn 8, ph 8)
  else
    let j := ((List.range 8).find? fun j => fpLt x (b (j + 1))).getD 7
    let t := fpDiv (fpSub x (b j)) (fpSub (b (j + 1)) (b j))
    (fpAdd (gn j) (fpMul (fpSub (gn (j + 1)) (gn j)) t), fpAdd (ph j) (fpMul (fpSub (ph (j + 1)) (ph j)) t))

/-- The corrections of a point's phases at their RMS values take effect (R312). -/
def State.correctPoint (s : State) (p : Nat) (vrms irms : List Word) : State :=
  let cs := (List.range 3).map fun k => s.correction (3 * p + k) (wordAt irms k)
  s.onPt p fun x =>
    { x with
      g := cs.map (·.1), cph := cs.map fun c => fpCos c.2, sph := cs.map fun c => fpSin c.2
      sa := (List.range 3).map fun k => fpMul (fpMul (cs.getD k (0, 0)).1 (wordAt vrms k)) (wordAt irms k) }

/-- dq when no measured cycle gives it: 12,800 / (4 f0) (R311). -/
def defaultDq (f0 : Nat) : Word := fpDiv (fpOfInt labelRate) (fpOfInt (4 * f0 : Nat))

/-- The configuration check of R325. -/
def State.pointCfgOk (s : State) (p : Nat) : Bool :=
  let eu := s.reg (Reg.nrgPtEu p)
  fpIsFinite eu && fpGt eu 0 &&
  (List.range 3).all fun i =>
    let k := 3 * p + i
    ((List.range 9).all fun j =>
      fpIsFinite (s.reg (Reg.nrgCorBp k j)) && fpIsFinite (s.reg (Reg.nrgCorGain k j)) && fpIsFinite (s.reg (Reg.nrgCorPhase k j))) &&
    (List.range 8).all fun j => fpLe (s.reg (Reg.nrgCorBp k j)) (s.reg (Reg.nrgCorBp k (j + 1)))

/-- A point starts metering (R309, R312): ke, and the corrections before the first cycle. -/
def State.startPoint (s : State) (p : Nat) : State :=
  (s.onPt p fun x =>
    { x with
      ke := fpDiv fpOne (fpMul (fpOfInt labelRate) (s.reg (Reg.nrgPtEu p))), cycles := 0, armed := false, since := 0, timedMode := false
      timed := false, vprev := 0, xprev := none, dq := defaultDq (s.ptF0 p), sumV := [0, 0, 0], sumI := [0, 0, 0], count := 0 }).correctPoint p
    [0, 0, 0] [0, 0, 0]

/-- A write to NRG_PTp_CFG (R325). -/
def State.writePoint (s : State) (p : Nat) (v : Word) : State :=
  let w := v &&& 0xFFFF000F
  if flag w 0 then
    if s.pointCfgOk p then
      let s1 := (s.setReg (Reg.nrgPtCfg p) w).onPt p fun x => { x with cfgErr := false }
      if s.nrgOn p then s1 else s1.startPoint p
    else (s.setReg (Reg.nrgPtCfg p) (w &&& ~~~1)).onPt p fun x => { x with cfgErr := true }
  else s.setReg (Reg.nrgPtCfg p) w

/-! ### Records (R320) -/

/-- The time of a label as an event's time (R448). -/
def State.labelTime (s : State) (label : Nat) : EventTime :=
  let t := labelNs label
  { s.timebaseTime with sec := t / nsPerSec, ns := t % nsPerSec, offset := s.offsetAt (t / nsPerSec) }

/-- An NRG record of the time t in ns is formed and queued (R320, Table NRG-4), its event with a time of its own if it has one (R448). -/
def State.nrgRecordAt (s : State) (code cls source t : Nat) (own : Option EventTime) (value : Word) (count : Nat) : State :=
  let w0 := place 0x51 0 ||| place code 8 ||| place cls 12 ||| place source 14
  let sec := t / nsPerSec
  let ws : List Word := [w0, w32 sec, place (sec / 2 ^ 32 % 65536) 0, w32 (t % nsPerSec), value, w32 count] ++ List.replicate 10 0
  let s1 := s.event (0x0700 + code) cls [w0, value, w32 count] { time := own, epoch := some s.gzl.epoch }
  if decide (cls ≤ 1) && s.regBit Reg.almCfg 6 then s1.deliverOr (s.regField Reg.almCfg 5 0) 5 (bytesOf ws) [0x51, 0] Reg.nrgRingDropCnt else s1

/-- An NRG record of a label (R320). -/
def State.nrgRecord (s : State) (code cls source label : Nat) (value : Word) (count : Nat) : State :=
  s.nrgRecordAt code cls source (labelNs label) (some (s.labelTime label)) value count

/-! ### Metering (R309, R310) -/

/-- A contribution added to accumulator a (R309). One that is not finite has no stated fixed-point value: a free value is added (log 49). -/
def State.accAdd (s : State) (p a : Nat) (x : Word) : State :=
  let v := fpMul (fpAbs x) (s.nrgPt p).ke
  let (n, s1) := if fpIsFinite v then ((fpNearestScaled v 32).toNat, s) else let r := s.freeWord; (r.1.toNat, r.2)
  s1.onPt p fun q => { q with acc := modifyAt q.acc a fun y => (y + n) % 2 ^ 96 }

/-- add() of R310. -/
def State.accPower (s : State) (p ph : Nat) (pw qw sw : Word) : State :=
  let imp := !fpLt pw 0
  let quad := if imp then (if fpLt qw 0 then 5 else 2) else (if fpLt qw 0 then 4 else 3)
  ((s.accAdd p (8 * ph + (if imp then 0 else 1)) pw).accAdd p (8 * ph + quad) qw).accAdd p (8 * ph + (if imp then 6 else 7)) sw

/-- The sample of role k of point p in a row. -/
def roleOf (row : List LmuSample) (p k : Nat) : LmuSample := row.getD (6 * p + k) {}

/-- v of phase k at a label: 0 for a label that is not held. -/
def State.voltageAt (s : State) (p k label : Nat) : Word := (sampleAt s.lmu.hist p k label).y

/-- vh of phase k at a label (R311). -/
def State.quadrature (s : State) (p k label : Nat) : Word :=
  let dq := (s.nrgPt p).dq
  let j := (fpFloor dq).toNat
  let fr := fpSub dq (fpOfInt j)
  let v0 := s.voltageAt p k (label - j)
  fpAdd v0 (fpMul (fpSub (s.voltageAt p k (label - j - 1)) v0) fr)

/-- A label is metered (R310). -/
def State.meterLabel (s : State) (p label : Nat) (row : List LmuSample) : State :=
  let x := s.nrgPt p
  let rev (w : Word) : Word := if s.regBit (Reg.nrgPtCfg p) 3 then fpNeg w else w
  let phases := (List.range 3).map fun k =>
    let v := (roleOf row p k).y
    let i := (roleOf row p (3 + k)).y
    let pr := fpMul v i
    let qr := fpMul (s.quadrature p k label) i
    (rev (fpMul (wordAt x.g k) (fpAdd (fpMul pr (wordAt x.cph k)) (fpMul qr (wordAt x.sph k)))),
      rev (fpMul (wordAt x.g k) (fpSub (fpMul qr (wordAt x.cph k)) (fpMul pr (wordAt x.sph k)))))
  let pt := phases.foldl (fun a c => fpAdd a c.1) 0
  let qt := phases.foldl (fun a c => fpAdd a c.2) 0
  let s1 := (List.range 3).foldl (fun (y : State) k => let c := phases.getD k (0, 0); y.accPower p k c.1 c.2 (wordAt x.sa k)) s
  let s2 := s1.accPower p 3 pt qt (fpSqrt (fpAdd (fpMul pt pt) (fpMul qt qt)))
  s2.onPt p fun q =>
    { q with
      count := q.count + 1
      sumV := (List.range 3).map fun k => let v := (roleOf row p k).y; fpAdd (wordAt q.sumV k) (fpMul v v)
      sumI := (List.range 3).map fun k => let i := (roleOf row p (3 + k)).y; fpAdd (wordAt q.sumI k) (fpMul i i) }

/-! ### Latches and banks (R314 to R317) -/

/-- What a bank of point p holds now. -/
def State.bankOf (s : State) (p : Nat) (totals : List (BitVec 64)) (seq : Nat) : Bank :=
  .seal totals (s.nrgPt p).wraps (s.reg (Reg.nrgPtWrapSeen p)) seq

/-- A latch (R314, R317): running counters, wraps, sequence number, and the write of a bank. -/
def State.latchPoint (s : State) (p : Nat) (at_ : Nat × Nat) : State :=
  let x := s.nrgPt p
  let now := x.acc.map intCount
  let wrapped := (List.range 32).map fun a => decide ((x.totals.getD a 0).toNat / 2 ^ 32 ≠ (now.getD a 0).toNat / 2 ^ 32)
  let seen := (List.range 32).foldl (fun (w : Word) a => if wrapped.getD a false then w ||| bit a else w) 0
  let s1 := (s.onPt p fun y =>
    { y with
      totals := now, cycles := 0, seq := y.seq + 1, latchAt := at_
      wraps := (List.range 32).map fun a => if wrapped.getD a false then min 255 (y.wraps.getD a 0 + 1) else y.wraps.getD a 0 }).setBits
    (Reg.nrgPtWrapSeen p) seen
  let s2 := (List.range 32).foldl (fun (y : State) a => y.setReg (Reg.nrgCnt p a) (lo32 (now.getD a 0))) s1
  (s2.setReg (Reg.nrgPtLatchCnt p) (w32 (x.seq + 1))).nvmWrite (.bank p (s2.bankOf p now (x.seq + 1)))

/-- A line cycle ends (R312, R313): RMS values, corrections, and a latch at every N-th. `len` is the length of a cycle between two crossings. -/
def State.endCycle (s : State) (p : Nat) (at_ : Nat × Nat) (timed : Bool) (len : Option Word) : State :=
  let x := s.nrgPt p
  let rms (l : List Word) (k : Nat) : Word := if x.count = 0 then 0 else fpSqrt (fpDiv (wordAt l k) (fpOfInt x.count))
  let v := (List.range 3).map (rms x.sumV)
  let i := (List.range 3).map (rms x.sumI)
  let f0 := s.ptF0 p
  let dq := match len with
    | some l => if fpGe l (fpOfInt 128) && fpLe l (fpOfInt 512) then fpClamp (fpDiv l (fpOfInt 4)) (fpOfInt 32) (fpOfInt 128) else defaultDq f0
    | none => defaultDq f0
  let s1 := (s.onPt p fun y =>
    { y with
      dq := dq, sumV := [0, 0, 0], sumI := [0, 0, 0], count := 0, cycles := y.cycles + 1, since := 0, timed := timed, timedMode := timed
      timedSeen := y.timedSeen || timed, xprev := if timed then none else y.xprev }).correctPoint p v i
  let s2 := match len with
    | some l => s1.setReg (Reg.nrgPtCycle p) l
    | none => s1
  if s2.nrgN p ≤ x.cycles + 1 then s2.latchPoint p at_ else s2

/-- The search for the end of a cycle at a metered label (R313). DEDUCED (log 48): labels are counted from the one that ended the last cycle. -/
def State.cycleSearch (s : State) (p label : Nat) (row : List LmuSample) : State :=
  let x := s.nrgPt p
  let f0 := s.ptF0 p
  let v := (roleOf row p (s.nrgRef p)).y
  let n := x.since + 1
  let at_ := (labelNs label / nsPerSec, labelNs label % nsPerSec)
  let s0 := s.onPt p fun y => { y with since := n }
  let done :=
    if fpLe v (fpNeg (s.reg (Reg.nrgPtZcHyst p))) then s0.onPt p fun y => { y with armed := true }
    else if x.armed && fpGe v 0 && decide (4 * labelRate / (5 * f0) ≤ n) then
      let fr := fpDiv x.vprev (fpSub x.vprev v)
      let xc := fpAdd (fpOfInt (n - 1 : Nat)) fr
      let len := x.xprev.map fun q => fpSub xc q
      (s0.endCycle p at_ false len).onPt p fun y => { y with armed := false, xprev := some (fpSub fr fpOne) }
    else if decide ((if x.timedMode then (2 * labelRate + f0) / (2 * f0) else 2 * labelRate / f0) ≤ n) then s0.endCycle p at_ true none
    else s0
  done.onPt p fun y => { y with vprev := v }

/-- A point is restored from the sound bank of the higher sequence number (R315). Answers it with totals 0 when neither is sound. -/
def State.restorePoint (s : State) (p : Nat) : State :=
  let take (k : Bank) (second : Bool) (code : Nat) : State :=
    let s1 := (s.onPt p fun x =>
      { x with
        acc := k.totals.map fun t => t.toNat * 2 ^ 32, totals := k.totals, wraps := k.wraps, seq := k.seq, restored := code, second := !second }).setReg
      (Reg.nrgPtWrapSeen p) k.seen
    (List.range 32).foldl (fun (y : State) a => y.setReg (Reg.nrgCnt p a) (lo32 (k.totals.getD a 0))) (s1.setReg (Reg.nrgPtLatchCnt p) (w32 k.seq))
  match restoredBank (s.nvm.banks.getD p (.blank, .blank)) with
  | some (k, second, code) => take k second code
  | none => (take .blank true 2).nrgRecordAt 6 2 p s.tim.now none fpNaN 0

/-- Every point is restored at start-up (R315). -/
def State.restorePoints (s : State) : State := (List.range 4).foldl State.restorePoint s

/-- The energy unit's part of the brace commit (R316): each enabled point's present counts, as a bank with the next sequence number. -/
def State.nrgBrace (s : State) : State :=
  ((List.range 4).filter s.nrgOn).foldl (fun (x : State) p =>
    let q := (x.nrgPt p).seq + 1
    ((x.onPt p fun y => { y with seq := q }).setReg (Reg.nrgPtLatchCnt p) (w32 q)).applyNvm (.bank p (x.bankOf p ((x.nrgPt p).acc.map intCount) q))) s

/-- LATCH_HELD of point p. -/
def State.latchHeld (s : State) (p : Nat) : Bool := s.pwr.held.any fun w => w.ofPoint p

/-! ### Over-current (R319) -/

/-- Over-current and peak of channel k at a label; `i` is none for a label that is not metered. A label while EN is 0 is in no run of labels (log 51). -/
def State.ocLabel (s : State) (k label f0 : Nat) (i : Option Word) : State :=
  let o := s.nrg.ocs.getD k {}
  let mag := (i.map fpAbs).getD 0
  let s1 := match i with
    | some _ => if fpGt mag (s.reg (Reg.nrgPeak k)) then s.setReg (Reg.nrgPeak k) mag else s
    | none => s
  let cfg := s.reg (Reg.nrgOcCfg k)
  let put (x : State) (q : NrgOc) : State := x.onNrg fun n => { n with ocs := setAt n.ocs k q }
  if !flag cfg 0 then put s1 { o with run := 0, below := 0 }
  else
    let above := i.isSome && fpGt mag (s.reg (Reg.nrgOcThr k))
    let cls := field cfg 2 1
    if o.active then
      let below := if above then 0 else if i.isSome then o.below + 1 else o.below
      let q : NrgOc := { o with below := below, peak := fpMax o.peak mag, len := o.len + 1 }
      if 2 * ((2 * labelRate + f0) / (2 * f0)) ≤ below then
        ((put s1 {}).setReg Reg.nrgOcStatus (s1.reg Reg.nrgOcStatus &&& ~~~(bit k))).nrgRecord 2 cls k label q.peak q.len
      else put s1 q
    else
      let run := if above then o.run + 1 else 0
      let peak := if above then fpMax (if o.run = 0 then 0 else o.peak) mag else 0
      if above && decide (max 1 (field cfg 31 16) ≤ run) then
        (((put s1 { run := 0, active := true, below := 0, peak := peak, len := 1 }).setBits Reg.nrgOcStatus (bit k)).setBits Reg.nrgOcSeen
          (bit k)).nrgRecord 1 cls k label peak 0
      else put s1 { o with run := run, peak := peak }

/-! ### Pulse outputs (R321, R322) -/

/-- Pulse output n. -/
def State.pulse (s : State) (n : Nat) : NrgPulse := s.nrg.pulses.getD n {}
/-- Pulse output n rewritten. -/
def State.onPulse (s : State) (n : Nat) (f : NrgPulse → NrgPulse) : State := s.onNrg fun x => { x with pulses := modifyAt x.pulses n f }
/-- The integer count that pulse output n follows. -/
def State.pulseCount (s : State) (n : Nat) : Nat :=
  let c := s.reg (Reg.nrgPlsCfg n)
  (s.nrgPt (field c 10 9)).acc.getD (field c 8 4) 0 / 2 ^ 32
/-- NRG_PLSn_CFG.EN. -/
def State.pulseOn (s : State) (n : Nat) : Bool := s.regBit (Reg.nrgPlsCfg n) 0
/-- WIDTH in ns. -/
def State.pulseWidth (s : State) (n : Nat) : Nat := s.regField (Reg.nrgPlsCfg n) 23 16 * 1000000

/-- A pulse starts now. -/
def State.pulseStart (s : State) (n : Nat) : State := s.onPulse n fun x => { x with phase := .active (s.tim.mono + s.pulseWidth n) }

/-- One owed pulse (R321). -/
def State.owePulse (s : State) (n : Nat) : State :=
  let x := s.pulse n
  let cls := s.regField (Reg.nrgPlsCfg n) 3 2
  if decide (x.phase = .idle) then s.pulseStart n
  else if 65535 ≤ x.backlog then s.inc (Reg.nrgPlsLost n)
  else
    let s1 := s.onPulse n fun y => { y with backlog := y.backlog + 1, peak := max y.peak (y.backlog + 1) }
    if x.backlog = 0 then s1.nrgRecord 3 cls n s.nrg.label fpNaN 0 else s1

/-- n owed pulses. -/
def State.owePulses (n : Nat) : Nat → State → State
  | 0, s => s
  | k + 1, s => State.owePulses n k (s.owePulse n)

/-- Pulse output n after a label (R321): the reference advances by CONST as often as the count allows. -/
def State.pulseLabel (s : State) (n : Nat) : State :=
  if !s.pulseOn n || s.muted || !s.gate 39 then s
  else
    let c := (s.reg (Reg.nrgPlsConst n)).toNat
    let k := if c = 0 then 0 else (s.pulseCount n - (s.pulse n).ref) / c
    State.owePulses n k (s.onPulse n fun x => { x with ref := x.ref + k * c })

/-- An enabled pulse output takes its reference count (R321). -/
def State.pulseRef (s : State) (n : Nat) : State := s.onPulse n fun _ => { ref := s.pulseCount n }

/-- A pulse output starts afresh as `f` says; a backlog that so returns to 0 forms its BACKLOG_END (R321, R322). -/
def State.dropBacklog (s : State) (n : Nat) (f : NrgPulse → NrgPulse) : State :=
  let x := s.pulse n
  let s1 := s.onPulse n f
  if x.backlog = 0 then s1 else s1.nrgRecord 4 (s.regField (Reg.nrgPlsCfg n) 3 2) n s.nrg.label fpNaN x.peak

/-- A write to NRG_PLSn_CFG (R321, R328): an output with WIDTH or CONST at 0 stays disabled. -/
def State.writePulse (s : State) (n : Nat) (v : Word) : State :=
  let w := v &&& 0x00FF07FF
  let ok := flag w 0 && decide (field w 23 16 ≠ 0) && decide (s.reg (Reg.nrgPlsConst n) ≠ 0)
  let s1 := s.setReg (Reg.nrgPlsCfg n) (putFlag w 0 ok)
  if ok then (if s.pulseOn n then s1 else s1.pulseRef n) else (s.dropBacklog n fun _ => {}).setReg (Reg.nrgPlsCfg n) (putFlag w 0 ok)

/-- PULSE_TIMER (R321): the width or the gap of pulse output n ends; after the gap the next owed pulse starts. -/
def execPulseTimer (n : Fin 8) (s : State) : Answer :=
  let x := s.pulse n.val
  if !s.gate 39 then .next s
  else match x.phase with
  | .idle => .next s
  | .active t =>
    let s1 := s.runToMono t
    .next (s1.onPulse n.val fun y => { y with phase := .gap (t + s.pulseWidth n.val) })
  | .gap t =>
    let s1 := s.runToMono t
    if x.backlog = 0 then .next (s1.onPulse n.val fun y => { y with phase := .idle })
    else
      let s2 := (s1.onPulse n.val fun y => { y with backlog := y.backlog - 1, peak := if y.backlog = 1 then 0 else y.peak }).pulseStart n.val
      .next (if x.backlog = 1 then s2.nrgRecord 4 (s.regField (Reg.nrgPlsCfg n.val) 3 2) n.val s.nrg.label fpNaN x.peak else s2)

/-- The outputs become muted (R322): every pulse output is inactive and owes nothing. -/
def State.pulsesMuted (s : State) : State :=
  (List.range 8).foldl (fun (x : State) n => x.dropBacklog n fun p => { ref := p.ref }) s

/-- The outputs are unmuted (R321, R323): each pulse output restarts from its count, and the points meter. -/
def State.pulsesUnmuted (s : State) : State := (List.range 8).foldl State.pulseRef (s.onNrg fun n => { n with follows := false })

/-- The level of PLSn: true for high (R321, R328). -/
def State.plsPin (s : State) (n : Nat) : Bool :=
  let act := match (s.pulse n).phase with
    | .active _ => !s.muted
    | _ => false
  act != s.regBit (Reg.nrgPlsCfg n) 1

/-! ### Labels (R310, R323) -/

/-- After a takeover the labels since the adopted state are reported as a gap (R323). -/
def State.nrgGap (s : State) (p label : Nat) : State :=
  match (s.nrgPt p).adopted with
  | none => s
  | some l =>
    let n := label - l - 1
    let s1 := s.onPt p fun x => { x with adopted := none, gap := true }
    (s1.add (Reg.nrgPtGapCnt p) n).nrgRecord 5 2 p label fpNaN n

/-- Point p takes a label (R310, R313, R319). -/
def State.pointLabel (s : State) (p label : Nat) (row : List LmuSample) : State :=
  if !s.nrgOn p || !s.nrgRuns || !s.gate 39 then s
  else
    let ok := (List.range 6).all fun k => (roleOf row p k).ok
    let s1 := (List.range 3).foldl (fun (x : State) k =>
      x.ocLabel (3 * p + k) label (s.ptF0 p) (if ok then some (roleOf row p (3 + k)).y else none)) s
    if s1.nrgAdopted then s1
    else
      let s2 := s1.nrgGap p label
      if !ok then (s2.onPt p fun x => { x with unsettled := true }).inc (Reg.nrgPtUnsettledCnt p)
      else (s2.cycleSearch p label row).meterLabel p label row

/-- The unit takes a label: points, then pulse outputs. -/
def State.nrgLabel (s : State) (label : Nat) (row : List LmuSample) : State := s.oneCycle fun s =>
  let s1 := (List.range 4).foldl (fun (x : State) p => x.pointLabel p label row) (s.onNrg fun n => { n with label := label })
  (List.range 8).foldl State.pulseLabel s1

/-- A re-phase ends each cycle in progress at the last label before it, as a timed cycle (R313). -/
def State.nrgRephase (s : State) : State :=
  ((List.range 4).filter fun p => s.nrgOn p && s.nrgRuns && !s.nrgAdopted).foldl (fun (x : State) p =>
    x.endCycle p (labelNs s.nrg.label / nsPerSec, labelNs s.nrg.label % nsPerSec) true none) s

/-! ### Snapshot (R318) -/

/-- The block of a point in a snapshot (Table NRG-3). -/
def State.snapBlock (s : State) (p : Nat) : List Word :=
  let x := s.nrgPt p
  let sq : DWord := BitVec.ofNat 64 x.seq
  [ place p 0 ||| placeB (s.nrgOn p) 2 ||| placeB x.unsettled 3 ||| placeB x.timedSeen 4 ||| placeB x.gap 5, lo32 sq, hi32 sq,
    w32 x.latchAt.1, place (x.latchAt.1 / 2 ^ 32 % 65536) 0, w32 x.latchAt.2 ] ++ List.replicate 10 0 ++
  (List.range 32).flatMap fun a =>
    let t := x.totals.getD a 0
    [lo32 t, hi32 t, place (x.wraps.getD a 0) 0 ||| placeB (s.regBit (Reg.nrgPtWrapSeen p) a) 8, 0]

/-- NRG_SNAPSHOT (R318). -/
def execNrgSnapshot (h : CmdHdr) (w1 : Word) (addr : BitVec 64) (len : Word) (s : State) : Answer :=
  .next (s.command h false fun _ x =>
    let pts := (List.range 4).filter fun p => flag w1 p
    let size := 64 + 576 * pts.length
    if pts.isEmpty then (x, .done { status := stBadArg })
    else if len.toNat < size then (x, .done { status := stBufSmall })
    else
      let hdr : List Word :=
        [place 0x52 0 ||| place (field w1 3 0) 8, w32 x.nowSec, place (x.nowSec / 2 ^ 32 % 65536) 0, w32 x.nowNs] ++ List.replicate 12 0
      let data := bytesOf (hdr ++ pts.flatMap x.snapBlock)
      let x1 := pts.foldl (fun (y : State) p => y.onPt p fun q =>
        { q with wraps := List.replicate 32 0, unsettled := false, timedSeen := false, gap := false }) x
      (x1, .done { status := stOk, length := size, data := data, addr := addr }))

/-- POINT_ENABLE (R309, R325). -/
def execPointEnable (p : Fin 4) (value : Word) (s : State) : Answer :=
  .next (if s.isSealed || !s.hostUp then s else s.writePoint p.val value)

/-- A memory error in NRG SRAM (R324). -/
def State.nrgError (s : State) (k : ErrKind) (point : Option Nat) : State :=
  match k, point with
  | .single, _ => s.inc Reg.nrgCeCnt
  | .double, some p => (s.restorePoint p).inc Reg.nrgUeCnt
  | .double, none => s.inc Reg.nrgUeCnt

/-! ### State region 0x1000 (R323); the order of its words is the model's own: DESIGN CHOICE (log 38) -/

/-- The words of one point in the region. -/
def State.pointRegion (s : State) (p : Nat) : List Word :=
  let x := s.nrgPt p
  (x.acc.flatMap fun a => [w32 a, w32 (a / 2 ^ 32), w32 (a / 2 ^ 64)]) ++ (x.totals.flatMap fun t => [lo32 t, hi32 t]) ++ x.wraps.map w32 ++
  [s.reg (Reg.nrgPtWrapSeen p)] ++ words2 x.seq ++ words2 x.latchAt.1 ++
  [w32 x.latchAt.2, w32 x.cycles, placeB x.armed 0 ||| placeB x.timedMode 1 ||| placeB x.timed 2 ||| placeB x.xprev.isSome 3, w32 x.since, x.vprev,
    x.xprev.getD 0, x.dq, w32 x.count] ++ x.sumV ++ x.sumI ++ x.g ++ x.cph ++ x.sph ++ x.sa

/-- Words of one point's region. -/
@[reducible] def pointRegionLen : Nat := 96 + 64 + 32 + 1 + 2 + 2 + 8 + 18

/-- The region: the last label, then the points. -/
def State.nrgRegion (s : State) : List Word := words2 s.nrg.label ++ (List.range 4).flatMap s.pointRegion

/-- A point as its region gives it. -/
def pointOfRegion (x : NrgPoint) (label : Nat) (ws : List Word) : NrgPoint :=
  let n2 (i : Nat) : Nat := (wordAt ws i).toNat + (wordAt ws (i + 1)).toNat * 2 ^ 32
  let fl := wordAt ws 199
  let three (i : Nat) : List Word := (ws.drop i).take 3
  { x with
    acc := (List.range 32).map fun a => n2 (3 * a) + (wordAt ws (3 * a + 2)).toNat * 2 ^ 64
    totals := (List.range 32).map fun a => BitVec.ofNat 64 (n2 (96 + 2 * a))
    wraps := (List.range 32).map fun a => (wordAt ws (160 + a)).toNat
    seq := n2 193, latchAt := (n2 195, (wordAt ws 197).toNat), cycles := (wordAt ws 198).toNat
    armed := flag fl 0, timedMode := flag fl 1, timed := flag fl 2, since := (wordAt ws 200).toNat, vprev := wordAt ws 201
    xprev := if flag fl 3 then some (wordAt ws 202) else none, dq := wordAt ws 203, count := (wordAt ws 204).toNat
    sumV := three 205, sumI := three 208, g := three 211, cph := three 214, sph := three 217, sa := three 220, adopted := some label }

/-- A STANDBY device adopts the region; a point whose latch sequence advances is written to NVM (R323). -/
def State.adoptNrg (s : State) (ws : List Word) : State :=
  let label := (wordAt ws 0).toNat + (wordAt ws 1).toNat * 2 ^ 32
  (List.range 4).foldl (fun (x : State) p =>
    let l := ws.drop (2 + pointRegionLen * p)
    let old := x.nrgPt p
    let y := (x.onPt p fun q => pointOfRegion q label l).setReg (Reg.nrgPtWrapSeen p) (wordAt l 192)
    let q := y.nrgPt p
    let y1 := (List.range 32).foldl (fun (z : State) a => z.setReg (Reg.nrgCnt p a) (lo32 (q.totals.getD a 0)))
      (y.setReg (Reg.nrgPtLatchCnt p) (w32 q.seq))
    if old.seq < q.seq then y1.nvmWrite (.bank p (y1.bankOf p q.totals q.seq)) else y1) s

end Sys2Proof.Machine
end

