-- ==== Sys2Proof/Machine/Cap.lean ====
section
/-! DEFINITION. The capture units and the cross-device bus (R330 to R347); the labels of the LMU and what they feed. -/
namespace Sys2Proof.Machine

/-! ### Setup -/

/-- Unit u. -/
def State.capUnit (s : State) (u : Nat) : CapUnit := s.cap.units.getD u {}
/-- Unit u rewritten. -/
def State.onUnit (s : State) (u : Nat) (f : CapUnit → CapUnit) : State := s.onCap fun c => { c with units := modifyAt c.units u f }
/-- Bit i of CAP_Uu_CFG. -/
def State.capFlag (s : State) (u i : Nat) : Bool := s.regBit (Reg.capUCfg u) i
/-- TRIG_SEL of unit u. -/
def State.capTrigSel (s : State) (u : Nat) : Nat := s.regField (Reg.capUCfg u) 16 11
/-- CAP_CFG.MASTER. -/
def State.capMaster (s : State) : Bool := s.regBit Reg.capCfg 7
/-- WIRE_NS. -/
def State.capWire (s : State) : Nat := s.regField Reg.capBus 15 0
/-- COL_DELAY_MS, 0 acting as 1. -/
def State.capColDelay (s : State) : Nat := max 1 (s.regField Reg.capColDelay 15 0)

/-- The selected channels of a WAVE unit, ascending. -/
def capChannels (sel : Word) : List Nat := (List.range 24).filter fun c => flag sel c
/-- Channels, furrows or elements of a row (Table CAP-1). -/
def capN (source : Nat) (sel : Word) : Nat :=
  match source with
  | 0 => (capChannels sel).length
  | 1 => field sel 19 16 + 1
  | _ => field sel 6 0
/-- Row bytes (Table CAP-1). -/
def capRowBytes (source : Nat) (sel : Word) : Nat :=
  match source with
  | 0 => 4 * (1 + capN 0 sel)
  | 1 => 16 + 128 * capN 1 sel
  | _ => 16 + 4 * capN 2 sel
/-- SEL lies in the range of Table CAP-1. -/
def capSelOk (source : Nat) (sel : Word) : Bool :=
  match source with
  | 0 => decide (0 < capN 0 sel)
  | 1 => decide (field sel 12 0 + capN 1 sel ≤ 8192)
  | 2 => decide (1 ≤ capN 2 sel) && decide (capN 2 sel ≤ 64)
  | _ => false

/-- Unit u can arm (R335). -/
def State.capArmOk (s : State) (u : Nat) : Bool :=
  let source := s.regField (Reg.capUCfg u) 1 0
  let sel := s.reg (Reg.capUSel u)
  let limit := if source = 0 then 204800 else 16 * s.fm
  let pre := (s.reg (Reg.capUPre u)).toNat
  let post := (s.reg (Reg.capUPost u)).toNat
  decide (source ≠ 3) && capSelOk source sel && decide (pre ≤ limit) && decide (1 ≤ post) && decide (post ≤ limit) &&
  s.regBit (Reg.capUBase u) 31 && decide ((pre + post) * capRowBytes source sel ≤ s.regField (Reg.capUBase u) 26 13 * 2097152)

/-- An IDLE unit arms (Table CAP-2); where the cycle timing of its mask test starts is a free value (R342, log 53). -/
def State.capArm (s : State) (u : Nat) (immediate : Bool) : State :=
  if (s.capUnit u).state ≠ .idle || !s.gate 37 then s
  else
    let (w, s1) := s.freeWord
    s1.onUnit u fun _ =>
      { state := .armed, source := s.regField (Reg.capUCfg u) 1 0, sel := s.reg (Reg.capUSel u)
        pre := (s.reg (Reg.capUPre u)).toNat, post := (s.reg (Reg.capUPost u)).toNat, immediate := immediate, xc := w }

/-! ### The record (R346, Table CAP-5) -/

/-- Rows before the trigger row. -/
def CapUnit.preGot (x : CapUnit) : Nat :=
  match x.trig.bind (·.placed) with
  | some p => p.1
  | none => x.rows.length
/-- The rows from the trigger row on, oldest first. -/
def CapUnit.postRows (x : CapUnit) : List CapRow := (x.rows.take (x.rows.length - x.preGot)).reverse

/-- The 32 words of the record header of unit u. -/
def State.capHeader (s : State) (u : Nat) : List Word :=
  let x := s.capUnit u
  let t : CapTrig := x.trig.getD { cause := 0, stamp := 0, tqPoor := false, refLock := false, refOffset := 0, align := 0, epoch := 0 }
  let pl := t.placed.getD (x.preGot, 0, 0)
  let post := x.postRows
  let viol := (List.range post.length).find? fun i => ((post[i]?).bind (·.viol)).isSome
  let v : Nat × Word := (viol.bind fun i => (post[i]?).bind (·.viol)).getD (0, 0)
  let ns := t.stamp / 65536
  let tick : DWord := BitVec.ofNat 64 pl.2.2
  let bytes := capRowBytes x.source x.sel
  [ place 0x61 0 ||| place u 8 ||| place x.source 11 ||| place t.cause 13 ||| placeB x.stopped 16 ||| placeB x.disarmed 17 ||| placeB x.stepped 18 |||
      placeB (decide (x.preGot < x.pre)) 19 ||| placeB t.tqPoor 20 ||| placeB t.refLock 21 ||| placeB viol.isSome 22 ||| placeB x.skipped 23,
    place (capN x.source x.sel) 0 ||| place bytes 16, w32 x.preGot, w32 post.length,
    w32 (ns / nsPerSec), place (ns / nsPerSec / 2 ^ 32 % 65536) 0, w32 (ns % nsPerSec), place (t.stamp % 65536) 0,
    w32 pl.2.1, lo32 tick, hi32 tick,
    (viol.map fun i => w32 (x.preGot + i)).getD 0xFFFFFFFF, w32 v.1, v.2, t.refOffset, t.align, w32 x.seq, t.epoch,
    w32 (x.rows.length * bytes), x.sel ] ++ List.replicate 12 0

/-- The bytes of the record of unit u. -/
def State.capRecord (s : State) (u : Nat) : List Byte :=
  bytesOf (s.capHeader u ++ (s.capUnit u).rows.reverse.flatMap (·.words))

/-- A capture that ends before its trigger row was written holds the last PRE rows (R334). Index and tick ID of that row are free values (log 99). -/
def State.capUnplaced (s : State) (u : Nat) : State :=
  if ((s.capUnit u).trig.bind (·.placed)).isSome then s
  else
    let (ws, s1) := s.freeWords 3
    s1.onUnit u fun x =>
      let rows := x.rows.take x.pre
      { x with
        rows := rows
        trig := x.trig.map fun t =>
          { t with placed := some (rows.length, (wordAt ws 0).toNat % 16384, (wordAt ws 1).toNat + (wordAt ws 2).toNat * 2 ^ 32) } }

/-- Unit u enters DONE: its number counts on and its notice is written (R346). -/
def State.capDone (s0 : State) (u : Nat) : State :=
  let s := s0.capUnplaced u
  let s1 := s.inc (Reg.capUSeq u)
  let s2 := s1.onUnit u fun x => { x with state := .done, seq := (s1.reg (Reg.capUSeq u)).toNat }
  if s.regBit Reg.capCfg 6 then
    s2.deliverOr (s.regField Reg.capCfg 5 0) 8 (bytesOf ((s2.capHeader u).take 16)) [0x61] Reg.capRingDropCnt
  else s2

/-! ### Triggers (R336, R339, R340, R343) -/

/-- REF_LOCK (R341). -/
def State.refLock (s : State) : Bool :=
  !s.capMaster && decide (s.cap.refs.length = 8) && s.cap.refs.all fun o => decide (o.natAbs ≤ s.regField Reg.capBus 31 16)

/-- The trigger row is row k of the kept rows, counted from the oldest: at most PRE rows stay before it (R334). -/
def CapUnit.placeAt (x : CapUnit) (k : Nat) : CapUnit :=
  let pre := min k x.pre
  match x.rows.reverse[k]? with
  | none => x
  | some r =>
    { x with
      rows := x.rows.take (x.rows.length - k + pre)
      trig := x.trig.map fun t => { t with placed := some (pre, r.index, r.tick) } }

/-- A trigger that waits for its row finds it: the first row whose instant is at or after its stamp (Table CAP-4). -/
def CapUnit.placeLate (x : CapUnit) : CapUnit :=
  match x.trig with
  | some t =>
    if t.placed.isSome then x
    else
      let old := x.rows.reverse
      match (List.range old.length).find? fun k => ((old[k]?).map fun r => decide (t.stamp ≤ r.stamp)).getD false with
      | some k => x.placeAt k
      | none => x
  | none => x

/-- A TRIGGERED unit ends with its POST rows, or with the first violation under STOP_ON_VIOL (R334, R343). -/
def State.capSettle (s : State) (u : Nat) : State :=
  let x := s.capUnit u
  if decide (x.state ≠ .triggered) || (x.trig.bind (·.placed)).isNone then s
  else
    let post := x.postRows
    let stop := if s.capFlag u 10 then (List.range post.length).find? fun i => ((post[i]?).bind (·.viol)).isSome else none
    let stops := (stop.map fun i => decide (i + 1 ≤ x.post)).getD false
    let last := if stops then (stop.getD 0) + 1 else x.post
    if last ≤ post.length then
      (s.onUnit u fun y => { y with rows := y.rows.drop (post.length - last), stopped := stops }).capDone u
    else s

/-- A pulse of unit u is owed, if the decision came at least 20 µs before its edge is due (R341). -/
def State.capOweFire (s : State) (u due : Nat) (long : Bool) : State :=
  if (s.tim.now + 20000) * 65536 ≤ due then s.onCap fun c => { c with fires := c.fires ++ [{ unit := u, due := due, long := long, seq := s.reg (Reg.capUSeq u) }] }
  else (s.onUnit u fun x => { x with skipped := true }).inc Reg.capFireSkipCnt

/-- Unit u, ARMED, takes a trigger (R339); any but one of the bus drives CAP_FIRE with FIRE_OUT (R341, R351). -/
def State.capTrigger (s : State) (u cause stamp : Nat) : State :=
  let x := s.capUnit u
  let point := s.capTrigSel u / 6
  let s1 := s.onUnit u fun y =>
    { y with
      state := .triggered
      trig := some
        { cause := cause, stamp := stamp, tqPoor := s.tqPoor, refLock := s.refLock
          refOffset := if s.capMaster then 0 else s.reg Reg.capRefOffset
          align := if x.source = 0 && decide (point < 4) then w32 (s.ptAlign point) else 0, epoch := s.gzl.epoch } }
  if s.capFlag u 6 && decide (cause ≠ 4) then
    s1.capOweFire u (stamp + (if x.source = 0 then 1250000 else s.capColDelay * 1000000) * 65536) (decide (x.source ≠ 0))
  else s1

/-- The crossing of Table CAP-3 between the last row and a valid value: where it lies between them, if it is one (R336, R340). -/
def State.capCrossing (s : State) (u : Nat) (x : CapUnit) (v : Option Word) : Option Word :=
  let thr := s.reg (Reg.capUThr u)
  let trig := s.regField (Reg.capUCfg u) 4 2
  match x.prev, v with
  | some x0, some x1 =>
    if (decide (trig = 1) || decide (trig = 3)) && x.low && fpLt x0 thr && fpLe thr x1 then some (fpDiv (fpSub thr x0) (fpSub x1 x0))
    else if (decide (trig = 2) || decide (trig = 3)) && x.high && fpGt x0 thr && fpGe thr x1 then some (fpDiv (fpSub x0 thr) (fpSub x0 x1))
    else none
  | _, _ => none

/-- The trigger that a row decides on an ARMED unit: cause and stamp (Tables CAP-3, CAP-4). `v` is the signal's value if valid, `quality` condition 5.
DESIGN CHOICE (log 52): of several on one row the unit takes the condition, then the mask, then IMMEDIATE. -/
def State.capDecide (s : State) (u : Nat) (x : CapUnit) (r : CapRow) (v : Option Word) (quality : Bool) : Option (Nat × Nat) :=
  let trig := s.regField (Reg.capUCfg u) 4 2
  match s.capCrossing u x v with
  | some frac =>
    if x.source = 0 then
      some (0, r.stamp - 78125 * 65536 + (fpFloor (fpMul frac (fpOfInt 256))).toNat * 78125 * 256)
    else some (0, r.stamp)
  | none =>
    if decide (trig = 4) && (v.map fun w => fpGe (fpAbs w) (s.reg (Reg.capUThr u))).getD false then some (1, r.stamp)
    else if decide (trig = 5) && quality then some (3, r.stamp)
    else if s.capFlag u 9 && r.viol.isSome then some (2, r.stamp)
    else if x.immediate && decide (x.pre ≤ x.count) then some (5, r.stamp)
    else none

/-- How far a trigger of the bus lies behind the moment it is decided, at most, in 1/65,536 ns (R341, Table CAP-4). -/
def State.capBack (s : State) : Nat := ((max 2 s.capColDelay) * 1000000 + s.capWire + 1200000) * 65536

/-- The rows kept while the trigger row is not known, newest first: those that a trigger of the bus can still reach, and PRE rows before them (R334, R339;
log 99). -/
def State.capKept (s : State) (x : CapUnit) (r : CapRow) : List CapRow :=
  let near := (r :: x.rows).takeWhile fun y => decide (r.stamp ≤ y.stamp + s.capBack)
  (r :: x.rows).take (near.length + x.pre)

/-- Unit u takes a row (R333, R336): while ARMED it may trigger on it, while TRIGGERED it may end with it. -/
def State.capRow (s : State) (u : Nat) (r : CapRow) (v : Option Word) (quality : Bool) : State :=
  let x := s.capUnit u
  let thr := s.reg (Reg.capUThr u)
  let hyst := s.reg (Reg.capUHyst u)
  let d := if x.state = .armed then s.capDecide u x r v quality else none
  let open_ := (x.trig.bind (·.placed)).isNone
  let s1 := s.onUnit u fun y =>
    { y with
      rows := if open_ then s.capKept y r else r :: y.rows
      count := y.count + 1, prev := v
      low := y.low || (v.map fun w => fpLe w (fpSub thr hyst)).getD false
      high := y.high || (v.map fun w => fpGe w (fpAdd thr hyst)).getD false }
  match d with
  | some (cause, stamp) => ((s1.capTrigger u cause stamp).onUnit u fun y => y.placeAt (y.rows.length - 1)).capSettle u
  | none => if x.state = .triggered then (s1.onUnit u CapUnit.placeLate).capSettle u else s1

/-- Unit u takes rows now: it is ARMED or TRIGGERED on this source. -/
def State.capTakes (s : State) (u source : Nat) : Bool :=
  let x := s.capUnit u
  (decide (x.state = .armed) || decide (x.state = .triggered)) && decide (x.source = source)

/-! ### WAVE rows and masks (R331, R342) -/

/-- The mask test of unit u at a label (R342): the unit's cycle timing after it, and the violation as index and value. -/
def State.capMask (s : State) (u : Nat) (row : List LmuSample) : CapUnit × Option (Nat × Word) :=
  let x := s.capUnit u
  if !s.capFlag u 8 then (x, none)
  else
    let n := fpOfInt x.seen
    let ref := row.getD (s.regField (Reg.capUCfg u) 31 27) {}
    let y := row.getD (s.regField (Reg.capUCfg u) 26 22) {}
    let x1 := match x.prevRef with
      | some p =>
        if ref.ok && fpLt p 0 && fpGe ref.y 0 then
          let xc := fpAdd (fpSub n fpOne) (fpDiv p (fpSub p ref.y))
          let len := fpSub xc x.xc
          { x with xc := xc, len := len, ready := fpGe len (fpOfInt 128) && fpLe len (fpOfInt 512) }
        else x
      | none => x
    let x2 := { x1 with ready := x1.ready && ref.ok, prevRef := if ref.ok then some ref.y else none }
    if x2.ready && y.ok then
      let i := min 255 (fpFloor (fpDiv (fpMul (fpOfInt 256) (fpSub n x2.xc)) x2.len)).toNat
      if fpGt y.y (s.reg (Reg.capUUpper u i)) || fpLt y.y (s.reg (Reg.capULower u i)) then (x2, some (i, y.y)) else (x2, none)
    else (x2, none)

/-- Unit u takes a label. -/
def State.capWave (s : State) (label : Nat) (row : List LmuSample) (u : Nat) : State :=
  if !s.capTakes u 0 then s
  else
    let (x0, viol) := s.capMask u row
    let x := { x0 with seen := x0.seen + 1 }
    let chans := capChannels x.sel
    let w0 := (List.range chans.length).foldl (fun (w : Word) i => if (row.getD (chans.getD i 0) {}).ok then w else w ||| bit i) 0
    let sel := s.capTrigSel u
    let y := row.getD sel {}
    let s1 := s.onUnit u fun _ => x
    let s2 := if viol.isSome then s1.inc (Reg.capUViolCnt u) else s1
    s2.capRow u
      { stamp := label * 78125 * 65536, index := label % labelRate, words := w0 :: chans.map fun c => (row.getD c {}).y, viol := viol }
      (if chans.contains sel && y.ok then some y.y else none) false

/-- The capture units take a label. -/
def State.capLabel (s : State) (label : Nat) (row : List LmuSample) : State := (List.range 8).foldl (fun x u => x.capWave label row u) s

/-- LMU_LABEL (R285): 1.1 ms after its instant a label is available to metering, capture and the estimator. -/
def execLmuLabel (bits : List (List Bool)) (s : State) : Answer :=
  match s.lmu.next with
  | none => .next s
  | some label =>
    if !s.awake || !s.gate 38 then .next s
    else
      let (s1, row) := (s.runTo (label * 78125 + 1100000)).lmuAdvance label bits
      .next ((s1.nrgLabel label row).capLabel label row)

/-- LOCAL_ESTIMATE (R298, R299); a late block goes to the archive (R268). -/
def execLocalEstimate (p : Fin 4) (s : State) : Answer := .next (s.localEstimate p.val fun x f tick cells => x.lateBlock f tick cells)

/-! ### CELL and DERIVED rows (R332) -/

/-- The header of a row of a column. -/
def State.capHead (s : State) (c : Column) (flags : Nat) : List Word :=
  let t : DWord := BitVec.ofNat 64 c.tick
  [lo32 t, hi32 t, s.soc c.sec, place c.index 0 ||| placeB c.flushed 8 ||| placeB c.safeIdle 9 ||| place flags 10]

/-- The reporting instant of a column in 1/65,536 ns. -/
def State.capInstant (s : State) (c : Column) : Nat := s.instantTime c.sec c.index * 65536

/-- Every CELL unit takes a closed column (R332: step 4 of R167). -/
def State.capCells (s : State) (c : Column) : State :=
  (List.range 8).foldl (fun (y : State) u =>
    if !y.capTakes u 1 then y
    else
      let x := y.capUnit u
      let first := field x.sel 12 0
      let n := capN 1 x.sel
      let sel := y.capTrigSel u
      let cell := c.cell (first + sel)
      let w := y.regField (Reg.capUCfg u) 21 17
      let v := wordAt cell.words w
      let ok := decide (w < 30) && qHas cell.qual (qFilled ||| qLateFill) && !qHas cell.qual qCorrupt && fpIsFinite v
      y.capRow u
        { stamp := y.capInstant c, index := c.index, tick := c.tick
          words := y.capHead c 0 ++ (List.range n).flatMap fun i => (c.cell (first + i)).all }
        (if ok then some v else none)
        (qHas cell.qual ((y.reg (Reg.capUQmask u)).setWidth 16))) s

/-- Every DERIVED unit takes its row of a column, from the CAP_SIGs that retired in it (R332); none on a device that does not run the schedule. -/
def State.capDerived (s : State) (c : Column) : State :=
  let sigs := s.cap.sigs
  let s0 := s.onCap fun x => { x with sigs := [] }
  if !s.runsSchedule then s0
  else (List.range 8).foldl (fun (y : State) u =>
    if !y.capTakes u 2 then y
    else
      let x := y.capUnit u
      let n := capN 2 x.sel
      let sig := (sigs.find? fun p => decide (p.1 = u)).map (·.2)
      let flags := match sig with
        | none => 4
        | some p => p.2.toNat
      let es := match sig with
        | some (e, f) => (List.range n).map fun i => if f ≠ 0 then fpNaN else e.getD i fpNaN
        | none => List.replicate n fpNaN
      let sel := y.capTrigSel u
      let v := wordAt es sel
      y.capRow u { stamp := y.capInstant c, index := c.index, tick := c.tick, words := y.capHead c flags ++ es }
        (if decide (sel < n) && decide (flags = 0) && fpIsFinite v then some v else none)
        (decide (flags &&& (y.regField (Reg.capUQmask u) 2 0) ≠ 0))) s0

/-- A CAP_SIG retires (R332). -/
def State.capSig (s : State) (u : Nat) (elems : List Word) (flags : BitVec 2) : State :=
  s.onCap fun c => { c with sigs := (c.sigs.filter fun p => decide (p.1 ≠ u)) ++ [(u, elems, flags)] }

/-- An error in capture staging (R338): an uncorrectable one replaces the data of a row, counted from the oldest kept. -/
def State.capError (s : State) (k : ErrKind) (u row : Nat) : State :=
  match k with
  | .single => s.inc Reg.capCeCnt
  | .double =>
    let x := s.capUnit u
    let head := if x.source = 0 then 1 else 4
    let bad (r : CapRow) : CapRow :=
      { r with words := modifyAt (r.words.take head) (head - 1) (fun w => w ||| (if x.source = 0 then bit 31 else bit 13)) ++
          List.replicate (r.words.length - head) fpNaN }
    (s.onUnit u fun y => { y with rows := (modifyAt y.rows.reverse row bad).reverse }).inc Reg.capUeCnt

/-! ### Time steps (R345) -/

/-- A time step or re-phase reaches the WAVE units. -/
def State.capStep (s : State) : State :=
  (List.range 8).foldl (fun (y : State) u =>
    let x := y.capUnit u
    if x.source ≠ 0 then y
    else match x.state with
      | .armed =>
        (y.onUnit u fun z => { z with rows := [], count := 0, low := false, high := false, prev := none, prevRef := none, ready := false }).inc
          (Reg.capURestartCnt u)
      | .triggered => (y.onUnit u fun z => { z with stepped := true }).capDone u
      | _ => y) s

/-! ### Commands (R333, R335, R337, R341, R344, R347) -/

/-- The units of a mask. -/
def capUnits (w1 : Word) : List Nat := (List.range 8).filter fun u => flag w1 u

/-- CAP_ARM (R335, R337, R341). -/
def execCapArm (h : CmdHdr) (w1 : Word) (s : State) : Answer :=
  .next (s.command h false fun _ x =>
    if flag w1 8 && !x.capMaster then (x, .done { status := stNotMaster })
    else if !(capUnits w1).all x.capArmOk then (x, .done { status := stBadArg })
    else
      let x1 := (capUnits w1).foldl (fun (y : State) u => y.capArm u (flag w1 9)) x
      (if flag w1 8 then x1.onCap fun c => { c with armPin := true } else x1, .done { status := stOk }))

/-- Unit u is disarmed or its capture ended (Table CAP-2, R344). -/
def State.capDisarm (s : State) (u : Nat) : State :=
  match (s.capUnit u).state with
  | .idle => s
  | .triggered => (s.onUnit u fun x => { x with disarmed := true }).capDone u
  | _ => (s.onUnit u fun x => { seq := x.seq }).onCap fun c =>
      { c with edge := c.edge.map fun e => { e with units := e.units.filter fun v => decide (v ≠ u) } }

/-- CAP_DISARM (R333, R341, R344). -/
def execCapDisarm (h : CmdHdr) (w1 : Word) (s : State) : Answer :=
  .next (s.command h false fun _ x =>
    if flag w1 8 && !x.capMaster then (x, .done { status := stNotMaster })
    else
      let x1 := (capUnits w1).foldl State.capDisarm x
      (if flag w1 8 then x1.onCap fun c => { c with armPin := false } else x1, .done { status := stOk }))

/-- CAP_READ (R347): `memErr` says that the read of LPDDR5 met an uncorrectable error. -/
def execCapRead (h : CmdHdr) (w1 offset length : Word) (addr : BitVec 64) (memErr : Bool) (s : State) : Answer :=
  .next (s.command h false fun c x =>
    let u := field w1 2 0
    if (x.capUnit u).state ≠ .done then (x, .done { status := stEmpty })
    else
      let rest := (x.capRecord u).drop offset.toNat
      if rest.isEmpty || decide (offset.toNat % 64 ≠ 0) then (x, .done { status := stBadArg })
      else if length.toNat < 64 then (x, .done { status := stBufSmall })
      else if memErr then (x.inc Reg.capUeCnt, .done { status := stMemError })
      else
        let data := if rest.length ≤ length.toNat then rest else rest.take (length.toNat / 64 * 64)
        let x1 := if flag w1 8 then x.onCap fun k => { k with releasing := k.releasing ++ [(c, u)] } else x
        x1.deliverLater c { status := stOk, length := data.length, data := data, addr := addr })

/-- A read with RELEASE has completed with OK: its unit returns to IDLE (R347). -/
def State.capRelease (s : State) (c : CmdRef) : State :=
  match s.cap.releasing.find? fun p => decide (p.1 = c) with
  | none => s
  | some p =>
    let s1 := s.onCap fun k => { k with releasing := k.releasing.erase p }
    if (s.capUnit p.2).state = .done then s1.capDisarm p.2 else s1

/-- LONG_COMMAND_COMPLETE (R404, R405): a REC_READ or CAP_READ ends its delivery and its completion is written. -/
def execLongCommandComplete (h : CmdHdr) (s : State) : Answer :=
  match s.hif.finishing.find? fun p => decide (p.1.ring = h.ring.val) && decide (p.1.tag = h.tag) with
  | none => .next s
  | some (c, r) => .next (((s.onHif fun x => { x with finishing := x.finishing.erase (c, r) }).finish c r).capRelease c)

/-! ### The bus (R341) -/

/-- CAP_ARM_EDGE (R341): on a device that is not master. -/
def execCapArmEdge (rising : Bool) (s : State) : Answer :=
  if s.capMaster || !s.awake || !s.gate 37 then .next s
  else
    let s1 := s.onCap fun c => { c with armPin := rising }
    let units := (List.range 8).filter fun u => s.capFlag u 5
    .next (if rising then (units.filter s.capArmOk).foldl (fun (y : State) u => y.capArm u false) s1
      else (units.filter fun u => decide ((s.capUnit u).state = .armed)).foldl State.capDisarm s1)

/-- CAP_FIRE has been high for at least 400 µs. -/
def State.fireReady (s : State) : Bool :=
  s.cap.driving.isNone && match s.cap.highAt with
    | none => true
    | some t => decide (t + 400000 ≤ s.tim.mono)

/-- FIRE_PIN: CAP_FIRE is low. -/
def State.fireLow (s : State) : Bool :=
  s.cap.driving.isSome || s.cap.edge.any (·.stays) || match s.cap.highAt with
    | none => false
    | some t => decide (s.tim.mono < t)

/-- Unit x still holds the capture that an owed pulse belongs to. -/
def State.capHolds (s : State) (x : CapUnit) (f : CapFire) : Bool :=
  match x.state with
  | .triggered => decide (s.reg (Reg.capUSeq f.unit) = f.seq)
  | .done => decide (w32 x.seq = f.seq + 1)
  | _ => false

/-- FIRE_DRIVE (R341): the pulse due next pulls CAP_FIRE low for 100 µs or 300 µs, or is skipped. -/
def execFireDrive (s : State) : Answer :=
  match minOf (s.cap.fires.map (·.due)) with
  | none => .next s
  | some d =>
    match s.cap.fires.find? fun f => decide (f.due = d) with
    | none => .next s
    | some f =>
      if !s.awake then .next s
      else
        let s1 := (s.runTo ((d + 65535) / 65536)).onCap fun c => { c with fires := c.fires.erase f }
        if s1.fireReady then
          let t := s1.tim.mono + (if f.long then 300000 else 100000)
          .next (s1.onCap fun c => { c with driving := some t, highAt := some t })
        else .next ((s1.onUnit f.unit fun x => if s1.capHolds x f then { x with skipped := true } else x).inc Reg.capFireSkipCnt)

/-- FIRE_RELEASE (R341). -/
def execFireRelease (s : State) : Answer :=
  match s.cap.driving with
  | none => .next s
  | some t => .next ((s.runToMono t).onCap fun c => { c with driving := none })

/-- CAP_FIRE_EDGE (R341, R365): the falling edge is timestamped for the ARMED units with FIRE_IN. -/
def execCapFireEdge (detect : Nat) (s : State) : Answer :=
  if !s.awake || !s.gate 37 || s.cap.edge.isSome then .next s
  else
    let units := (List.range 8).filter fun u => s.capFlag u 7 && decide ((s.capUnit u).state = .armed)
    let (w, s1) := s.freeWord
    .next (s1.onCap fun c =>
      { c with
        edge := some { stamp := s.tbReading detect * 1024, at_ := s.tim.mono, units := units, stays := c.driving.isNone && flag w 0 }
        highAt := if c.driving.isSome then c.highAt else some (s.tim.mono + 100000) })

/-- FIRE_SAMPLE (R341): 200 µs after the edge a pin still low marks a long pulse; the units take their trigger. -/
def execFireSample (high : Bool) (s : State) : Answer :=
  match s.cap.edge with
  | none => .next s
  | some e =>
    let s1 := (s.runToMono (e.at_ + 200000)).onCap fun c =>
      { c with edge := none, highAt := if high || c.driving.isSome then c.highAt else some (e.at_ + 300000) }
    let back := (if high then 1250000 else s.capColDelay * 1000000) + s.capWire
    .next ((e.units.filter fun u => decide ((s1.capUnit u).state = .armed)).foldl (fun (y : State) u =>
      ((y.capTrigger u 4 (e.stamp - back * 65536)).onUnit u CapUnit.placeLate).capSettle u) s1)

/-- CAP_REF_EDGE (R341): `stamp` is the detection time in 1/64 ns. DEDUCED (log 54): the offset is rounded to the nearest ns. -/
def execCapRefEdge (stamp : Nat) (s : State) : Answer :=
  if s.capMaster || !s.awake || !s.gate 37 then .next s
  else
    let t := (s.tbReading stamp + 32) / 64
    let near := (t + 5000000) / 10000000 * 10000000
    let off : Int := Int.ofNat t - Int.ofNat near - Int.ofNat s.capWire
    .next ((s.onCap fun c => { c with refs := (off :: c.refs).take 8 }).setReg Reg.capRefOffset (wInt off))

/-- CAP_REF as the master drives it (R341): rising at every multiple of 10 ms, 100 Hz square. -/
def State.capRefPin (s : State) : Bool := s.capMaster && decide (s.tim.now % 10000000 < 5000000)

/-- A write of CAP_CFG moves MASTER (R341): CAP_ARM is driven low by a new master, and released by a former one. -/
def State.capMasterChanged (s : State) (old new : Bool) : State :=
  if old = new then s else s.onCap fun c => { c with armPin := false }

end Sys2Proof.Machine
end

