-- ==== Sys2Proof/Machine/Tick.lean ====
section
/-! DEFINITION. The tick sequencer's column in process: overrun causes, the end of the compute window and of the state copy, grid instants, what
muting and a lost link do to it (R33 to R49, R427, R439, R440). -/
namespace Sys2Proof.Machine

/-! ### The output gate (R439) -/

/-- What follows a change of the output gate since `old`: a gate that closes discards queued output streams and GOOSE frames (R136) and stops the
pulse outputs (R322); one that opens lets them start afresh. -/
def State.gateFrom (s old : State) : State :=
  if old.gateOpen && !s.gateOpen then ((List.range 4).foldl State.purgeMuted s).pulsesMuted
  else if !old.gateOpen && s.gateOpen then s.pulsesUnmuted
  else s

/-! ### Causes (R44) -/

/-- An overrun cause of Table TCK-2 arises in the column in process. -/
def State.addCause (s : State) (i : Nat) : State :=
  match s.tck.proc with
  | none => s
  | some p => (s.onTck fun t => { t with proc := some { p with causes := p.causes ||| 2 ^ i } }).setBits Reg.tckOvrCause (bit i)

@[reducible] def causeLimit : Nat := 0
@[reducible] def causeRefusal : Nat := 1
@[reducible] def causeClock : Nat := 2
@[reducible] def causeCopy : Nat := 3
@[reducible] def causeSentDiscard : Nat := 4

/-- CORE or PLOT runs from a fallback during a compute window (Table TCK-2 bit 2). -/
def State.clockCause (s : State) : State :=
  match s.tck.proc with
  | some p => if p.windowEnd.isNone && s.clkFallback then s.addCause causeClock else s
  | none => s

/-! ### Early closes (R17, R40) -/

/-- Every due cell of a column that is waited for holds FILLED, and no cell has become ABSENT since its opening (R40, R174). -/
def Column.full (c : Column) : Bool :=
  c.cells.all fun p => qHas p.2.qual qFilled || c.unwaited.contains p.1 || (!c.due.contains p.1 && !qHas p.2.qual qAbsent)

/-- The column that closes next: the oldest open one (R17). -/
def State.nextToClose (s : State) : Option Column := s.openCols.head?

/-- The column that closes next meets the conditions of an early close but for its predecessor's state copy (R40). -/
def State.earlyReady (s : State) : Bool :=
  s.regBit Reg.tckCfg 1 && match s.nextToClose with
  | some c => c.emitted && c.full
  | none => false

/-! ### The end of a column (R43, R44, R427, R440) -/

/-- A record that is cut off when the slot of its column is released: what of it lies in the buffer, with TRUNCATED (R178). -/
def Writing.cut (w : Writing) : Completion :=
  { w.done with status := stTruncated, length := (w.done.data.take w.bytes).length, data := w.done.data.take w.bytes }

/-- The records under way, oldest first, in two parts: those still being written, and the completions of the others, each ring's in the order its records
were formed (R178, R404). `slots` are the columns whose slots are released. -/
def splitWriting (slots : Nat → Bool) : List Writing → List Writing → List Writing × List (Bool × Completion)
  | kept, [] => (kept, [])
  | kept, w :: rest =>
    if kept.any (fun k => decide (k.done.src = w.done.src)) || w.tick.any (fun t => !slots t) then splitWriting slots (kept ++ [w]) rest
    else
      let r := splitWriting slots kept rest
      (r.1, (w.tick.isSome, if w.tick.isSome then w.cut else w.done) :: r.2)

/-- The slots of columns are released, and the records of them that are still being written are cut off and counted (R158, R178). -/
def State.releaseSlots (s : State) : State :=
  let r := splitWriting s.slotReleased [] s.bsn.writing
  r.2.foldl (fun (x : State) c => (if c.1 then x.inc Reg.bsnOutTruncCnt else x).post (x.ringCq c.2.src) c.2) (s.onBsn fun b => { b with writing := r.1 })

/-- The role swap's step 1 at the end of the state copy of its column (R440): the device mutes and sends SWAP. -/
def State.swapSends (s : State) (tick : Nat) : State :=
  if s.gzl.swaps.any fun w => decide (w.tick = some tick) && !w.sent then
    ((s.onGzl fun g =>
      { g with swapMute := true, swaps := g.swaps.map fun w => if w.tick = some tick then { w with sent := true } else w }).sendSeq
      (.swap s.gzl.epoch (BitVec.ofNat 64 tick))).gateFrom s
  else s

/-- A column has ended with its causes: overrun if it had any (R44), else done if it ran to its end. -/
def State.countColumn (s : State) (p : Proc) (done : Bool) : State :=
  if p.causes ≠ 0 then ((s.onCol p.tick fun c => { c with overran := true }).inc Reg.tckOvrCnt).setReg Reg.tckLastOvr (w32 p.tick) else if done then s.inc Reg.tckDoneCnt else s

/-- The state copy of the column in process ends, and with it the column (R44, R158). -/
def State.endCopy (s : State) : State :=
  match s.tck.proc with
  | none => s
  | some p =>
    let s1 := (s.onCol p.tick fun c => { c with ended := true }).onTck fun t => { t with proc := none, phase := 2 }
    let s1 := s1.slackBegins.releaseSlots
    let s2 := s1.countColumn p true
    let s3 := s2.onTck fun t => { t with earlyWaiting := s2.earlyReady }
    s3.swapSends p.tick

/-- A state copy that cannot be made: the link is down (R427). -/
def State.skipCopy (s : State) : State := (s.inc Reg.gzlCopySkipCnt).endCopy

/-- The Dispatcher, the Plots and the engines fall idle: what waited in them for the column is dropped (R22). -/
def State.idleEngines (s : State) : State :=
  ((((s.onDpx fun d => { d with plots := [], held := [] }).onMod fun m => { m with queues := [[], [], [], []] }).onAlm fun a =>
    { a with sent := [], general := [] }).onTop fun t => { t with feeds := [] }).onCap fun c => { c with sigs := [] }

/-- The column in process is abandoned, the device having left ACTIVE (R22). A column with a cause counts as overrun (R44); DEDUCED (log 55): one without
counts neither as done nor as overrun. -/
def State.abandonColumn (s : State) : State :=
  match s.tck.proc with
  | none => s
  | some p =>
    let s1 := (s.onCol p.tick fun c => { c with ended := true }).onTck fun t => { t with proc := none, phase := 2 }
    let s2 := (s1.slackBegins.releaseSlots.countColumn p false).idleEngines
    s2.onTck fun t => { t with earlyWaiting := s2.earlyReady }

/-- The state copy phase begins (R427): the alarm region joins, then the TICK_END; a SOLO device's copy ends at once, and so does that of an
ACTIVE device whose link is down. -/
def State.beginCopy (s : State) : State :=
  match s.tck.proc with
  | none => s
  | some p =>
    if s.gzl.role = .solo then s.endCopy
    else if !s.gzl.linkUp then s.skipCopy
    else (s.sendRegion 0x0C00 (almRegion s.img s.alm)).sendTickEnd p

/-- The compute window ends (R18, R42): waiting alarm evaluations are made, DERIVED capture rows taken, the state copy begins. `cut` says that the overrun
limit ended it, so that the copy is not complete (R427). -/
def State.windowEnds (s : State) (cut : Bool) : State :=
  match s.tck.proc with
  | none => s
  | some p =>
    if p.windowEnd.isSome then s
    else
      let s1 := State.evaluateAll s.evalsWaiting s
      let s2 := match s1.column p.tick with
        | some c => s1.capDerived c
        | none => s1
      let cw := s.tim.now - p.closeAt
      let s3 := ((s2.setReg Reg.tckCwLast (w32 cw)).peak Reg.tckCwPeak cw).onTck fun t =>
        { t with phase := 1, proc := t.proc.map fun q => { q with windowEnd := some s.tim.now } }
      let s4 := if cut then s3.skipRegion else s3
      s4.beginCopy

/-- The link goes down (R424): the session ends, a copy in progress ends with it (R427), and a new exchange begins when it can. -/
def State.linkDown (s : State) (cause : Nat) : State :=
  let s1 := (s.sessionEnds cause).skipRegion
  let s2 := match s1.tck.proc with
    | some p => if s.gzl.linkUp && p.windowEnd.isSome && decide (s.gzl.role = Role.active) then s1.skipCopy else s1
    | none => s1
  s2.startHello

/-- The moment of the copy limit: close plus 0.98 T (R43). DESIGN CHOICE (log 90): on the timebase, as the close itself. -/
def State.copyLimitAt (s : State) (p : Proc) : Nat := p.closeAt + 98 * nsPerSec / (100 * s.fm)

/-- The moment of the overrun limit: close plus 0.90 T (R42). DESIGN CHOICE (log 90): the limits and TCK_CW_LAST are counted on the timebase, on which R40 puts
the close, so a time step within the window moves them. -/
def State.overrunAt (s : State) (p : Proc) : Nat := p.closeAt + 90 * nsPerSec / (100 * s.fm)

/-- A frame of the state copy of a tick. -/
def isCopyOf (tick : Nat) : LinkBody → Bool
  | .state b => decide (b.tick = BitVec.ofNat 64 tick)
  | .tickEnd b => decide (b.tick = BitVec.ofNat 64 tick)
  | _ => false

/-- The drain is abandoned (R43): what the link has not yet sent of it is dropped, and a TICK_END that says so tells the partner that the tick is not
complete. DEDUCED (log 56): also where a TICK_END that called it complete has been sent and is not acknowledged yet. -/
def State.abandonCopy (s : State) (p : Proc) : State :=
  ((s.onGzl fun g => { g with stalled := g.stalled.filter fun b => !isCopyOf p.tick b }).skipRegion).sendTickEnd p

/-- COPY_LIMIT (R43): the state copy of the column in process has not ended by its limit. -/
def execCopyLimit (s : State) : Answer :=
  match s.tck.proc with
  | none => .next s
  | some p =>
    if p.windowEnd.isNone || !s.awake then .next s
    else .next ((((s.runTo (s.copyLimitAt p)).addCause causeCopy).abandonCopy p).endCopy)

/-! ### The grid (R34 to R38) -/

/-- TICK_OUT is driven and follows grid instants (false) or closes (true). -/
def State.tickOut (s : State) (closes : Bool) : State :=
  if s.regBit Reg.timTickOut 0 && (s.regBit Reg.timTickOut 1 == closes) then s.onTim fun t => { t with tickRise := some t.now } else s

/-- The next grid instant is emitted with the next tick ID (R35, R36). -/
def State.emitInstant (s : State) : State :=
  let p := s.tck.nextInstant
  let n := s.tck.nextId
  let s1 := s.onTck fun t => { t with lastInstant := some p, nextId := n + 1, nextInstant := gridNext s.fm p }
  ((s1.onCol n fun c => { c with emitted := true }).owesEstimates p.1 p.2).tickOut false

/-- GRID_INSTANT (R35, R36): the timebase reaches the next grid instant. -/
def execGridInstant (s : State) : Answer :=
  if !s.gridOn || !s.awake then .next s
  else .next ((s.runTo (s.instantTime s.tck.nextInstant.1 s.tck.nextInstant.2)).emitInstant)

/-- COLUMN_OPEN (R158). -/
def execColumnOpen (s : State) : Answer := .next (execOpen s)

end Sys2Proof.Machine
end

