-- ==== Sys2Proof/Machine/Roles.lean ====
section
/-! DEFINITION. Roles of the redundant pair: claims and the epoch, yielding, takeover, resolution, ROLE_SET, the planned swap (R433 to
R440). -/
namespace Sys2Proof.Machine

/-- GZL_CFG.AUTO, 3 treated as 1 (R442). -/
def State.autoRole (s : State) : Nat := let a := s.regField Reg.gzlCfg 3 2; if a = 3 then 1 else a
/-- GZL_CFG.MISS_TICKS, values other than 2 to 64 acting as 3 (R442). -/
def State.missTicks (s : State) : Nat := let m := s.regField Reg.gzlCfg 14 8; if decide (2 ≤ m) && decide (m ≤ 64) then m else 3
/-- GZL_CFG.RESOLVE, 0 and 1 acting as 2 (R442). -/
def State.resolveTicks (s : State) : Nat := max 2 (s.regField Reg.gzlCfg 22 15)
/-- The Greaz link and the guy-lines run: from start-up step 13, on a device that uses them (R436, R486). -/
def State.pairRuns (s : State) : Bool := s.gzlOn && s.awake && decide (13 ≤ s.sys.step) && !s.sys.tampered && s.gate 45

/-- The CLOCK_HOLD record that the first completed start-up after a hold owes (R505). -/
def State.holdRecord (s : State) : State :=
  if s.aon.holdUnrecorded then s.event 0x0C02 clsWatch [w32 (field s.aon.holdCause 3 0)] { rtc := true } else s

/-- Step 13 of the start-up sequence ends once the role is resolved, and with it the sequence (R536). -/
def State.stepResolved (s : State) : State :=
  if s.sys.step = 13 && decide (s.gzl.role ≠ .resolving) then (s.onSys fun y => { y with step := 14 }).holdRecord else s

/-- The role becomes r, with its ROLE_CHANGE event (R436); a device that leaves ACTIVE or SOLO abandons the column in process (R22), and one that becomes
STANDBY holds no commit yet (R428). -/
def State.toRole (s : State) (r : Role) : State :=
  if s.gzl.role = r then s
  else
    let s1 := (s.onGzl fun g => { g with role := r }).event 0x0A04 clsNotice [w32 s.gzl.role.code, w32 r.code, s.gzl.epoch]
    let s2 := match r with
      | .standby => (s1.abandonColumn.onGzl fun g => { g with stateValid := false, swapMute := false, rx := [], rxBad := false }).onNrg fun n => { n with follows := true }
      | _ => s1
    s2.stepResolved

/-- The engines as on first activation of the image in force (R191, R241), for a STANDBY device that takes over without a commit. -/
def State.freshEngines (s : State) : State :=
  let a := s.img
  let s1 := s.onAlm fun m => { m with rules := [], templates := (templatesOf a).map fun t => (t, { stopped := (m.template t).stopped }), announce := templatesOf a }
  (s1.onTop fun t => { badBranches := t.badBranches, badNodes := t.badNodes, badCuts := t.badCuts, refSplit := t.refSplit, islands := t.islands }).reinitAll 0

/-- A claim of ACTIVE or SOLO (R434): the epoch rises above every epoch known, its NVM write is requested, and the device is muted until that write
completes. -/
def State.claimRole (s : State) (r : Role) : State :=
  let e := sat32 (max s.gzl.epoch.toNat s.gzl.partnerEpoch.toNat + 1)
  let s0 := if s.pwr.brace then s.nvmWrite (.epoch e) else s
  let s1 := (s0.onGzl fun g => { g with epoch := e, claim := some { role := r, epoch := e, held := s.pwr.brace }, swapMute := false }).toRole r
  let s2 := if s.gzl.role = .standby && !s.gzl.stateValid && s.imageActive then s1.freshEngines else s1
  s2.gateFrom s

/-- The write of a claimed epoch completes: it is in NVM and the device unmutes (R434). -/
def State.claimWritten (s : State) : State :=
  match s.gzl.claim with
  | none => s
  | some c => ((s.onNvm fun n => { n with epoch := c.epoch }).onGzl fun g => { g with claim := none, claimEpoch := some c.epoch }).gateFrom s

/-- EPOCH_WRITE_COMPLETE (R434, R523): the claimed epoch is in NVM and the device unmutes; one that brace holds comes with the release of the held writes. -/
def execEpochWriteComplete (s : State) : Answer :=
  .next (if s.awake && !(s.gzl.claim.any (·.held)) then s.claimWritten else s)

/-- ROLE_SWAPs in progress end, each with its result (R440). -/
def State.swapsEnd (s : State) (which : Swap → Bool) (result : Swap → CmdResult) : State :=
  (s.gzl.swaps.filter which).foldl (fun (x : State) w => x.finish w.ref (result w))
    (s.onGzl fun g => { g with swaps := g.swaps.filter fun w => !which w, swapMute := false })

/-- ROLE_SWAPs in progress end with STATE, RESULT0 the epoch. -/
def State.swapsFail (s : State) (which : Swap → Bool) : State := s.swapsEnd which fun _ => { status := stState, result := [s.gzl.epoch] }

/-- The ROLE_SWAPs whose SWAP was sent end with OK: the new epoch and the tick ID of column k + 1 (R440). -/
def State.swapsSucceed (s : State) : State :=
  s.swapsEnd Swap.sent fun w =>
    let k : DWord := BitVec.ofNat 64 (w.tick.getD 0 + 1)
    { status := stOk, result := [s.gzl.partnerEpoch, lo32 k, hi32 k] }

/-- The device becomes STANDBY and mutes; the ROLE_SWAPs in progress end. -/
def State.standDown (s : State) (swapOk : Bool) : State :=
  let s1 := s.toRole .standby
  ((if swapOk then s1.swapsSucceed else s1).swapsFail fun _ => true).gateFrom s

/-- A device yields (R435): YIELD, and it becomes STANDBY, its own epoch unchanged. -/
def State.yieldRole (s : State) (swapOk : Bool) : State :=
  (((s.event 0x0A05 clsWatch [s.gzl.epoch, s.gzl.partnerEpoch]).setBits Reg.gzlFault (bit 4)).inc Reg.gzlYieldCnt).standDown swapOk

/-- The partner's role and epoch are read from a valid heartbeat or HELLO (R434, R435, R437, R440). -/
def State.readPartner (s : State) (r : Role) (e : Word) : State := s.oneCycle fun s =>
  let s1 := s.onGzl fun g =>
    { g with
      partnerRole := r, partnerHeard := true
      partnerEpoch := if g.partnerEpoch.toNat < e.toNat then e else g.partnerEpoch }
  let own := s.gzl.epoch.toNat
  let s2 :=
    if decide (s.gzl.role ≠ .standby) && decide (own < e.toNat) then s1.yieldRole (decide (r = .active))
    else if (decide (s.gzl.role = .active) || decide (s.gzl.role = .resolving)) && decide (own = e.toNat) && decide (r = .active) && decide (s.unit = 1) then
      s1.yieldRole false
    else if s.gzl.role = .resolving && r = .active && s.autoRole ≠ 0 then s1.standDown false
    else s1
  s2.gateFrom s

/-- Takeover (R433): both guy-lines are lost and a STANDBY device with an active image claims ACTIVE. -/
def State.takeOver (s : State) : State := (s.inc Reg.gzlTakeoverCnt).claimRole .active

/-- The winner of a resolution (R437): the higher epoch, UNIT 0 on a tie. -/
def State.winner (s : State) : Bool :=
  decide (s.gzl.partnerEpoch.toNat < s.gzl.epoch.toNat) || (decide (s.gzl.partnerEpoch = s.gzl.epoch) && decide (s.unit = 0))

/-- Role resolution at the end of an interval (R437). -/
def State.resolveRole (s : State) : State :=
  let r := s.gzl.role
  if s.autoRole = 0 || (decide (r ≠ .resolving) && decide (r ≠ .standby)) then s
  else if s.resolveTicks ≤ s.gzl.heardRun then
    if s.winner then s.claimRole .active else if r = .resolving then s.standDown false else s
  else if decide (r = .resolving) && decide (s.autoRole = 2) && decide (s.resolveTicks ≤ s.gzl.silentRun) then s.claimRole .active
  else s

/-- One guy-line at the end of an interval (R433): the intervals in succession in which it was missed while the other one was received, and whether it is
lost. `other` says that the other one was received. -/
def State.guyLine (s : State) (b got other : Bool) : State :=
  let miss := if got || !other then 0 else (if b then s.gzl.missB else s.gzl.missA) + 1
  let lost := if b then s.gzl.lostB else s.gzl.lostA
  let data : List Word := [if b then 1 else 0]
  let set (x : State) (l : Bool) : State :=
    x.onGzl fun g => if b then { g with missB := miss, lostB := l, guyB := got } else { g with missA := miss, lostA := l, guyA := got }
  if got then
    if lost then (set s false).event 0x0A02 clsLog data else set s false
  else
    let s1 := s.inc (if b then Reg.gzlHbBMissCnt else Reg.gzlHbAMissCnt)
    if decide (s.missTicks ≤ miss) && !lost then
      ((set s1 true).setBits Reg.gzlFault (bit (if b then 1 else 0))).event 0x0A01 clsNotice data
    else set s1 lost

/-- The end of an interval (R433, R437): marks, lost guy-lines, takeover, resolution. -/
def State.intervalEnds (s : State) : State := s.oneCycle fun s =>
  let a := s.gzl.markA
  let b := s.gzl.markB
  let s1 := (s.guyLine false a b).guyLine true b a
  let none_ := !a && !b
  let both := if none_ then s.gzl.missBoth + 1 else 0
  let peer := decide (s.gzl.partnerRole = .standby) || decide (s.gzl.partnerRole = .resolving)
  let s2 := s1.onGzl fun g =>
    { g with
      markA := false, markB := false, missBoth := both
      lostBoth := none_ && (g.lostBoth || decide (s.missTicks ≤ both))
      heardRun := if !none_ && peer then g.heardRun + 1 else 0
      silentRun := if none_ then g.silentRun + 1 else 0 }
  let falls := s2.gzl.lostBoth && !s.gzl.lostBoth
  let s3 := if falls then (s2.setBits Reg.gzlFault (bit 2)).event 0x0A03 clsWatch [w32 s.gzl.role.code] else s2
  let s4 := if falls && decide (s.gzl.role = .standby) && s.imageActive then s3.takeOver else s3
  s4.resolveRole

/-- The next end of an interval (R432): the next grid instant while TCK_CFG.EN is 1, else the next multiple of 10 ms on the timebase. -/
def State.intervalEndAt (s : State) : Nat :=
  if s.gridOn then
    let p := gridAfter s.fm s.tim.now
    s.instantTime p.1 p.2
  else (s.tim.now / 10000000 + 1) * 10000000

/-- GUY_LINE_INTERVAL_END (R433, R437). -/
def execGuyLineIntervalEnd (s : State) : Answer :=
  if !s.pairRuns then .next s else .next ((s.runTo s.intervalEndAt).intervalEnds)

/-! ### ROLE_SET and ROLE_SWAP (R438, R440) -/

/-- ROLE_SET carried out: RESULT0 is the epoch after it. -/
def State.roleSet (s : State) (r : Role) : State × CmdResult :=
  let reply (x : State) (st : Nat) : State × CmdResult := (x, { status := st, result := [x.gzl.epoch] })
  if s.gzl.role = r then reply s stOk
  else if s.gzl.role = .solo then reply s stState
  else match r with
    | .solo => if s.gzlOn then reply s stState else reply (s.claimRole .solo) stOk
    | .active => if s.gzlOn then reply (s.claimRole .active) stOk else reply s stState
    | _ => if s.gzlOn then reply (s.standDown false) stOk else reply s stState

/-- ROLE_SET (R438). -/
def execRoleSet (h : CmdHdr) (role : BitVec 2) (s : State) : Answer :=
  .next (s.command h false fun _ x =>
    match role.toNat with
    | 0 => let p := x.roleSet .active; (p.1, .done p.2)
    | 1 => let p := x.roleSet .standby; (p.1, .done p.2)
    | 2 => let p := x.roleSet .solo; (p.1, .done p.2)
    | _ => (x, .done { status := stBadArg, result := [x.gzl.epoch] }))

/-- GZL_STATUS.IMAGE_MISMATCH: the partner's active serial differs. -/
def State.imageMismatch (s : State) : Bool :=
  match s.gzl.partnerSerial with
  | some w => decide (w ≠ s.activeSerial)
  | none => false

/-- The conditions under which a ROLE_SWAP proceeds (R440). -/
def State.swapOk (s : State) : Bool :=
  decide (s.gzl.role = .active) && s.gzl.linkUp && decide (s.gzl.partnerRole = .standby) && s.gzl.partnerStateValid && !s.imageMismatch &&
  !s.gzl.tickMismatch

/-- ROLE_SWAP (R440): a long command when it proceeds. -/
def execRoleSwap (h : CmdHdr) (s : State) : Answer :=
  .next (s.command h false fun c x =>
    if x.swapOk then (x.onGzl fun g => { g with swaps := g.swaps ++ [{ ref := c }] }, .long)
    else (x, .done { status := stState, result := [x.gzl.epoch] }))

/-- The swap at a close of column `tick` (R440): at the column after the one whose SWAP was sent, the device reclaims ACTIVE when it has read no partner
that did. -/
def State.swapAtClose (s : State) (tick : Nat) : State :=
  if s.gzl.swaps.any fun w => w.sent && (w.tick.any fun k => decide (k < tick)) then
    let s1 := s.claimRole .active
    ((s1.swapsFail Swap.sent).setBits Reg.gzlFault (bit 7)).event 0x0A09 clsNotice [s1.gzl.epoch]
  else s

/-- The column that the waiting swaps act on is the next one processed (R440 step 1). -/
def State.swapTakes (s : State) (tick : Nat) : State :=
  s.onGzl fun g => { g with swaps := g.swaps.map fun w => if w.sent then w else { w with tick := some tick } }

end Sys2Proof.Machine
end

