-- ==== Sys2Proof/Machine/Gzl.lean ====
section
/-! DEFINITION. What arrives on the Greaz link and the guy-lines, and what is due on them: lanes, HELLO, heartbeats, acknowledgement, the state copy
as the STANDBY device receives it (R421 to R433). -/
namespace Sys2Proof.Machine

/-! ### Lanes (R421, R424) -/

/-- Block lock of a lane set. -/
def State.setLane (s : State) (lane : Nat) (on : Bool) : State :=
  s.onGzl fun g => if lane = 0 then { g with lane0 := on } else { g with lane1 := on }

/-- LANE_LOCK (R424): the lane's SerDes is up from start-up step 11; the first lane to lock starts a HELLO exchange. -/
def execLaneLock (lane : Fin 2) (s : State) : Answer :=
  if !s.awake || !s.prt.serdes then .next s else .next (s.setLane lane.val true).startHello

/-- LANE_LOSS (R421, R424): the link goes on with the other lane; 10 µs without any it goes down. -/
def execLaneLoss (lane : Fin 2) (s : State) : Answer :=
  let s1 := s.setLane lane.val false
  if s1.lanes = 0 && decide (0 < s.lanes) then .next ((s1.run 10000).linkDown downLanes) else .next s1

/-- LINK_SILENCE (R424): 4 ms without a frame of any kind. -/
def execLinkSilence (s : State) : Answer :=
  if s.gzl.linkUp then .next (s.linkDown downSilence) else .next s

/-! ### Reception (R422, R425) -/

/-- The link can receive: the pair runs, a lane has block lock and the key unit serves (R421, R424). -/
def State.linkHears (s : State) : Bool := s.pairRuns && decide (0 < s.lanes) && s.keyUnitServes

/-- A frame whose tag passes and whose CTR counts on: its CTR is the last accepted one (R422). -/
def State.accept (s : State) (ctr : Nat) : State := s.onGzl fun g => { g with rxCtr := some ctr, badTags := 0 }

/-- A frame fails its tag (R422, R424): 16 in succession take the link down. -/
def State.tagFails (s : State) : State :=
  let s1 := ((s.inc Reg.gzlAuthErrCnt).setBits Reg.gzlFault (bit 6)).onGzl fun g => { g with badTags := g.badTags + 1 }
  if 16 ≤ s1.gzl.badTags && s1.gzl.linkUp then s1.linkDown downTags else s1

/-- A frame is received with its CTR: a stale one is discarded and counted (R422). The others are a job of the key unit (R477) under the key of R423; without
that key no tag passes. -/
def State.receive (s : State) (hello : Bool) (hdr : LinkHdr) (body : State → State) : State := s.oneCycle fun s =>
  if s.gzl.rxCtr.any fun c => decide (hdr.ctr ≤ c) then s.inc Reg.gzlReplayCnt
  else match s.frameKey hello with
    | (s1, none) => s1.tagFails
    | (s1, some _) => body ((s1.inc Reg.secJobCnt).accept hdr.ctr)

/-- LINK_FRAME_DISCARD (R422, R424): 16 consecutive tag failures take the link down. -/
def execLinkFrameDiscard (cause : DiscardCause) (s : State) : Answer :=
  if !s.linkHears then .next s
  else match cause with
    | .staleCtr => .next (s.inc Reg.gzlReplayCnt)
    | .unknownType => match s.frameKey (!s.gzl.linkUp) with
      | (s1, none) => .next s1.tagFails
      | (s1, some _) => .next (((s1.inc Reg.secJobCnt).inc Reg.gzlAuthErrCnt).onGzl fun g => { g with badTags := 0 })
    | .tag => match s.frameKey (!s.gzl.linkUp) with
      | (s1, none) => .next s1.tagFails
      | (s1, some _) => .next (s1.inc Reg.secJobCnt).tagFails

/-- An ACK of every frame applied (R425). -/
def State.ackNow (s : State) : State := (s.onGzl fun g => { g with unacked := 0 }).sendControl .ack

/-- A NAK of the first number missing (R425). -/
def State.nakNow (s : State) : State := (s.inc Reg.gzlNakCnt).sendControl .nak

/-- A sequenced frame in SEQ order is applied, and every sixteenth one acknowledged at once; a repeated one is acknowledged again; one ahead is discarded
with a NAK, once per gap (R425). -/
def State.sequenced (s : State) (hdr : LinkHdr) (apply : State → State) : State :=
  let q := hdr.seq.toNat
  if q = s.gzl.rxSeq + 1 then
    let s1 := apply (s.onGzl fun g => { g with rxSeq := q, rxGap := false, unacked := g.unacked + 1 })
    if 16 ≤ s1.gzl.unacked && s1.gzl.linkUp then s1.ackNow else s1
  else if q ≤ s.gzl.rxSeq then (s.inc Reg.gzlDupCnt).ackNow
  else if s.gzl.rxGap then s
  else (s.onGzl fun g => { g with rxGap := true }).nakNow

/-- A sequenced frame arrives in a session. -/
def State.receiveSeq (s : State) (hdr : LinkHdr) (apply : State → State) : State :=
  if s.linkHears && s.gzl.linkUp then s.receive false hdr fun x => x.sequenced hdr apply else s

/-! ### HELLO (R423, R424) -/

/-- The HELLO of this device (Table GZL-2). -/
def State.helloBody (s : State) : HelloBody :=
  { serial := Config.devSerial, unit := s.unit, session := s.gzl.session, epoch := s.gzl.epoch, role := s.gzl.role, imageSerial := s.activeSerial }

/-- HELLO_SEND (R424). -/
def execHelloSend (s : State) : Answer :=
  if s.gzl.hello && s.linkHears then .next (s.sendControl (.hello s.helloBody)) else .next s

/-- A HELLO is acknowledged and the session is up. DESIGN CHOICE (log 62): a HELLO with another SESSION while the link is up begins the sequence anew. -/
def State.hello (s : State) (b : HelloBody) : State :=
  let fresh := s.gzl.linkUp && decide (s.gzl.partnerSession ≠ b.session)
  let s1 := s.onGzl fun g =>
    let h := { g with hello := false, linkUp := true, partnerSession := b.session, partnerSerial := some b.imageSerial }
    if fresh then { h with txSeq := 1, rxSeq := 0, rxGap := false, unacked := 0, window := [], stalled := [], rx := [], rxBad := false } else h
  let s1 := if fresh then s1.onSec fun x => { x with jobs := x.jobs.filter fun j => !j.isLink } else s1
  let s2 := if s.gzl.linkUp then s1.sendControl .ack else (s1.sendControl .ack).event 0x0A07 clsLog [s.gzl.session, w32 s.lanes]
  s2.readPartner b.role b.epoch

/-- HELLO_RECEIVE (R423, R424, R434, R435). -/
def execHelloReceive (hdr : LinkHdr) (b : HelloBody) (s : State) : Answer :=
  if s.linkHears && (s.gzl.hello || s.gzl.linkUp) then .next (s.receive true hdr fun x => x.hello b) else .next s

/-! ### Heartbeats and tick numbering (R431, R432) -/

/-- The tick ID that the own numbering gives a grid instant (R36). -/
def State.ownTick (s : State) (sec index : Nat) : Int :=
  (s.tck.nextId : Int) + (Int.ofNat (sec * s.fm + index) - Int.ofNat (s.tck.nextInstant.1 * s.fm + s.tck.nextInstant.2))

/-- The partner's numbering of an instant (R431): a device with no active image that learns a higher tick ID takes it over; any other difference
shows. -/
def State.numbering (s : State) (sec index tick : Nat) : State :=
  let own := s.ownTick sec index
  if !s.gridOn then s
  else if !s.imageActive && decide (own < Int.ofNat tick) then
    let d := (Int.ofNat tick - own).toNat
    let s1 := (s.withdraw fun _ => true).onTck fun t => { t with nextId := t.nextId + d, openId := t.nextId + d, openInstant := t.nextInstant }
    (s1.inc Reg.gzlTickJumpCnt).onGzl fun g => { g with tickMismatch := false }
  else s.onGzl fun g => { g with tickMismatch := decide (own ≠ Int.ofNat tick) }

/-- What a HEARTBEAT frame says (R431, R433 to R435). -/
def State.heartbeat (s : State) (b : HeartbeatBody) : State :=
  let s1 := s.onGzl fun g => { g with markA := true, partnerSerial := some b.imageSerial, partnerStateValid := b.stateValid }
  let s2 := match (if b.hasInstant then s1.secondOf b.soc.toNat 0 else none) with
    | some sec => s1.numbering sec b.index b.tick.toNat
    | none => s1
  s2.readPartner b.role b.epoch

/-- HEARTBEAT_RECEIVE (R431 to R435). -/
def execHeartbeatReceive (hdr : LinkHdr) (b : HeartbeatBody) (s : State) : Answer :=
  if s.linkHears && s.gzl.linkUp then .next (s.receive false hdr fun x => x.heartbeat b) else .next s

/-- CRC-16 of the six bytes of bits 47:0 of a guy-line B word (R117, R432). -/
def guyCrc (low : Nat) : BitVec 16 := crc16 (leNat 6 low)

/-- The word of Table GZL-3. -/
def State.guyWord (s : State) : BitVec 64 :=
  let low := 0xA5 + s.gzl.role.code * 2 ^ 8 + s.unit * 2 ^ 10 + (if s.imageActive then 2 ^ 11 else 0) + s.gzl.epoch.toNat * 2 ^ 16
  BitVec.ofNat 64 (low + (guyCrc low).toNat * 2 ^ 48)

/-- The middle of an interval that comes next (R432). -/
def State.middleAt (s : State) : Nat :=
  if s.gridOn then
    let p := gridAfter s.fm s.tim.now
    let half := nsPerSec / (2 * s.fm)
    let t := s.instantTime p.1 p.2
    if s.tim.now + half < t then t - half else t + half
  else if s.tim.now % 10000000 < 5000000 then s.tim.now / 10000000 * 10000000 + 5000000 else (s.tim.now / 10000000 + 1) * 10000000 + 5000000

/-- The HEARTBEAT of this device: tick ID and grid instant of the last instant emitted (R431, Table GZL-2). -/
def State.heartbeatBody (s : State) : HeartbeatBody :=
  let p := s.tck.lastInstant.getD (0, 0)
  let has := s.gridOn && s.tck.lastInstant.isSome
  { role := s.gzl.role, epoch := s.gzl.epoch, tick := if has then BitVec.ofNat 64 (s.tck.nextId - 1) else 0, soc := if has then s.soc p.1 else 0
    index := if has then p.2 else 0, hasInstant := has, imageSerial := s.activeSerial, stateValid := s.gzl.stateValid }

/-- HEARTBEAT_SEND (R432): a HEARTBEAT frame while the link is up, and the word on HB_OUT. -/
def execHeartbeatSend (s : State) : Answer :=
  if !s.pairRuns then .next s
  else
    let s1 := s.runTo s.middleAt
    let s2 := if s1.gzl.linkUp then s1.sendControl (.heartbeat s1.heartbeatBody) else s1
    .next (s2.onGzl fun g => { g with hbOut := some s2.guyWord, hbAt := s2.tim.mono })

/-- The level of HB_OUT (R432, R569): at 10 Mb/s a start bit of 0, 64 bits, a stop bit of 1; high when idle, as from the start of any reset. -/
def State.hbOutPin (s : State) : Bool :=
  match s.gzl.hbOut with
  | none => true
  | some w =>
    let k := (s.tim.mono - s.gzl.hbAt) / 100
    if k = 0 then false else if k ≤ 64 then w.getLsbD (k - 1) else true

/-- The role of a code (Table GZL-3). -/
def roleOfCode (c : Nat) : Role := match c with
  | 0 => .active
  | 1 => .standby
  | 2 => .solo
  | _ => .resolving

/-- GUY_LINE_B_WORD (R432): a word counts when its CRC matches. -/
def execGuyLineBWord (word : BitVec 64) (s : State) : Answer :=
  let w := word.toNat
  if !s.pairRuns || decide (w % 256 ≠ 0xA5) || decide ((guyCrc (w % 2 ^ 48)).toNat ≠ w / 2 ^ 48) then .next s
  else .next ((s.onGzl fun g => { g with markB := true }).readPartner (roleOfCode (w / 2 ^ 8 % 4)) (w32 (w / 2 ^ 16)))

/-! ### Acknowledgement and retransmission (R425 to R427) -/

/-- Frames up to a number are acknowledged: the window frees, stalled frames follow, and with its TICK_END the state copy ends (R426, R427). -/
def State.acked (s : State) (seq : Nat) : State :=
  let s1 := s.onGzl fun g => { g with window := g.window.filter fun f => decide (seq < f.seq) }
  let s2 := State.pump s1.gzl.stalled.length s1
  match s2.tck.proc, s2.gzl.copy.tickEnd with
  | some p, some e => if p.windowEnd.isSome && decide (e ≤ seq) then s2.endCopy else s2
  | _, _ => s2

/-- ACK_RECEIVE (R426, R427). -/
def execAckReceive (hdr : LinkHdr) (s : State) : Answer :=
  if s.linkHears && s.gzl.linkUp then .next (s.receive false hdr fun x => x.acked hdr.seq.toNat) else .next s

/-- The unacknowledged frames from a number on are transmitted again (R426). -/
def State.retransmit (s : State) (seq : Nat) : State :=
  let fs := s.gzl.window.filter fun f => decide (seq ≤ f.seq)
  (s.linkTx (fs.map fun f => (w32 f.seq, f.body))).add Reg.gzlRetxCnt fs.length

/-- NAK_RECEIVE (R426). -/
def execNakReceive (hdr : LinkHdr) (s : State) : Answer :=
  if s.linkHears && s.gzl.linkUp then .next (s.receive false hdr fun x => x.retransmit hdr.seq.toNat) else .next s

/-- RETRANSMIT_TIMEOUT (R426): 50 µs without an ACK. -/
def execRetransmitTimeout (s : State) : Answer :=
  if s.linkHears && s.gzl.linkUp then .next (s.retransmit 0) else .next s

/-- ACK_SEND (R424, R425). -/
def execAckSend (s : State) : Answer :=
  if s.linkHears && s.gzl.linkUp then .next s.ackNow else .next s

/-- NAK_REPEAT (R425): while a number is missing. -/
def execNakRepeat (s : State) : Answer :=
  if s.linkHears && s.gzl.linkUp && s.gzl.rxGap then .next s.nakNow else .next s

/-! ### The state copy on the STANDBY device (R428) -/

/-- A STATE frame enters the receive buffer of a STANDBY device; the first of another tick begins afresh. -/
def State.takeState (s : State) (b : StateBody) (memErr : Bool) : State :=
  if s.gzl.role ≠ .standby then s
  else s.onGzl fun g =>
    let same := g.rx.all fun x => decide (x.tick = b.tick)
    { g with rx := (if same then g.rx else []) ++ [b], rxBad := memErr || (same && g.rxBad) }

/-- STATE_RECEIVE (R425, R428). -/
def execStateReceive (hdr : LinkHdr) (b : StateBody) (memErr : Bool) (s : State) : Answer :=
  .next (s.receiveSeq hdr fun x => x.takeState b memErr)

/-- Frames in ascending offset. -/
def insertFrame (b : StateBody) : List StateBody → List StateBody
  | [] => [b]
  | x :: xs => if b.offset ≤ x.offset then b :: x :: xs else x :: insertFrame b xs

/-- The words of a region among frames. -/
def regionWords (fs : List StateBody) (region : BitVec 16) : List Word :=
  ((fs.filter fun b => decide (b.region = region)).foldl (fun l b => insertFrame b l) []).flatMap (·.data)

/-- A region is copied to its place in the engine memories (R22, R205, R227, R243, R323); `shift` takes the partner's tick IDs to the own ones (R431). -/
def State.commitRegion (s : State) (shift : Int) (region : Nat) (ws : List Word) : State :=
  let a := s.img
  if region < 0x0400 then s.onMod fun m => { m with groups := mapSet m.groups region (groupOfRegion a region shift ws) }
  else if region < 0x0800 then s.onMod fun m => { m with slots := mapSet m.slots (mgSlot a (region - 0x0400)) (slotOfRegion ws) }
  else if region = 0x0800 then s.onTop fun t => topOfRegion a t ws
  else if region = 0x0C00 then s.onAlm fun m => almOfRegion a m ws
  else if region = 0x1000 then s.adoptNrg ws
  else s

/-- The own tick ID of the instant of a TICK_END: commits are keyed by grid instant where the numberings differ (R431). -/
def State.instantTick (s : State) (b : TickEndBody) : Nat :=
  match (if s.gzl.tickMismatch then s.secondOf b.soc.toNat 0 else none) with
  | some sec => (s.ownTick sec b.index).toNat
  | none => b.tick.toNat

/-- The tick's regions are committed (R428). -/
def State.commitTick (s : State) (fs : List StateBody) (b : TickEndBody) : State :=
  let regions := (fs.map (·.region)).eraseDups
  let s1 := regions.foldl (fun (x : State) r => x.commitRegion (Int.ofNat (s.instantTick b) - Int.ofNat b.tick.toNat) r.toNat (regionWords fs r)) s
  s1.onGzl fun g => { g with stateValid := true, stateTick := s.instantTick b, stateFrom := b.tick.toNat }

/-- Why a tick is not committed: flag, count, serial, memory, in the order of Table GZL-6; none when it is (R428). -/
def State.copyFault (s : State) (b : TickEndBody) (frames : Nat) (bad : Bool) : Option Nat :=
  if !b.complete then some 0
  else if frames ≠ b.frames then some 1
  else if b.imageSerial ≠ s.activeSerial then some 2
  else if bad then some 3
  else none

/-- A TICK_END on a STANDBY device: the tick is committed or discarded whole (R428). -/
def State.takeTickEnd (s : State) (b : TickEndBody) : State :=
  if s.gzl.role ≠ .standby then s
  else
    let fs := s.gzl.rx.filter fun x => decide (x.tick = b.tick)
    let s1 := s.onGzl fun g => { g with rx := [], rxBad := false }
    match s.copyFault b fs.length (s.gzl.rxBad && !fs.isEmpty) with
    | none => s1.commitTick fs b
    | some c => ((s1.inc Reg.gzlCopyIncCnt).setBits Reg.gzlFault (bit 5)).event 0x0A08 clsLog [lo32 b.tick, w32 c] { tick := some b.tick.toNat }

/-- TICK_END_RECEIVE (R425, R428). -/
def execTickEndReceive (hdr : LinkHdr) (b : TickEndBody) (s : State) : Answer := .next (s.receiveSeq hdr fun x => x.takeTickEnd b)

/-- An alarm record as the partner's is delivered: FROM_PARTNER set, SEQ unchanged (R234). -/
def fromPartner (ws : List Word) : List Word := setAt ws 0 (putFlag (wordAt ws 0) 21 true)

/-- ALARM_RECEIVE (R234, R430): only a STANDBY device delivers the records. -/
def execAlarmReceive (hdr : LinkHdr) (records : List (List Word)) (s : State) : Answer :=
  .next (s.receiveSeq hdr fun x => if x.gzl.role = .standby then records.foldl (fun (y : State) r => y.alarmToRing (fromPartner r)) x else x)

/-- SWAP_RECEIVE (R440): a STANDBY device that has committed the column claims ACTIVE. -/
def execSwapReceive (hdr : LinkHdr) (_epoch : Word) (tick : BitVec 64) (s : State) : Answer :=
  .next (s.receiveSeq hdr fun x =>
    if x.gzl.role = .standby && x.gzl.stateValid && decide (x.gzl.stateFrom = tick.toNat) then x.claimRole .active else x)

end Sys2Proof.Machine
end

