-- ==== Sys2Proof/Machine/Headgate.lean ====
section
/-! DEFINITION. The Headgate and the Flumes: lookup, checks, decoding, admission, rewind, Weirs (R110 to R129). -/
namespace Sys2Proof.Machine

/-! ### Flume levels and Weirs (R123, R129) -/

/-- Entries an item occupies: a header and four per furrow, or one for a mark (R123). -/
def FlumeItem.size : FlumeItem → Nat
  | .packet _ bs => 1 + 4 * (bs.map fun b => b.cells.length).sum
  | .mark _ => 1

/-- Flume n. -/
def State.flume (s : State) (n : Nat) : Flume := s.hdg.flumes.getD n {}
/-- Flume n rewritten. -/
def State.onFlume (s : State) (n : Nat) (f : Flume → Flume) : State :=
  s.onHdg fun h => { h with flumes := modifyAt h.flumes n f }
/-- A 32-byte entry of a Flume body (R123): a packet's header, one of the four of a furrow, or a spill mark. -/
inductive FlumeEntry where
  | header | cell (furrow part : Nat) | mark (count : Nat)
deriving DecidableEq, Repr

/-- The entries of an item, in the order they are written. -/
def FlumeItem.entries : FlumeItem → List FlumeEntry
  | .packet _ bs => .header :: bs.flatMap fun b => (List.range b.cells.length).flatMap fun j => (List.range 4).map fun k => .cell (b.furrow + j) k
  | .mark n => [.mark n]

/-- The 8-entry spout behind a body (R127): the oldest committed entries, each fallen forward to the first empty stage. DEDUCED (log 93): the level of Table
FLM-1 counts them too, so they are no state beside the items. -/
def Flume.spout (f : Flume) : List FlumeEntry := (f.items.flatMap FlumeItem.entries).take 8

/-- The entries a Flume holds. -/
def Flume.level (f : Flume) : Nat := (f.items.map FlumeItem.size).sum

/-- The level of Flume n rises from `old` to `new` by entry writes: peak and Weir see it (R129). -/
def State.levelRises (s : State) (n old new : Nat) : State :=
  let s1 := s.peak (Reg.flmPeak n) new
  let lv := s.regField (Reg.flmWeir n) 10 0
  if decide (lv ≠ 0) && (s.flume n).armed && decide (lv ≤ new) && decide (old < new) then
    let s2 := ((s1.onFlume n fun f => { f with armed := false }).inc (Reg.flmCrossCnt n)).setBits Reg.flmNotice (bit n)
    if s.regBit Reg.flmNotice n then s2 else s2.event 0x0301 clsNotice [w32 n, w32 (max lv (old + 1))]
  else s1

/-- The level of Flume n has fallen: the Weir re-arms below LEVEL − HYST, or at 0 when HYST ≥ LEVEL (R129). -/
def State.levelFell (s : State) (n : Nat) : State :=
  let lv := s.regField (Reg.flmWeir n) 10 0
  let hy := s.regField (Reg.flmWeir n) 26 16
  let now := (s.flume n).level
  if (decide (hy < lv) && decide (now + hy < lv)) || (decide (lv ≤ hy) && decide (now = 0))
  then s.onFlume n fun f => { f with armed := true } else s

/-! ### Decoding (R117, R118) -/

/-- The bytes of one block in a frame, by its stream table entry (R117). -/
def blockBytes (a : Img) (f : Nat) : Nat :=
  2 + stPhnmr a f * (if stPhFloat a f then 8 else 4) + (if stFrFloat a f then 8 else 4) +
  stAnnmr a f * (if stAnFloat a f then 4 else 2) + stDgnmr a f * 2

/-- FP32 of a signed 16-bit value. -/
def fpOfI16 (v : Nat) : Word := fpOfInt (signed 16 v)
/-- FP32 of the decimal constants of R118. -/
def fp00001 : Word := 0x38D1B717
def fp0001 : Word := 0x3A83126F
def fp001 : Word := 0x3C23D70A

/-- Phasor j of a block whose phasors start at an offset (R118). -/
def decodePhasor (a : Img) (f : Nat) (bs : List Byte) (off j : Nat) : Word × Word :=
  if stPhnmr a f ≤ j then (0, 0)
  else if stPhFloat a f then
    let x := w32 (ofBe (sub bs (off + 8 * j) 4))
    let y := w32 (ofBe (sub bs (off + 8 * j + 4) 4))
    if stPolar a f then (fpMul x (fpCos y), fpMul x (fpSin y)) else (x, y)
  else
    let x := be16 bs (off + 4 * j)
    let y := be16 bs (off + 4 * j + 2)
    let k := stPhScale a f j
    if stPolar a f then
      let mg := fpMul (fpOfInt x) k
      let an := fpMul (fpOfI16 y) fp00001
      (fpMul mg (fpCos an), fpMul mg (fpSin an))
    else (fpMul (fpOfI16 x) k, fpMul (fpOfI16 y) k)

/-- The cells of a block whose bytes start at an offset of the frame (R118). -/
def decodeCells (a : Img) (f : Nat) (bs : List Byte) (off : Nat) : List (List Word) :=
  let p0 := off + 2
  let f0 := p0 + stPhnmr a f * (if stPhFloat a f then 8 else 4)
  let a0 := f0 + (if stFrFloat a f then 8 else 4)
  let d0 := a0 + stAnnmr a f * (if stAnFloat a f then 4 else 2)
  let freq := if stFrFloat a f then w32 (ofBe (sub bs f0 4)) else fpAdd (stFnom a f) (fpMul (fpOfI16 (be16 bs f0)) fp0001)
  let rocof := if stFrFloat a f then w32 (ofBe (sub bs (f0 + 4) 4)) else fpMul (fpOfI16 (be16 bs (f0 + 2))) fp001
  let analog (k : Nat) : Word :=
    if stAnnmr a f ≤ k then 0
    else if stAnFloat a f then w32 (ofBe (sub bs (a0 + 4 * k) 4)) else fpMul (fpOfI16 (be16 bs (a0 + 2 * k))) (stAnScale a f k)
  let digital (d : Nat) : Nat := if stDgnmr a f ≤ d then 0 else be16 bs (d0 + 2 * d)
  (List.range (stLinks a f)).map fun c =>
    ((List.range 12).flatMap fun j => let p := decodePhasor a f bs p0 (12 * c + j); [p.1, p.2]) ++
    [freq, rocof] ++ ((List.range 4).map fun k => analog (4 * c + k)) ++
    [place (digital (2 * c)) 0 ||| place (digital (2 * c + 1)) 16]

/-- The nanosecond count of a fraction (R119). -/
def fractionNs (fraction base : Nat) : Nat := fraction * nsPerSec / base

/-- The blocks of a data frame, in order (R115, R118, R119). -/
def decodeBlocks (a : Img) (key : List Byte) (first : Nat) (bs : List Byte) (source : Nat) : Nat → List Nat → List Block
  | _, [] => []
  | off, f :: rest =>
    { furrow := f, cells := decodeCells a f bs off, stat := BitVec.ofNat 16 (be16 bs off),
      soc := ofBe (sub bs 6 4), ns := fractionNs (ofBe (sub bs 11 3)) (stTimeBase a f), flags := bs.getD 10 0,
      source := source, identity := 2 :: BitVec.ofNat 8 (f - first) :: key } ::
      decodeBlocks a key first bs source (off + blockBytes a f) rest

/-- The CHK of a frame (R117): CRC-CCITT over all bytes before it. -/
def chkOk (bs : List Byte) : Bool := decide ((crc16 (bs.take (bs.length - 2))).toNat = be16 bs (bs.length - 2))

/-! ### Lookup and admission (R113 to R117, R124 to R126) -/

/-- The Flume of a source and class (R13). -/
def flumeOf (source : Nat) (high : Bool) : Nat := if source = 8 then 8 else 2 * source + (if high then 0 else 1)

/-- A Headgate counter advances only for a frame that is good (R110). -/
def State.incIf (s : State) (good : Bool) (off : Nat) : State := if good then s.inc off else s

/-- A packet is admitted to Flume n, or dropped with the pending spill count advanced (R125, R126). Answers whether it was admitted. -/
def State.letIn (s : State) (n size : Nat) : State × Bool :=
  let f := s.flume n
  let need := size + (if 0 < f.pendingSpill then 1 else 0)
  if n = 8 || decide (need + f.level ≤ 2048) then (s, true)
  else ((s.inc (Reg.flmDropCnt n)).onFlume n fun x => { x with pendingSpill := min 65535 (x.pendingSpill + 1) }, false)

/-- A packet is committed behind the spill mark that is pending (R124, R125). -/
def State.commitPacket (s : State) (n : Nat) (blocks : List Block) : State :=
  let f := s.flume n
  let marks := if 0 < f.pendingSpill then [FlumeItem.mark f.pendingSpill] else []
  let items := f.items ++ marks ++ [.packet s.sch.switches blocks]
  let s1 := s.levelRises n f.level ((items.map FlumeItem.size).sum)
  (s1.onFlume n fun x => { x with items := items, pendingSpill := 0 }).inc Reg.hdgTakenCnt

/-- A packet that failed a check after admission is rewound: its entries, `written` of them, rose and fall again (R124, R129). -/
def State.rewindPacket (s : State) (n written : Nat) : State :=
  let lv := (s.flume n).level
  let mark := if 0 < (s.flume n).pendingSpill then 1 else 0
  ((s.levelRises n lv (lv + written + mark)).inc (Reg.flmRewindCnt n)).levelFell n

/-- What the Headgate found of a frame after admission (R117). -/
inductive AfterCheck where
  | good | short | chk | udp
deriving DecidableEq, Repr

/-- The entries written of a frame that ends after its first `have_` bytes. -/
def entriesWritten (a : Img) (have_ : Nat) : Nat → List Nat → Nat
  | _, [] => 0
  | off, f :: rest =>
    let next := off + blockBytes a f
    if next ≤ have_ then 4 * stLinks a f + entriesWritten a have_ next rest else 0

/-- A miss: logged and counted (R116, R146). -/
def State.missed (s : State) (good : Bool) (idcode source : Nat) : State :=
  if good then (s.inc Reg.hdgMissCnt).setReg Reg.hdgMissLog (place idcode 0 ||| place source 16 ||| bit 31) else s

/-- An error in the Headgate hash (R116): a set with an uncorrectable one misses until the next switch. -/
def State.hashError (s : State) (k : ErrKind) (q : Nat) : State :=
  match k with
  | .single => s.inc Reg.hdgCeCnt
  | .double => (s.onHdg fun h => { h with badSets := if h.badSets.contains q then h.badSets else h.badSets ++ [q] }).inc Reg.hdgUeCnt

/-- An error met by a lookup: one in a set of the hash. -/
def State.hashRead (s : State) (e : MemErr) : State :=
  match e.site with
  | .hashSet q => s.hashError e.kind q
  | _ => s

/-- The Headgate takes a payload of a stated length (rows 7 to 9 of Table HDG-1, R113 to R125). `good` is false for a frame later found to take row
1: it leaves no trace in the Headgate and is rewound if it was admitted (R110). `udpOk` is the judgement of the UDP checksum.
DESIGN CHOICE (log 90): a frame that ends before its IDCODE counts in HDG_LEN_ERR_CNT and makes no lookup; one that ends before its FRACSEC is looked up and, found in the
hash, counts there too and is not admitted (R116, R117). -/
def State.headgate (s : State) (payload : List Byte) (stated : Nat) (addr : List Byte) (sport source : Nat)
    (good udpOk : Bool) (errs : List MemErr) : State :=
  let bs := payload.take stated
  if stated < 16 || decide (bs.length < 6) then s.incIf good Reg.hdgLenErrCnt
  else if (bs.getD 1 0).toNat / 16 % 8 ≠ 0 then s.incIf good Reg.hdgNotDataCnt
  else
    let a := s.img
    let idcode := be16 bs 4
    let key := addr ++ beNat 2 sport ++ sub bs 4 2
    let set := hashSet key
    let unreadable := errs.any fun e => decide (e.kind = .double) && decide (e.site = .hashSet set)
    let s0 := if good then errs.foldl State.hashRead s else s
    match (List.range 4).find? fun w => hashValid a (4 * set + w) && decide (hashKey a (4 * set + w) = key) with
    | none => s0.missed good idcode source
    | some w =>
      if unreadable || s0.hdg.badSets.contains set then s0.missed good idcode source
      else
        let e := 4 * set + w
        let chain := hashChain a e
        let framesize := be16 bs 2
        let implied := 16 + (chain.map (blockBytes a)).sum
        if decide (framesize ≠ stated) || decide (framesize ≠ implied) || decide (bs.length < 14) then s0.incIf good Reg.hdgLenErrCnt
        else if chain.any fun f => decide (stTimeBase a f ≤ ofBe (sub bs 11 3)) then s0.incIf good Reg.hdgParseErrCnt
        else
          let n := flumeOf source (stHighPrio a (hashFurrow a e))
          let size := 1 + 4 * hashSpan a e
          match s0.letIn n size with
          | (s1, false) => s1
          | (s1, true) =>
            let check := if bs.length < stated then AfterCheck.short else if !chkOk bs then .chk else if !udpOk then .udp else .good
            if !good then s1.rewindPacket n (if bs.length < stated then 1 + entriesWritten a bs.length 14 chain else size)
            else match check with
              | .good => s1.commitPacket n (decodeBlocks a key (hashFurrow a e) bs source 14 chain)
              | .short => (s1.rewindPacket n (1 + entriesWritten a bs.length 14 chain)).inc Reg.hdgLenErrCnt
              | .chk => (s1.rewindPacket n size).inc Reg.hdgChkErrCnt
              | .udp => (s1.rewindPacket n size).inc Reg.hdgParseErrCnt

/-- The first two bytes of a payload are those of an accepted version (R111, R120). -/
def State.syncOk (s : State) (payload : List Byte) : Bool :=
  decide (payload.length ≥ 2) && decide (payload.getD 0 0 = 0xAA) &&
  (decide ((payload.getD 1 0).toNat % 16 = 2) || (s.regBit Reg.hdgCfg 0 && decide ((payload.getD 1 0).toNat % 16 = 1)))

/-- The entries of the largest packet that the hash in force permits (R126). -/
def largestPacket (a : Img) : Nat := 1 + 4 * maxOf ((hashEntries a).map (hashSpan a))

/-- A host injection (R120, R126): the Headgate takes the next host-injection descriptor when Flume 8 has room; the descriptor completes with OK, or with
DMA_ERROR when its frame could not be read (R404, R406). -/
def State.inject (s : State) (d : InjDesc) (errs : List MemErr) : State × Option CmdResult :=
  if 2048 < largestPacket s.img + 1 + (s.flume 8).level then (s, none)
  else if d.dmaErr then (s.inc Reg.hifDmaErrCnt, some { status := 0x16 })
  else
    let bs := d.frame
    if !s.syncOk bs then (s.inc Reg.hdgInjBadCnt, some { status := 0 })
    else (s.headgate bs (field (wordAt d.words 3) 15 0) (bytesOf ((d.words.drop 4).take 4)) (field (wordAt d.words 3) 31 16) 8 true true errs, some { status := 0 })

/-! ### The Basin writer's choice (R127) -/

/-- The first of a group of Flumes, after the one served last, whose spout holds something. -/
def nextOfGroup (fl : List Flume) (group : List Nat) (last : Nat) : Option Nat :=
  let order := group.filter (fun n => decide (last < n)) ++ group.filter (fun n => decide (n ≤ last))
  order.find? fun n => !(fl.getD n {}).spout.isEmpty

/-- The Flume the writer serves next: 0, 2, 4 and 6 before 1, 3, 5, 7 and 8, round-robin within each group (R127). -/
def State.nextFlume (s : State) : Option Nat :=
  (nextOfGroup s.hdg.flumes [0, 2, 4, 6] s.hdg.turnHigh).orElse fun _ =>
    nextOfGroup s.hdg.flumes [1, 3, 5, 7, 8] s.hdg.turnLow

/-- The item at the head of Flume n is read (R127, R129). The turn goes by packet: a spill mark uses none up. -/
def State.takeItem (s : State) (n : Nat) : State :=
  let high := decide (n % 2 = 0) && decide (n ≠ 8)
  let packet := match (s.flume n).items.head? with
    | some (.packet _ _) => true
    | _ => false
  ((s.onFlume n fun f => { f with items := f.items.drop 1 }).onHdg fun h =>
    if !packet then h else if high then { h with turnHigh := n } else { h with turnLow := n }).levelFell n

end Sys2Proof.Machine
end

