-- ==== Sys2Proof/Machine/Mem.lean ====
section
/-! DEFINITION. What a memory error does wherever it is found (R28, and the rules of the owning blocks), fences, and the Basin writer's
side of the Flumes (R122, R127, R128). -/
namespace Sys2Proof.Machine

/-! ### The schedule store (R28, R55, R64) -/

/-- The PITCH in progress ends with a result; its level raise is kept (R62). -/
def State.pitchEnds (s : State) (r : CmdResult) (switched : Bool) : State :=
  match s.sch.pitch with
  | none => s
  | some p => (s.onSch fun x => { x with pitch := none, lastSwitched := switched }).finish p.ref r

/-- The PITCH in progress is refused with a reason of Table SCH-4. -/
def State.pitchRefused (s : State) (reason : Nat) : State :=
  ((s.onSch fun x => { x with lastReason := reason }).pitchEnds { status := stRefused, detail := reason } false).event 0x0102 clsLog [w32 reason]

/-- An error in the schedule store (R64): a double one in the active image waits for the next close; one in the shadow ends a PITCH with LOAD_ERROR
or, in the verified previous image, clears SHADOW_VALID. DEDUCED (log 57): RAISING and ARMED count as VERIFYING does. -/
def State.schedError (s : State) (k : ErrKind) (active : Bool) : State :=
  match k with
  | .single => s.inc Reg.schCeCnt
  | .double =>
    let s1 := s.inc Reg.schUeCnt
    if active then s1.onSch fun x => { x with damaged := x.damaged || x.activeValid }
    else if s.sch.pitch.isSome then s1.pitchRefused 0x12
    else s1.onSch fun x => { x with shadowValid := false }

/-! ### Fences (R93, R97, R98) -/

/-- A fence of physical Plot p is registered for the next close (R97). -/
def State.fencePlot (s : State) (p : Nat) (poison : Bool) : State :=
  let m : BitVec 32 := 1 <<< p
  s.onDpx fun d => { d with fencePend := d.fencePend ||| m, pendCause := if poison then d.pendCause ||| m else d.pendCause &&& ~~~m }

/-- An unfence of physical Plot p is registered for the next close; it clears a fence whatever its cause (R97). -/
def State.unfencePlot (s : State) (p : Nat) : State :=
  let m : BitVec 32 := 1 <<< p
  s.onDpx fun d => { d with fencePend := d.fencePend &&& ~~~m, pendCause := d.pendCause &&& ~~~m }

/-- The sluice of physical Plot p is open (Table CLK-5). -/
def State.plotGate (s : State) (p : Nat) : Bool := s.gate (p + 1)

/-- FENCE_PLOT (R97): a Plot that will be fenced as registered so far is left as it is. -/
def execFencePlot (h : CmdHdr) (plot : Byte) (s : State) : Answer :=
  .next (s.command h false fun _ x =>
    if 31 < plot.toNat then (x, .done { status := stBadArg })
    else if x.dpx.fencePend.getLsbD plot.toNat then (x, .done { status := stOk })
    else (x.fencePlot plot.toNat false, .done { status := stOk }))

/-- UNFENCE_PLOT (R97, R98). DESIGN CHOICE (log 90): a closed sluice answers GATED also for a Plot that will already be unfenced, where R97 alone says OK. -/
def execUnfencePlot (h : CmdHdr) (plot : Byte) (s : State) : Answer :=
  .next (s.command h false fun _ x =>
    if 31 < plot.toNat then (x, .done { status := stBadArg })
    else if !x.plotGate plot.toNat then (x, .done { status := stGated })
    else if !x.dpx.fencePend.getLsbD plot.toNat then (x, .done { status := stOk })
    else (x.unfencePlot plot.toNat, .done { status := stOk }))

/-- DPX_FENCE_CAUSE (R99). -/
def State.fenceCause (s : State) : Word :=
  (s.dpx.pendCause &&& s.dpx.fencePend) ||| (s.dpx.effCause &&& s.dpx.fenceEff)

/-- An error in the local store of physical Plot p (R28, R93, R101): an uncorrectable one registers the Plot's fence. DESIGN CHOICE (log 90): DPX_FENCE_CAUSE
reads 1 for it also when the scrubber found it and no result is poisoned. -/
def State.storeError (s : State) (k : ErrKind) (p addr : Nat) : State :=
  match k with
  | .single => s.inc (Reg.pltCeCnt p)
  | .double =>
    (((s.inc (Reg.pltUeCnt p)).setReg Reg.pltUeLog (place (addr / 8 * 8) 0 ||| place p 18 ||| bit 31)).setReg Reg.pltUeTick
      (w32 ((s.tck.proc.map (·.tick)).getD (s.tck.lastClosed.getD 0)))).fencePlot p true

/-! ### Every site -/

/-- A memory error, whoever found it. -/
def State.memError (s : State) (e : MemErr) : State :=
  match e.site with
  | .cell slot f u => s.cellError e.kind slot f u
  | .stream f => s.streamError e.kind f false
  | .scale f => s.streamError e.kind f true
  | .runCounter f => s.runError e.kind f
  | .hashSet q => s.hashError e.kind q
  | .plotStore p a => s.storeError e.kind p a
  | .schedActive => s.schedError e.kind true
  | .schedShadow => s.schedError e.kind false
  | .flumeHeader => s.countErr e.kind Reg.flmCeCnt Reg.flmUeCnt
  | .flumeCell _ => s.countErr e.kind Reg.flmCeCnt Reg.flmUeCnt
  | .topBranch b => s.topError e.kind 0 b
  | .topNode n => s.topError e.kind 1 n
  | .topCut c => s.topError e.kind 2 c
  | .topState b => s.topError e.kind 3 b
  | .almRule r => s.almError e.kind false r
  | .almTemplate t => s.almError e.kind true t
  | .modState g => s.modError e.kind g false
  | .modDft g => s.modError e.kind g true
  | .prdMap f => s.prdError e.kind f
  | .arcStaging g => s.arcError e.kind g
  | .capStaging u row => s.capError e.kind u row
  | .nrgPoint p => s.nrgError e.kind (some p)
  | .nrgCurrent _ => s.nrgError e.kind none

/-- Memory errors, in the order found. -/
def State.memErrors (s : State) (errs : List MemErr) : State := errs.foldl State.memError s

/-! ### The Basin writer (R122, R127, R128) -/

/-- A block of a packet admitted under an earlier image is written only to furrows whose stream identity is unchanged (R122). Answers the
block to write, if one remains. -/
def State.sameStream (s : State) (b : Block) : Bool :=
  (List.range b.cells.length).all fun j =>
    decide (furrowIdentity s.img (b.furrow + j) = some (match b.identity with
      | k :: o :: key => k :: BitVec.ofNat 8 (o.toNat + j) :: key
      | l => l))

/-- A packet's blocks go to the Basin; late ones to the archive (R166, R268). -/
def State.writePacket (s : State) (n image : Nat) (blocks : List Block) (gap : Bool) : State :=
  let keep := blocks.filter fun b => decide (image = s.sch.switches) || s.sameStream b
  keep.foldl (fun (x : State) b =>
    match x.placeBlock b gap (x.blockPoor b) with
    | (y, none) => y
    | (y, some (tick, cells)) => y.lateBlock b.furrow tick cells)
    ((s.add Reg.hdgSwitchDiscCnt (blocks.length - keep.length)).onFlume n fun f => { f with gap := false })

/-- BASIN_WRITE (R127, R128): the writer reads the next packet or spill mark. DESIGN CHOICE (log 90): a spill mark with an uncorrectable error acts as one of count 1. -/
def execBasinWrite (errs : List MemErr) (s : State) : Answer :=
  match s.nextFlume with
  | none => .next s
  | some n =>
    if !s.awake then .next s
    else
      match (s.flume n).items.head? with
      | none => .next s
      | some item =>
        let s1 := (s.takeItem n).memErrors errs
        let lost := errs.any fun e => decide (e.kind = .double) && decide (e.site = .flumeHeader)
        let bad := errs.filterMap fun e => match e.kind, e.site with
          | .double, .flumeCell f => some f
          | _, _ => none
        let mark (k : Nat) : State := (s1.add (Reg.flmMarkCnt n) k).onFlume n fun f => { f with gap := true }
        match item with
        | .mark k => .next (mark (if lost then 1 else k))
        | .packet image blocks =>
          if lost then .next (mark 1)
          else .next (s1.writePacket n image (blocks.map fun b => { b with bad := bad.filter fun f => decide (b.furrow ≤ f) && decide (f < b.furrow + b.cells.length) })
            (s.flume n).gap)

end Sys2Proof.Machine
end

