-- ==== Sys2Proof/Machine/Vector.lean ====
section
/-! DEFINITION. The computing operations of the Plots (R80, R82, R90, Table DPX-6): results as pure functions of the operands. -/
namespace Sys2Proof.Machine

/-- Complex element i of a vector. -/
def cplxAt (xs : List Word) (i : Nat) : Word × Word := (wordAt xs (2 * i), wordAt xs (2 * i + 1))
/-- Element i of an argument that broadcasts its first element. -/
def bcastAt (xs : List Word) (bcast : Bool) (i : Nat) : Word × Word := cplxAt xs (if bcast then 0 else i)
/-- The multiply of VARITH. -/
def vMul (a b : Word × Word) : Word × Word :=
  (fpSub (fpMul a.1 b.1) (fpMul a.2 b.2), fpAdd (fpMul a.1 b.2) (fpMul a.2 b.1))
/-- The conjugate multiply of VARITH. -/
def vConjMul (a b : Word × Word) : Word × Word :=
  (fpAdd (fpMul a.1 b.1) (fpMul a.2 b.2), fpSub (fpMul a.2 b.1) (fpMul a.1 b.2))

/-- n complex elements as words. -/
def cplxWords (n : Nat) (f : Nat → Word × Word) : List Word := (List.range n).flatMap fun i => let p := f i; [p.1, p.2]

/-- The field of a cell that a GATHER extracts (Table DPX-6). -/
def gatherField (cell : List Word) (fld : Nat) : List Word :=
  if fld < 12 then [wordAt cell (2 * fld), wordAt cell (2 * fld + 1)]
  else if fld < 18 then [wordAt cell (fld + 12)]
  else match fld with
    | 18 => [w32 (field (wordAt cell 30) 15 0)]
    | 19 => [w32 (field (wordAt cell 30) 31 16)]
    | _ => [w32 (field (wordAt cell 31) 15 0)]

/-- GATHER: `cells` are the cells of its arguments in order. -/
def execGather (cells : List (List Word)) (p1 : Nat) : List Word :=
  (cells.flatMap fun c => gatherField c (p1 % 32)) ++
  (if p1 / 32 % 2 = 1 then cells.map fun c => w32 (field (wordAt c 31) 31 16) else [])

/-- VARITH. -/
def execVarith (n p1 : Nat) (a b : List Word) : List Word :=
  let bc := decide (p1 / 256 % 2 = 1)
  cplxWords n fun i =>
    let x := cplxAt a i
    let y := bcastAt b bc i
    match p1 % 4 with
    | 0 => (fpAdd x.1 y.1, fpAdd x.2 y.2)
    | 1 => (fpSub x.1 y.1, fpSub x.2 y.2)
    | 2 => vMul x y
    | _ => vConjMul x y

/-- VFMA. -/
def execVfma (n p1 : Nat) (a b c : List Word) : List Word :=
  let bc := decide (p1 / 256 % 2 = 1)
  cplxWords n fun i =>
    let x := cplxAt a i
    let y := bcastAt b bc i
    let z := cplxAt c i
    (fpFma x.1 y.1 (fpFma (fpNeg x.2) y.2 z.1), fpFma x.1 y.2 (fpFma x.2 y.1 z.2))

/-- ANGLE_DIFF. -/
def execAngleDiff (n p1 : Nat) (a b : List Word) : List Word :=
  let bc := decide (p1 / 256 % 2 = 1)
  (List.range n).map fun i =>
    let q := vConjMul (cplxAt a i) (bcastAt b bc i)
    fpAtan2 q.2 q.1

/-- MAG. -/
def execMag (n : Nat) (a : List Word) : List Word :=
  (List.range n).map fun i => let q := cplxAt a i; fpSqrt (fpAdd (fpMul q.1 q.1) (fpMul q.2 q.2))

/-- Two lane results that may be absent are combined, the first kept among equals. -/
def laneJoin (f : Word → Word → Word) : Option Word → Option Word → Option Word
  | none, y => y
  | x, none => x
  | some x, some y => some (f x y)

/-- One level of the fixed tree over lanes. -/
def lanePairs (f : Option Word → Option Word → Option Word) : List (Option Word) → List (Option Word)
  | x :: y :: rest => f x y :: lanePairs f rest
  | l => l

/-- The 16 lanes combined in the fixed tree of R90. -/
def laneTree (f : Option Word → Option Word → Option Word) (l : List (Option Word)) : Option Word :=
  ((lanePairs f (lanePairs f (lanePairs f (lanePairs f l)))).head?).join

/-- The values that lane l takes, of the passing elements. -/
def laneValues (n l : Nat) (pass : Nat → Bool) (v : Nat → Word) : List Word :=
  ((List.range n).filter fun i => decide (i % 16 = l) && pass i).map v

/-- The sum over lanes: each lane starts from +0.0. -/
def laneSum (n : Nat) (pass : Nat → Bool) (v : Nat → Word) : Word :=
  let lanes := (List.range 16).map fun l => some ((laneValues n l pass v).foldl fpAdd 0)
  (laneTree (laneJoin fpAdd) lanes).getD 0

/-- The least or greatest over lanes (R82). DESIGN CHOICE (log 90): the element that is least or greatest comes back as stored, a subnormal one too, while it is compared
as zero. -/
def laneBest (n : Nat) (pass : Nat → Bool) (v : Nat → Word) (f : Word → Word → Word) : Word :=
  let lanes := (List.range 16).map fun l => match laneValues n l pass v with
    | [] => none
    | x :: xs => some (xs.foldl f x)
  (laneTree (laneJoin f) lanes).getD fpNaN

/-- REDUCE: `mask` is the first word of its CONST argument. -/
def execReduce (n p1 : Nat) (a : List Word) (mask : Option Word) : List Word :=
  let kind := p1 % 4
  let cplx := decide (p1 / 4 % 2 = 1)
  let qin := decide (p1 / 8 % 2 = 1)
  let width := if cplx then 2 else 1
  let m := mask.getD 0x00200009
  let qual (i : Nat) : Word := wordAt a (width * n + i)
  let re (i : Nat) : Word := wordAt a (width * i)
  let im (i : Nat) : Word := wordAt a (2 * i + 1)
  let pass (i : Nat) : Bool :=
    fpIsFinite (re i) && (!cplx || fpIsFinite (im i)) &&
    (!qin || (decide (field (qual i) 15 0 &&& field m 15 0 ≠ 0) && decide (field (qual i) 15 0 &&& field m 31 16 = 0)))
  let count := ((List.range n).filter pass).length
  let value (v : Nat → Word) : Word :=
    if count = 0 then fpNaN
    else match kind with
      | 0 => laneSum n pass v
      | 1 => laneBest n pass v fpMin
      | 2 => laneBest n pass v fpMax
      | _ => fpDiv (laneSum n pass v) (fpOfInt count)
  [value re, if cplx then value im else 0, w32 count] ++ List.replicate 13 0

/-- FIR. -/
def execFir (n taps : Nat) (x h : List Word) : List Word :=
  (List.range n).map fun i => (List.range taps).foldl (fun acc k => fpFma (wordAt h k) (if k ≤ i then wordAt x (i - k) else 0) acc) 0

/-- THRESH. -/
def execThresh (n p1 : Nat) (x lim : List Word) : List Word :=
  let shared := decide (p1 % 2 = 1)
  let inside := decide (p1 / 2 % 2 = 1)
  (List.range n).flatMap fun i =>
    let v := wordAt x i
    let k := if shared then 0 else i
    let hi := wordAt lim (2 * k)
    let lo := wordAt lim (2 * k + 1)
    if !fpIsFinite v || fpIsNaN hi || fpIsNaN lo then [2, fpNaN]
    else if inside then [placeB (fpLe lo v && fpLe v hi) 0, fpMin (fpSub v lo) (fpSub hi v)]
    else [placeB (fpGt v hi || fpLt v lo) 0, fpMax (fpSub v hi) (fpSub lo v)]

/-- The result of a computing operation before its padding (Table DPX-6). -/
def computeOp (type n p1 : Nat) (args : List (List Word)) : List Word :=
  let arg (i : Nat) : List Word := args.getD i []
  match type with
  | 0x01 => execGather (pieces 32 (args.flatten.length / 32) args.flatten) p1
  | 0x02 => execVarith n p1 (arg 0) (arg 1)
  | 0x03 => execVfma n p1 (arg 0) (arg 1) (arg 2)
  | 0x04 => execAngleDiff n p1 (arg 0) (arg 1)
  | 0x05 => execMag n (arg 0)
  | 0x06 => execReduce n p1 (arg 0) ((args[1]?).map fun l => wordAt l 0)
  | 0x07 => execFir n p1 (arg 0) (arg 1)
  | _ => execThresh n p1 (arg 0) (arg 1)

end Sys2Proof.Machine
end

