-- ==== Sys2Proof/Machine/Dispatcher.lean ====
section
/-! DEFINITION. The Dispatcher and the Plots: releases, ready lists, work slots, retirements, hand-overs, engine jobs, the overrun limit
(R74 to R97, R188, R198 to R205, R225). -/
namespace Sys2Proof.Machine

@[reducible] def flagPoisoned : BitVec 2 := 1
@[reducible] def flagSkipped : BitVec 2 := 2

/-! ### Plots and lists (R76, R85, R96) -/

/-- The variant of the column in process. -/
def State.opVariant (s : State) : Nat := (s.tck.proc.map (·.variant)).getD 0
/-- Logical Plot p. -/
def State.plot (s : State) (p : Nat) : Plot := s.dpx.plots.getD p {}
/-- Logical Plot p rewritten by f. -/
def State.onPlot (s : State) (p : Nat) (f : Plot → Plot) : State := s.onDpx fun d => { d with plots := modifyAt d.plots p f }
/-- The physical Plot that serves logical Plot p (R96). -/
def State.physical (s : State) (p : Nat) : Nat := s.dpx.map.getD p 32
/-- The logical Plot that physical Plot q serves. -/
def State.logical (s : State) (q : Nat) : Option Nat := (List.range s.dpx.map.length).find? fun p => decide (s.physical p = q)

/-- The entries of a list that wait. -/
def Plot.waiting (x : Plot) : ReadyList → List Nat
  | .reserve => x.reserve
  | .sentinel => x.sentinel
  | .general => x.general

/-- The occupied entries of a list: an operation keeps its entry until it retires (R76, R91). DEDUCED (log 58). -/
def Plot.used (x : Plot) (l : ReadyList) : Nat :=
  (x.waiting l).length + (if x.executing.map (·.list) = some l then 1 else 0) + (if x.next.map (·.list) = some l then 1 else 0)

/-- The entries of a list of logical Plot p (Table DPX-4). -/
def listDepth (a : Img) (v p : Nat) : ReadyList → Nat
  | .reserve => field (readyWord a v p) 9 9
  | .sentinel => field (readyWord a v p) 3 0
  | .general => field (readyWord a v p) 8 4

/-- A list of logical Plot p has a free entry. -/
def State.hasRoom (s : State) (p : Nat) (l : ReadyList) : Bool := decide ((s.plot p).used l < listDepth s.img s.opVariant p l)

/-- The list that operation o enters: its Sentinel list, or its general list (LIST). -/
def opList (a : Img) (v o : Nat) : ReadyList := if opGeneral a v o then .general else .sentinel

/-- A prefetched operation of class Watch, Notice or Log goes back to its general list (R89). DESIGN CHOICE (log 90): to its front. -/
def Plot.displaced (x : Plot) (isSentinel : Nat → Bool) : Plot :=
  match x.next with
  | some w => if isSentinel w.op then x else { x with next := none, general := w.op :: x.general }
  | none => x

/-- Operation o enters a list of logical Plot p (R76, R89). DESIGN CHOICE (log 90): a list is first in, first out; the spec gives no order inside one (R75, R87). -/
def State.enterList (s : State) (p : Nat) (l : ReadyList) (o : Nat) : State :=
  let sent (q : Nat) : Bool := decide (opClass s.img s.opVariant q = 0)
  s.onPlot p fun x => match l with
    | .reserve => { x.displaced sent with reserve := x.reserve ++ [o] }
    | .sentinel => { x.displaced sent with sentinel := x.sentinel ++ [o] }
    | .general => { x with general := x.general ++ [o] }

/-! ### Arguments (R79, R88) -/

/-- The flags of argument i of operation o, none while it is not complete (R79). -/
def Dpx.argFlags (d : Dpx) (a : Img) (v o i : Nat) : Option (BitVec 2) :=
  match argKind a v o i with
  | 0 => mapGet d.done (argIndex a v o i)
  | 1 => (d.engineDone.find? fun e => decide (e.1 = (argEngine a v o i, argIndex a v o i))).map (·.2)
  | _ => some 0

/-- Every input of operation o is complete. -/
def Dpx.ready (d : Dpx) (a : Img) (v o : Nat) : Bool := (List.range (opArgs a v o)).all fun i => (d.argFlags a v o i).isSome

/-- The union of the flags of the inputs of operation o (R94). -/
def Dpx.inputFlags (d : Dpx) (a : Img) (v o : Nat) : BitVec 2 :=
  (List.range (opArgs a v o)).foldl (fun f i => f ||| (d.argFlags a v o i).getD 0) 0

/-- n words of the local store of physical Plot q from a byte address; words that nothing has written in the column are free values (R77, log 2). -/
def State.storeWords (s : State) (q addr n : Nat) : List Word × State :=
  let m := s.dpx.stores.getD q []
  let got := (List.range n).map fun i => mapGet m (addr / 4 + i)
  ((List.range n).map fun i => (got.getD i none).getD (Config.freeWord (s.free + i)),
    if got.all Option.isSome then s else { s with free := s.free + n })

/-- Words written to the local store of physical Plot q from a byte address. -/
def State.writeStore (s : State) (q addr : Nat) (ws : List Word) : State :=
  s.onDpx fun d =>
    { d with stores := modifyAt d.stores q fun m => (List.range ws.length).foldl (fun m i => mapSet m (addr / 4 + i) (wordAt ws i)) m }

/-- The words of an engine record by engine and job number (R83). -/
def engineWords (e job : Nat) : Nat :=
  if e = 0 then (if job < 0x0400 then 176 else 16) else if job = 0 then 80 else 16

/-- A cell of a column that the Basin does not hold (R79). -/
def missingCell : List Word := List.replicate 30 fpNaN ++ [0, 0x00040000]

/-- The cells that a CELL argument delivers (R79). -/
def State.cellArg (s : State) (tick back first count : Nat) : List Word :=
  let c := if tick < back then none else (s.column (tick - back)).filter (·.closed)
  (List.range count).flatMap fun i => match c with
    | some d => (d.cell (first + i)).all
    | none => missingCell

/-- Argument i of operation o as read on physical Plot q (R79). -/
def State.fetchArg (s : State) (q o i : Nat) : List Word × State :=
  let a := s.img
  let v := s.opVariant
  let e := argExtent a v o i
  match argKind a v o i with
  | 0 => let p := argIndex a v o i; s.storeWords q (opAddr a v p) (opLen a v p / 4)
  | 1 => s.storeWords q e.toNat (engineWords (argEngine a v o i) (argIndex a v o i))
  | 2 => (s.cellArg ((s.tck.proc.map (·.tick)).getD 0) (argBack a v o i) (argIndex a v o i) (field e 13 0), s)
  | _ => (secWords a secConst (v + 1) (field e 23 0) (16 * field e 31 24), s)

/-- The arguments of operation o from number i on. -/
def State.fetchArgs (s : State) (q o : Nat) : Nat → Nat → List (List Word) × State
  | 0, _ => ([], s)
  | n + 1, i =>
    let (ws, s1) := s.fetchArg q o i
    let (rest, s2) := State.fetchArgs s1 q o n (i + 1)
    (ws :: rest, s2)

/-- The bytes of the local store that argument i reads, as (address, length). -/
def argRange (a : Img) (v o i : Nat) : Nat × Nat :=
  match argKind a v o i with
  | 0 => (opAddr a v (argIndex a v o i), opLen a v (argIndex a v o i))
  | 1 => ((argExtent a v o i).toNat, 4 * engineWords (argEngine a v o i) (argIndex a v o i))
  | _ => (0, 0)

/-! ### Hand-overs (R80, R84, R94) -/

/-- Words padded with zeros to a multiple of 64 bytes. -/
def pad16Words (ws : List Word) : List Word := ws ++ List.replicate ((16 - ws.length % 16) % 16) 0

/-- An analytics output record (R83, R84, Table DPX-8) of the OUT_REC o. -/
def State.outRecord (s : State) (o : Nat) (payload : List Word) (flags : BitVec 2) (discarded : Bool) : State :=
  match s.tck.proc with
  | none => s
  | some p =>
    let a := s.img
    let t := opParam1 a p.variant o
    let tw (j : Nat) : Word := secWord a secTemplate 0 (16 * t + 4 * j)
    let n := opParam0 a p.variant o
    let early := ((s.column p.tick).map (·.early)).getD false
    let k : DWord := BitVec.ofNat 64 p.tick
    let header : List Word :=
      [ place 0x02 0 ||| place t 8 ||| placeB (decide (p.causes ≠ 0)) 16 ||| placeB (flags.getLsbD 0) 17 ||| placeB (flags.getLsbD 1) 18 |||
          placeB discarded 19 ||| place p.variant 20 ||| placeB early 22,
        lo32 k, hi32 k, s.soc p.sec, w32 p.index, tw 1, s.gzl.epoch, w32 (64 * n), w32 o ] ++ List.replicate 7 0
    match s.deliver (field (tw 0) 6 1) 3 (bytesOf (header ++ payload)) [0x02, lo32 k, hi32 k] with
    | (s1, true) => s1.inc Reg.dpxOutRecCnt
    | (s1, false) => s1.inc Reg.dpxOutDropCnt

/-- The payload of an OUT_REC: its arguments, each padded, those of `nan` replaced (R83, R84). -/
def outPayload (args : List (List Word)) (nan : Nat → Bool) : List Word :=
  (List.range args.length).flatMap fun i =>
    let ws := pad16Words (args.getD i [])
    if nan i then List.replicate ws.length fpNaN else ws

/-- A payload of nothing but 0x7FC0_0000. -/
def State.nanPayload (s : State) (o : Nat) : List Word := List.replicate (16 * opParam0 s.img s.opVariant o - 16) fpNaN

/-- A STATE_OUT hands its region to the link (R205, R227). -/
def State.stateOut (s : State) (region : Nat) : State :=
  let a := s.img
  if region < 0x0400 then
    s.sendRegion region (groupRegion a region ((mapGet s.mod.groups region).getD (freshGroup a region)))
  else if region < 0x0800 then
    s.sendRegion region (slotRegion ((mapGet s.mod.slots (mgSlot a (region - 0x0400))).getD {}))
  else s.sendRegion region (topRegion a s.top)

/-- A hand-over type hands over: its data, or its flags instead (R94). -/
def State.handOff (s : State) (o : Nat) (args : List (List Word)) (flags : BitVec 2) : State :=
  let a := s.img
  let v := s.opVariant
  let p1 := opParam1 a v o
  let data := if flags = 0 then args.getD 0 [] else []
  match opType a v o with
  | 0x09 => s.modHandOver p1 (data.take 36) flags
  | 0x0A => s.topHandOver p1 data flags
  | 0x0B => s.almHandOver { rule := p1, input := data, flags := flags }
  | 0x0C => if flags = 0 then s.stateOut p1 else s.skipRegion
  | 0x0E => s.capSig p1 (data.take (opParam0 a v o)) flags
  | _ => s

/-- An operation is a hand-over. -/
def isHandOver (t : Nat) : Bool := decide (0x09 ≤ t)

/-- Operation o has retired with flags (R94): the flags stay for its dependants and the column's alarm records. -/
def State.markRetired (s : State) (o : Nat) (flags : BitVec 2) : State :=
  s.onDpx fun d => { d with done := mapSet d.done o flags, columnFlags := d.columnFlags ||| flags }

/-- Operation o retires without a result: flagged (R94), skipped (R92) or poisoned (R93). `nan` tells which arguments of an OUT_REC are replaced. -/
def State.retireFlagged (s : State) (o : Nat) (flags : BitVec 2) (args : List (List Word)) (nan : Nat → Bool) : State :=
  let s1 := if opType s.img s.opVariant o = 0x0D then s.outRecord o (outPayload args nan) flags false else s.handOff o [] flags
  s1.markRetired o flags

/-! ### Releases (R86, R91, R92, R94) -/

/-- The successors of a retired operation that are now complete and not yet released. -/
def State.readySuccs (s : State) (o : Nat) : List Nat :=
  (opSuccList s.img s.opVariant o).filter fun q => s.dpx.ready s.img s.opVariant q && !s.dpx.entered.contains q

/-- An earlier release of the same engine or of the root list still waits (R91). -/
def State.behind (s : State) (src : ReleaseSource) : Bool :=
  match src with
  | .plot _ => false
  | _ => s.dpx.held.any fun h => decide (h.source = src)

/-- One release: answers the releases that it causes in turn. -/
def State.releaseOp (s : State) (r : Held) : State × List Held :=
  let a := s.img
  let v := s.opVariant
  let o := r.op
  let p := opPlot a v o
  if s.dpx.entered.contains o then (s, [])
  else
    let s1 := s.onDpx fun d => { d with entered := o :: d.entered }
    let flags := s1.dpx.inputFlags a v o
    let next (x : State) : State × List Held := (x, (x.readySuccs o).map fun q => { op := q, source := .plot p })
    if flags ≠ 0 then
      let isRec := decide (opType a v o = 0x0D)
      let (args, s2) := if isRec then s1.fetchArgs (s1.physical p) o (opArgs a v o) 0 else ([], s1)
      next ((s2.retireFlagged o flags args fun i => decide ((s1.dpx.argFlags a v o i).getD 0 ≠ 0)).inc Reg.pltFlagRetireCnt)
    else if opClass a v o ≠ 0 then
      if s1.behind r.source || !s1.hasRoom p .general then (s1.onDpx fun d => { d with held := d.held ++ [r] }, [])
      else (s1.enterList p .general o, [])
    else if s1.hasRoom p (opList a v o) then (s1.enterList p (opList a v o) o, [])
    else
      let s2 := (s1.inc Reg.tckRefuseCnt).addCause causeRefusal
      let q := opRefPlot a v o
      if opRefMode a v o = 2 && s2.hasRoom q .reserve then (s2.enterList q .reserve o, [])
      else if opType a v o = 0x0D then next ((s2.outRecord o (s2.nanPayload o) flagSkipped false).markRetired o flagSkipped)
      else next (s2.retireFlagged o flagSkipped [] fun _ => true)

/-- Releases are made in order, those they cause after them. -/
def State.releaseAll : Nat → List Held → State → State
  | 0, _, s => s
  | _ + 1, [], s => s
  | n + 1, r :: rest, s =>
    let (s1, more) := s.releaseOp r
    State.releaseAll n (rest ++ more) s1

/-- Releases from one source. Every release goes with an edge of the graph or a root, which bounds them. -/
def State.release (s : State) (ops : List Nat) (src : ReleaseSource) : State :=
  State.releaseAll (ops.length + 9 * imgOps s.img s.opVariant + 1) (ops.map fun o => { op := o, source := src }) s

/-- The held release that enters next: its list has room, and no earlier one of the same engine or root list waits (R91). -/
def State.heldDue (s : State) : Option Held :=
  let rec_ := s.dpx.held
  ((List.range rec_.length).find? fun i =>
    let h := rec_.getD i { op := 0, source := .root }
    s.hasRoom (opPlot s.img s.opVariant h.op) .general &&
    (match h.source with
    | .plot _ => true
    | src => !((rec_.take i).any fun e => decide (e.source = src)))).map fun i => rec_.getD i { op := 0, source := .root }

/-- Held releases enter as entries are free. -/
def State.drainHeld : Nat → State → State
  | 0, s => s
  | n + 1, s => match s.heldDue with
    | none => s
    | some h => State.drainHeld n ((s.onDpx fun d => { d with held := d.held.erase h }).enterList (opPlot s.img s.opVariant h.op) .general h.op)

/-- A prefetched operation starts when nothing executes and no release of the Plot waits (R88, R91). -/
def State.promote (s : State) (p : Nat) : State :=
  let x := s.plot p
  if x.executing.isNone && x.next.isSome && !(s.dpx.held.any fun h => decide (h.source = .plot p)) then
    s.onPlot p fun y => { y with executing := y.next, next := none }
  else s

/-- Every Plot that can starts its prefetched operation. -/
def State.promoteAll (s : State) : State := (List.range s.dpx.plots.length).foldl State.promote s

/-- The compute window ends with the last retirement (R18). -/
def State.checkWindow (s : State) : State :=
  match s.tck.proc with
  | some p => if p.windowEnd.isNone && decide (imgOps s.img p.variant ≤ s.dpx.done.length) then s.windowEnds false else s
  | none => s

/-- What follows a retirement on logical Plot p: held releases, then its own (R91), then the next start (R88). -/
def State.afterRetire (s : State) (o p : Nat) : State :=
  let s1 := State.drainHeld s.dpx.held.length s
  ((s1.release (s1.readySuccs o) (.plot p)).promoteAll).checkWindow

/-! ### OPERATION_START (R87, R88, R93) -/

/-- The entry that a free slot takes: reserve, then Sentinel, then general (R87). -/
def Plot.takeNext (x : Plot) : Option (Nat × ReadyList × Plot) :=
  match x.reserve, x.sentinel, x.general with
  | o :: r, _, _ => some (o, .reserve, { x with reserve := r })
  | [], o :: r, _ => some (o, .sentinel, { x with sentinel := r })
  | [], [], o :: r => some (o, .general, { x with general := r })
  | [], [], [] => none

/-- The reads of operation o met an uncorrectable error in the store: it retires POISONED and is not executed (R93). -/
def State.poisoned (s : State) (o p : Nat) (bad : Nat → Bool) (args : List (List Word)) : State :=
  (((s.inc Reg.pltPoisonCnt).retireFlagged o flagPoisoned args bad)).afterRetire o p

/-- The local-store addresses in which errors met by the reads of an operation are uncorrectable. -/
def storeHits (errs : List MemErr) : List Nat :=
  errs.filterMap fun e => match e.kind, e.site with
    | .double, .plotStore _ ad => some ad
    | _, _ => none

/-- Argument i of operation o lies where a read met an uncorrectable error. -/
def argHit (a : Img) (v o : Nat) (hits : List Nat) (i : Nat) : Bool :=
  let r := argRange a v o i
  hits.any fun ad => decide (r.1 ≤ ad) && decide (ad < r.1 + r.2)

/-- A Plot's free slot takes its next operation and fetches it. -/
def State.startOn (s : State) (p : Nat) (errs : List MemErr) : State :=
  let x := s.plot p
  if x.next.isSome then s
  else match x.takeNext with
    | none => s
    | some (o, l, y) =>
      let a := s.img
      let v := s.opVariant
      let q := s.physical p
      let s1 := (s.onPlot p fun _ => y).memErrors errs
      let hits := storeHits errs
      let (args, s2) := s1.fetchArgs q o (opArgs a v o) 0
      if !hits.isEmpty then s2.poisoned o p (argHit a v o hits) args
      else (s2.onPlot p fun z => { z with next := some { op := o, list := l, args := args } }).promote p

/-- The compute window of the column in process is open. -/
def State.windowOpen (s : State) : Bool :=
  match s.tck.proc with
  | some p => p.windowEnd.isNone && s.awake
  | none => false

/-- OPERATION_START (R87, R88). -/
def execOperationStart (plot : Fin 32) (errs : List MemErr) (s : State) : Answer :=
  match s.logical plot.val with
  | none => .next s
  | some p => if s.windowOpen then .next (s.startOn p errs) else .next s

/-! ### OPERATION_RETIRE (R80, R82) -/

/-- The result of a computing operation is delivered to every local store of its DEST_MASK (R78, R82). -/
def State.deliverResult (s : State) (o : Nat) (ws : List Word) : State :=
  let a := s.img
  let v := s.opVariant
  let n := opLen a v o / 4
  let out := (ws ++ List.replicate (n - ws.length) 0).take n
  ((List.range 32).filter fun l => flag (opDest a v o) l).foldl (fun (x : State) l => x.writeStore (x.physical l) (opAddr a v o) out) s

/-- An executing operation completes: its result or its hand-over. -/
def State.completeOp (s : State) (w : Work) : State :=
  let a := s.img
  let v := s.opVariant
  let t := opType a v w.op
  if t = 0x0D then s.outRecord w.op (outPayload w.args fun _ => false) 0 false
  else if isHandOver t then s.handOff w.op w.args 0
  else s.deliverResult w.op (computeOp t (opParam0 a v w.op) (opParam1 a v w.op) w.args)

/-- The operation that logical Plot p executes retires: with its result or hand-over, or POISONED when a read during execution met an uncorrectable
error (R80, R93). -/
def State.retireOn (s : State) (p : Nat) (w : Work) (errs : List MemErr) : State :=
  let hits := storeHits errs
  let s1 := (s.memErrors errs).onPlot p fun x => { x with executing := none }
  if hits.isEmpty then ((s1.completeOp w).markRetired w.op 0).afterRetire w.op p
  else s1.poisoned w.op p (argHit s.img s.opVariant w.op hits) w.args

/-- OPERATION_RETIRE (R80, R93): the operation that a Plot executes retires; `errs` are what its reads during execution met. -/
def execOperationRetire (x : RetireIn) (s : State) : Answer :=
  match s.logical x.plot.val with
  | none => .next s
  | some p => match (s.plot p).executing with
    | none => .next s
    | some w =>
      if s.windowOpen then .next (s.retireOn p w x.errs) else .next s

/-! ### Engine jobs (R198, R202, R204, R225) -/

/-- The arguments that consume a job, as (operation, argument). -/
def jobConsumers (a : Img) (v e job : Nat) : List (Nat × Nat) :=
  (List.range (imgOps a v)).flatMap fun o =>
    ((List.range (opArgs a v o)).filter fun i =>
      decide (argKind a v o i = 1) && decide (argEngine a v o i = e) && decide (argIndex a v o i = job)).map fun i => (o, i)

/-- A job completes: its record is written at the EXTENT of each consuming argument, where the consumer reads it (R79), its own Plot and that of its
refusal path, and its flags stay. -/
def State.jobDone (s : State) (e job : Nat) (rec_ : List Word) (flags : BitVec 2) : State :=
  let a := s.img
  let v := s.opVariant
  let s1 := (jobConsumers a v e job).foldl (fun (x : State) c =>
    let ad := (argExtent a v c.1 c.2).toNat
    let y := x.writeStore (x.physical (opPlot a v c.1)) ad rec_
    if opRefMode a v c.1 = 2 then y.writeStore (y.physical (opRefPlot a v c.1)) ad rec_ else y) s
  s1.onDpx fun d => { d with engineDone := d.engineDone ++ [((e, job), flags)] }

/-- The consumers of jobs are released (R86). -/
def State.releaseJobs (s : State) (e : Nat) (jobs : List Nat) : State :=
  let a := s.img
  let v := s.opVariant
  let ops := (jobs.flatMap fun j => (jobConsumers a v e j).map (·.1)).filter fun o => s.dpx.ready a v o && !s.dpx.entered.contains o
  (s.release ops (.engine e)).checkWindow

/-- Pipeline p completes a feed (R202, R204): the fit and, where the group has them, its eigenvalues become the results of their jobs. -/
def State.completeFeed (s : State) (p : Nat) (feed : ModFeed) : State :=
  let a := s.img
  let g := feed.group
  let r := (s.onMod fun m => { m with queues := modifyAt m.queues p fun q => q.erase feed }).processFeed feed false
  let fit := r.2.1
  let job2 := 0x0400 + g
  let n := (jobConsumers a s.opVariant 0 g).length + (jobConsumers a s.opVariant 0 job2).length
  let s1 := r.1.modBusy p (modCycles a g (!flag (wordAt fit 0) 24) (flag (wordAt fit 0) 22) (flag (wordAt (r.2.2.getD []) 0) 20) n)
  let s2 := s1.jobDone 0 g fit feed.flags
  match r.2.2 with
  | none => s2.releaseJobs 0 [g]
  | some f => (s2.jobDone 0 job2 f feed.flags).releaseJobs 0 [g, job2]

/-- MODAL_FEED_PROCESSED (R202, R204): the due pipeline completes one feed. -/
def execModalFeedProcessed (errs : List MemErr) (s : State) : Answer :=
  match s.dueFeed with
  | none => .next s
  | some (p, feed) => if s.windowOpen then .next ((s.memErrors errs).completeFeed p feed) else .next s

/-- The topology pass of a column (R225): its summary and its cuts become the results of their jobs. -/
def State.completePass (s : State) (tick passNs : Nat) : State :=
  let r := topPass s.img s.top s.fm tick
  let s1 := ({ s with top := r.top }).countPass r passNs
  let s2 := r.cuts.foldl (fun (x : State) c => x.jobDone 1 (0x0100 + c.1) c.2 0) (s1.jobDone 1 0 r.summary 0)
  s2.releaseJobs 1 (0 :: r.cuts.map fun c => 0x0100 + c.1)

/-- TOPOLOGY_PASS (R225): the pass of the column in process completes in `passNs`. -/
def execTopologyPass (passNs : Nat) (errs : List MemErr) (s : State) : Answer :=
  match s.tck.proc with
  | none => .next s
  | some p => if s.passDue && s.windowOpen then .next ((s.memErrors errs).completePass p.tick passNs) else .next s

/-! ### The overrun limit (R42, R95, R203) -/

/-- The operations of the column that have not retired. -/
def State.unretired (s : State) : List Nat :=
  (List.range (imgOps s.img s.opVariant)).filter fun o => (mapGet s.dpx.done o).isNone

/-- A topology pass under way at the limit completes; its jobs are discarded (R226). How long it has taken is a free value (log 2). -/
def State.lastPass (s : State) : State :=
  match s.tck.proc with
  | none => s
  | some p =>
    if s.passDue then
      let r := topPass s.img s.top s.fm p.tick
      let (took, s1) := s.freeWord
      ({ s1 with top := r.top }).countPass r took.toNat
    else s

/-- Everything unretired is discarded and the compute window ends (R42, R84, R95, R203). A discarded ALM_EVAL holds its rule (R45). -/
def State.overrun (s : State) : State :=
  let a := s.img
  let v := s.opVariant
  let rest := s.unretired
  let s1 := ((s.addCause causeLimit).add Reg.tckDiscardCnt rest.length).add Reg.almHeldCnt
    (rest.filter fun o => decide (opType a v o = 0x0B)).length
  let s2 := if rest.any fun o => decide (opClass a v o = 0) then s1.addCause causeSentDiscard else s1
  let s3 := (rest.filter fun o => decide (opType a v o = 0x0D)).foldl (fun (x : State) o => x.outRecord o (x.nanPayload o) 0 true) s2
  let s4 := (s3.onDpx fun d => { d with plots := d.plots.map fun _ => {}, held := [] }).modOverrun v |>.lastPass
  s4.windowEnds true

/-- OVERRUN_LIMIT (R42): close plus 0.90 T with operations unretired. -/
def execOverrunLimit (s : State) : Answer :=
  match s.tck.proc with
  | some p => if s.windowOpen then .next ((s.runTo (s.overrunAt p)).overrun) else .next s
  | none => .next s

/-! ### A column begins (R77, R86, R96) -/

/-- The column in process begins on the Plots of a map: the root operations are released in list order (R86). -/
def State.beginOps (s : State) (v : Nat) (map : List Nat) : State :=
  let s1 := s.onDpx fun d =>
    { d with
      map := map, plots := List.replicate (variantPlots v) {}, done := [], engineDone := [], entered := [], held := []
      stores := List.replicate 32 [], columnFlags := 0 }
  (s1.release (rootList s.img v) .root).checkWindow

end Sys2Proof.Machine
end

