-- ==== Sys2Proof/Machine/Ptp.lean ====
section
/-! DEFINITION. Timestamps, the error estimate, the states of the timebase, source selection and PTP messages (R360 to
R372). -/
namespace Sys2Proof.Machine

/-! ### Timestamps (R365): in units of 1/65,536 ns -/

/-- Ingress constant of a port mode, fs (Table TIM-4). -/
def ingressFs (speed fec : Nat) : Int :=
  match speed, fec with
  | 3, 0 => 92600000
  | 3, 1 => 186400000
  | 3, _ => 342700000
  | 2, 0 => 148200000
  | 2, _ => 384500000
  | _, _ => 336000000

/-- Egress constant of a port mode, fs (Table TIM-4). -/
def egressFs (speed fec : Nat) : Int :=
  match speed, fec with
  | 3, 0 => 71300000
  | 3, 1 => 113200000
  | 3, _ => 161900000
  | 2, 0 => 112500000
  | 2, _ => 201000000
  | _, _ => 248000000

/-- Alignment unit of a port mode, fs (Table TIM-4). -/
def alignFs (speed : Nat) : Int :=
  match speed with
  | 3 => 38787
  | 2 => 96970
  | _ => 800000

/-- fs rounded to the nearest 1/65,536 ns (R365). -/
def fsToStamp (fs : Int) : Int := (fs * 65536 * 2 + 1000000) / 2000000

/-- RX_NS of port n, signed. -/
def State.rxNs (s : State) (n : Nat) : Int := signed 16 (s.regField (Reg.timPortDly n) 15 0)
/-- TX_NS of port n, signed. -/
def State.txNs (s : State) (n : Nat) : Int := signed 16 (s.regField (Reg.timPortDly n) 31 16)

/-- The ball time of an ingress detection, given in 1/64 ns, with the PCS position b (R365). -/
def State.ingressBall (s : State) (n detect b : Nat) : Int :=
  s.tbStamp <| fsToStamp ((s.tbReading detect : Int) * 15625 - ingressFs (s.speed n) (s.fec n) - (b : Int) * alignFs (s.speed n) - s.rxNs n * 1000000)

/-- The position b that the PCS reports for a transmitted frame (Table TIM-4): a free value within its range. DESIGN CHOICE (log 27). -/
def State.egressAlign (s : State) (n : Nat) : Nat := (Config.freeWord s.free).toNat % (if s.speed n = 1 then 10 else 66)

/-- The 15.625 ps steps of the interpolator within the nanosecond in which a frame's egress is detected (R365): a free value. DESIGN CHOICE (log 27). -/
def State.egressStep (s : State) : Nat := (Config.freeWord s.free).toNat / 66 % 64

/-- The ball time of an egress now (R365). -/
def State.egressBall (s : State) (n : Nat) : Int :=
  s.tbStamp <| fsToStamp ((s.tim.now : Int) * 1000000 + (if s.tbSteered then s.egressStep else 0 : Nat) * 15625 + egressFs (s.speed n) (s.fec n) + (s.egressAlign n : Int) * alignFs (s.speed n) + s.txNs n * 1000000)

/-! ### Error estimate (R368) -/

/-- An estimate in FP32 as whole ns in a register, saturating. DEDUCED (log 28): rounded to nearest. -/
def errNs (e : Word) : Word := if fpIsFinite e then sat32 (fpNearest e).toNat else BitVec.allOnes 32

/-- TIM_SLEW, clamped to 1,000 to 500,000 ppb (Table TIM-7). -/
def State.slewPpb (s : State) : Nat := min 500000 (max 1000 (s.regField Reg.timSlew 19 0))

/-- LOCK_NS (R382). -/
def State.lockNs (s : State) : Nat := s.regField Reg.timLock 15 0

/-- The upper bounds that clockAccuracy 0x17 to 0x30 denote, in tenths of a ps. PRESUMED (log 29): the enumeration of IEEE 1588-2019. -/
def accuracyTable : List (Nat × Nat) :=
  [(0x17, 10), (0x18, 25), (0x19, 100), (0x1A, 250), (0x1B, 1000), (0x1C, 2500), (0x1D, 10000), (0x1E, 25000), (0x1F, 100000),
   (0x20, 250000), (0x21, 1000000), (0x22, 2500000), (0x23, 10000000), (0x24, 25000000), (0x25, 100000000), (0x26, 250000000), (0x27, 1000000000),
   (0x28, 2500000000), (0x29, 10000000000), (0x2A, 25000000000), (0x2B, 100000000000), (0x2C, 250000000000), (0x2D, 1000000000000),
   (0x2E, 2500000000000), (0x2F, 10000000000000), (0x30, 100000000000000)]

/-- The error bound of a clockAccuracy in FP32 ns (R368): 1,000 ns where the value denotes none. -/
def accuracyNs (code : Nat) : Word :=
  if code = 0x31 then Config.accuracyUnbounded
  else match accuracyTable.find? fun p => decide (p.1 = code) with
    | none => fpOfInt 1000
    | some (_, n) => if n % 10000 = 0 then fpOfInt (n / 10000 : Nat) else fpDiv (fpOfInt n) (fpOfInt 10000)

/-- The accuracy of the selected source, in FP32 ns (R368). -/
def State.sourceAccuracy (s : State) : Word :=
  match s.tim.source, s.tim.parent with
  | .gnss, _ => fpOfInt (s.regField Reg.timGnss 31 16)
  | _, some m => match m.inaccuracy with
    | some i => fpOfInt i
    | none => accuracyNs m.accuracy
  | _, none => fpOfInt 1000

/-- t seconds of holdover: e = e0 + HOLD_A × t + HOLD_B × t² / 2 (R368), with t in FP32 from a span in ns. -/
def State.holdover (s : State) (e0 : Word) (ns : Nat) : Word :=
  let t := fpDiv (fpOfInt ns) (fpOfInt nsPerSec)
  fpAdd (fpAdd e0 (fpMul (s.reg Reg.timHoldA) t)) (fpDiv (fpMul (s.reg Reg.timHoldB) (fpMul t t)) (fpOfInt 2))

/-! ### Source selection (R361) -/

/-- PROFILE, 3 treated as 0 (Table TIM-2). -/
def State.profile (s : State) : Nat :=
  let p := s.regField Reg.timCfg 3 2
  if p = 3 then 0 else p

/-- PTP runs on port n (R362). -/
def State.ptpOn (s : State) (n : Nat) : Bool :=
  s.regBit Reg.timCfg 0 && flag (s.reg Reg.timCfg) (4 + n) && s.portUp n && decide (9 ≤ s.sys.step)

/-- One list of numbers comes before another. -/
def lexLt : List Nat → List Nat → Bool
  | [], [] => false
  | [], _ => true
  | _, [] => false
  | a :: as, b :: bs => decide (a < b) || (decide (a = b) && lexLt as bs)

/-- What the dataset comparison of IEEE 1588-2019 compares, best first. PRESUMED (log 30). -/
def Master.rank (m : Master) : List Nat :=
  [m.priority1, m.clockClass, m.accuracy, m.variance, m.priority2, m.identity, m.steps, m.sender, m.port]

/-- The device's clockIdentity: its MAC address of port 0 with FF-FE in the middle. PRESUMED (log 30). -/
def State.clockIdentity (s : State) : List Byte :=
  let m := leBytes (s.reg (Reg.prtMacLo 0)) ++ (leBytes (s.reg (Reg.prtMacHi 0))).take 2
  m.take 3 ++ [0xFF, 0xFE] ++ m.drop 3

/-- The clockClass of the device's own dataset (R361). -/
def State.ownClass (s : State) : Nat :=
  if s.tim.gnssOk then s.regField Reg.timPrio 23 16
  else if decide (s.tim.state = .bivouac) && s.tim.lostGnss then s.regField Reg.timPrio 31 24
  else 248

/-- The rank of the device's own dataset (R361); accuracy and variance are advertised as unknown (log 30). -/
def State.ownRank (s : State) : List Nat :=
  [s.regField Reg.timPrio 7 0, s.ownClass, 0xFE, 0xFFFF, s.regField Reg.timPrio 15 8, ofBe s.clockIdentity, 0, 0, 0]

/-- The Announce interval of a master in ns (R362: −4 to +1). -/
def intervalNs (log : Int) : Nat := if 0 ≤ log then nsPerSec * 2 ^ log.toNat else nsPerSec / 2 ^ (-log).toNat

/-- announceReceiptTimeout, in Announce intervals (R362). -/
@[reducible] def announceReceiptTimeout : Nat := 3

/-- A master takes part in BMCA: two Announce messages heard, the last within announceReceiptTimeout. PRESUMED (log 30): IEEE 1588. -/
def State.qualifies (s : State) (m : Master) : Bool :=
  decide (2 ≤ m.heard) && decide (s.tim.mono ≤ m.time + announceReceiptTimeout * intervalNs m.logInterval) && s.ptpOn m.port

/-- The best master heard. -/
def bestMaster (ms : List Master) : Option Master :=
  ms.foldl (fun (b : Option Master) m => match b with
    | none => some m
    | some x => if lexLt m.rank x.rank then some m else some x) none

/-- The source and parent that BMCA chooses now (R361). DEDUCED (log 30): a device with SLAVE_ONLY and without GNSS, whose own dataset can be neither source nor
master, takes the best master heard. -/
def State.choice (s : State) : TimSource × Option Master :=
  let best := bestMaster (s.tim.masters.filter s.qualifies)
  let own := if s.tim.gnssOk then TimSource.gnss else .none
  match best with
  | none => (own, none)
  | some m =>
    if lexLt s.ownRank m.rank && (s.tim.gnssOk || !s.regBit Reg.timCfg 9) then (own, none) else (.ptp, some m)

/-- The source is the same port's same master, or GNSS still. -/
def sameSource (t : Tim) (c : TimSource × Option Master) : Bool :=
  decide (t.source = c.1) && decide ((t.parent.map fun m => (m.port, m.sender)) = (c.2.map fun m => (m.port, m.sender)))

/-- Firmware runs BMCA: a newly selected source has not been measured, and its Sync watchdog starts with its first Sync (R361, R370). -/
def State.reselect (s : State) : State :=
  let c := s.choice
  if sameSource s.tim c then s.onTim fun t => { t with parent := c.2 }
  else s.onTim fun t =>
    { t with source := c.1, parent := c.2, newSource := true, syncAt := none, syncMissed := 0, followUp := [], measured := none }

/-- BIVOUAC is entered from ACQUIRING or LOCKED: the servo freezes and e0 is taken (R370, R371). -/
def State.enterBivouac (s : State) : State :=
  match s.tim.state with
  | .acquiring | .locked =>
    let s1 := s.onTim fun t =>
      { t with
        state := .bivouac, bivouacAt := t.mono, bivouacE0 := t.errEst.getD fpNaN, freqAdj := t.integ, slewing := false, slewEnd := none,
        lostGnss := decide (t.source = .gnss)
        unlockedAt := if t.state = .locked then some t.mono else t.unlockedAt }
    (s1.inc Reg.timBivouacCnt).event 0x0902 clsWatch [(s.tim.errEst.map errNs).getD (BitVec.allOnes 32)]
  | _ => s

/-- The selected source is lost (R370): BMCA runs again without it (R371). -/
def State.loseSource (s : State) : State :=
  let s1 := s.enterBivouac.onTim fun t =>
    { t with
      masters := t.masters.filter fun m => decide (t.parent.map (fun p => (p.port, p.sender)) ≠ some (m.port, m.sender))
      source := .none, parent := none, syncAt := none, syncMissed := 0, followUp := [], newSource := true, measured := none }
  s1.reselect

/-- BMCA runs; a choice that leaves a locked or acquiring timebase without a source is a loss of it. DESIGN CHOICE (log 30). -/
def State.runBmca (s : State) : State :=
  if decide (s.tim.source ≠ .none) && decide (s.choice.1 = .none) then s.loseSource else s.reselect

/-! ### UTC offset and leap announcements (R356, R357) -/

/-- The timebase second at which a leap announced now takes effect: the end of the UTC day of a timebase second (R357). -/
def leapSecondAt (k : Leap) (sec : Nat) (offset : Int) : Nat :=
  let utc : Int := (sec : Int) - offset
  let dayEnd : Int := (utc / 86400 + 1) * 86400
  match k with
  | .insert => (dayEnd + offset).toNat
  | .delete => (dayEnd - 1 + offset).toNat

/-- What the parent's Announce says of offset and leap second (R356, R357); clearing the flags clears the announcement that they made. -/
def State.takeParentData (s : State) (m : Master) : State :=
  let s1 := if m.offsetValid then (s.giveOffset m.utcOffset s.nowSec).onTim fun t => { t with offsetValid := true } else s.giveOffset (s.offsetAt s.nowSec) s.nowSec
  let kind := if m.leap61 then some Leap.insert else if m.leap59 then some Leap.delete else none
  match kind with
  | some k => s1.onTim fun t => { t with leap := some (k, leapSecondAt k (t.now / nsPerSec) t.utcOffset), leapPtp := true }
  | none => if s.tim.leapPtp then s1.onTim fun t => { t with leap := none, leapPtp := false } else s1

/-! ### Messages (R362 to R364). The layouts are those of IEEE 1588-2019: PRESUMED (log 31) -/

/-- A 34-byte PTP header with its body. -/
def State.ptpMessage (s : State) (n type flags0 flags1 : Nat) (corr : List Byte) (ident : List Byte) (seq control : Nat) (log : Int)
    (body : List Byte) : List Byte :=
  [BitVec.ofNat 8 type, 0x12] ++ beNat 2 (34 + body.length) ++ [BitVec.ofNat 8 (s.regField Reg.timCfg 19 12), 0,
    BitVec.ofNat 8 flags0, BitVec.ofNat 8 flags1] ++ corr ++ beNat 4 0 ++ (if ident.isEmpty then s.clockIdentity ++ beNat 2 (n + 1) else ident) ++
    beNat 2 seq ++ [BitVec.ofNat 8 control, BitVec.ofInt 8 log] ++ body

/-- A sum of 16-bit words folded for a header checksum. -/
def checksum16 (bs : List Byte) : Nat :=
  let sum := ((List.range ((bs.length + 1) / 2)).map fun i => ofBe ((bs.drop (2 * i)).take 2)).sum
  let f := sum % 65536 + sum / 65536
  65535 - (f % 65536 + f / 65536)

/-- The frame of a PTP message (Table TIM-2): Layer 2, or UDP over IPv4 with checksum 0, untagged. -/
def State.ptpFrame (s : State) (n : Nat) (event peer : Bool) (msg : List Byte) : List Byte :=
  if decide (s.profile = 2) && s.regBit Reg.timCfg 11 then
    let dst : List Byte := [224, 0, 1, 129]
    let port := if event then 319 else 320
    let udp := beNat 2 port ++ beNat 2 port ++ beNat 2 (8 + msg.length) ++ beNat 2 0 ++ msg
    let h (c : Nat) : List Byte := [0x45, 0] ++ beNat 2 (20 + udp.length) ++ beNat 4 0 ++ [1, 17] ++ beNat 2 c ++ s.ipv4 n ++ dst
    [0x01, 0x00, 0x5E, 0x00, 0x01, 0x81] ++ s.mac n ++ [0x08, 0x00] ++ h (checksum16 (h 0)) ++ udp
  else
    (if peer then [0x01, 0x80, 0xC2, 0x00, 0x00, 0x0E] else [0x01, 0x1B, 0x19, 0x00, 0x00, 0x00]) ++ s.mac n ++ [0x88, 0xF7] ++ msg

/-- Where the message begins in a frame of the device's own. -/
def State.ptpOffset (s : State) : Nat := if decide (s.profile = 2) && s.regBit Reg.timCfg 11 then 42 else 14

/-- A PTP frame is queued on its own port: on a PRP pair each LAN is its own port and no trailer is added; on an HSR pair it carries
the HSR tag (R362). `event` gives it priority 2, a general message priority 5 (Table PRT-2). -/
def State.sendPtp (s : State) (n : Nat) (event peer : Bool) (egress : Option Nat) (ingress : Option (Int × Nat)) (msg : List Byte) : State :=
  let frame := s.ptpFrame n event peer msg
  let bytes := if s.inPair n && decide (s.pairMode = 2) then withTag frame s.prt.seq n else pad60 frame
  let s1 := s.enqueue n { kind := if event then .ptpEvent else .general, bytes := bytes, ingress := ingress, ptp := egress }
  if s.inPair n && decide (s.pairMode = 2) then s1.onPrt fun p => { p with seq := (p.seq + 1) % 65536 } else s1

/-- What the hardware or firmware does when a PTP frame's timestamp point leaves the balls: nothing listed is `none`. -/
@[reducible] def egSyncOneStep : Nat := 1
@[reducible] def egSyncTwoStep : Nat := 2
@[reducible] def egDelayReq : Nat := 3
@[reducible] def egRespOneStep : Nat := 4
@[reducible] def egRespTwoStep : Nat := 5
/-- A message forwarded for other nodes (R366): this, plus where the message begins in the frame. -/
@[reducible] def egForward : Nat := 6

/-- A timestamp in 1/65,536 ns as the 48-bit seconds and 32-bit nanoseconds of a message. -/
def stampBytes (t : Int) : List Byte :=
  let ns := (t / 65536).toNat
  beNat 6 (ns / nsPerSec) ++ beNat 4 (ns % nsPerSec)

/-- A timestamp that a message carries, in 1/65,536 ns. -/
def stampOf (bs : List Byte) : Int := (ofBe (bs.take 6) * nsPerSec + ofBe ((bs.drop 6).take 4) : Nat) * 65536

/-- Bytes of a list replaced from an offset. -/
def putBytes (bs : List Byte) (off : Nat) (v : List Byte) : List Byte := bs.take off ++ v ++ bs.drop (off + v.length)

/-- The correctionField of a message at an offset of a frame increased by a time in 1/65,536 ns. -/
def addCorrection (bs : List Byte) (at_ : Nat) (d : Int) : List Byte :=
  putBytes bs (at_ + 8) (beNat 8 (unsigned 64 (signed 64 (ofBe (sub bs (at_ + 8) 8)) + d)))

/-- What firmware keeps of port n. -/
def State.ptpPort (s : State) (n : Nat) : PtpPort := s.tim.ports.getD n {}
/-- What firmware keeps of port n, rewritten. -/
def State.onPtpPort (s : State) (n : Nat) (f : PtpPort → PtpPort) : State :=
  s.onTim fun t => { t with ports := modifyAt t.ports n f }

/-- Port n is a PTP master port (R361): it is not the slave port, the device may be master, and no better master is heard on it. -/
def State.masterPort (s : State) (n : Nat) : Bool :=
  !s.regBit Reg.timCfg 9 && decide (s.tim.parent.map (·.port) ≠ some n) &&
  match bestMaster ((s.tim.masters.filter s.qualifies).filter fun m => decide (m.port = n)) with
  | none => true
  | some m => match s.tim.parent with
    | some p => lexLt p.rank m.rank
    | none => lexLt s.ownRank m.rank

/-- The Announce the device sends as master: its own dataset, or its parent's one step further on. -/
def State.announceBody (s : State) : List Byte :=
  let own : Master :=
    { port := 0, sender := 0, priority1 := s.regField Reg.timPrio 7 0, clockClass := s.ownClass, accuracy := 0xFE, variance := 0xFFFF,
      priority2 := s.regField Reg.timPrio 15 8, identity := ofBe s.clockIdentity, steps := 0, utcOffset := 0, offsetValid := false,
      leap61 := false, leap59 := false, inaccuracy := none, logInterval := 0, heard := 0, time := 0 }
  let m := match s.tim.parent with
    | some p => { p with steps := p.steps + 1 }
    | none => own
  beNat 10 0 ++ beNat 2 (unsigned 16 (s.offsetAt s.nowSec)) ++ [0, BitVec.ofNat 8 m.priority1, BitVec.ofNat 8 m.clockClass, BitVec.ofNat 8 m.accuracy] ++
    beNat 2 m.variance ++ [BitVec.ofNat 8 m.priority2] ++ beNat 8 m.identity ++ beNat 2 m.steps ++ [if s.tim.source = .gnss then 0x20 else 0xA0] ++
    (if s.profile = 1 then beNat 2 3 ++ beNat 2 18 ++ [0x1C, 0x12, 0x9D, 0, 0, 2, 0, 0, 0, 0, 0, 0] ++
        beNat 4 ((s.tim.errEst.map errNs).getD (BitVec.allOnes 32)).toNat ++ beNat 2 0 else [])

/-- The Announce flags of offset and leap second. -/
def State.announceFlags (s : State) : Nat :=
  8 + (if s.tim.offsetValid then 4 else 0) + match s.tim.leap with
    | some (.insert, _) => 1
    | some (.delete, _) => 2
    | none => 0

/-- The next sequence number of a kind of message, which is then used. -/
def State.takeSeq (s : State) (n kind : Nat) : Nat × State :=
  ((s.ptpPort n).seqs.getD kind 0, s.onPtpPort n fun p => { p with seqs := modifyAt p.seqs kind fun q => (q + 1) % 65536 })

/-- ONE_STEP of the messages sent (R363). -/
def State.oneStep (s : State) : Bool := s.regBit Reg.timCfg 8

/-- A message of a kind is sent on port n when its interval expires (R364, Table TIM-2): 0 Sync, 1 Announce, 2 Pdelay_Req, 3 Delay_Req. -/
def State.ptpSend (s : State) (n kind : Nat) : State :=
  if !s.ptpOn n then s
  else
    let (q, s1) := s.takeSeq n kind
    match kind with
    | 0 =>
      if !s.masterPort n then s
      else if s.oneStep then s1.sendPtp n true false (some egSyncOneStep) none (s1.ptpMessage n 0 0 0 (beNat 8 0) [] q 0 0 (beNat 10 0))
      else s1.sendPtp n true false (some egSyncTwoStep) none (s1.ptpMessage n 0 2 0 (beNat 8 0) [] q 0 0 (beNat 10 0))
    | 1 =>
      if !s.masterPort n then s
      else s1.sendPtp n false false none none
        (s1.ptpMessage n 0x0B 0 s.announceFlags (beNat 8 0) [] q 5 (if s.profile = 2 then 1 else 0) s.announceBody)
    | 2 =>
      if s.profile = 2 then s
      else s1.sendPtp n true true (some egDelayReq) none (s1.ptpMessage n 2 0 0 (beNat 8 0) [] q 5 0 (beNat 20 0))
    | _ =>
      if decide (s.profile ≠ 2) || decide (s.tim.parent.map (·.port) ≠ some n) then s
      else s1.sendPtp n true false (some egDelayReq) none (s1.ptpMessage n 1 0 0 (beNat 8 0) [] q 1 0 (beNat 10 0))

/-- PTP_MESSAGE_SEND (R362 to R364). -/
def execPtpMessageSend (n : Fin 4) (kind : Fin 4) (s : State) : Host.Outcome State Fault Refusal := .next (s.ptpSend n.val kind.val)

/-- What follows when a PTP frame of kind k leaves port n at ball time `out` (R363 to R366): the bytes as sent, and the state with the follow-up
queued or the send time kept. -/
def State.ptpLeaves (s : State) (n : Nat) (x : TxItem) (k : Nat) (out : Int) : List Byte × State :=
  let at_ := if s.inPair n && decide (s.pairMode = 2) then s.ptpOffset + 6 else s.ptpOffset
  match k with
  | 1 =>
    (addCorrection (putBytes x.bytes (at_ + 34) (stampBytes out)) at_ (out % 65536), s)
  | 2 =>
    let q := be16 x.bytes (at_ + 30)
    (x.bytes, s.sendPtp n false false none none (s.ptpMessage n 8 0 0 (beNat 8 (out % 65536).toNat) [] q 2 0 (stampBytes out)))
  | 3 => (x.bytes, s.onPtpPort n fun p => { p with pdelaySent := some out, pdelayResp := none })
  | 4 => (addCorrection x.bytes at_ (out - (x.ingress.map (·.1)).getD 0), s)
  | 5 =>
    let q := be16 x.bytes (at_ + 30)
    (x.bytes, s.sendPtp n false true none none
      (s.ptpMessage n 0x0A 0 0 (beNat 8 (out % 65536).toNat) [] q 5 0x7F (stampBytes out ++ sub x.bytes (at_ + 44) 10)))
  | k =>
    match x.ingress with
    | some (t, p) =>
      if k < egForward then (x.bytes, s)
      else (addCorrection x.bytes (k - egForward) (out - t + (s.reg (Reg.timPortLink p)).toNat * 65536), s)
    | none => (x.bytes, s)

/-- A frame of port n leaves: one that is a PTP message with its timestamp, taking one free value for it. -/
def State.ptpEgress (s : State) (n : Nat) (x : TxItem) : List Byte × State :=
  match x.ptp with
  | some k => State.ptpLeaves { s with free := s.free + 1 } n x k (s.egressBall n)
  | none => (x.bytes, s)

/-! ### Received messages -/

/-- The totalTimeInaccuracy of the IEEE_C37_238 TLV of a chain of at most n TLVs (R368). PRESUMED (log 31): the layout is that of IEEE C37.238-2017. -/
def timeInaccuracy : Nat → List Byte → Option Nat
  | 0, _ => none
  | n + 1, bs =>
    if bs.length < 4 then none
    else if decide (be16 bs 0 = 3) && decide (sub bs 4 6 = [0x1C, 0x12, 0x9D, 0, 0, 2]) && decide (20 ≤ bs.length) then some (ofBe (sub bs 16 4))
    else timeInaccuracy n (bs.drop (4 + be16 bs 2))

/-- The Announce of a master as heard on port n. -/
def masterOf (n now heard : Nat) (msg : List Byte) : Master :=
  let f := (msg.getD 7 0)
  { port := n, sender := ofBe (sub msg 20 10), priority1 := (msg.getD 47 0).toNat, clockClass := (msg.getD 48 0).toNat,
    accuracy := (msg.getD 49 0).toNat, variance := be16 msg 50, priority2 := (msg.getD 52 0).toNat, identity := ofBe (sub msg 53 8),
    steps := be16 msg 61, utcOffset := signed 16 (be16 msg 44), offsetValid := f.getLsbD 2, leap61 := f.getLsbD 0, leap59 := f.getLsbD 1,
    inaccuracy := timeInaccuracy msg.length (msg.drop 64), logInterval := signed 8 (msg.getD 33 0).toNat, heard := heard, time := now }

/-- An Announce is heard (R361): a master without ptpTimescale is never selected, and an interval outside −4 to +1 is not accepted (R362). -/
def State.hearAnnounce (s : State) (n : Nat) (msg : List Byte) : State :=
  let old := s.tim.masters.find? fun m => decide (m.port = n) && decide (m.sender = ofBe (sub msg 20 10))
  let rest := s.tim.masters.filter fun m => !(decide (m.port = n) && decide (m.sender = ofBe (sub msg 20 10)))
  let fresh := match old with
    | some m => if s.tim.mono ≤ m.time + 4 * intervalNs m.logInterval then m.heard + 1 else 1
    | none => 1
  let m := masterOf n s.tim.mono fresh msg
  if decide (m.logInterval < -4) || decide (1 < m.logInterval) then s
  else if !(msg.getD 7 0).getLsbD 3 then (s.onTim fun t => { t with masters := rest }).runBmca
  else
    let s1 := (s.onTim fun t => { t with masters := rest ++ [m] }).runBmca
    if decide (s1.tim.source = .ptp) && decide (s1.tim.parent = some m) then s1.takeParentData m else s1

/-- A message comes from the parent: its Sync on either LAN of a PRP pair restarts the watchdog (R370). -/
def State.fromParent (s : State) (n : Nat) (msg : List Byte) : Bool :=
  match s.tim.parent with
  | none => false
  | some p =>
    (decide (p.port = n) && decide (p.sender = ofBe (sub msg 20 10))) ||
    (s.inPair n && s.inPair p.port && decide (s.pairMode = 1) && decide (p.sender / 65536 = ofBe (sub msg 20 8)))

/-- The Sync watchdog restarts (R370). -/
def State.syncHeard (s : State) (n : Nat) (log : Int) : State :=
  s.onTim fun t => { t with syncAt := some t.mono, syncLog := log, syncMissed := 0, followUp := t.followUp.filter fun q => decide (q.1 ≠ n) }

/-- The mean delay of port n as a Pdelay exchange gives it, in 1/65,536 ns, which TIM_PORTn_LINK shows in ns (R364). -/
def State.linkDelay (s : State) (n : Nat) (twice : Int) : State :=
  (s.onPtpPort n fun p => { p with pdelaySent := none, pdelayResp := none, delay := some (twice / 2) }).setReg (Reg.timPortLink n)
    (sat32 (twice / 131072).toNat)

/-- A Sync of the parent is complete (R364): `delta` is its ingress time less its origin and its corrections, in 1/65,536 ns. On the parent's own port firmware
forms the offset from it and the mean delay, once a delay is known (log 31). -/
def State.ptpMeasured (s : State) (n : Nat) (delta : Int) : State :=
  if s.tim.parent.map (·.port) ≠ some n then s
  else
    let s1 := s.onPtpPort n fun p => { p with syncDelta := some delta }
    match (s.ptpPort n).delay with
    | none => s1
    | some d => s1.onTim fun t => { t with measured := some ((delta - d + 32768) / 65536) }

/-- A PTP message of the device's domain received on port n, with its ingress ball time (R362 to R366, R370). -/
def State.ptpReceive (s : State) (n : Nat) (msg : List Byte) (ball : Int) : State :=
  if !s.ptpOn n || decide (msg.length < 44) || decide ((msg.getD 4 0).toNat ≠ s.regField Reg.timCfg 19 12) ||
    decide (sub msg 20 8 = s.clockIdentity) then s
  else
    let seq := be16 msg 30
    let log := signed 8 (msg.getD 33 0).toNat
    let corr := signed 64 (ofBe (sub msg 8 8))
    let logOk := decide (-4 ≤ log) && decide (log ≤ 1)
    match (msg.getD 0 0).toNat % 16 with
    | 0x0 =>
      if !s.fromParent n msg || !logOk then s
      else if (msg.getD 6 0).getLsbD 1 then s.onTim fun t => { t with followUp := (t.followUp.filter fun q => decide (q.1 ≠ n)) ++ [(n, seq, ball - corr)] }
      else (s.syncHeard n log).ptpMeasured n (ball - corr - stampOf (sub msg 34 10))
    | 0x8 =>
      match s.tim.followUp.find? fun q => decide (q.1 = n) with
      | none => s
      | some (_, q, t2) =>
        if s.fromParent n msg && decide (q = seq) && logOk then
          (s.syncHeard n log).ptpMeasured n (t2 - corr - stampOf (sub msg 34 10))
        else s
    | 0x9 =>
      match (s.ptpPort n).pdelaySent, (s.ptpPort n).syncDelta with
      | some t3, some delta =>
        if s.profile = 2 && s.fromParent n msg && decide (sub msg 44 10 = s.clockIdentity ++ beNat 2 (n + 1)) &&
            decide (((s.ptpPort n).seqs.getD 3 0 + 65535) % 65536 = seq) then
          s.onPtpPort n fun p => { p with pdelaySent := none, delay := some ((delta + (stampOf (sub msg 34 10) - corr - t3)) / 2) }
        else s
      | _, _ => s
    | 0xB => if msg.length < 64 then s else s.hearAnnounce n msg
    | 0x2 =>
      if s.profile = 2 then s
      else if s.oneStep then
        s.sendPtp n true true (some egRespOneStep) (some (ball, n)) (s.ptpMessage n 3 0 0 (sub msg 8 8) [] seq 5 0x7F (beNat 10 0 ++ sub msg 20 10))
      else
        s.sendPtp n true true (some egRespTwoStep) (some (ball, n))
          (s.ptpMessage n 3 2 0 (beNat 8 (unsigned 64 (corr - ball % 65536))) [] seq 5 0x7F (stampBytes ball ++ sub msg 20 10))
    | 0x3 =>
      match s.ptpPort n |>.pdelaySent with
      | none => s
      | some t1 =>
        if decide (s.profile = 2) || decide (sub msg 44 8 ≠ s.clockIdentity) then s
        else if (msg.getD 6 0).getLsbD 1 then s.onPtpPort n fun p => { p with pdelayResp := some (ball - t1 - corr + stampOf (sub msg 34 10), seq) }
        else s.linkDelay n (ball - t1 - corr)
    | 0xA =>
      match s.ptpPort n |>.pdelayResp with
      | none => s
      | some (d, q) =>
        if decide (q ≠ seq) || decide (sub msg 44 8 ≠ s.clockIdentity) then s
        else s.linkDelay n (d - stampOf (sub msg 34 10) - corr)
    | 0x1 =>
      if decide (s.profile ≠ 2) || !s.masterPort n then s
      else s.sendPtp n false false none none
        (s.ptpMessage n 9 0 0 (beNat 8 (unsigned 64 (corr - ball % 65536))) [] seq 3 0 (stampBytes ball ++ sub msg 20 10))
    | _ => s

end Sys2Proof.Machine
end

