-- ==== Sys2Proof/Machine/Egress.lean ====
section
/-! DEFINITION. What a close sends out of a column: output-stream frames and aligned-column records (R131 to R134, R177, R178). -/
namespace Sys2Proof.Machine

/-! ### Output streams (Table PRT-3) -/

/-- Word j of output stream definition n. -/
def osWord (a : Img) (n j : Nat) : Word := secWord a secOutStream 0 (64 * n + 4 * j)
/-- EN. -/
def osEn (a : Img) (n : Nat) : Bool := flag (osWord a n 0) 0
/-- PORT. -/
def osPort (a : Img) (n : Nat) : Nat := field (osWord a n 0) 3 1
/-- IPV6. -/
def osV6 (a : Img) (n : Nat) : Bool := flag (osWord a n 0) 4
/-- DIV. -/
def osDiv (a : Img) (n : Nat) : Nat := field (osWord a n 1) 7 0
/-- TIME_BASE. -/
def osBase (a : Img) (n : Nat) : Nat := field (osWord a n 2) 23 0
/-- The block list. -/
def osBlocks (a : Img) (n : Nat) : List Nat :=
  (List.range (field (osWord a n 10) 8 0)).map fun i => field (secWord a secOutStream 0 ((osWord a n 11).toNat + 4 * i)) 12 0

/-- One block of a frame (R132, Table PRT-4). -/
def outBlock (a : Img) (c : Column) (polar : Bool) (f : Nat) : List Byte :=
  let head := c.cell f
  let bad := qHas head.qual qCorrupt || !qHas head.qual (qFilled ||| qLateFill)
  let w (g j : Nat) : Word := wordAt (c.cell g).words j
  let fp (v : Word) : List Byte := beNat 4 (if bad then fpNaN else v).toNat
  let stat : BitVec 16 := if bad then 0x8000 else if qHas head.qual qLateFill then head.stat ||| 0x0200 else head.stat
  let phasor (j : Nat) : List Byte :=
    let x := w (f + j / 12) (2 * (j % 12))
    let y := w (f + j / 12) (2 * (j % 12) + 1)
    if polar then fp (fpSqrt (fpAdd (fpMul x x) (fpMul y y))) ++ fp (fpAtan2 y x) else fp x ++ fp y
  let digital (d : Nat) : List Byte := beNat 2 (if bad then 0 else (w (f + d / 2) 30).toNat / 2 ^ (16 * (d % 2)) % 65536)
  beNat 2 stat.toNat ++ (List.range (stPhnmr a f)).flatMap phasor ++ fp (w f 24) ++ fp (w f 25) ++
    ((List.range (stAnnmr a f)).flatMap fun k => fp (w (f + k / 4) (26 + k % 4))) ++ (List.range (stDgnmr a f)).flatMap digital

/-- The C37.118.2 data frame of stream n for a column (R132). -/
def State.outPayloadOf (s : State) (n : Nat) (c : Column) : List Byte :=
  let a := s.img
  let body := (osBlocks a n).flatMap (outBlock a c (flag (osWord a n 1) 8))
  let head := [0xAA, 0x02] ++ beNat 2 (16 + body.length) ++ beNat 2 (field (osWord a n 1) 31 16) ++ beNat 4 (s.soc c.sec).toNat ++
    [BitVec.ofNat 8 (s.fracFlags c.sec)] ++ beNat 3 (c.index * osBase a n / s.fm)
  head ++ body ++ beNat 2 (crc16 (head ++ body)).toNat

/-- A UDP checksum, 0 sent as 0xFFFF. -/
def udpSum (pseudo udp : List Byte) : Nat := let k := checksum16 (pseudo ++ udp); if k = 0 then 65535 else k

/-- The Ethernet frame of stream n. DESIGN CHOICE (log 59): the IP fields that the spec does not give are constants of Config, no packet is fragmented, and
both versions carry a UDP checksum. -/
def State.outFrame (s : State) (n port : Nat) (pay : List Byte) : List Byte :=
  let a := s.img
  let w := osWord a n
  let dmac := leBytes (w 3) ++ (leBytes (w 4)).take 2
  let tag := if flag (w 0) 5 then [0x81, 0x00] ++ beNat 2 (field (w 0) 8 6 * 8192 + field (w 0) 20 9) else []
  let len := 8 + pay.length
  let daddr := bytesOf [w 6, w 7, w 8, w 9]
  let udp (k : Nat) : List Byte := beNat 2 (field (w 5) 15 0) ++ beNat 2 (field (w 4) 31 16) ++ beNat 2 len ++ beNat 2 k ++ pay
  if osV6 a n then
    let ps := s.ipv6 port ++ daddr ++ beNat 4 len ++ beNat 4 17
    dmac ++ s.mac port ++ tag ++ [0x86, 0xDD] ++ beNat 4 (6 * 2 ^ 28 + Config.ipTos.toNat * 2 ^ 20 + Config.ipFlow.toNat) ++ beNat 2 len ++ [17, Config.ipTtl] ++ s.ipv6 port ++ daddr ++ udp (udpSum ps (udp 0))
  else
    let dst := daddr.take 4
    let ps := s.ipv4 port ++ dst ++ [0, 17] ++ beNat 2 len
    let id := Config.ipId s.tim.mono n
    let h (k : Nat) : List Byte := [0x45, Config.ipTos] ++ beNat 2 (20 + len) ++ beNat 2 (id.toNat % 65536) ++ beNat 2 (id.toNat / 65536 * 16384) ++
      [Config.ipTtl, 17] ++ beNat 2 k ++ s.ipv4 port ++ dst
    dmac ++ s.mac port ++ tag ++ [0x08, 0x00] ++ h (checksum16 (h 0)) ++ udp (udpSum ps (udp 0))

/-- The frame of stream n for a column is queued at its port or pair (R134, R135). DESIGN CHOICE (log 90): with PORT = 4 while the pair is not active, the frame goes
without a trailer or tag to both ports. -/
def State.sendStream (s : State) (c : Column) (n : Nat) : State :=
  let p := osPort s.img n
  let port := if p = 4 then 0 else p
  let item : TxItem := { kind := .stream, bytes := s.outFrame n port (s.outPayloadOf n c) }
  if p = 4 && !s.pairActive then (s.enqueue 0 item).enqueue 1 item else s.send port item

/-- Egress of a closed column, in stream order (R132, R134). -/
def State.egress (s : State) (c : Column) : State :=
  let a := s.img
  ((List.range 64).filter fun n => osEn a n && decide (0 < osDiv a n) && decide (c.index % osDiv a n = 0)).foldl (fun (x : State) n => x.sendStream c n) s

/-! ### Aligned-column records (R177, R178, Table BSN-6) -/

/-- The record of selection n for a closed column. -/
def State.columnRecord (s : State) (n : Nat) (c : Column) : List Word :=
  let sel := s.reg (Reg.bsnOutSel n)
  let first := field sel 12 0
  let count := field sel 29 16
  let cells := (List.range count).map fun i => c.cell (first + i)
  let number (m : BitVec 16) : Nat := (cells.filter fun x => qHas x.qual m).length
  let k : DWord := BitVec.ofNat 64 c.tick
  [ place 0x01 0 ||| place n 8 ||| placeB c.flushed 11 ||| placeB c.early 12 ||| placeB c.safeIdle 13 ||| place c.variant 14,
    lo32 k, hi32 k, s.soc c.sec, w32 c.index, place first 0 ||| place count 16, sat32 (c.closeAt - s.instantTime c.sec c.index),
    place (number qFilled) 0 ||| place (number qLateFill) 16, place (number qAbsent) 0 ||| place (number qCorrupt) 16,
    place (number qNotDue) 0 ||| place (s.bsn.dropped.getD n 0) 16 ] ++ List.replicate 6 0 ++ cells.flatMap Cell.all

/-- Selection n writes its record of a closed column, or drops it; `slow` as in `State.closeColumn`. -/
def State.select (s : State) (c : Column) (slow : List SlowRecord) (n : Nat) : State :=
  let r := s.reg (Reg.bsnOutRing n)
  let div := field r 15 8
  if !flag r 31 || decide (div = 0) || decide (c.index % div ≠ 0) then s
  else
    let k : DWord := BitVec.ofNat 64 c.tick
    let late := (slow.find? fun x => decide (x.sel.val = n)).map fun x => (c.tick, x.bytes)
    match s.deliverSlow (field r 5 0) 3 (bytesOf (s.columnRecord n c)) [0x01, lo32 k, hi32 k] late with
    | (s1, true) => s1.onBsn fun b => { b with dropped := setAt b.dropped n 0 }
    | (s1, false) =>
      (s1.onBsn fun b => { b with dropped := modifyAt b.dropped n fun d => min 65535 (d + 1) }).inc Reg.bsnOutDropCnt

/-- Every selection that takes a closed column writes its record. -/
def State.columnRecords (s : State) (c : Column) (slow : List SlowRecord) : State := (List.range 8).foldl (fun (x : State) n => x.select c slow n) s

end Sys2Proof.Machine
end

