-- ==== Sys2Proof/Machine/Close.lean ====
section
/-! DEFINITION. The close of a column: image switch, variant, safe idle, fences, late fill, output, and the start of its processing (R17, R29, R40, R58 to
R64, R96, R158, R167). -/
namespace Sys2Proof.Machine

/-! ### The schedule store at a close (R58, R60, R61, R64) -/

/-- A switch that took place: the image before it, and whether none was active. -/
structure SwitchInfo where
  old : Img
  first : Bool

/-- The tick ID of the first grid instant later than now (R61), which after a step back may have been emitted already (R35). -/
def State.firstAfter (s : State) : Nat :=
  let p := gridAfter s.fm s.tim.now
  let q := s.tck.nextInstant
  s.tck.nextId + (p.1 * s.fm + p.2) - (q.1 * s.fm + q.2)

/-- The shadow becomes the active image (R58, R61, R64): the previous one is the verified shadow if it was sound. The first column processed under it is
the closing one, or a later one while columns are still discarded (R61). -/
def State.install (s : State) (tick : Nat) (fallback : Bool) : State × SwitchInfo :=
  let first := !s.sch.activeValid
  let ft := if first then s.firstAfter else max tick (s.tck.processFrom.getD tick)
  let s1 := ((s.onGzl fun g => { g with stateValid := false }).onSch fun x =>
    { x with
      active := x.shadow, activeValid := true, shadow := x.active, shadowValid := x.activeValid && !x.damaged
      damaged := false, switches := x.switches + 1 }).onTck fun t => { t with processFrom := if first then some ft else t.processFrom }
  let s2 := ((s1.inc Reg.schPitchCnt).setReg Reg.schLastSwitch (w32 ft)).event 0x0101 clsLog
    [imgSerial s.sch.shadow, s.activeSerial, if fallback then 1 else 0]
  let k : DWord := BitVec.ofNat 64 ft
  (if fallback then s2 else s2.pitchEnds { status := stOk, result := [lo32 k, hi32 k] } true, { old := s.sch.active, first := first })

/-- The level in force is at or above a MIN_LEVEL code. -/
def State.levelReaches (s : State) (min : Nat) : Bool := decide (s.pwr.level ≤ min)

/-- A PITCH is ARMED. -/
def State.armed (s : State) : Bool := s.sch.pitch.any fun p => decide (p.state = .armed)

/-- What a close does to the schedule store: the switch to an ARMED image, the fallback of a damaged active image to the shadow, or its loss. DESIGN CHOICE
(log 90): at a close with a PITCH in ARMED and a damaged active image, which the spec does not rank, the switch is made, and the damage goes with the image
it leaves. -/
def State.imageSwitch (s : State) (tick : Nat) : State × Option SwitchInfo :=
  if s.armed then let r := s.install tick false; (r.1, some r.2)
  else if !s.sch.damaged then (s, none)
  else if s.sch.shadowValid && s.levelReaches (imgMinLevel s.sch.shadow) then let r := s.install tick true; (r.1, some r.2)
  else ((s.onSch fun x => { x with activeValid := false, damaged := false }).onGzl fun g => { g with stateValid := false }, none)

/-! ### Variant, safe idle, fences (R29, R47, R48, R96) -/

/-- The variant that a number of unfenced Plots runs; none below 16 (R29). -/
def runVariant (unfenced : Nat) : Option Nat :=
  if 32 ≤ unfenced then some 0 else if 28 ≤ unfenced then some 1 else if 24 ≤ unfenced then some 2 else if 16 ≤ unfenced then some 3 else none

/-- The physical Plots unfenced by a mask, in ascending order. -/
def unfencedPlots (fences : BitVec 32) : List Nat := (List.range 32).filter fun p => !fences.getLsbD p

/-- Safe idle after a close: its cause, none outside it. DESIGN CHOICE (log 90): a device on which no image has been active enters no safe idle for want of
Plots (R29); with the image lost the cause is 0 whatever the Plots, and it changes with the cause that keeps the device in safe idle (R48). -/
def State.idleAfter (s : State) (lost : Bool) (v : Option Nat) : Option Nat :=
  if s.sch.activeValid then (if v.isNone then some 1 else none)
  else if lost || s.tck.safeIdle then some 0 else none

/-- Safe idle is entered, kept or left (R29, R48, R242): the SAFE_IDLE event, and the alarm unit's failure state. -/
def State.setIdle (s : State) (idle : Option Nat) (tick : Nat) : State :=
  let s1 := s.onTck fun t => { t with safeIdle := idle.isSome, idleCause := idle.getD t.idleCause }
  match s.tck.safeIdle, idle with
  | false, some c => (s1.event 0x0103 clsWatch [1, w32 c]).alarmFail tick s.tim.now
  | true, none => (s1.event 0x0103 clsWatch [0, w32 s.tck.idleCause]).alarmFailEnds tick s.tim.now
  | _, _ => s1

/-- The fences registered take effect, each change with its event (R47, R97, R99). -/
def State.applyFences (s : State) : State :=
  let d := s.dpx
  let s1 := s.onDpx fun x => { x with fenceEff := x.fencePend, effCause := x.pendCause }
  let s2 := ((List.range 32).filter fun p => d.fencePend.getLsbD p && !d.fenceEff.getLsbD p).foldl (fun (x : State) p =>
    x.event 0x0201 clsNotice [w32 p, if d.pendCause.getLsbD p then 1 else 0]) s1
  ((List.range 32).filter fun p => !d.fencePend.getLsbD p && d.fenceEff.getLsbD p).foldl (fun (x : State) p => x.event 0x0202 clsLog [w32 p]) s2

/-! ### Tables and engines at a switch (R60, R116, R174, R176, R204, R241, R244, R260) -/

/-- The furrows whose stream identity two images give differently. -/
def changedFurrows (old new : Img) : List Nat :=
  (List.range (max (imgFurrows old) (imgFurrows new))).filter fun f => !sameIdentity old new f

/-- Stream table, hash and engine tables change with the schedule. -/
def State.switchTables (s : State) (w : SwitchInfo) : State :=
  let s1 := ((s.onHdg fun h => { h with badSets := [] }).onBsn fun b => { b with invalid := [], tableErrs := [] }).onPrd fun p => { p with bad := [] }
  let s2 := if w.first then s1.reinitCells else s1.switchCells (changedFurrows w.old s1.img)
  ((s2.modSwitch w.old w.first).topSwitch w.old).alarmSwitch w.old s.alarmColumn

/-! ### The column (R158, R167, R177) -/

/-- The column with this tick ID is processed under an image: one is active, and it is not older than its first column (R61). -/
def State.underImage (s : State) (tick : Nat) : Bool := s.sch.activeValid && s.tck.processFrom.all fun k => decide (k ≤ tick)

/-- A column is closed without processing, output or archive (R61): no image is active, or it is older than the first column of a first one. -/
def State.discarded (s : State) (tick : Nat) : Bool :=
  (!s.sch.activeValid && !s.tck.safeIdle) || !(s.tck.processFrom.all fun k => decide (k ≤ tick))

/-- What a close sends out of a column that is not discarded: aligned records, output streams, the archive (R167, R177). -/
def State.columnOut (s : State) (tick : Nat) (slow : List SlowRecord) : State :=
  match s.column tick with
  | none => s
  | some c => if c.noImage then s else ((s.columnRecords c slow).egress c).arcDeliver c

/-- The capture units take a closed column. -/
def State.columnCells (s : State) (tick : Nat) : State :=
  match s.column tick with
  | none => s
  | some c => s.capCells c

/-- A closed column enters the late window; the last of a second ends the open side-block (R162, R268). -/
def State.columnWindow (s : State) (c : Column) : State :=
  let s1 := s.windowed c
  if c.index + 1 = s.fm then s1.endSide else s1

/-- The slack that a close ends (TCK_SLACK_MIN, R69), measured on the timebase as every time of the tick (R6). DESIGN CHOICE (log 90): a slack across which the timebase
steps back counts as 0. -/
def State.slackEnds (s : State) : State :=
  match s.tck.slackAt with
  | none => s
  | some m =>
    let v := min (s.reg Reg.tckSlackMin).toNat (s.tim.now - m)
    (s.setReg Reg.tckSlackMin (w32 v)).onTck fun t => { t with slackAt := none }

/-- The counters of an early close (R40). -/
def State.countEarly (s : State) (early : Bool) : State :=
  let s1 := if early then (if s.tck.earlyWaiting then s.inc Reg.tckPostponeCnt else s).inc Reg.tckEarlyCnt else s
  s1.onTck fun t => { t with earlyWaiting := false }

/-- The schedule runs on a column just closed (R18, R22, R77, R86, R96), and the energy region joins its state copy (R323). -/
def State.beginColumn (s : State) (c : Column) (v : Nat) : State :=
  let p : Proc := { tick := c.tick, sec := c.sec, index := c.index, variant := v, closeAt := s.tim.now }
  let s1 := (s.onTck fun t => { t with proc := some p, phase := 0, variant := v }).onGzl fun g => { g with copy := {} }
  let s1 := s1.sendRegion 0x1000 s1.nrgRegion
  let s2 := (((s1.swapTakes c.tick).modBegin).topBegin).clockCause
  (s2.alarmClose s2.alarmColumn).beginOps v ((unfencedPlots s.dpx.fenceEff).take (variantPlots v))

/-- A column on which the schedule does not run: it has reached its end, and what follows is slack (R48, R49, R61). DESIGN CHOICE (log 90): on a STANDBY
device with an image, of which R99 does not speak, the map is empty and DPX_IDLE shows every unfenced Plot, as while no variant runs. After a takeover the templates make their
state change here too, if the device closes its first column in safe idle (R243). -/
def State.skipColumn (s : State) (tick : Nat) : State :=
  let s1 := (s.onCol tick fun c => { c with ended := true }).onTck fun t =>
    { t with phase := if !s.sch.activeValid && !t.safeIdle then 3 else 2 }
  let s2 := s1.slackBegins.releaseSlots.onDpx fun d => { d with map := [], plots := [], columnFlags := 0 }
  let s3 := if s2.alm.restart && s2.publishes then s2.announceTemplates else s2
  match s3.column tick with
  | none => s3
  | some c => if c.noImage then s3 else s3.capDerived c

/-- A column closes now, and is the column closed last to all that the close makes (log 96); `slow` are its aligned-column records that the DMA does not finish before the release of its slot (R178). -/
def State.closeColumn (s : State) (c0 : Column) (early : Bool) (errs : List MemErr) (slow : List SlowRecord) : State := s.oneCycle fun s =>
  let tick := c0.tick
  let was := s.sch.activeValid
  let s0 := ((s.onTck fun t => { t with lastClosed := some tick }).onDpx fun d => { d with columnFlags := 0 }).onCol tick fun c =>
    { c with closeAt := s.tim.now }
  let (s1, sw) := ((s0.slackEnds).countEarly early).imageSwitch tick
  let v := runVariant (unfencedPlots s1.dpx.fencePend).length
  let cause := s1.idleAfter (was && !s1.sch.activeValid) v
  let runs := v.isSome && cause.isNone && s1.underImage tick && s1.runsSchedule
  let s1 := s1.onCol tick fun c => { c with variant := v.getD s1.tck.variant, overran := runs && s1.clkFallback }
  let s2 := match sw with
    | some w => s1.switchTables w
    | none => s1
  let s3 := (s2.setIdle cause tick).applyFences.memErrors errs
  let gone := s3.discarded tick
  let fill := !gone && !s3.tck.safeIdle && !s3.regBit Reg.bsnCfg 0
  let idle := s3.tck.safeIdle
  let mark (c : Column) : Column :=
    { c with closed := true, closeAt := s.tim.now, early := early, safeIdle := idle, noImage := gone, variant := v.getD s3.tck.variant }
  let s4 := s3.closeCells ((s3.column tick).getD c0) fill mark
  let s5 := ((s4.columnOut tick slow).columnCells tick).columnWindow c0
  let s6 := s5.tickOut true
  let s7 := s6.swapAtClose tick
  match v with
  | some k => if s7.underImage tick && !idle && s7.runsSchedule then s7.beginColumn c0 k else s7.skipColumn tick
  | none => s7.skipColumn tick

/-- The column that can close now: the oldest open one, its instant emitted, with its predecessor's state copy ended (R17). -/
def State.closable (s : State) : Option Column :=
  if s.gridOn && s.awake && s.tck.proc.isNone then s.nextToClose.filter (·.emitted) else none

/-- DEADLINE_CLOSE (R17, R40): the reporting instant plus Wd is reached. -/
def execDeadlineClose (found : CloseIn) (s : State) : Answer :=
  match s.closable with
  | none => .next s
  | some c => .next ((s.runTo (s.instantTime c.sec c.index + s.wdNs)).closeColumn c false found.errs found.slow)

/-- EARLY_CLOSE (R17, R40): every due cell of the column is filled, and its deadline has not passed. -/
def execEarlyClose (found : CloseIn) (s : State) : Answer :=
  match s.closable with
  | none => .next s
  | some c => if s.earlyReady && decide (s.tim.now < s.instantTime c.sec c.index + s.wdNs) then .next (s.closeColumn c true found.errs found.slow) else .next s

end Sys2Proof.Machine
end

