-- ==== Sys2Proof/Machine/ImageCheck.lean ====
section
/-! DEFINITION. The checks that an image passes before it is accepted (R52 to R55, Table SCH-4, and the content rules of check 8). -/
namespace Sys2Proof.Machine

/-! ### Helpers -/

/-- No element of a list repeats. -/
def distinct : List Nat → Bool
  | [] => true
  | x :: xs => !xs.contains x && distinct xs

/-- No byte string of a list repeats. -/
def distinctKeys : List (List Byte) → Bool
  | [] => true
  | x :: xs => !xs.contains x && distinctKeys xs

/-- The bits of a mask are 0 in a word: its reserved fields. -/
def clearIn (w m : Word) : Bool := decide (w &&& m = 0)

/-- Bits hi:lo as a mask. -/
def bitsMask (hi lo : Nat) : Word := w32 ((2 ^ (hi + 1 - lo) - 1) <<< lo)

/-- n words of an image section are 0 from a byte offset on. -/
def zeroIn (a : Img) (type variant off n : Nat) : Bool :=
  (List.range n).all fun i => decide (secWord a type variant (off + 4 * i) = 0)

/-- Two ranges of (start, length) share a byte. -/
def rangesMeet (x y : Nat × Nat) : Bool :=
  decide (0 < x.2) && decide (0 < y.2) && decide (x.1 < y.1 + y.2) && decide (y.1 < x.1 + x.2)

/-- No two ranges of a list share a byte. -/
def rangesApart : List (Nat × Nat) → Bool
  | [] => true
  | x :: xs => xs.all (fun y => !rangesMeet x y) && rangesApart xs

/-- The four variants. -/
def variants : List Nat := [0, 1, 2, 3]

/-- FM_CODE of the header. -/
def imgFmCode (a : Img) : Nat := field (imgWord a 12) 19 16
/-- WD of the header. -/
def imgWd (a : Img) : Nat := field (imgWord a 16) 17 0
/-- The furrows that the tables can describe. -/
def imgTable (a : Img) : Nat := min (imgFurrows a) 8192

/-! ### Check 4 (Table SCH-1) -/

/-- MAGIC, FORMAT, HDR_LEN, and the reserved fields of the header 0. -/
def formatOk (a : Img) : Bool :=
  decide (imgWord a 0 = 0x31584259) && decide (field (imgWord a 4) 15 0 = 1) && decide (field (imgWord a 4) 31 16 = 128) &&
  clearIn (imgWord a 12) (bitsMask 31 20) && clearIn (imgWord a 16) (bitsMask 31 18) && clearIn (imgWord a 28) (bitsMask 31 16) &&
  variants.all fun v => clearIn (imgWord a (112 + 4 * v)) (bitsMask 31 17)

/-! ### Checks 6 and 7 (R54) -/

/-- The 64 bytes of the public key. -/
def imgKey (a : Img) : List Byte := imgBytes a (imgLen a - 128) 64
/-- The signature covers every byte before it (R54). -/
def signatureOk (a : Img) : Bool := ecdsaVerify (imgKey a) (imgBytes a (imgLen a - 64) 64) (imgBytes a 0 (imgLen a - 64))

/-! ### Check 8: the directory (R52, R53) -/

/-- The sections an image contains, as (TYPE, VARIANT) (Table SCH-3). -/
def sectionKinds : List (Nat × Nat) :=
  [secStream, secHash, secModal, secGrid, secAlarm, secNeighbour, secOutStream, secTemplate].map (fun t => (t, 0)) ++
  [secOps, secReady, secConst, secKept].flatMap fun t => [1, 2, 3, 4].map fun v => (t, v)

/-- The directory and the sections' places and CRCs. -/
def directoryOk (a : Img) : Bool :=
  let ks := List.range (imgSections a)
  let place (k : Nat) : Nat × Nat := ((dirWord a k 1).toNat, (dirWord a k 2).toNat)
  decide (imgSections a = 24) && ks.all (fun k => clearIn (dirWord a k 0) (bitsMask 31 20)) &&
  (ks.map fun k => (field (dirWord a k 0) 15 0, field (dirWord a k 0) 19 16)).isPerm sectionKinds &&
  ks.all (fun k => let p := place k
    decide (p.1 % 64 = 0) && decide (128 + 16 * imgSections a ≤ p.1) && decide (p.1 + p.2 + 128 ≤ imgLen a) &&
    decide (crc32c (imgBytes a p.1 p.2) = dirWord a k 3)) &&
  rangesApart (ks.map place)

/-! ### Check 8: stream table and hash (R114, R153) -/

/-- The furrows in the spans of valid hash entries. -/
def spanFurrows (a : Img) : List Nat :=
  (hashEntries a).flatMap fun e => (List.range (hashSpan a e)).map (hashFurrow a e + ·)

/-- One entry of the hash in use (R114). -/
def hashEntryOk (a : Img) (e : Nat) : Bool :=
  decide (hashSet (hashKey a e) = e / 4) && decide (hashFurrow a e + hashSpan a e ≤ imgTable a) && decide (hashSpan a e ≤ 256) &&
  (hashChain a e).all fun f => stValid a f && decide (stLinkPos a f = 0)

/-- The Headgate hash section (R114). -/
def hashOk (a : Img) : Bool :=
  decide (secLen a secHash 0 = 524288) && (hashEntries a).all (hashEntryOk a) && distinctKeys ((hashEntries a).map (hashKey a)) &&
  distinct (spanFurrows a)

/-- The reserved fields of a stream table entry; those of a first furrow alone are 0 in a linked one (Table BSN-1). -/
def streamReservedOk (a : Img) (f : Nat) : Bool :=
  clearIn (stWord a f 1) (bitsMask 7 5 ||| bitsMask 31 23) && clearIn (stWord a f 2) (bitsMask 31 24) &&
  zeroIn a secStream 0 (64 * f + 12) 13

/-- The entry of a furrow below FURROWS (R151, R153). -/
def streamEntryOk (a : Img) (f : Nat) : Bool :=
  streamReservedOk a f &&
  (if stLinkPos a f ≠ 0 then
    decide (stLinkPos a f ≤ f) && stValid a f && stValid a (stFirst a f) && decide (stLinkPos a (stFirst a f) = 0) &&
    decide (stLinkPos a f < stLinks a (stFirst a f))
  else if stValid a f then
    decide (f + stLinks a f ≤ imgTable a) &&
    ((List.range (stLinks a f)).all fun k => stValid a (f + k) && decide (stLinkPos a (f + k) = k)) &&
    decide (stPhnmr a f ≤ 12 * stLinks a f) && decide (stAnnmr a f ≤ 4 * stLinks a f) && decide (stDgnmr a f ≤ 2 * stLinks a f)
  else true)

/-- The furrows bound to a local source. -/
def localFurrows (a : Img) : List Nat := (List.range (imgTable a)).filter (stLocal a)

/-- The stream table section (R151, R153). -/
def streamOk (a : Img) : Bool :=
  let n := imgTable a
  let spans := spanFurrows a
  decide (secLen a secStream 0 = 1048576) && (List.range n).all (streamEntryOk a) &&
  zeroIn a secStream 0 (64 * n) (16 * (8192 - n)) && zeroIn a secStream 0 (524288 + 64 * n) (16 * (8192 - n)) &&
  (localFurrows a).all (fun f => decide (stLinks a f = 1) && decide (stRateDiv a f = 1) && !spans.contains f) &&
  distinct ((localFurrows a).map (stLocalSrc a)) && spans.all (stValid a)

/-! ### Check 8: modal groups (R187, R429) -/

/-- The FP32 fields of a group (words 4 to 9 and 11). -/
def groupFps (a : Img) (g : Nat) : List Word := [4, 5, 6, 7, 8, 9, 11].map (mgWord a g)

/-- The upper limit of F_HI: 0.4 × Fm, at most 20 Hz. -/
def bandLimit (a : Img) : Word :=
  match fmOf (imgFmCode a) with
  | none => fpOfInt 20
  | some fm => fpMin (fpDiv (fpOfInt (4 * fm : Nat)) (fpOfInt 10)) (fpOfInt 20)

/-- One modal group entry (R186, R187). -/
def groupOk (a : Img) (g : Nat) : Bool :=
  mgEn a g && clearIn (mgWord a g 0) (bitsMask 31 30) && clearIn (mgWord a g 2) (bitsMask 31 28) && clearIn (mgWord a g 3) (bitsMask 31 25) &&
  zeroIn a secModal 0 (64 * g + 56) 2 &&
  decide (2 ≤ mgL a g) && decide (2 ≤ mgR a g) && decide (mgR a g ≤ 24) && decide (mgR a g % 2 = 0) &&
  decide (mgN a g ≤ 96) && decide (mgR a g ≤ mgM a g * (mgL a g - 1)) && decide (mgPhase a g < mgStride a g) &&
  (!mgSent a g || decide (mgStride a g = 1)) && decide (1 ≤ mgUp a g) && decide (1 ≤ mgDn a g) &&
  (if mgFo a g then decide (mgSlot a g ≤ 861) else decide (mgSlot a g = 0)) &&
  decide (256 * mgOff a g + mgSize a g ≤ 6291456) && (groupFps a g).all fpIsFinite &&
  fpLe (fpDiv (fpOfInt 2) (fpOfInt 100)) (mgWord a g 5) && fpLt (mgWord a g 5) (mgWord a g 6) && fpLe (mgWord a g 6) (bandLimit a) &&
  fpGe (mgWord a g 8) (mgWord a g 7) &&
  [10, 12].all fun j => decide (1 ≤ field (mgWord a g j) 15 0) && decide (1 ≤ field (mgWord a g j) 31 16)

/-- The modal group table (R187). -/
def modalOk (a : Img) : Bool :=
  let n := min (imgGroups a) 1024
  let gs := List.range n
  decide (secLen a secModal 0 = 65536) && gs.all (groupOk a) && zeroIn a secModal 0 (64 * n) (16 * (1024 - n)) &&
  rangesApart (gs.map fun g => (256 * mgOff a g, mgSize a g)) && distinct ((gs.filter (mgFo a)).map (mgSlot a)) &&
  variants.all fun p => decide ((gs.filter fun g => decide (mgPipe a g = p)).length ≤ 256)

/-- The regions of all groups fit the partner's receive buffer (R429). -/
def copyFits (a : Img) : Bool :=
  decide (((List.range (imgGroups a)).map fun g => mgSize a g + if mgFo a g then 4864 else 0).sum ≤ 7340032)

/-! ### Check 8: grid graph (R213, R214) -/

/-- One branch (Table TOP-2, R214). -/
def branchOk (a : Img) (b : Nat) : Bool :=
  decide (brFrom a b < ggNodes a) && decide (brTo a b < ggNodes a) && decide (brFrom a b ≠ brTo a b) && decide (brSrc a b ≤ 3) &&
  clearIn (brWord a b 1) (bitsMask 7 5 ||| bitsMask 31 16) && (decide (2 ≤ brSrc a b) || decide (brWord a b 1 = 0)) &&
  (if brSrc a b = 3 then
    fpIsFinite (brWord a b 2) && fpIsFinite (brWord a b 3) && fpLe 0 (brWord a b 3) && fpLe (brWord a b 3) (brWord a b 2)
  else decide (brWord a b 2 = 0) && decide (brWord a b 3 = 0))

/-- One cut-set below CUTSETS (Table TOP-3, R214). -/
def cutOk (a : Img) (c : Nat) : Bool :=
  let n := field (cutWord a c 0) 6 1
  flag (cutWord a c 0) 0 && clearIn (cutWord a c 0) (bitsMask 31 7) && decide (1 ≤ n) && decide (n ≤ 32) &&
  [1, 2, 3].all (fun j => fpIsFinite (cutWord a c j) && fpLe 0 (cutWord a c j)) &&
  (List.range 16).all (fun j => clearIn (cutWord a c (4 + j)) (bit 15 ||| bit 31)) && zeroIn a secGrid 0 (458816 + 128 * c + 80) 12 &&
  (cutBranches a c).all (fun b => decide (b < ggBranches a)) && distinct (cutBranches a c)

/-- The grid graph section (R213, R214). -/
def gridOk (a : Img) : Bool :=
  let n := ggNodes a
  let b := ggBranches a
  let c := ggCuts a
  decide (secLen a secGrid 0 = 475200) && decide (n ≤ 16384) && decide (b ≤ 24576) && decide (c ≤ 128) &&
  decide (1 ≤ ggIslandMin a) && decide (ggIslandMin a ≤ 16384) &&
  clearIn (ggWord a 0) (bitsMask 31 15) && clearIn (ggWord a 4) (bitsMask 31 15) && clearIn (ggWord a 8) (bitsMask 31 8) &&
  clearIn (ggWord a 12) (bitsMask 31 15) && zeroIn a secGrid 0 20 11 &&
  (List.range n).all (fun i => clearIn (ggWord a (64 + 4 * i)) (bitsMask 31 1)) && zeroIn a secGrid 0 (64 + 4 * n) (16384 - n) &&
  (List.range b).all (branchOk a) && zeroIn a secGrid 0 (65600 + 16 * b) (4 * (24576 - b)) &&
  (List.range c).all (cutOk a) && zeroIn a secGrid 0 (458816 + 128 * c) (32 * (128 - c)) &&
  (decide (b = 0) || (List.range n).any (ggRef a))

/-! ### Check 8: alarm rules and GOOSE templates (R228 to R230, R236) -/

/-- One rule below RULES (Tables ALM-1, ALM-2). -/
def ruleOk (a : Img) (r : Nat) : Bool :=
  let k := ruleKind a r
  flag (ruleWord a r 0) 0 && clearIn (ruleWord a r 0) (bitsMask 31 9) && decide (k ≤ 4) &&
  decide (1 ≤ field (ruleWord a r 1) 15 0) && decide (1 ≤ field (ruleWord a r 1) 31 16) && clearIn (ruleWord a r 2) (bitsMask 31 10) &&
  clearIn (ruleWord a r 4) (bitsMask 31 27) && decide (field (ruleWord a r 4) 26 13 ≤ 8192) && zeroIn a secAlarm 0 (64 + 64 * r + 28) 9 &&
  (match k with
    | 0 => true
    | 3 => clearIn (ruleWord a r 5) (bitsMask 31 1)
    | 4 => clearIn (ruleWord a r 5) (bitsMask 31 4)
    | _ => decide (ruleWord a r 5 = 0))

/-- The patched fields of a template as (offset, length) in its frame (R236). -/
def tplFields (a : Img) (t : Nat) : List (Nat × Nat) :=
  [(field (tplWord a t 4) 10 0, 5), (field (tplWord a t 4) 26 16, 5), (field (tplWord a t 5) 10 0, 8), (field (tplWord a t 5) 26 16, 4)] ++
  (List.range (tplEntries a t)).flatMap fun e => [(field (tplEntry a t e 1) 10 0, 1), (field (tplEntry a t e 1) 26 16, 2)]

/-- The ports that a PORT field names: 4 is the pair of ports 0 and 1. -/
def portsOf (p : Nat) : List Nat := if p = 4 then [0, 1] else [p]

/-- A PORT field names no disabled port and no pair that is not configured (R131, R236). DESIGN CHOICE (log 90): a disabled port is one with SPEED = 0, whatever
PRT_CTLn.DISABLE says, which host software may change at any time. -/
def State.portNamed (s : State) (p : Nat) : Bool :=
  decide (p ≤ 4) && (portsOf p).all (fun n => decide (s.speed n ≠ 0)) && (decide (p ≠ 4) || decide (s.pairMode ≠ 0))

/-- One template with EN = 1 (R236). -/
def State.templateOk (s : State) (a : Img) (t : Nat) : Bool :=
  let off := (tplWord a t 1).toNat
  let len := field (tplWord a t 2) 10 0
  let ent := (tplWord a t 6).toNat
  let n := secLen a secAlarm 0
  s.portNamed (tplPort a t) && !((portsOf (tplPort a t)).any fun p => decide (s.speed p = 1) && s.jumbo p) &&
  decide (tplEntries a t ≤ 32) && decide (field (tplWord a t 0) 11 10 ≤ 2) && decide (60 ≤ len) && decide (len ≤ 1518) &&
  decide (1 ≤ tplT0 a t) && decide (tplT0 a t ≤ 60000) && decide (1 ≤ tplT1 a t) && decide (tplT1 a t ≤ tplT0 a t) &&
  decide (off % 4 = 0) && decide (off + len ≤ n) && decide (ent % 4 = 0) && decide (ent + 8 * tplEntries a t ≤ n) &&
  (tplFields a t).all (fun p => decide (p.1 + p.2 ≤ len)) && rangesApart (tplFields a t) &&
  (tplRules a t).all (fun r => decide (r < ruleCount a)) && distinct (tplRules a t)

/-- The alarm section (R228, R236). -/
def State.alarmOk (s : State) (a : Img) : Bool :=
  let n := min (ruleCount a) 2048
  decide (133184 ≤ secLen a secAlarm 0) && decide (ruleCount a ≤ 2048) && (List.range n).all (ruleOk a) &&
  zeroIn a secAlarm 0 (64 + 64 * n) (16 * (2048 - n)) && (templatesOf a).all (s.templateOk a)

/-! ### Check 8: neighbour map, output streams, record templates (R83, R131, R254) -/

/-- The neighbour map entry of a furrow below FURROWS (R253, R254). -/
def neighbourEntryOk (a : Img) (f : Nat) : Bool :=
  decide (nbCount a f ≤ 32) && clearIn (nbWord a f 0) (bitsMask 31 11) && decide (nbRef a f ≤ 11) &&
  (List.range 16).all (fun i => clearIn (nbWord a f (1 + i)) (bitsMask 15 13 ||| bitsMask 31 29)) && decide (nbWord a f 17 = 0) &&
  ((List.range 32).drop (nbCount a f)).all (fun i => decide (nbCand a f i = 0)) &&
  (nbCands a f).all (fun c => decide (c < imgTable a) && stValid a c && decide (c ≠ f)) && distinct (nbCands a f)

/-- The neighbour map (R253, R254). -/
def neighbourOk (a : Img) : Bool :=
  let n := imgTable a
  decide (secLen a secNeighbour 0 = 589824) && (List.range n).all (neighbourEntryOk a) && zeroIn a secNeighbour 0 (72 * n) (18 * (8192 - n))

/-- The payload of an output stream's frame: the C37.118.2 message (R131, R132). -/
def outStreamBytes (a : Img) (n : Nat) : Nat :=
  16 + ((osBlocks a n).map fun f => 10 + 8 * stPhnmr a f + 4 * stAnnmr a f + 2 * stDgnmr a f).sum

/-- One output stream with EN = 1 (R131). DESIGN CHOICE (log 90): a stream on the pair (PORT 4) may have the long payload only where both ports have JUMBO set. -/
def State.outStreamOk (s : State) (a : Img) (n : Nat) : Bool :=
  let count := field (osWord a n 10) 8 0
  let jumbo := (portsOf (osPort a n)).all s.jumbo
  s.portNamed (osPort a n) && decide (1 ≤ osDiv a n) && decide (osDiv a n ≤ 24) && (fmOf (imgFmCode a)).all (fun fm => decide (fm % osDiv a n = 0)) &&
  decide (1 ≤ osBase a n) && decide (1 ≤ count) && decide (count ≤ 256) && decide ((osWord a n 11).toNat % 4 = 0) &&
  decide ((osWord a n 11).toNat + 4 * count ≤ secLen a secOutStream 0) &&
  (osBlocks a n).all (fun f => decide (f < imgTable a) && stValid a f && decide (stLinkPos a f = 0)) &&
  decide (outStreamBytes a n + (if osV6 a n then 20 else 0) ≤ if jumbo then 8972 else 1472)

/-- The output-stream definitions (R131). -/
def State.outStreamsOk (s : State) (a : Img) : Bool :=
  decide (4096 ≤ secLen a secOutStream 0) && ((List.range 64).filter (osEn a)).all (s.outStreamOk a)

/-- The output record templates (R83). -/
def recordTemplatesOk (a : Img) : Bool :=
  decide (secLen a secTemplate 0 = 4096) && (List.range 256).all fun t =>
    clearIn (secWord a secTemplate 0 (16 * t)) (bitsMask 31 7) && zeroIn a secTemplate 0 (16 * t + 8) 2

/-! ### Check 8: the operations of a variant (R81 to R83, R85, R187, R205, R216, R227, R230) -/

/-- The bytes that an argument delivers (R79, R83). -/
def argBytes (a : Img) (v o i : Nat) : Nat :=
  match argKind a v o i with
  | 0 => opLen a v (argIndex a v o i)
  | 1 => 4 * engineWords (argEngine a v o i) (argIndex a v o i)
  | 2 => 128 * field (argExtent a v o i) 13 0
  | _ => 64 * field (argExtent a v o i) 31 24

/-- A job that an ENGINE argument may name (R187, R205, R225). -/
def jobOk (a : Img) (v e job : Nat) : Bool :=
  if e = 0 then
    let g := job % 0x0400
    decide (job < 0x0800) && (fedGroups a v).contains g && (decide (job < 0x0400) || mgFo a g)
  else decide (e = 1) && (decide (job = 0) || (decide (0x0100 ≤ job) && decide (job < 0x0100 + ggCuts a)))

/-- Argument i of an operation (Table DPX-2). -/
def argOk (a : Img) (v o i : Nat) : Bool :=
  let k := argKind a v o i
  let e := argExtent a v o i
  decide (k ≤ 3) && (decide (k = 2) || decide (argBack a v o i = 0)) && decide (argBack a v o i ≤ 22) && (decide (k = 1) || decide (argEngine a v o i = 0)) &&
  (match k with
    | 0 => decide (argIndex a v o i < imgOps a v) && decide (e = 0)
    | 1 => jobOk a v (argEngine a v o i) (argIndex a v o i) && decide (e.toNat < 262144)
    | 2 => clearIn e (bitsMask 31 14) && decide (1 ≤ field e 13 0) && decide (argIndex a v o i + field e 13 0 ≤ 8192)
    | _ => decide (field e 23 0 + 64 * field e 31 24 ≤ secLen a secConst (v + 1)))

/-- The number of arguments of a computing type, least and most (Table DPX-6). -/
def argCounts (type : Nat) : Nat × Nat :=
  match type with
  | 0x01 => (1, 8)
  | 0x03 => (3, 3)
  | 0x05 => (1, 1)
  | 0x06 => (1, 2)
  | 0x0E => (1, 1)
  | _ => (2, 2)

/-- The bits of PARAM1 that a computing type uses (Table DPX-6). -/
def param1Bits (type : Nat) : Nat :=
  match type with
  | 0x01 => 0x3F
  | 0x02 => 0x103
  | 0x03 => 0x100
  | 0x04 => 0x100
  | 0x05 => 0
  | 0x06 => 0xF
  | 0x07 => 0x7F
  | 0x08 => 0x3
  | _ => 0x7

/-- The bytes that a computing type reads from argument i (Table DPX-6). -/
def argNeed (type n p1 i : Nat) : Nat :=
  let bcast := if p1 / 256 % 2 = 1 then 8 else 8 * n
  match type, i with
  | 0x02, 1 => bcast
  | 0x03, 1 => bcast
  | 0x04, 1 => bcast
  | 0x06, 0 => (if p1 / 4 % 2 = 1 then 8 * n else 4 * n) + (if p1 / 8 % 2 = 1 then 4 * n else 0)
  | 0x06, _ => 64
  | 0x07, 0 => 4 * n
  | 0x07, _ => 4 * p1
  | 0x08, 0 => 4 * n
  | 0x08, _ => if p1 % 2 = 1 then 8 else 8 * n
  | 0x0E, _ => 4 * n
  | _, _ => 8 * n

/-- The length of a computing type's result (Table DPX-6). -/
def resultBytes (type n p1 : Nat) : Nat :=
  match type with
  | 0x01 => (if p1 % 32 < 12 then 8 * n else 4 * n) + (if p1 / 32 % 2 = 1 then 4 * n else 0)
  | 0x02 => 8 * n
  | 0x03 => 8 * n
  | 0x06 => 64
  | 0x08 => 8 * n
  | 0x0E => 0
  | _ => 4 * n

/-- A computing operation agrees with Table DPX-6 (R82). -/
def computeOk (a : Img) (v o : Nat) : Bool :=
  let t := opType a v o
  let n := opParam0 a v o
  let p1 := opParam1 a v o
  let args := List.range (opArgs a v o)
  decide ((argCounts t).1 ≤ args.length) && decide (args.length ≤ (argCounts t).2) && decide (p1 &&& param1Bits t = p1) &&
  decide (opLen a v o = (resultBytes t n p1 + 63) / 64 * 64) &&
  (if t = 0x01 then
    args.all (fun i => decide (argKind a v o i = 2)) && decide (p1 % 32 ≤ 20) &&
    decide (n = (args.map fun i => field (argExtent a v o i) 13 0).sum) &&
    args.all fun i => (List.range (field (argExtent a v o i) 13 0)).all fun j => keptFurrow a v (argIndex a v o i + j)
  else
    args.all (fun i => (decide (argKind a v o i = 0) || decide (argKind a v o i = 3)) && decide (argNeed t n p1 i ≤ argBytes a v o i)) &&
    (match t with
      | 0x06 => (decide (p1 / 4 % 2 = 0) || decide (p1 % 4 = 0) || decide (p1 % 4 = 3)) && (decide (args.length = 1) || decide (argKind a v o 1 = 3))
      | 0x07 => decide (1 ≤ p1) && decide (p1 ≤ 64) && decide (argKind a v o 1 = 3)
      | 0x08 => decide (argKind a v o 1 = 3)
      | 0x0E => decide (argKind a v o 0 = 0)
      | _ => true))

/-- Some argument of an operation is a job of an engine. -/
def hasJob (a : Img) (v o e job : Nat) : Bool :=
  (List.range (opArgs a v o)).any fun i => decide (argKind a v o i = 1) && decide (argEngine a v o i = e) && decide (argIndex a v o i = job)

/-- The regions that a variant hands over by STATE_OUT, each with the engine and job it waits for (R205, R227). -/
def variantRegions (a : Img) (v : Nat) : List (Nat × Nat × Nat) :=
  (fedGroups a v).flatMap (fun g => (g, 0, g) :: if mgFo a g then [(0x0400 + g, 0, 0x0400 + g)] else []) ++
  if 0 < ggBranches a then [(0x0800, 1, 0)] else []

/-- A hand-over operation (R83, R187, R205, R216, R230). -/
def handOverOk (a : Img) (v o : Nat) : Bool :=
  let p0 := opParam0 a v o
  let p1 := opParam1 a v o
  let n := opArgs a v o
  let first := argKind a v o 0
  match opType a v o with
  | 0x09 => decide (p1 < imgGroups a) && decide (p0 = mgM a p1) && decide ((opClass a v o = 0) = mgSent a p1) && decide (1 ≤ n) && decide (first = 0)
  | 0x0A => decide (opClass a v o = 0) && decide (1 ≤ n) && decide (first = 0) &&
    (if p1 < 0x0100 then decide (256 * p1 < ggBranches a) && decide (p0 = min 256 (ggBranches a - 256 * p1))
    else decide (p1 < 0x0100 + ggCuts a) && decide (p0 = 1))
  | 0x0B => decide (p1 < ruleCount a) && decide (opClass a v o = ruleClass a p1) && decide (1 ≤ n) &&
    (match ruleKind a p1 with
      | 0 => decide (first = 0)
      | 1 => decide (first = 1) && decide (argEngine a v o 0 = 0) && decide (argIndex a v o 0 < 0x0400)
      | 2 => decide (first = 1) && decide (argEngine a v o 0 = 0) && decide (0x0400 ≤ argIndex a v o 0)
      | 3 => decide (first = 1) && decide (argEngine a v o 0 = 1) && decide (argIndex a v o 0 = 0)
      | _ => decide (first = 1) && decide (argEngine a v o 0 = 1) && decide (0x0100 ≤ argIndex a v o 0))
  | 0x0C => (variantRegions a v).any fun r => decide (r.1 = p1) && hasJob a v o r.2.1 r.2.2
  | _ => flag (secWord a secTemplate 0 (16 * p1)) 0 && decide (p1 < 256) && decide (opLen a v o = 0) &&
    decide (64 + ((List.range n).map (argBytes a v o)).sum = 64 * p0)

/-- One operation descriptor with its arrays (Tables DPX-1, DPX-2, R81). -/
def opOk (a : Img) (v o : Nat) : Bool :=
  let plots := variantPlots v
  let t := opType a v o
  let waits := ((List.range (opArgs a v o)).filter fun i => decide (argKind a v o i < 2)).length
  decide (1 ≤ t) && decide (t ≤ 0x0E) && clearIn (opWord a v o 0) (bitsMask 31 23) && clearIn (opWord a v o 1) (bitsMask 31 20) &&
  clearIn (opWord a v o 4) (bitsMask 31 18) && clearIn (opWord a v o 5) (bitsMask 31 19) &&
  decide (opPlot a v o < plots) && (opGeneral a v o || decide (opClass a v o = 0)) && decide (opRefMode a v o ≤ 2) &&
  decide ((opRefMode a v o = 0) = (opClass a v o ≠ 0)) && decide (opRefPlot a v o < plots) && (decide (opRefMode a v o = 2) || decide (opRefPlot a v o = 0)) &&
  decide (opWait a v o = waits) && decide (opWait a v o ≤ 8) && decide (opArgs a v o ≤ 8) &&
  decide ((opWord a v o 2).toNat + 8 * opArgs a v o ≤ secLen a secOps (v + 1)) &&
  decide ((opWord a v o 3).toNat + 4 * opSuccs a v o ≤ secLen a secOps (v + 1)) &&
  (List.range (opSuccs a v o)).all (fun i => clearIn (secWord a secOps (v + 1) ((opWord a v o 3).toNat + 4 * i)) (bitsMask 31 16)) &&
  decide (opAddr a v o % 64 = 0) && decide (opLen a v o % 64 = 0) && decide (opLen a v o ≤ 262144) &&
  (opDest a v o).getLsbD (opPlot a v o) && (decide (32 ≤ plots) || clearIn (opDest a v o) (bitsMask 31 plots)) &&
  (List.range (opArgs a v o)).all (argOk a v o) &&
  if decide (t ≤ 0x08) || decide (t = 0x0E) then computeOk a v o else handOverOk a v o

/-- Every OP argument is matched by exactly one successor entry in its producer, and the reverse (R81). -/
def graphOk (a : Img) (v : Nat) : Bool :=
  let ops := List.range (imgOps a v)
  (ops.flatMap fun o => ((List.range (opArgs a v o)).filter fun i => decide (argKind a v o i = 0)).map fun i => (argIndex a v o i, o)).isPerm
    (ops.flatMap fun o => (opSuccList a v o).map fun k => (o, k))

/-- The ready-list and placement section of a variant (R85). -/
def readyOk (a : Img) (v : Nat) : Bool :=
  let roots := rootList a v
  decide (132 + 4 * field (readyWord a v 32) 16 0 ≤ secLen a secReady (v + 1)) && clearIn (readyWord a v 32) (bitsMask 31 17) &&
  (List.range roots.length).all (fun i => clearIn (readyWord a v (33 + i)) (bitsMask 31 16)) &&
  (List.range 32).all (fun p => let w := readyWord a v p
    if p < variantPlots v then
      clearIn w (bitsMask 31 10) && decide (1 ≤ field w 3 0) && decide (2 ≤ field w 8 4) && decide (field w 3 0 + field w 8 4 + field w 9 9 = 16)
    else decide (w = 0)) &&
  roots.isPerm ((List.range (imgOps a v)).filter fun o => decide (opWait a v o = 0)) &&
  (roots.dropWhile fun o => decide (opClass a v o = 0)).all fun o => decide (opClass a v o ≠ 0)

/-- The PARAM1 values of the operations of a type. -/
def typeParams (a : Img) (v t : Nat) : List Nat :=
  ((List.range (imgOps a v)).filter fun o => decide (opType a v o = t)).map (opParam1 a v)

/-- A variant's sections (R81, R85, R98, R187, R205, R216, R227, R230). -/
def variantOk (a : Img) (v : Nat) : Bool :=
  let blocks := (List.range ((ggBranches a + 255) / 256)) ++ (List.range (ggCuts a)).map (0x0100 + ·)
  decide (32 * imgOps a v ≤ secLen a secOps (v + 1)) && decide (secLen a secKept (v + 1) = 1024) && readyOk a v &&
  (List.range (imgOps a v)).all (opOk a v) && graphOk a v &&
  distinct (fedGroups a v) && (typeParams a v 0x0A).isPerm blocks && (typeParams a v 0x0C).isPerm ((variantRegions a v).map (·.1)) &&
  (typeParams a v 0x0B).isPerm ((rulesOf a).filter fun r => !ruleSuspended a v r)

/-- The reach into earlier columns fits the Basin (R159). -/
def backOk (a : Img) : Bool := (fmOf (imgFmCode a)).all fun fm => decide (imgBmax a * 100000 + imgWd a * fm ≤ 2300000)

/-- Check 8 of Table SCH-4. DEDUCED (log 65): a section is refused when it is not laid out as its table states, ranges, reserved and zero
entries included. -/
def State.sectionsOk (s : State) (a : Img) : Bool :=
  directoryOk a && hashOk a && streamOk a && modalOk a && gridOk a && s.alarmOk a && neighbourOk a && s.outStreamsOk a &&
  recordTemplatesOk a && variants.all (variantOk a) && backOk a && (!s.gzlOn || copyFits a)

/-! ### Checks 9 to 16 -/

/-- Check 12: ranges of Table SCH-1. -/
def sizeOk (a : Img) : Bool :=
  decide (1 ≤ imgFurrows a) && decide (imgFurrows a ≤ 8192) && decide (imgGroups a ≤ 1024) && decide (imgOutStreams a ≤ 64) &&
  variants.all fun v => decide (1 ≤ imgOps a v) && decide (imgOps a v ≤ 65536)

/-- Check 13: every stream rate divides Fm (R37). -/
def ratesOk (a : Img) (fm : Nat) : Bool :=
  (stBlocks a).all fun f => decide (1 ≤ stRateDiv a f) && decide (stRateDiv a f ≤ 240) && decide (fm % stRateDiv a f = 0)

/-- Check 14: the budgets of compute window and state copy (R19). -/
def budgetOk (a : Img) (fm : Nat) : Bool :=
  variants.all fun v => decide (imgCw a v * fm * 100 ≤ 85 * 10 ^ 9) && decide (imgSc a v * fm * 100 ≤ 5 * 10 ^ 9)

/-- Check 15: the Sentinel bound at every declared level, and zero exactly below MIN_LEVEL (R50). DESIGN CHOICE (log 90): MIN_LEVEL code 3, which Table SCH-1
does not define and no check names, is judged by its DS_NS alone, with no level below it. -/
def sentinelOk (a : Img) : Bool :=
  variants.all fun v => [0, 1, 2].all fun l =>
    if imgMinLevel a < l then decide (imgDs a v l = 0)
    else decide (0 < imgDs a v l) && decide (imgDs a v l ≤ if l = 2 then 2410000 else 1190000)

/-- PWR_DVFS_CFG.CEIL as a level (R528, R544). -/
def State.ceiling (s : State) : Nat := levelOf (s.regField Reg.pwrDvfsCfg 1 0)

/-- The checks 4 to 16 of Table SCH-4 in their order (R55): the reason code of the first that fails. -/
def State.imageReason (s : State) (a : Img) (length : Nat) : Option Nat :=
  let fm := s.fm
  let wd := s.regField Reg.tckWd 17 0
  if !formatOk a then some 0x01
  else if imgLen a ≠ length then some 0x02
  else if sha256 (imgKey a) ≠ s.nvm.fuses.imageKeyHash then some 0x04
  else if !signatureOk a then some 0x03
  else if !s.sectionsOk a then some 0x05
  else if field (imgWord a 12) 3 0 ≠ 4 || field (imgWord a 12) 9 4 ≠ 32 then some 0x06
  else if (fmOf (imgFmCode a)).isNone || imgFmCode a ≠ s.regField Reg.tckFm 3 0 then some 0x07
  else if imgWd a < 50 || 2300000 / fm < imgWd a || imgWd a ≠ wd then some 0x08
  else if !sizeOk a then some 0x0B
  else if !ratesOk a fm then some 0x0C
  else if !budgetOk a fm then some 0x09
  else if !sentinelOk a then some 0x0A
  else if imgMinLevel a < s.ceiling then some 0x0D
  else none

end Sys2Proof.Machine
end

