-- ==== Sys2Proof/Machine/Sch.lean ====
section
/-! DEFINITION. Pitching an image: PITCH, PITCH_ABORT, loading and verification in slack (R55 to R63). -/
namespace Sys2Proof.Machine

/-! ### The order of slack work (R26) -/

/-- CORE and PLOT are due to return to PLLC: one of them is on a fallback and PLLC is qualified, and a slack has begun since (R503), or
the device is in slack at all times (R49). -/
def State.returnDue (s : State) : Bool :=
  s.clkFallback && s.clk.qualified.getLsbD ClkSrc.pllc.code && (!s.gridOn || !s.clk.returnWaits)

/-- A sluice request is due: a slack has begun since it was made, or the device is in slack at all times (R49, R508). -/
def State.sluiceDue (s : State) : Bool := s.clk.sluice.isSome && (!s.gridOn || !s.clk.sluiceWaits)

/-- The level that images need: MIN_LEVEL of the active image and of one in RAISING, none without either (R528). -/
def State.neededLevel (s : State) : Option Nat :=
  let act := if s.sch.activeValid then [imgMinLevel s.img] else []
  let up := if s.sch.pitch.any fun p => decide (p.state = .raising) then [imgMinLevel s.sch.shadow] else []
  minOf (act ++ up)

/-- The level is below one that an image needs (R528). -/
def State.raiseDue (s : State) : Option Nat := s.neededLevel.filter fun n => decide (n < s.pwr.level)

/-- PLLC runs at a level: start-up has reached step 8 (R529). -/
def State.levelSet (s : State) : Bool := decide (s.pwr.level ≠ 3)

/-- The request that can be carried out now: written before this slack, and not a raise that brace defers (R523, R528). -/
def State.requestDue (s : State) : Option Nat :=
  s.pwr.request.filter fun t => !(s.gridOn && s.pwr.requestWaits) && !(s.pwr.brace && decide (t < s.pwr.level))

/-- A DVFS step can be taken now: the divider of one under way, a raise that an image needs, or a request that brace does not hold (R523, R527 to R529). -/
def State.dvfsDue (s : State) : Bool :=
  s.levelSet && !(s.gridOn && s.pwr.retryWaits) &&
  match s.pwr.step with
  | some d => d.settled
  | none => match s.raiseDue with
    | some _ => !s.pwr.brace || s.requestDue.isSome
    | none => s.requestDue.isSome

/-- A PITCH can be carried on now: loading, verification, or a raise under way (R57). DEDUCED (log 66): a raise that waits for its voltage holds what
follows it too. -/
def State.pitchDue (s : State) : Bool :=
  match s.sch.pitch with
  | none => false
  | some p => match p.state with
    | .loading => s.gate 46 && decide (s.sys.step = 14)
    | .verifying => true
    | .raising => s.pwr.step.isSome
    | .armed => false

/-- The tick ID of this second is not stored yet (R36). -/
def State.storeDue (s : State) : Bool := s.gridOn && decide (s.tck.storedSec ≠ some s.nowSec) && s.tck.lastInstant.isSome

/-- The device is in slack and can work. -/
def State.slackOpen (s : State) : Bool := s.slack && s.awake

/-- Slack work from a place of R26's order on can be taken: nothing of the places before it is due. Place 3 is a DVFS step, 4 pitch work, 5 the tick ID store,
6 scrubbing, calibration, telemetry and recorder housekeeping. -/
def State.slackAt (s : State) (place : Nat) : Bool :=
  s.slackOpen && !s.returnDue && !s.sluiceDue && !(decide (3 < place) && s.dvfsDue) && !(decide (4 < place) && s.pitchDue) &&
  !(decide (5 < place) && s.storeDue)

/-! ### Commands -/

/-- The offset and length that R56 accepts. -/
def pitchPlaceOk (offset length : Word) : Bool :=
  (decide (offset = 0) || decide (offset = 4194304)) && decide (length.toNat % 64 = 0) && decide (256 ≤ length.toNat) &&
  decide (length.toNat ≤ 4194304)

/-- A PITCH refused as it is accepted (checks 1 and 2 of Table SCH-4). -/
def State.pitchTurnedAway (s : State) (reason : Nat) : State × CmdEnd :=
  ((s.onSch fun x => { x with lastSwitched := false }).pitchRefused reason, .done { status := stRefused, detail := reason })

/-- PITCH (R55, R56, R58, R63): a long command; `image` is what the host has placed in the half of the staging region that the offset names. Its acceptance
is the entry to LOADING (Table SCH-5), from which the shadow is not valid. -/
def execPitch (h : CmdHdr) (offset length : Word) (image : List Byte) (s : State) : Answer :=
  .next (s.command h false fun c x =>
    if x.sch.pitch.isSome then (x, .done { status := stBusy })
    else if !x.inService then x.pitchTurnedAway 0x0E
    else if !x.regBit Reg.schStage 31 || !pitchPlaceOk offset length then x.pitchTurnedAway 0x11
    else
      (x.onSch fun y =>
        { y with
          shadowValid := false
          staging0 := if offset = 0 then image else y.staging0
          staging1 := if offset = 0 then y.staging1 else image
          pitch := some { ref := c, offset := offset.toNat, length := length.toNat }, lastSwitched := false }, .long))

/-- PITCH_ABORT (R62). -/
def execPitchAbort (h : CmdHdr) (s : State) : Answer :=
  .next (s.command h false fun _ x =>
    if x.sch.pitch.isSome then (x.pitchEnds { status := stAborted } false, .done { status := stOk })
    else if x.sch.lastSwitched then (x, .done { status := stTooLate })
    else (x, .done { status := stIdle }))

/-! ### Loading and verification (R57, R58, R510) -/

/-- Gates 33, 34 and 35 are opened before LOADING begins (R510). -/
def State.openEngines (s : State) : State := s.onClk fun c => { c with gates := c.gates ||| (7 <<< 33) }

/-- The state of a PITCH in progress. -/
def State.pitchState (s : State) (p : PitchState) : State := s.onSch fun x => { x with pitch := x.pitch.map fun q => { q with state := p } }

/-- The image as the staging half holds it. -/
def State.stagedImage (s : State) (p : Pitch) : Img := ((if p.offset = 0 then s.sch.staging0 else s.sch.staging1).take p.length).toArray

/-- LOADING (R57, R58, R537): in slack, from step 14 on, the staged image is copied into the shadow half; an uncorrectable error ends the PITCH
with LOAD_ERROR. -/
def execLoading (memErr : Bool) (s : State) : Answer :=
  match s.sch.pitch with
  | none => .next s
  | some p =>
    if decide (p.state = .loading) && s.slackAt 4 && s.gate 46 && decide (s.sys.step = 14) then
      let s1 := s.openEngines
      if memErr then .next (s1.pitchRefused 0x12)
      else .next ((s1.onSch fun x => { x with shadow := s.stagedImage p }).pitchState .verifying)
    else .next s

/-- The checks of Table SCH-4 on the loaded image: refused with the reason, or on to RAISING or ARMED (R57, R59). -/
def State.verified (s : State) (p : Pitch) : State :=
  match s.imageReason s.sch.shadow p.length with
  | some r => s.pitchRefused r
  | none => s.pitchState (if s.levelReaches (imgMinLevel s.sch.shadow) then .armed else .raising)

/-- VERIFYING (R55, R57, R64). -/
def execVerifying (memErr : Bool) (s : State) : Answer :=
  match s.sch.pitch with
  | none => .next s
  | some p =>
    if decide (p.state = .verifying) && s.slackAt 4 then
      .next (if memErr then s.schedError .double false else s.verified p)
    else .next s

/-! ### The tick ID store (R36) -/

/-- TICK_ID_STORE (R26, R36): once per second in slack, after pitch work. The current tick ID is the last one emitted. -/
def execTickIdStore (s : State) : Answer :=
  if s.slackAt 5 && s.storeDue then
    .next ((s.onTck fun t => { t with storedSec := some s.nowSec }).nvmWrite (.tickId (s.tck.nextId - 1)))
  else .next s

end Sys2Proof.Machine
end

