-- ==== Sys2Proof/Machine/Clk.lean ====
section
/-! DEFINITION. Clock sources, domains on their fallbacks, returns, sluices, calibration (R495 to R510). -/
namespace Sys2Proof.Machine

/-! ### Sources and domains (Tables CLK-1, CLK-2) -/

/-- XTA stands in for FIRC until the next power-on reset (R505). -/
def State.xtaSub (s : State) : Bool := s.aon.xtaSub

/-- The last fallback of every domain: FIRC, or XTA in its place (R502, R505). -/
def State.lastFallback (s : State) : ClkSrc := if s.xtaSub then .xta else .firc

/-- The source of a domain in service (Table CLK-2). -/
def State.homeSource (s : State) (d : Nat) : ClkSrc :=
  [.pllc, .pllc, .pllt, .pllt, .pllm, .plls, s.lastFallback, .sirc].getD d .firc

/-- The fallbacks that Table CLK-2 allows a domain, default first. -/
def allowedFallbacks (d : Nat) : List ClkSrc :=
  [[.firc, .pllt], [.firc, .pllt], [.firc, .xta], [.xta, .firc], [.firc], [.firc], [.xta], [.xtb]].getD d []

/-- The source of a code (Table CLK-1). -/
def srcOfCode (c : Nat) : ClkSrc := [.firc, .sirc, .xta, .xtb, .pllc, .plls, .pllt, .pllm].getD c .firc

/-- The designated fallback of a domain (R497). -/
def State.designated (s : State) (d : Nat) : ClkSrc :=
  let f := srcOfCode (s.regField (Reg.clkDomCfg d) 2 0)
  let l := allowedFallbacks d
  let g := if l.contains f then f else l.headD .firc
  if s.xtaSub && decide (g = .firc) then .xta else g

/-- A source is qualified (R498). -/
def State.qualified (s : State) (x : ClkSrc) : Bool := s.clk.qualified.getLsbD x.code

/-- The source derived from: what a PLL's qualification rests on (Table CLK-1). -/
def reference : ClkSrc → Option ClkSrc
  | .pllc => some .xta
  | .plls => some .xta
  | .pllt => some .xta
  | .pllm => some .pllt
  | _ => none

/-- A source is a PLL. -/
def isPll (x : ClkSrc) : Bool := (reference x).isSome

/-- What a trip of a source disqualifies: itself and every PLL derived from it (R495). -/
def tripped (x : ClkSrc) : List ClkSrc :=
  match x with
  | .xta => [.xta, .pllc, .plls, .pllt, .pllm]
  | .pllt => [.pllt, .pllm]
  | y => [y]

/-- The sources of a mask cleared. -/
def dropSources (m : BitVec 8) (l : List ClkSrc) : BitVec 8 := l.foldl (fun (m : BitVec 8) (x : ClkSrc) => m &&& ~~~((1 : BitVec 8) <<< x.code)) m

/-- A source added to a mask. -/
def addSource (m : BitVec 8) (x : ClkSrc) : BitVec 8 := m ||| (1 <<< x.code)

/-! ### Trips and fault switches (R499, R501, R502) -/

/-- A trip is noted: the source and its PLLs lose qualification and lock; the fourth trip within a second locks the source out (R495, R499). -/
def State.noteTrip (s : State) (x : ClkSrc) : State :=
  let gone := tripped x
  let s := if x = .xtb then s.rtcCounts true else if x = .sirc then s.rtcMark else s
  let recent := (x, s.tim.mono) :: s.clk.trips.filter fun p => decide (s.tim.mono < p.2 + nsPerSec)
  let out := decide (4 ≤ (recent.filter fun p => decide (p.1 = x)).length)
  let s1 := s.onClk fun c =>
    { c with
      qualified := dropSources c.qualified gone, locked := dropSources c.locked gone, trips := recent
      lockout := if out then addSource c.lockout x else c.lockout }
  if out then s1.setBits Reg.clkFault (bit 8) else s1

/-- The source that a domain switches to at a fault (R502): the designated fallback, else FIRC, else another qualified one that Table CLK-2 names
for the domain; none when there is no such source. -/
def State.faultChoice (s : State) (d : Nat) : Option ClkSrc :=
  ([s.designated d, s.lastFallback] ++ allowedFallbacks d ++ [s.homeSource d]).find? s.qualified

/-- Domain d is driven by a source. -/
def State.drive (s : State) (d : Nat) (x : ClkSrc) : State :=
  s.onClk fun c => { c with domSrc := setAt c.domSrc d x, fallback := setAt c.fallback d (decide (x ≠ s.homeSource d)) }

/-- What leaving its source does to a domain's blocks (Table CLK-4): CORE and PLOT add their cause, the timebase restarts its run of 96, the ports
lose link, labels stop. -/
def State.domainLost (s : State) (d : Nat) : State :=
  match d with
  | 0 => s.clockCause
  | 1 => s.clockCause
  | 3 => s.onClk fun c => { c with tbPhase := 0 }
  | 4 => s.onLmu fun l => { l with next := none }
  | 5 => (List.range 4).foldl State.linkLost s
  | _ => s

/-- The fault switch of domain d from the source that drives it (R502). -/
def State.faultSwitch (s : State) (d : Nat) (x : ClkSrc) : State :=
  let old := s.clk.domSrc.getD d .firc
  let s1 := (s.drive d x).onClk fun c => { c with lastFailed := setAt c.lastFailed d (some old) }
  ((((s1.inc (Reg.clkDomSwitchCnt d)).setBits Reg.clkFault (bit d)).event 0x0C01 clsWatch [w32 d, w32 old.code, w32 x.code])).domainLost d

/-- The fault switches of the domains in a list; answers the first domain that has no source left, with the source that failed it (R502). -/
def State.faultSwitches (s : State) (gone : List ClkSrc) : List Nat → State × Option (Nat × ClkSrc)
  | [] => (s, none)
  | d :: ds =>
    let x := s.clk.domSrc.getD d .firc
    if !gone.contains x then State.faultSwitches s gone ds
    else match s.faultChoice d with
      | none => (s, some (d, x))
      | some y => State.faultSwitches (s.faultSwitch d y) gone ds

/-- A monitor trips (R499, R501, R502). A monitor watches a qualified source; answers the domain left without a source, if there is one. -/
def State.trip (s : State) (x : ClkSrc) : State × Option (Nat × ClkSrc) :=
  if !s.qualified x then (s, none) else (s.noteTrip x).faultSwitches (tripped x) (List.range 8)

/-! ### Qualification and returns (R498, R503) -/

/-- A source can qualify: it is not locked out, and its reference is qualified (R495, R499). -/
def State.canQualify (s : State) (x : ClkSrc) : Bool :=
  !s.qualified x && !s.clk.lockout.getLsbD x.code && (reference x).all s.qualified

/-- A source becomes qualified; a PLL holds lock (R498). The RTC counts XTB again once it qualifies (R504). -/
def State.qualify (s : State) (x : ClkSrc) : State :=
  (if x = .xtb then s.rtcCounts false else if x = .sirc then s.rtcMark else s).onClk fun c =>
    { c with qualified := addSource c.qualified x, locked := if isPll x then addSource c.locked x else c.locked
             returnWaits := c.returnWaits || decide (x = ClkSrc.pllc) }

/-- What the return of a domain to its source does: MEAS re-phases the LMU (Table CLK-4, R282, R345). -/
def State.domainBack (s : State) (d : Nat) : State :=
  if d = 4 then s.nrgRephase.lmuStart.lmuRephase.capStep else s

/-- The domains other than CORE and PLOT that are on a fallback return to the source that has qualified (R503). -/
def State.returns (s : State) (x : ClkSrc) : State :=
  ([2, 3, 4, 5, 6, 7].filter fun d => s.clk.fallback.getD d false && decide (s.homeSource d = x)).foldl
    (fun (y : State) d => (y.drive d x).domainBack d) s

/-- CLOCK_RETURN (R503): at the start of a slack CORE and PLOT return to PLLC together. -/
def execClockReturn (s : State) : Answer :=
  if s.slack && s.awake && s.returnDue then .next ((s.drive 0 .pllc).drive 1 .pllc) else .next s

/-! ### Sluices (R507 to R510) -/

/-- A write of CLK_SLUICE_REQ (R508): ignored while a request is pending. -/
def State.requestSluice (s : State) (gate : Nat) (open_ : Bool) : State :=
  if s.clk.sluice.isSome then s
  else (s.setReg Reg.clkSluiceReq (place gate 0 ||| placeB open_ 8)).onClk fun c =>
    { c with sluice := some (gate, open_), sluiceGate := gate, sluiceWaits := true }

/-- SLUICE_REQUEST (R508, R515): setup registers are writable from start-up step 9. -/
def execSluiceRequest (gate : BitVec 6) (open_ : Bool) (s : State) : Answer :=
  if s.hostUp then .next (s.requestSluice gate.toNat open_) else .next s

/-- The parent of a gate (Table CLK-5). -/
def gateParent (g : Nat) : Option Nat :=
  if decide (1 ≤ g) && decide (g ≤ 32) then some 0
  else if g = 34 || g = 35 then some 33
  else if g = 39 then some 38
  else if decide (41 ≤ g) && decide (g ≤ 44) then some 40
  else none

/-- A child of a gate is open. -/
def State.childOpen (s : State) (g : Nat) : Bool := (List.range 47).any fun c => decide (gateParent c = some g) && s.gate c

/-- The condition under which a gate may close (Table CLK-5), its children apart; during a PITCH none of gates 33 to 35 (R510). -/
def State.gateClosable (s : State) (g : Nat) : Bool :=
  if decide (1 ≤ g) && decide (g ≤ 32) then s.dpx.fenceEff.getLsbD (g - 1)
  else if g = 33 then s.sch.pitch.isNone
  else if g = 34 || g = 35 then !s.sch.activeValid && s.sch.pitch.isNone
  else if g = 36 then !s.regBit Reg.arcCfg 0 && s.arc.replay.isNone
  else if g = 37 then s.cap.units.all fun x => decide (x.state = .idle)
  else if g = 38 then (List.range 24).all (fun c => !s.chOn c) && !s.regBit Reg.lmuCfg 0 && !s.regBit Reg.lmuCfg 1
  else if g = 39 then (List.range 4).all fun p => !s.nrgOn p
  else if decide (41 ≤ g) && decide (g ≤ 44) then decide (s.speed (g - 41) = 0) || (s.port (g - 41)).disabled
  else if g = 45 then !s.gzlOn
  else if g = 46 then !s.regBit Reg.schStage 31 && !s.arcRegionOn && (List.range 8).all fun u => !s.regBit (Reg.capUBase u) 31
  else true

/-- A sluice opens or closes; a block that opens resumes from the state it held, and MEAS labels on from the next label (R285, R510). -/
def State.setGate (s : State) (g : Nat) (open_ : Bool) : State :=
  let m : BitVec 47 := 1 <<< g
  let s1 := s.onClk fun c => { c with gates := if open_ then c.gates ||| m else c.gates &&& ~~~m }
  if g = 38 && open_ then
    let n := labelAtOrAfter s.tim.now
    s1.onLmu fun l =>
      { l with
        next := l.next.map fun _ => n
        chans := l.chans.map fun x => { x with changes := x.changes.map fun d => { d with label := max d.label n } } }
  else s1

@[reducible] def sluiceDone : Nat := 1
@[reducible] def sluiceBusy : Nat := 2
@[reducible] def sluiceChild : Nat := 3
@[reducible] def sluiceParent : Nat := 4
@[reducible] def sluiceInUse : Nat := 5
@[reducible] def sluiceBad : Nat := 6

/-- The result of a request (Table CLK-6, R509). -/
def State.sluiceResult (s : State) (g : Nat) (open_ quiescent : Bool) : Nat :=
  if 46 < g then sluiceBad
  else if s.gate g = open_ then sluiceDone
  else if open_ then (if (gateParent g).all s.gate then sluiceDone else sluiceParent)
  else if s.childOpen g then sluiceChild
  else if !s.gateClosable g then sluiceInUse
  else if !quiescent then sluiceBusy
  else sluiceDone

/-- SLUICE_CHANGE (R26, R508, R509): at the start of a slack, after the returns of R503. `quiescent` is the block's acknowledgement. -/
def execSluiceChange (quiescent : Bool) (s : State) : Answer :=
  match s.clk.sluice with
  | none => .next s
  | some (g, open_) =>
    if !s.slack || !s.awake || s.returnDue || !s.sluiceDue then .next s
    else
      let r := s.sluiceResult g open_ quiescent
      let s1 := s.onClk fun c => { c with sluice := none, sluiceResult := r }
      .next (if r = sluiceDone then s1.setGate g open_ else s1)

/-! ### Calibration (R506) -/

/-- The trim after a count of FIRC against 2^20 cycles of XTA (R506). DEDUCED (log 71): as many steps of 0.05 % (48 kHz) as bring the measured frequency
nearest to 96 MHz, the code rising with the frequency, within its 10 bits. -/
def trimmed (trim : Nat) (hz : Nat) : Nat :=
  let d : Int := (96000000 - (hz : Int) + 24000) / 48000
  (max 0 (min 1023 ((trim : Int) + d))).toNat

/-- FIRC_CALIBRATION (R26, R506): once per second in slack, while XTA is qualified. The counts are those of a run of 2^20 XTA cycles. -/
def execFircCalibration (fircCount sircCount : Nat) (s : State) : Answer :=
  if !s.slackAt 6 || !s.qualified .xta || decide (s.clk.calSec = some s.nowSec) then .next s
  else
    let hz (n : Nat) : Nat := (n * 25000000 + 524288) / 1048576
    .next (((((s.rtcMark.onClk fun c => { c with calSec := some s.nowSec }).setReg Reg.clkFircHz (w32 (hz fircCount))).setReg Reg.clkSircHz (w32 (hz sircCount))).setReg Reg.clkFircTrim
      (w32 (trimmed (s.reg Reg.clkFircTrim).toNat (hz fircCount)))).inc Reg.clkCalCnt)

/-- OFFSET_TRACKING (R26, R296): in slack, the pending mean of a clean second updates the channel's offset. -/
def execOffsetTracking (c : Fin 24) (s : State) : Answer :=
  match (s.lmuCh c.val).mean with
  | none => .next s
  | some m =>
    if !s.slackAt 6 || !s.regBit Reg.lmuTrk 0 then .next s
    else
      let o := s.reg (Reg.lmuChOffset c.val)
      let k := fpPow2 (-(s.regField Reg.lmuTrk 4 1 : Nat))
      .next ((s.onCh c.val fun x => { x with mean := none }).setReg (Reg.lmuChOffset c.val) (fpAdd o (fpMul (fpSub m o) k)))

end Sys2Proof.Machine
end

