-- ==== Sys2Proof/Machine/FrameRx.lean ====
section
/-! DEFINITION. Received frames and their disposition (R103 to R111), host injection (R120, R126) and frames that leave (R130). -/
namespace Sys2Proof.Machine

/-! ### The layers of a frame -/

/-- A frame's own bytes once its VLAN tag is read: the VID of a single 802.1Q tag, the EtherType and where what follows it begins. -/
structure Layer2 where
  vid : Option Nat
  etherType : Nat
  body : Nat
deriving DecidableEq, Repr

/-- The EtherType of a frame, behind one 802.1Q tag (TPID 0x8100) if it carries one (R111). -/
def layer2 (bs : List Byte) : Layer2 :=
  if be16 bs 12 = 0x8100 then { vid := some (be16 bs 14 % 4096), etherType := be16 bs 16, body := 18 }
  else { vid := none, etherType := be16 bs 12, body := 14 }

/-- The VLAN state of a frame is accepted by PRT_VLANn (R111, R140). -/
def State.vlanOk (s : State) (n : Nat) (l : Layer2) : Bool :=
  match l.vid with
  | none => s.regBit (Reg.prtVlan n) 30
  | some v =>
    (s.regBit (Reg.prtVlan n) 12 && decide (s.regField (Reg.prtVlan n) 11 0 = v)) ||
    (s.regBit (Reg.prtVlan n) 28 && decide (s.regField (Reg.prtVlan n) 27 16 = v))

/-- Bytes padded to an even number, as an Internet checksum sums them. -/
def evenBytes (bs : List Byte) : List Byte := if bs.length % 2 = 0 then bs else bs ++ [0]

/-- An IP packet that carries UDP, or ICMPv6: source and destination as sixteen bytes for a key (R113), the destination as it stands, and what
the IP header holds. -/
structure IpPacket where
  v6 : Bool
  src : List Byte
  dst : List Byte
  proto : Nat
  body : Nat
deriving DecidableEq, Repr

/-- The IP layer of a frame: IPv4 without options or fragments and with a valid header checksum, or IPv6 without extension headers
(rows 7 to 10 of Table HDG-1, R111). -/
def ipLayer (bs : List Byte) (l : Layer2) : Option IpPacket :=
  let b := l.body
  if l.etherType = 0x0800 then
    if decide (bs.length < b + 20) || decide (bs.getD b 0 ≠ 0x45) || decide (be16 bs (b + 6) % 0x4000 ≠ 0) ||
      decide (checksum16 (sub bs b 20) ≠ 0) then none
    else some { v6 := false, src := sub bs (b + 12) 4, dst := sub bs (b + 16) 4, proto := (bs.getD (b + 9) 0).toNat, body := b + 20 }
  else if l.etherType = 0x86DD then
    if decide (bs.length < b + 40) || decide ((bs.getD b 0).toNat / 16 ≠ 6) then none
    else some { v6 := true, src := sub bs (b + 8) 16, dst := sub bs (b + 24) 16, proto := (bs.getD (b + 6) 0).toNat, body := b + 40 }
  else none

/-- The bytes of the pseudo-header of a UDP or ICMPv6 checksum. -/
def pseudoHeader (p : IpPacket) (len : Nat) : List Byte :=
  if p.v6 then p.src ++ p.dst ++ beNat 4 len ++ [0, 0, 0, BitVec.ofNat 8 p.proto]
  else p.src ++ p.dst ++ [0, BitVec.ofNat 8 p.proto] ++ beNat 2 len

/-- A checksum over a pseudo-header and the bytes behind it is right. -/
def ipSumOk (p : IpPacket) (bytes : List Byte) : Bool :=
  decide (checksum16 (evenBytes (pseudoHeader p bytes.length ++ bytes)) = 0)

/-- The UDP checksum passes (R117): zero under IPv4, or right. -/
def udpSumOk (bs : List Byte) (p : IpPacket) : Bool :=
  let len := be16 bs (p.body + 4)
  (decide (be16 bs (p.body + 6) = 0) && !p.v6) ||
  (decide (be16 bs (p.body + 6) ≠ 0) && ipSumOk p (sub bs p.body len))

/-- The source address as the key holds it (R113): an IPv4 source as ::ffff:a.b.c.d. -/
def keyAddr (p : IpPacket) : List Byte := if p.v6 then p.src else List.replicate 10 0 ++ [0xFF, 0xFF] ++ p.src

/-- The IP destination is one that the port takes (R111). -/
def State.dstOk (s : State) (n : Nat) (p : IpPacket) : Bool :=
  if p.v6 then s.regBit (Reg.prtCfg n) 7 && decide (p.dst = s.ipv6 n) && decide (s.ipv6 n ≠ List.replicate 16 0)
  else
    s.regBit (Reg.prtCfg n) 6 &&
    ((decide (p.dst = s.ipv4 n) && decide (s.ipv4 n ≠ [0, 0, 0, 0])) ||
     (s.regBit Reg.hdgCfg 1 && (List.range 8).any fun i =>
        decide (s.reg (Reg.hdgMcast i) ≠ 0) && decide (leBytes (s.reg (Reg.hdgMcast i)) = p.dst)))

/-- The UDP destination port is a non-zero UDP_A or UDP_B of PRT_UDPn (R111). -/
def State.udpPortOk (s : State) (n port : Nat) : Bool :=
  decide (port ≠ 0) && (decide (s.regField (Reg.prtUdp n) 15 0 = port) || decide (s.regField (Reg.prtUdp n) 31 16 = port))

/-! ### Rows 5 and 6 -/

/-- The PTP message that a frame carries (row 5): behind EtherType 0x88F7, or in UDP to port 319 or 320. -/
def ptpMessageOf (bs : List Byte) (l : Layer2) : Option (List Byte) :=
  if l.etherType = 0x88F7 then some (bs.drop l.body)
  else match ipLayer bs l with
    | some p =>
      let port := be16 bs (p.body + 2)
      if decide (p.proto = 17) && (decide (port = 319) || decide (port = 320)) then some (bs.drop (p.body + 8)) else none
    | none => none

/-- A PTP message came by the transport of the profile (R362, Table TIM-2): behind EtherType 0x88F7, or, under profile 2 with UDP = 1, over UDP/IPv4, an
event message to port 319 and a general message to port 320. -/
def State.ptpTransport (s : State) (bs : List Byte) (l : Layer2) (msg : List Byte) : Bool :=
  if decide (s.profile = 2) && s.regBit Reg.timCfg 11 then
    match ipLayer bs l with
    | some p => decide (l.etherType ≠ 0x88F7) && !p.v6 &&
      decide (be16 bs (p.body + 2) = if (msg.getD 0 0).toNat % 16 < 8 then 319 else 320)
    | none => false
  else decide (l.etherType = 0x88F7)

/-- A reply to the sender of a frame, under the VLAN tag that the frame carried. PRESUMED (log 82): the layouts of RFC 826 and RFC 4861. -/
def State.replyFrame (s : State) (n : Nat) (bs : List Byte) (l : Layer2) (dst : List Byte) (body : List Byte) : List Byte :=
  dst ++ s.mac n ++ (if l.vid.isSome then sub bs 12 4 else []) ++ beNat 2 l.etherType ++ body

/-- The reply that firmware owes to an ARP request for PRT_IPV4n (row 6). -/
def State.arpReplyTo (s : State) (n : Nat) (bs : List Byte) (l : Layer2) : Option (List Byte) :=
  let b := l.body
  if decide (l.etherType = 0x0806) && decide (sub bs b 8 = [0, 1, 8, 0, 6, 4, 0, 1]) && decide (sub bs (b + 24) 4 = s.ipv4 n) &&
    decide (s.ipv4 n ≠ [0, 0, 0, 0]) then
    some (s.replyFrame n bs l (sub bs 6 6) ([0, 1, 8, 0, 6, 4, 0, 2] ++ s.mac n ++ s.ipv4 n ++ sub bs (b + 8) 10))
  else none

/-- The advertisement that firmware owes to an IPv6 neighbour solicitation for PRT_IPV6n (row 6). -/
def State.neighbourReplyTo (s : State) (n : Nat) (bs : List Byte) (l : Layer2) : Option (List Byte) :=
  match ipLayer bs l with
  | none => none
  | some p =>
    let c := p.body
    if p.v6 && decide (p.proto = 58) && decide (bs.getD c 0 = 135) && decide (sub bs (c + 8) 16 = s.ipv6 n) &&
      decide (s.ipv6 n ≠ List.replicate 16 0) then
      let asked := decide (p.src ≠ List.replicate 16 0)
      let target := if asked then p.src else [0xFF, 0x02, 0, 0, 0, 0, 0, 0, 0, 0, 0, 0, 0, 0, 0, 1]
      let icmp (sum : Nat) : List Byte :=
        [136, 0] ++ beNat 2 sum ++ [if asked then 0x60 else 0x20, 0, 0, 0] ++ s.ipv6 n ++ [2, 1] ++ s.mac n
      let back : IpPacket := { v6 := true, src := s.ipv6 n, dst := target, proto := 58, body := 0 }
      let sum := checksum16 (pseudoHeader back 32 ++ icmp 0)
      some (s.replyFrame n bs l (if asked then sub bs 6 6 else [0x33, 0x33, 0, 0, 0, 1])
        ([0x60, 0, 0, 0] ++ beNat 2 32 ++ [58, 255] ++ s.ipv6 n ++ target ++ icmp sum))
    else none

/-- The reply of row 6, if the frame asks for one. -/
def State.replyTo (s : State) (n : Nat) (bs : List Byte) (l : Layer2) : Option (List Byte) :=
  (s.arpReplyTo n bs l).orElse fun _ => s.neighbourReplyTo n bs l

/-! ### Rows 4 to 10 -/

/-- A frame that passes R111: the IP packet it carries. -/
def State.taken (s : State) (n : Nat) (bs : List Byte) (l : Layer2) : Option IpPacket :=
  match ipLayer bs l with
  | none => none
  | some p =>
    let stated := be16 bs (p.body + 4) - 8
    if s.vlanOk n l && s.dstOk n p && decide (p.proto = 17) && decide (p.body + 8 ≤ bs.length) && s.udpPortOk n (be16 bs (p.body + 2)) &&
      s.syncOk ((bs.drop (p.body + 8)).take stated) then some p else none

/-- What rows 4 to 10 make of a frame that a port receives, after duplicate discard and without its tag or trailer. `good` is false for a frame that
takes row 1: only its admission and its rewind show (R110). DESIGN CHOICE (log 90): a PTP frame keeps row 5 when its VLAN state is refused (R362) or its transport is not
that of the profile; it is consumed without effect and counts in no counter of row 10. -/
def State.disposition (s : State) (n : Nat) (bs : List Byte) (f : RxFrame) (good : Bool) (errs : List MemErr) : State :=
  let l := layer2 bs
  if l.etherType = 0x88FB then (if good then s.inc Reg.prtSupRxCnt else s)
  else match ptpMessageOf bs l with
    | some m =>
      if good && s.vlanOk n l && s.ptpTransport bs l m then s.ptpReceive n (m.take (be16 m 2)) (s.ingressBall n f.detect f.align) else s
    | none => match s.replyTo n bs l with
      | some r => if good then s.onPrt fun p => { p with replies := p.replies ++ [(n, r)] } else s
      | none => match s.taken n bs l with
        | some p => s.headgate (bs.drop (p.body + 8)) (be16 bs (p.body + 4) - 8) (keyAddr p) (be16 bs p.body) n good (udpSumOk bs p) errs
        | none => if good then s.inc (Reg.prtRxNottakenCnt n) else s

/-! ### The pair (R105, R106) -/

/-- The source of a frame in the duplicate-discard table. -/
def sourceOf (bs : List Byte) : BitVec 48 := BitVec.ofNat 48 (ofBe (sub bs 6 6))

/-- A PRP frame (R105): its trailer, if valid, is checked against its LAN and goes through duplicate discard. A trailer is valid by its suffix and LSDU size. -/
def State.receivePrp (s : State) (n : Nat) (f : RxFrame) (good : Bool) (errs : List MemErr) : State :=
  let bs := f.bytes
  let t := bs.length - 6
  let trailer := be16 bs (t + 2)
  let valid := decide (6 + lsduAt bs ≤ bs.length) && decide (be16 bs (t + 4) = 0x88FB) &&
    decide (trailer % 4096 = (bs.length - lsduAt bs) % 4096)
  if !valid then s.disposition n bs f good errs
  else
    let inner := bs.take t
    let s1 := if good && decide (trailer / 4096 ≠ 0xA + n) then s.inc Reg.prtWrongLanCnt else s
    if (ptpMessageOf inner (layer2 inner)).isSome then s1.disposition n inner f good errs
    else if !good then
      (if (s1.prt.dd.any fun e => decide (e.source = sourceOf bs) && e.seen.any fun q => decide (q.1 = be16 bs t)) then s1
       else s1.disposition n inner f good errs)
    else
      let r := s1.ddEnter (sourceOf bs) (be16 bs t) 0
      if r.2.1 then r.1.inc Reg.prtDupCnt else r.1.disposition n inner f good errs

/-- A frame that the ring passes on (R106): queued on the other port at priority 3, a PTP event message with what its residence correction needs
when TC_EN is set (R366); `event` is where such a message begins in the frame. -/
def State.forwardHsr (s : State) (n : Nat) (f : RxFrame) (event : Option Nat) : State :=
  let correct := event.filter fun _ => s.regBit Reg.timCfg 10
  (s.enqueue (1 - n) { kind := .forwarded, bytes := f.bytes
                       ingress := correct.map fun _ => (s.ingressBall n f.detect f.align, n)
                       ptp := correct.map fun at_ => egForward + at_ }).inc Reg.prtHsrFwdCnt

/-- An HSR frame (R106, R110). DESIGN CHOICE (log 90): the node's own frame that returns counts in PRT_DUP_CNT, and a frame without an HSR tag, of which R106
does not speak, takes rows 4 to 10 as on a single port. -/
def State.receiveHsr (s : State) (n : Nat) (f : RxFrame) (good : Bool) (errs : List MemErr) : State :=
  let bs := f.bytes
  let h := lsduAt bs - 2
  if be16 bs h ≠ 0x892F then s.disposition n bs f good errs
  else
    let inner := bs.take h ++ bs.drop (h + 6)
    let dst := sub bs 0 6
    let group := (dst.getD 0 0).getLsbD 0
    let own := decide (dst = s.mac 0)
    let ptp := ptpMessageOf inner (layer2 inner)
    let kind := ((ptp.getD []).getD 0 0).toNat % 16
    let peer := ptp.isSome && (decide (kind = 2) || decide (kind = 3) || decide (kind = 10))
    if decide (sub bs 6 6 = s.mac 0) then (if good then s.inc Reg.prtDupCnt else s)
    else if !good then
      (if (group || own) && !(s.prt.dd.any fun e => decide (e.source = sourceOf bs) && e.seen.any fun q => decide (q.1 = be16 bs (h + 4)))
       then s.disposition n inner f false errs else s)
    else
      let dir : BitVec 2 := 1 <<< n
      let passes := !own && !peer
      let r := s.ddEnter (sourceOf bs) (be16 bs (h + 4)) (if passes then dir else 0)
      let s1 := if passes && decide (r.2.2 &&& dir = 0) then r.1.forwardHsr n f ((ptp.filter fun _ => decide (kind ≤ 1)).map fun m => bs.length - m.length) else r.1
      if group || own then
        (if r.2.1 then s1.inc Reg.prtDupCnt else s1.disposition n inner f true errs)
      else if decide (r.2.2 &&& dir ≠ 0) then s1.inc Reg.prtDupCnt else s1

/-- A frame comes to rows 1 to 10 through the pair or by itself. -/
def State.receiveOn (s : State) (n : Nat) (f : RxFrame) (good : Bool) (errs : List MemErr) : State :=
  if !s.inPair n then s.disposition n f.bytes f good errs
  else if s.pairMode = 1 then s.receivePrp n f good errs else s.receiveHsr n f good errs

/-- The longest frame that port n accepts, its FCS included (R103). -/
def State.frameLimit (s : State) (n : Nat) : Nat := (if s.jumbo n then 9022 else 1522) + (if s.inPair n then 6 else 0)

/-- FRAME_RECEIVE (R103 to R111, R113 to R125, Table HDG-1): a frame whose last byte has come. An oversize frame is received only up to the
limit (R110); a length error is seen before an FCS error (log 82). -/
def execFrameReceive (port : Fin 4) (f : RxFrame) (errs : List MemErr) (s : State) : Host.Outcome State Fault Refusal :=
  let n := port.val
  if !s.portUp n then .next s
  else
    let len := f.bytes.length + 4
    let badLen := decide (len < 64) || decide (s.frameLimit n < len)
    let good := !badLen && f.fcsOk
    let f1 := if s.frameLimit n < len then { f with bytes := f.bytes.take (s.frameLimit n) } else f
    let s1 := if badLen then s.inc (Reg.prtRxLenCnt n) else if !f.fcsOk then s.inc (Reg.prtRxFcsCnt n) else s.inc (Reg.prtRxGoodCnt n)
    .next (s1.receiveOn n f1 good errs)

/-- PORT_DISABLE (R109, R138): `rx` is what has come of a frame in reception, which is rewound if it was admitted. -/
def execPortDisable (n : Fin 4) (ctl : PortCtl) (s : State) : Host.Outcome State Fault Refusal :=
  if !s.hostUp then .next s
  else
    match ctl with
    | .enable => .next ((s.disablePort n.val false).setReg (Reg.prtCtl n.val) 0)
    | .disable rx =>
      let s1 := match rx with
        | some f => if s.portUp n.val then s.receiveOn n.val f false [] else s
        | none => s
      .next ((s1.disablePort n.val true).setReg (Reg.prtCtl n.val) 1)

/-! ### Host injection -/

/-- HOST_INJECTION (R120, R126, R399, R404): the next descriptor of a host-injection ring whose completion ring has room. -/
def execHostInjection (n : Fin 64) (d : InjDesc) (errs : List MemErr) (s : State) : Host.Outcome State Fault Refusal :=
  let r := s.ring n.val
  if !(s.awake && decide (10 < s.sys.step) && !s.sys.tampered && r.works && decide (s.ringType n.val = 4) && decide (r.hostIdx ≠ r.devIdx) && s.cqFree (s.ringCq n.val)) then .next s
  else match s.inject d errs with
    | (_, none) => .next s
    | (s1, some c) =>
      let s2 := s1.setRing n.val { s1.ring n.val with devIdx := idxNext (s.ringSize n.val) r.devIdx }
      .next (s2.post (s.ringCq n.val)
        { index := r.devIdx, src := n.val, phase := false, tag := (wordAt d.words 0 >>> 16).setWidth 16, status := c.status, detail := 0, length := 0, result := [],
          data := [], addr := 0, time := 0 })

/-! ### Frames that leave -/

/-- FRAME_TRANSMIT (R130): the port's MAC becomes free and the first frame of the highest priority leaves; what mutes is discarded first (R136). -/
def execFrameTransmit (port : Fin 4) (s : State) : Host.Outcome State Fault Refusal :=
  let n := port.val
  if !s.portUp n then .next s
  else
    let s1 := (s.runToMono (s.port n).busyUntil).purgeMuted n
    match nextFrame (s1.port n).queue with
    | none => .next s1
    | some x =>
      let s2 := s1.onPort n fun p => { p with queue := p.queue.erase x }
      let r := s2.ptpEgress n x
      .next ((r.2.onPort n fun p =>
        { p with sent := some { x with bytes := r.1 }, busyUntil := s1.tim.mono + s1.frameTime n r.1.length }).inc (Reg.prtTxCnt n))

end Sys2Proof.Machine
end

