-- ==== Sys2Proof/Machine/Sec.lean ====
section
/-! DEFINITION. The security unit: key commands, key jobs, stored slots, tickets, tamper (R468 to R487). -/
namespace Sys2Proof.Machine

/-! ### Key commands (R474, R479, R483) -/

/-- What a key command answers before its own checks (R483): TAMPER under KEY_LOCK, LIFECYCLE where Table SEC-2 refuses the key unit. -/
def State.keyGate (s : State) : Option Nat :=
  if s.sec.keyLock then some stTamper else if !s.inService then some stLifecycle else none

/-- The slot that a derivation reads, if any. -/
def State.deriveSlot (s : State) (purpose : Nat) : Option Nat := if purpose = purposeGreaz then some s.linkSlot else none

/-- The key commands to a slot that have not ended. -/
def State.slotRefs (s : State) (n : Nat) : List CmdRef :=
  (s.sec.writes.filterMap fun w => if w.slot = n then some w.ref else none) ++ s.sec.jobs.filterMap fun j => match j with
    | .derive c p _ _ => if s.deriveSlot p = some n then some c else none
    | _ => none

/-- The key commands that one to slot n has to wait for are over (R483). -/
def State.slotTurn (s : State) (n : Nat) (behind : List CmdRef) : Bool := behind.all fun c => !(s.slotRefs n).contains c

/-- A derivation requested by KEY_DERIVE: a job of the key unit (R474, R477). -/
def State.deriveNow (s : State) (purpose : Nat) (ctx : List Byte) : State × CmdResult :=
  match s.loadKey purpose ctx with
  | (s1, some _) => (s1.inc Reg.secJobCnt, { status := stOk })
  | (s1, none) => (s1, { status := stBadArg })

/-- The context of a KEY_DERIVE (R474). -/
def deriveCtx (purpose : Nat) (w2 : Word) : List Byte := leBytes w2 ++ if purpose = purposeGreaz then [0, 0, 0, 0] else []

/-- KEY_DERIVE (R474, R477, R483): at once when the key unit has no job before it and its slot has no command before it, else in its turn. -/
def execKeyDerive (h : CmdHdr) (purpose : Byte) (ctx : Word) (s : State) : Answer :=
  .next (s.command h false fun c x =>
    let p := purpose.toNat
    match x.keyGate with
    | some st => (x, .done { status := st })
    | none =>
      if p ≠ purposeGreaz && p ≠ purposeArchive then (x, .done { status := stBadArg })
      else
        let ahead := (x.deriveSlot p).elim [] x.slotRefs
        if x.sec.jobs.isEmpty && ahead.isEmpty then
          let r := x.deriveNow p (deriveCtx p ctx)
          (r.1, .done r.2)
        else (x.onSec fun y => { y with jobs := y.jobs ++ [.derive c p (deriveCtx p ctx) ahead] }, .later))

/-- A key slot buffer that KEY_SLOT_WRITE takes (R479, Table SEC-6). -/
def slotBufferOk (buf : List Byte) : Bool :=
  decide (buf.length = 64) && decide (buf.getD 0 0 = 0x60) && decide (buf.getD 1 0 = 0x01) && slotCheckOk buf

/-- KEY_SLOT_WRITE (R479, R481): the wrap of its copy is a job of the key unit; it completes when its commit does. -/
def execKeySlotWrite (h : CmdHdr) (w1 : Word) (_addr : BitVec 64) (len : Word) (buf : List Byte) (s : State) : Answer :=
  .next (s.command h false fun c x =>
    match x.keyGate with
    | some st => (x, .done { status := st })
    | none =>
      if len.toNat < 64 then (x, .done { status := stBufSmall })
      else if h.dmaErr then x.dmaError
      else if 15 < w1.toNat || !slotBufferOk (buf.take 64) then (x, .done { status := stBadArg })
      else
        (x.onSec fun y =>
          { y with
            writes := y.writes ++ [{ ref := c, slot := w1.toNat, buf := some (buf.take 64), behind := x.slotRefs w1.toNat }]
            jobs := y.jobs ++ [.wrap w1.toNat] }, .later))

/-- After a commit or clear of slot n (R478, R483): its derived keys go, and a link that uses it loses its session, the frame job in progress aborted (R478). -/
def State.slotChanged (s : State) (n : Nat) : State := s.oneCycle fun s =>
  let ends := s.gzlOn && decide (s.linkSlot = n)
  let s1 := (s.clearSlotKeys n).checkSlot n
  let s2 := if ends && s.sec.jobs.any KeyJob.isLink then s1.inc Reg.secAbortCnt else s1
  if ends then s2.linkDown downKey else s2

/-- KEY_SLOT_CLEAR's effect (R483): the marker with VALID 0, both copies zeroed (an empty list stands for a zeroed copy). DEDUCED (log 68): COPY
and GEN stay. -/
def State.clearSlot (s : State) (n : Nat) : State :=
  let m := (s.keySlot n).marker
  (s.setSlot n { marker := markerOf (markerCopy m) (markerGen m) false }).slotChanged n

/-- KEY_SLOT_CLEAR (R483): at once, unless brace holds its writes or an earlier command to the slot has not ended. -/
def execKeySlotClear (h : CmdHdr) (w1 : Word) (s : State) : Answer :=
  .next (s.command h false fun c x =>
    let n := field w1 3 0
    match x.keyGate with
    | some st => (x, .done { status := st })
    | none =>
      let ahead := x.slotRefs n
      if x.pwr.brace && ahead.isEmpty then
        ((x.onSec fun y => { y with writes := y.writes ++ [{ ref := c, slot := n, buf := none, stage := .held }] }).nvmWrite (.slot c), .later)
      else if !ahead.isEmpty then (x.onSec fun y => { y with writes := y.writes ++ [{ ref := c, slot := n, buf := none, behind := ahead }] }, .later)
      else (x.clearSlot n, .done { status := stOk }))

/-- COPY and GEN of the content that a slot write brings (R481): the copy that is not current, the next generation. -/
def State.nextCopy (s : State) (n : Nat) : Nat × Nat :=
  let m := (s.keySlot n).marker
  (1 - markerCopy m, (markerGen m + 1) % 2 ^ 30)

/-- The slot command that comes first among those to one slot (R483). -/
def State.firstWrite (s : State) (n : Nat) : Option SlotWrite := s.sec.writes.find? fun w => decide (w.slot = n)

/-- The first command to a slot comes to a stage. -/
def State.staged (s : State) (w : SlotWrite) (t : SlotStage) : State :=
  s.onSec fun x => { x with writes := x.writes.map fun y => if y = w then { y with stage := t } else y }

/-- Step 1 of R481, a job under the slot's SLOTWRAP key (R477; log 68): the new content is wrapped for the copy that is not current, whose write brace holds;
the check of what is written is the next job. -/
def State.wrapJob (s : State) (n : Nat) : State :=
  match s.firstWrite n with
  | some w =>
    let c := s.nextCopy n
    match s.loadKey purposeWrap [BitVec.ofNat 8 n] with
    | (s1, none) => s1
    | (s1, some _) =>
      let s2 := (s1.inc Reg.secJobCnt).nvmWrite (.copy n c.1 (wrapCopy n c.1 c.2 (w.buf.getD [])))
      (s2.staged w .wrapped).onSec fun x => { x with jobs := x.jobs ++ [.check n] }
  | none => s

/-- Brace holds the marker write, or the clear, of a slot command (R523). -/
def State.holdSlot (s : State) (w : SlotWrite) : State := (s.staged w .held).nvmWrite (.slot w.ref)

/-- Step 2 of R481: the copy is read back and checked; brace holds the marker write that comes next. -/
def State.checkJob (s : State) (n : Nat) : State :=
  match s.firstWrite n with
  | some w =>
    match s.loadKey purposeWrap [BitVec.ofNat 8 n] with
    | (s1, none) => s1
    | (s1, some _) => if s.pwr.brace then (s1.inc Reg.secJobCnt).holdSlot w else (s1.inc Reg.secJobCnt).staged w .checked
  | none => s

/-- Step 3 of R481: the marker points to the new copy, with GEN + 1. -/
def State.commitSlot (s : State) (n : Nat) : State :=
  let c := s.nextCopy n
  (s.setSlot n { s.keySlot n with marker := markerOf c.1 c.2 true }).slotChanged n

/-- The slot command that can commit: the first to its slot, its copy checked where it brings one (R481, R483). -/
def State.nextCommit (s : State) : Option SlotWrite :=
  s.sec.writes.find? fun w => s.slotTurn w.slot w.behind && decide (w.stage = if w.buf.isNone then .accepted else .checked)

/-- A slot command commits and completes (R481, R483). -/
def State.endSlotWrite (s : State) (w : SlotWrite) : State :=
  let s1 := s.onSec fun x => { x with writes := x.writes.erase w }
  (if w.buf.isSome then s1.commitSlot w.slot else s1.clearSlot w.slot).finish w.ref { status := stOk }

/-- SLOT_COMMIT (R481, R483, R523): the oldest slot command that can commits and completes; in brace its write is held, and comes with the release of the held
writes. -/
def execSlotCommit (s : State) : Answer :=
  match s.nextCommit with
  | none => .next s
  | some w => if !s.awake then .next s else .next (if s.pwr.brace then s.holdSlot w else s.endSlotWrite w)

/-! ### Key jobs (R475 to R477) -/

/-- A job can run (R477, R481, R483): a derivation waits for the commands before it on its slot, a wrap for the slot command before it, a check for the
write of its copy. -/
def State.jobRuns (s : State) (j : KeyJob) : Bool :=
  match j with
  | .derive _ p _ behind => (s.deriveSlot p).all fun n => s.slotTurn n behind
  | .wrap n => (s.firstWrite n).any fun w => w.buf.isSome && decide (w.stage = .accepted) && s.slotTurn n w.behind
  | .check n => !(s.pwr.held.any fun w => match w with
    | .copy k _ _ => decide (k = n)
    | _ => false)
  | _ => true

/-- The job that runs next (R477): a link frame first, then the others in arrival order. -/
def State.nextJob (s : State) : Option KeyJob := (s.sec.jobs.find? KeyJob.isLink).or (s.sec.jobs.find? s.jobRuns)

/-- KEY_JOB (R477): the key unit completes one job; each counts in SEC_JOB_CNT once it has its key (R494). -/
def execKeyJob (s : State) : Answer :=
  match s.nextJob with
  | none => .next s
  | some j =>
    if !s.awake then .next s
    else
      let s1 := s.onSec fun x => { x with jobs := x.jobs.erase j }
      match j with
      | .link q b => .next (s1.frameJob q b)
      | .segment b => .next (s1.segmentJob b)
      | .wrap n => .next (s1.wrapJob n)
      | .check n => .next (s1.checkJob n)
      | .derive c p ctx _ => let r := s1.deriveNow p ctx; .next (r.1.finish c r.2)

/-- A masked key with a fresh mask (R475). -/
def MaskedKey.remask (k : MaskedKey) (m : List Byte) : MaskedKey := { k with s := xorBytes (xorBytes k.s k.m) m, m := m }

/-- The cache entries re-masked in order. -/
def State.remaskCache (s : State) : List MaskedKey → List MaskedKey × State
  | [] => ([], s)
  | k :: ks =>
    let (m, s1) := s.freeBytes 32
    let (rest, s2) := State.remaskCache s1 ks
    (k.remask m :: rest, s2)

/-- KEY_MASK_REFRESH (R475): register and cache take new masks; the keys stay what they are. -/
def execKeyMaskRefresh (s : State) : Answer :=
  if !s.awake then .next s
  else
    let (cache, s1) := s.remaskCache s.sec.cache
    let (m, s2) := s1.freeBytes 32
    .next (s2.onSec fun x => { x with cache := cache, key := x.key.map fun k => k.remask m })

/-! ### Lifecycle tickets (R468 to R471) -/

/-- ACTION of a ticket. -/
def ticketAction (t : List Word) : Nat := field (wordAt t 1) 7 0
/-- FROM of a ticket. -/
def ticketFrom (t : List Word) : Nat := field (wordAt t 1) 15 8
/-- KEY_HASH of a ticket. -/
def ticketHash (t : List Word) : List Byte := bytesOf ((t.drop 5).take 8)

/-- Layout of a ticket (Table SEC-3, check 2). -/
def ticketFormatOk (t : List Word) : Bool :=
  let a := ticketAction t
  decide (wordAt t 0 = 0x4B54434C) && decide (1 ≤ a) && decide (a ≤ 5) && decide (field (wordAt t 1) 31 18 = 0) &&
  (decide (a = 2) || decide (field (wordAt t 1) 17 16 = 0)) && (decide (a = 4) || decide (wordAt t 4 = 0)) &&
  (decide (a = 1) || ((t.drop 5).take 8).all fun w => decide (w = 0)) && ((t.drop 13).take 19).all fun w => decide (w = 0)

/-- The actions that a state accepts (Table SEC-2). -/
def acceptedActions (state : Nat) : List Nat := [[1], [2, 5], [3], [4, 5], []].getD state []

/-- The totals of a point as they stand in NVM: those of the bank that would be restored (R315, R471). -/
def bankTotals (b : Bank × Bank) : List (BitVec 64) :=
  match restoredBank b with
  | some (k, _, _) => k.totals
  | none => List.replicate 32 0

/-- EXPORT_CRC of the totals in NVM (R471). -/
def State.exportCrc (s : State) : Word := crc32c (s.nvm.banks.flatMap fun b => (bankTotals b).flatMap fun t => leNat 8 t.toNat)

/-- The checks of Table SEC-4 in order: the reason of the first that fails. -/
def State.ticketReason (s : State) (t : List Word) : Option Nat :=
  let a := ticketAction t
  let st := s.nvm.fuses.state
  let bs := bytesOf t
  let hash := if a = 1 then ticketHash t else s.nvm.fuses.imageKeyHash
  if s.isSealed then some 0x09
  else if !ticketFormatOk t then some 0x01
  else if dword (wordAt t 3) (wordAt t 2) ≠ Config.devSerial then some 0x02
  else if ticketFrom t ≠ st then some 0x03
  else if !(acceptedActions st).contains a then some 0x04
  else if a = 5 && st = 3 && s.nvm.nrgHeld then some 0x08
  else if sha256 ((bs.drop 128).take 64) ≠ hash then some 0x05
  else if !ecdsaVerify ((bs.drop 128).take 64) ((bs.drop 192).take 64) (bs.take 192) then some 0x06
  else if a = 4 && wordAt t 4 ≠ s.exportCrc then some 0x07
  else none

/-- A write of SEC_LC_CTL.APPLY (R469): the ticket window is taken; ignored while a verification runs. -/
def State.applyTicket (s : State) : State :=
  if s.sec.verifying.isSome then s
  else s.onSec fun x => { x with verifying := some ((List.range 64).map fun i => s.reg (Reg.secTicket i)) }

/-- A write of SEC_LC_CTL.CANCEL (R469). -/
def State.cancelTicket (s : State) : State := s.nvmWrite (.ticket [])

/-- TICKET_VERIFIED (R469, R471): the verification ends; a ticket that passes becomes pending, NRG_RELEASE acts at once. -/
def execTicketVerified (s : State) : Answer :=
  match s.sec.verifying with
  | none => .next s
  | some t =>
    if !s.awake then .next s
    else match s.ticketReason t with
      | some r => .next (s.onSec fun x => { x with verifying := none, reason := r })
      | none =>
        .next ((s.onSec fun x => { x with verifying := none, reason := 0 }).nvmWrite (if ticketAction t = 4 then .nrgZero else .ticket t))

/-! ### Tamper (R484, R485) -/

/-- A TAMPER record of an input, with the time of the RTC (R485). -/
def State.tamperRecord (s : State) (input when_ : Nat) (t : EventTime) : State := s.event 0x0B01 clsWatch [w32 input, w32 when_] { time := some t }

/-- A tamper event while the core domain is powered (Table SEC-7): keys cleared, KEY_LOCK, and the link's session ends (R424, R487). -/
def State.tamperLock (s : State) : State :=
  let s1 := s.clearKeys.onSec fun x => { x with keyLock := true }
  if s1.gzlOn then s1.linkDown downKey else s1

/-- A tamper event on the inputs of a mask (R484, R485): the first one is latched with the RTC's seconds. DEDUCED (log 69): an event that comes while one is
latched is recorded without a latch of its own. In CLOCK_HOLD, a reset state with the core domain powered, KEY_LOCK is set (row 3 of Table SEC-7) and the record is owed. -/
def State.tamperEvent (s : State) (inputs : BitVec 2) : State :=
  let s1 := if s.aon.tampLatch = 0 then s.onAon fun a => { a with tampLatch := inputs, tampRtc := w32 (s.rtcNow / 32768) } else s
  let ids := [0, 1].filter fun i => inputs.getLsbD i
  if s.awake then ids.foldl (fun (x : State) i => x.tamperRecord i 2 s.rtcTime) s1.tamperLock
  else
    let s2 := if s.clk.hold then s1.onSec fun x => { x with keyLock := true } else s1
    s2.onAon fun a => { a with tampOwed := a.tampOwed ++ ids.map fun i => (i, s.rtcNow, if s.clk.hold then 2 else 1) }

/-- A sampler's count of successive open samples, up to four (R484). -/
def openCount (enabled open_ : Bool) (n : Nat) : Nat := if enabled && open_ then min 4 (n + 1) else 0

/-- TAMPER_SAMPLE (R484): the enabled inputs are sampled; the fourth successive open sample of an input makes an event. -/
def execTamperSample (open0 open1 : Bool) (s : State) : Answer :=
  let en := s.nvm.fuses.tampEn
  let n0 := openCount (en.getLsbD 0) open0 s.aon.open0
  let n1 := openCount (en.getLsbD 1) open1 s.aon.open1
  let hit0 := decide (n0 = 4) && decide (s.aon.open0 < 4)
  let hit1 := decide (n1 = 4) && decide (s.aon.open1 < 4)
  let s1 := s.onAon fun a => { a with open0 := n0, open1 := n1 }
  .next (if hit0 || hit1 then s1.tamperEvent ((if hit0 then 1 else 0) ||| (if hit1 then 2 else 0)) else s1)

end Sys2Proof.Machine
end

