-- ==== Sys2Proof/Machine/Pwr.lean ====
section
/-! DEFINITION. The power supervisor: brace, DVFS, telemetry; the scrubber; the request for dormant mode (R26, R27, R519 to R530, R540, R541). -/
namespace Sys2Proof.Machine

/-! ### Brace (R522 to R525) -/

/-- The writes in progress in NVM complete: that of a claimed epoch, and the marker write of a slot command (R522). -/
def State.finishWrites (s : State) : State :=
  let s1 := if s.gzl.claim.any (!·.held) then s.claimWritten else s
  match s1.nextCommit with
  | some w => s1.endSlotWrite w
  | none => s1

/-- The commit of R522: the writes in progress, the recorder's queue and the BRACE record, the totals of every enabled point, the tick ID. -/
def State.powerCommit (s : State) : State :=
  let s1 := s.finishWrites.evrBrace.nrgBrace
  if s.tck.lastInstant.isSome then s1.applyNvm (.tickId (s.tck.nextId - 1)) else s1

/-- Entry to brace (R522). -/
def State.enterBrace (s : State) : State :=
  let s1 := s.powerCommit.onPwr fun p => { p with brace := true, braceAt := s.tim.mono, senseLow := true, senseHighAt := none }
  (s1.inc Reg.pwrBraceCnt).setBits Reg.pwrFault (bit 0)

/-- BRACE (R522, R524, R536): PWR_SENSE falls below VWARN; in brace a fall restarts the 2 ms and makes no second commit. -/
def execBrace (s : State) : Answer :=
  if !s.awake || decide (s.sys.step < 3) then .next s
  else if s.pwr.brace then .next (s.onPwr fun p => { p with senseLow := true, senseHighAt := none })
  else .next s.enterBrace

/-- VWARN in mV (R520, R543). -/
def State.vwarnMv (s : State) : Nat := 500 + 2 * s.regField Reg.pwrSenseCfg 7 0

/-- VWARN plus hysteresis in mV (R520, R543). -/
def State.vreleaseMv (s : State) : Nat := s.vwarnMv + 5 * s.regField Reg.pwrSenseCfg 11 8

/-- The battery monitor reads VBAT (R542, R549, Table PWR-1): a fall below 1.50 V is a fault. -/
def State.vbatRead (s : State) (mv : Nat) : State :=
  (s.onPwr fun p => { p with vbatOk := decide (1500 ≤ mv) }).setBits Reg.pwrFault (if s.pwr.vbatOk && decide (mv < 1500) then bit 3 else 0)

/-- PWR_SENSE_CHANGE (R520, R522, R524): PWR_SENSE is compared with VWARN and, in brace, with VWARN plus hysteresis, above which the 2 ms begin and below which
they are over. DESIGN CHOICE (log 75): the row carries the battery monitor's reading too, which no row of its own brings. -/
def execPwrSenseChange (p : SupplyIn) (s : State) : Answer :=
  if !s.awake then .next s
  else
    let s1 := (p.vbatMv.elim s s.vbatRead).onPwr fun x => { x with senseLow := decide (p.senseMv < s.vwarnMv) }
    if p.senseMv < s.vwarnMv then execBrace s1
    else if !s.pwr.brace then .next s1
    else if s.vreleaseMv < p.senseMv then .next (s1.onPwr fun x => { x with senseHighAt := x.senseHighAt.orElse fun _ => some s.tim.mono })
    else .next (s1.onPwr fun x => { x with senseHighAt := none })

/-- A held write is released (R524): a claim whose epoch it brings completes, a slot command commits and completes. -/
def State.releaseWrite (s : State) (w : NvmWrite) : State :=
  match w with
  | .epoch e => if s.gzl.claim.any (fun c => decide (c.epoch = e)) then s.claimWritten else s.applyNvm w
  | .slot ref => (s.sec.writes.find? fun x => decide (x.ref = ref)).elim s s.endSlotWrite
  | _ => s.applyNvm w

/-- Brace ends now (R456, R524): the record with the duration and the queue's level, then the held writes in the order requested. -/
def State.leaveBrace (s : State) : State :=
  let us := (s.tim.mono - s.pwr.braceAt) / 1000
  let s1 := s.event 0x0D02 clsLog [w32 us, w32 s.evr.queue.length]
  let s2 := ((s1.setReg Reg.pwrBraceLastUs (w32 us)).peak Reg.pwrBraceMaxUs us).onEvr fun e => { e with held := false }
  let s3 := s2.onPwr fun p => { p with brace := false, senseHighAt := none, held := [] }
  s.pwr.held.foldl State.releaseWrite s3

/-- BRACE_END (R524): PWR_SENSE has stayed above VWARN plus hysteresis for 2 ms. -/
def execBraceEnd (s : State) : Answer :=
  match s.pwr.senseHighAt with
  | none => .next s
  | some m => if s.pwr.brace && s.awake then .next (s.runToMono (m + 2000000)).leaveBrace else .next s

/-! ### DVFS (R526 to R529) -/

@[reducible] def dvfsDone : Nat := 1
@[reducible] def dvfsRefusedMin : Nat := 2
@[reducible] def dvfsRefusedCeil : Nat := 3
@[reducible] def dvfsTimeout : Nat := 4
@[reducible] def dvfsDeferred : Nat := 5

/-- PWR_DVFS_CFG.CEIL, 3 treated as 2 (R544). -/
def State.ceilLevel (s : State) : Nat := levelOf (s.regField Reg.pwrDvfsCfg 1 0)

/-- VDD_CORE of a level, mV (Table PWR-3). -/
def levelMv (level : Nat) : Nat := [800, 720, 650].getD level 800

/-- VRST of VDD_CORE, mV (R529, Tables PWR-1, PWR-3): 90 % of the voltage of the level that the divider has, P0 before step 8. -/
def State.vrstMv (s : State) : Nat := levelMv (s.pwr.level % 3) * 9 / 10

/-- A step to a level begins (R527): a raise sends its voltage command and waits; a lowering changes the divider first and then sends it. -/
def State.beginStep (s : State) (target : Nat) (requested : Bool) : State :=
  let up := decide (target < s.pwr.level)
  s.onPwr fun p =>
    { p with
      step := some { target := target, raise := up, sentAt := s.tim.mono, requested := requested }
      level := if up then p.level else target
      avs := some (s.regField Reg.pwrAvsCfg 3 0, levelMv target) }

/-- A PITCH in RAISING whose level is reached is ARMED (R59). -/
def State.armRaised (s : State) : State :=
  if (s.sch.pitch.any fun p => decide (p.state = .raising)) && s.levelReaches (imgMinLevel s.sch.shadow) then s.pitchState .armed else s

/-- A step completes with the level of its target (R527). -/
def State.completeStep (s : State) (d : DvfsStep) : State :=
  ((s.onPwr fun p => { p with step := none, level := d.target, result := dvfsDone }).inc Reg.pwrStepCnt).armRaised

/-- A request refused (R528). -/
def State.refuseLevel (s : State) (result : Nat) : State :=
  (s.onPwr fun p => { p with request := none, result := result }).inc Reg.pwrStepRefuseCnt

/-- The pending request is carried out (R523, R528). DEDUCED (log 73): brace defers a raise, which stays pending; a request for the level in force is done
without a step. -/
def State.takeRequest (s : State) (t : Nat) : State :=
  if s.sch.activeValid && decide (imgMinLevel s.img < t) then s.refuseLevel dvfsRefusedMin
  else if t < s.ceilLevel then s.refuseLevel dvfsRefusedCeil
  else if t = s.pwr.level then s.onPwr fun p => { p with request := none, result := dvfsDone }
  else if s.pwr.brace && decide (t < s.pwr.level) then s.onPwr fun p => { p with result := dvfsDeferred }
  else (s.onPwr fun p => { p with request := none }).beginStep t true

/-- The sequencer in slack: the step whose VDone has come changes its divider; else a raise that an image needs begins, else the request. Brace defers a
raise, behind which a lowering proceeds (R523). -/
def State.dvfsStep (s : State) : State :=
  match s.pwr.step with
  | some d => if d.settled then s.completeStep d else s
  | none =>
    match s.raiseDue with
    | some n =>
      if !s.pwr.brace then s.beginStep n false
      else (s.requestDue.elim (s.onPwr fun p => { p with result := dvfsDeferred }) s.takeRequest)
    | none => match s.pwr.request with
      | some t => if s.gridOn && s.pwr.requestWaits then s else s.takeRequest t
      | none => s

/-- DVFS_STEP (R26, R527, R528): in slack, after the sluice requests; after a raise that timed out not before the next slack (R529). -/
def execDvfsStep (s : State) : Answer :=
  if s.slackAt 3 && s.levelSet && !(s.gridOn && s.pwr.retryWaits) then .next s.dvfsStep else .next s

/-- VDONE (R503, R508, R527): the regulator's voltage is there. A raise waits 50 µs more and changes the divider, in this slack, after the returns and sluice
requests due in it, or at the start of the next. -/
def execVdone (s : State) : Answer :=
  match s.pwr.step with
  | none => .next s
  | some d =>
    if d.settled || !s.awake then .next s
    else if !d.raise then .next (s.completeStep d)
    else
      let s1 := s.run 50000
      .next (if s1.slackAt 3 then s1.completeStep d else s1.onPwr fun p => { p with step := some { d with settled := true } })

/-- AVS_TIMEOUT (R529): no VDone within TIMEOUT_US of the voltage command. A raise is retried: one that was requested is pending again. -/
def execAvsTimeout (s : State) : Answer :=
  match s.pwr.step with
  | none => .next s
  | some d =>
    if d.settled || !s.awake then .next s
    else
      let s1 := s.runToMono (d.sentAt + max 1 (s.regField Reg.pwrAvsCfg 31 16) * 1000)
      let s2 := s1.onPwr fun p =>
        { p with step := none, result := dvfsTimeout, retryWaits := d.raise
                 request := if d.raise && d.requested && p.request.isNone then some d.target else p.request }
      .next ((s2.inc Reg.pwrAvsToCnt).setBits Reg.pwrFault (bit 1))

/-- A write of PWR_DVFS_REQ (R528, R545): a request is pending, for the next slack. -/
def State.requestLevel (s : State) (v : Word) : State :=
  (s.setReg Reg.pwrDvfsReq (v &&& 3)).onPwr fun p => { p with request := some (levelOf (field v 1 0)), requestWaits := true }

/-- TARGET_EFF (R546). -/
def State.targetLevel (s : State) : Nat := (s.pwr.step.map (·.target)).getD s.pwr.level

/-- STEP_PENDING: a step awaits slack (R542). -/
def State.stepPending (s : State) : Bool := s.pwr.request.isSome || s.raiseDue.isSome || s.pwr.step.any (·.settled)

/-- The levels of AVS_CLK and AVS_MDAT between frames, as from the start of any reset (R569). -/
def State.avsPins (_s : State) : Bool × Bool := Config.avsIdle

/-! ### Telemetry (R27, R519, R540, R541) -/

/-- TELEM_CFG (R540): with EN the ring must be enabled with TYPE 9. -/
def execTelemCfg (h : CmdHdr) (w1 : Word) (s : State) : Answer :=
  .next (s.command h true fun _ x =>
    let n := field w1 5 0
    if !flag w1 8 then (x.onPwr fun p => { p with telemRing := none }, .done { status := stOk })
    else if (x.ring n).enabled && decide (x.ringType n = 9) then (x.onPwr fun p => { p with telemRing := some n }, .done { status := stOk })
    else (x, .done { status := stBadArg }))

/-- Sensor i of a sample, signed in 1/64 °C. -/
def tempOf (temps : List (BitVec 16)) (i : Nat) : Int := signed 16 (temps.getD i 0).toNat

/-- The column that a sample belongs to: its tick ID, second and index; none without the grid. -/
def State.sampleColumn (s : State) : Option WindowColumn := if s.gridOn then s.bsn.window.head? else none

/-- How far a moment is from a second boundary, ns. -/
def nearSecond (t : Nat) : Nat := min (t % nsPerSec) (nsPerSec - t % nsPerSec)

/-- Words 0 to 11 of a telemetry record (Table PWR-7). -/
def State.sampleWords (s : State) (temps vmons : List (BitVec 16)) : List Word :=
  let c := s.sampleColumn
  let d : DWord := BitVec.ofNat 64 (c.elim 0 (·.tick))
  let pair (l : List (BitVec 16)) (i : Nat) : Word := place (l.getD i 0).toNat 0 ||| place (l.getD (i + 1) 0).toNat 16
  [ place 0x81 0 ||| place s.pwr.level 8 ||| placeB s.pwr.brace 10 ||| placeB s.pwr.thermWarn 11, lo32 d, hi32 d,
    s.soc (c.elim s.nowSec (·.sec)), place (c.elim 0 (·.index)) 0,
    pair temps 0, pair temps 2, pair temps 4, pair temps 6, pair vmons 0, pair vmons 2, pair vmons 4 ]

/-- THERM_WARN after a sample (R541). -/
def State.thermal (s : State) (temps : List (BitVec 16)) : State :=
  let warn : Int := Int.ofNat (s.regField Reg.pwrThermCfg 7 0) * 64
  let above := (List.range 8).any fun i => decide (warn < tempOf temps i)
  let cool := (List.range 8).all fun i => decide (tempOf temps i ≤ warn - 320)
  if above then (s.onPwr fun p => { p with thermWarn := true }).setBits Reg.pwrFault (bit 2)
  else if cool then s.onPwr fun p => { p with thermWarn := false } else s

/-- A sample is taken: registers, peak, warning, and the sample that the next delivery carries, the one nearest to a second boundary (R27). -/
def State.sampleTaken (s : State) (temps vmons : List (BitVec 16)) : State :=
  let s1 := (List.range 8).foldl (fun (x : State) i => x.setReg (Reg.pwrTemp i) (w32 (temps.getD i 0).toNat)) s
  let s2 := (List.range 6).foldl (fun (x : State) i => x.setReg (Reg.pwrVmon i) (w32 (vmons.getD i 0).toNat)) s1
  let top := (List.range 8).foldl (fun (m : Option Int) i => some (m.elim (tempOf temps i) (max (tempOf temps i)))) s.pwr.tempPeak
  let s3 := (s2.onPwr fun p => { p with tempPeak := top }).thermal temps
  let near := nearSecond (s.sampleColumn.elim s.tim.now fun c => s.instantTime c.sec c.index)
  if s3.pwr.sample.all fun t => decide (near ≤ t.near) then
    s3.onPwr fun p => { p with sample := some { words := s3.sampleWords temps vmons, near := near } }
  else s3

/-- The moment from which a sample can be taken without the grid: 10 ms after the last one (R519). -/
def State.sampleAt (s : State) : Nat := s.pwr.sampledAt.elim 0 (· + 10000000)

/-- TELEMETRY_SAMPLE (R26, R27, R519): in slack, eight sensors and six monitors, once per column, or every 10 ms while the grid does not run. -/
def execTelemetrySample (temps vmons : List (BitVec 16)) (s : State) : Answer :=
  if !s.slackAt 6 || (s.gridOn && s.pwr.sampled) then .next s
  else
    let s1 := if s.gridOn then s else s.runToMono s.sampleAt
    .next ((s1.sampleTaken temps vmons).onPwr fun p => { p with sampled := true, sampledAt := some s1.tim.mono })

/-- TELEMETRY_DELIVERY (R27, R540): once per second of the timebase the sample goes to the telemetry ring, or is dropped and counted. -/
def execTelemetryDelivery (s : State) : Answer :=
  match s.pwr.telemRing, s.pwr.sample with
  | some n, some t =>
    if !s.awake || decide (s.pwr.deliveredSec = some s.nowSec) then .next s
    else
      let ws := t.words ++ [s.reg Reg.sysScrubPeriodMs, s.sys.patchVersion, 0, 0]
      .next ((s.onPwr fun p => { p with sample := none, deliveredSec := some s.nowSec }).deliverOr n 9 (bytesOf ws) [0x81] Reg.pwrTelemDropCnt)
  | _, _ => .next s

/-! ### The scrubber (R27, R507) -/

/-- Lines of SRAM: 64 MiB of 64 bytes. -/
@[reducible] def scrubLines : Nat := 1048576

/-- The quantum of a column (R27). -/
def State.scrubQuantum (s : State) : Nat := let d := max 120 (2 * s.fm); (scrubLines + d - 1) / d

/-- The SRAM that an error lies in is behind an open sluice (R507). -/
def State.scrubbed (s : State) (e : MemErr) : Bool :=
  match e.site with
  | .plotStore p _ => s.plotGate p
  | .modState _ => s.gate 34
  | .modDft _ => s.gate 34
  | .topBranch _ => s.gate 35
  | .topNode _ => s.gate 35
  | .topCut _ => s.gate 35
  | .topState _ => s.gate 35
  | .arcStaging _ => s.gate 36
  | .capStaging _ _ => s.gate 37
  | .nrgPoint _ => s.gate 39
  | .nrgCurrent _ => s.gate 39
  | _ => true

/-- The lines that the scrubber may still process in this column (R27). DESIGN CHOICE (log 91): without the grid, where no column passes, a quantum at each command. -/
def State.scrubRoom (s : State) : Nat := if s.gridOn then s.scrubQuantum - s.sys.scrubDone else s.scrubQuantum

/-- SCRUB (R26, R27): in slack, up to the quantum of the column; a pass that is complete reports its duration. -/
def execScrub (lines : Nat) (errs : List MemErr) (s : State) : Answer :=
  if !s.slackAt 6 || decide (s.scrubRoom = 0) then .next s
  else
    let n := min lines s.scrubRoom
    let at_ := s.sys.scrubLine + n
    let s1 := (s.memErrors (errs.filter s.scrubbed)).onSys fun y => { y with scrubDone := y.scrubDone + n }
    if at_ < scrubLines then .next (s1.onSys fun y => { y with scrubLine := at_ })
    else
      .next (((s1.setReg Reg.sysScrubPeriodMs (w32 ((s.tim.mono - s.sys.scrubAt) / 1000000))).inc Reg.sysScrubCnt).onSys fun y =>
        { y with scrubLine := at_ - scrubLines, scrubAt := s.tim.mono })

/-! ### Recorder housekeeping (R26, R461) -/

/-- RECORDER_HOUSEKEEPING (R26, R461): in slack, up to 64 stored records are read in turn and their CRC checked; `upset` gives
what the NVM now holds in slots that have changed by themselves. -/
def execRecorderHousekeeping (upset : List (Nat × List Word)) (s : State) : Answer :=
  if !s.slackAt 6 || decide (s.sys.step < 6) then .next s
  else
    let s1 := s.onNvm fun n => { n with evrSlots := upset.foldl (fun m p => if (mapGet m p.1).isSome then mapSet m p.1 p.2 else m) n.evrSlots }
    let n := min (64 - s1.evr.checked) s1.evrCount
    .next (State.checkRecords n s1.evr.cursor (s1.onEvr fun e => { e with checked := e.checked + n }))

/-! ### Dormant mode requested (R530) -/

/-- A write of PWR_DORMANT (R530): ignored without its key, while the output gate is open, in brace, or with no wake source; for the next
slack. -/
def State.requestDormant (s : State) (v : Word) : State :=
  if flag v 0 && decide (field v 15 8 = 0x5A) && !s.gateOpen && !s.pwr.brace && decide (s.reg Reg.pwrWakeCfg ≠ 0) then
    s.onPwr fun p => { p with dormantPending := true, dormantWaits := true }
  else s

end Sys2Proof.Machine
end

