-- ==== Sys2Proof/Machine/Pcie.lean ====
section
/-! DEFINITION. What the host reaches beside BAR0: the MSI-X table and PBA of BAR2 and the configuration space (R390, R407, R410). -/
namespace Sys2Proof.Machine

/-! ### MSI-X (Table HIF-1, R407): the layout of an entry and of the PBA is that of PCI Express: PRESUMED (log 101) -/

/-- The message that the PBA bit of vector v holds is sent, unless the vector or the function is masked (R407). -/
def State.sendPending (s : State) (v : Nat) : State :=
  if s.hif.pba.getLsbD v && !s.hif.masked.getLsbD v && !s.functionMasked then
    (s.onHif fun h => { h with pba := h.pba &&& ~~~((1 : BitVec 128) <<< v) }).inc Reg.hifIntrCnt
  else s

/-- A vector is masked or unmasked (R407); a message that its PBA bit holds is sent when it is unmasked. -/
def State.maskVector (s : State) (v : Nat) (masked : Bool) : State :=
  let m := (1 : BitVec 128) <<< v
  if masked then s.onHif fun h => { h with masked := h.masked ||| m }
  else (s.onHif fun h => { h with masked := h.masked &&& ~~~m }).sendPending v

/-- Word i of the MSI-X table: address, address high, data, vector control. -/
def State.msixWord (s : State) (i : Nat) : Word := if i % 4 = 3 then placeB (s.hif.masked.getLsbD (i / 4)) 0 else (mapGet s.hif.msix i).getD 0

/-- A write of word i of the MSI-X table. -/
def State.writeMsix (s : State) (i : Nat) (v : Word) : State :=
  if i % 4 = 3 then s.maskVector (i / 4) (flag v 0)
  else s.onHif fun h => { h with msix := let w := if i % 4 = 0 then v &&& ~~~3 else v; if w = 0 then mapDel h.msix i else mapSet h.msix i w }

/-- Word i of the PBA. -/
def State.pbaWord (s : State) (i : Nat) : Word := (s.hif.pba >>> (32 * i)).setWidth 32

/-! ### Configuration space (R390) -/

/-- The registers of configuration space with their reset value and the bits that a write reaches. PRESUMED (log 101): the header, the PCI Express capability
at 0x40, the MSI-X capability at 0x80 and AER at 0x100 (status, mask, severity, control, header log) as PCI Express lays them out, with the values of Table HIF-1; the places of the
capabilities are the model's own. -/
def configRows : List (Nat × Word × Word) :=
  [ (0x00, 0x08801F3C, 0), (0x04, 0x00100000, 0x00000546), (0x08, 0x11800000, 0), (0x0C, 0, 0x000000FF), (0x10, 4, 0xFF000000), (0x14, 0, 0xFFFFFFFF),
    (0x18, 4, 0xFFFF0000), (0x1C, 0, 0xFFFFFFFF), (0x2C, 0x08801F3C, 0), (0x34, 0x40, 0), (0x3C, 0, 0x000000FF) ] ++
  [ (0x40, 0x00028010, 0), (0x44, 0x00008022, 0), (0x48, 0x00002810, 0x000079FF), (0x4C, 0x00000084, 0), (0x50, 0, 0x000000C8), (0x64, 0x00030000, 0),
    (0x68, 0, 0x00001000), (0x6C, 0x0000001E, 0), (0x70, 0x00000004, 0x0000000F) ] ++
  [ (0x80, 0x007F0011, 0xC0000000), (0x84, 0x00002002, 0), (0x88, 0x00003002, 0), (0x100, 0x00020001, 0) ] ++
  [ (0x104, 0, 0), (0x108, 0, 0x00155010), (0x10C, 0x00040010, 0x00155010), (0x110, 0, 0), (0x114, 0x00002000, 0x000031C1), (0x118, 0, 0), (0x11C, 0, 0),
    (0x120, 0, 0), (0x124, 0, 0), (0x128, 0, 0) ]

/-- A word of configuration space: revision and link status are those of the device and the link. -/
def State.configWord (s : State) (off : Nat) : Word :=
  match configRows.find? fun r => decide (r.1 = off) with
  | none => 0
  | some r =>
    let v := (mapGet s.hif.config off).getD r.2.1
    if off = 0x08 then v ||| Config.pcieRevision.setWidth 32
    else if off = 0x50 && s.hif.linkUp then v ||| place s.hif.speed 16 ||| place s.hif.lanes 20
    else v

/-- A word of configuration space is written; the messages held by a Function Mask that it clears are sent (R407). -/
def State.writeConfig (s : State) (off : Nat) (v : Word) : State :=
  match configRows.find? fun r => decide (r.1 = off) with
  | none => s
  | some r =>
    let w := (v &&& r.2.2) ||| (r.2.1 &&& ~~~r.2.2)
    let s1 := s.onHif fun h => { h with config := if w = r.2.1 then mapDel h.config off else mapSet h.config off w }
    if s.functionMasked && !s1.functionMasked then (List.range 128).foldl State.sendPending s1 else s1

/-- A write of configuration space: the bytes that it addresses in one word. -/
def State.configWrite (s : State) (off width : Nat) (data : DWord) : State :=
  let k := off % 4
  if 4 < k + width then s
  else
    let bs := leBytes (s.configWord (off - k))
    s.writeConfig (off - k) (wordLe (bs.take k ++ (leBytes (lo32 data)).take width ++ bs.drop (k + width)))

end Sys2Proof.Machine
end

