-- ==== Sys2Proof/Machine/Tim.lean ====
section
/-! DEFINITION. The timebase: servo, states, GNSS, bivouac, TIME_SET, leap seconds, RTC, PPS_OUT (R354 to R378). -/
namespace Sys2Proof.Machine

/-! ### The servo (R367, R360, R368, R372) -/

/-- tau in FP32 seconds: the time since the previous measurement, at most 16 s; 1 s for the first after start-up or a step (R367). -/
def State.servoTau (s : State) : Word :=
  match s.tim.lastMeasured with
  | none => fpOne
  | some m => fpDiv (fpOfInt (min (s.tim.mono - m) (16 * nsPerSec) : Nat)) (fpOfInt nsPerSec)

/-- The proportional part before and after its clamp (R367). -/
def State.servoP (s : State) (theta : Int) : Word × Word :=
  let raw := fpMul (fpNeg (s.reg Reg.timKp)) (fpOfInt theta)
  let m := fpOfInt s.slewPpb
  (raw, fpClamp raw (fpNeg m) m)

/-- The servo takes a measurement (R367): one of 1 ms or more requests a step, any other steers. -/
def State.servoUpdate (s : State) (theta : Int) : State :=
  if 1000000 ≤ theta.natAbs then
    s.onTim fun t =>
      { t with pendingStep := some (theta, false), lastMeasured := some t.mono, theta := theta, slewing := false, measuredOnce := true, slewEnd := none }
  else
    let lim := fpOfInt 250000
    let integ := fpClamp (fpSub s.tim.integ (fpMul (fpMul (s.reg Reg.timKi) (fpOfInt theta)) s.servoTau)) (fpNeg lim) lim
    let (raw, p) := s.servoP theta
    let a := fpOfInt (theta.natAbs : Int)
    let thf := match s.tim.thf with
      | none => a
      | some f => fpAdd f (fpMul (fpSub a f) 0x3E000000)
    s.onTim fun t =>
      { t with
        integ := integ, freqAdj := fpAdd integ p, slewing := decide (raw ≠ p), thf := some thf, measuredOnce := true, slewEnd := none
        lastMeasured := some t.mono, theta := theta }

/-- The state after a measurement (Table TIM-1): the measurement that moves the timebase into ACQUIRING is not counted. -/
def State.servoState (s : State) (theta : Int) : State :=
  let a := theta.natAbs
  let enter := s.onTim fun t =>
    { t with
      state := .acquiring, below := 0, beyond := 0
      unlockedAt := if t.state = .locked then some t.mono else t.unlockedAt }
  match s.tim.state with
  | .free => enter
  | .bivouac => enter
  | .acquiring =>
    let n := if a < s.lockNs then s.tim.below + 1 else 0
    if 16 ≤ n then (s.onTim fun t => { t with state := .locked, below := 0, beyond := 0 }).event 0x0903 clsLog [s.unlockSec]
    else s.onTim fun t => { t with below := n }
  | .locked =>
    let n := if 4 * s.lockNs ≤ a then s.tim.beyond + 1 else 0
    if 4 ≤ n then enter else s.onTim fun t => { t with beyond := n }

/-- e after a measurement (R368): thf plus the source's accuracy, unknown while thf is not set. -/
def State.servoError (s : State) : State :=
  s.onTim fun t => { t with errEst := t.thf.map fun f => fpAdd f s.sourceAccuracy }

/-- A measurement from the selected source (R360, R367, R368, R372). A newly selected source brings the timebase into ACQUIRING, and
its first measurement sets thf. -/
def State.measure (s : State) (theta : Int) : State :=
  if s.tim.source = .none then s
  else if s.tim.newSource then
    let s1 := s.onTim fun t => { t with newSource := false, thf := none }
    let s2 := s1.servoUpdate theta
    (s2.onTim fun t =>
      { t with
        state := .acquiring, below := 0, beyond := 0
        unlockedAt := if t.state = .locked then some t.mono else t.unlockedAt }).servoError
  else ((s.servoUpdate theta).servoState theta).servoError

/-- The measurement that a SERVO_MEASUREMENT hands over: the offset that firmware has computed from the messages of a PTP source (`ptpMeasured`), or that a
labelled edge of GNSS gives (R364, R369). -/
def State.handOver (s : State) : State :=
  match s.tim.measured with
  | none => s
  | some th => (s.onTim fun t => { t with measured := none }).measure th

/-! ### Loss of the source (R370) -/

/-- SYNC_MISS (R370): nothing has come half an interval after the expected time; the third consecutive miss is a loss. -/
def State.syncMiss (s : State) : State :=
  match s.tim.source, s.tim.syncAt with
  | .ptp, some a =>
    let i := intervalNs s.tim.syncLog
    let k := s.tim.syncMissed + 1
    let s1 := ((s.runToMono (a + k * i + i / 2)).inc Reg.timSyncMissCnt).onTim fun t => { t with syncMissed := k }
    if 3 ≤ k then s1.loseSource else s1
  | _, _ => s

/-- SYNC_MISS (R370, R371). -/
def execSyncMiss (s : State) : Host.Outcome State Fault Refusal := .next s.syncMiss

/-- ANNOUNCE_TIMEOUT (R362, R370): firmware reports announceReceiptTimeout for the parent port: three Announce intervals without an Announce. -/
def execAnnounceTimeout (s : State) : Host.Outcome State Fault Refusal :=
  match s.tim.source, s.tim.parent with
  | .ptp, some m => .next (s.runToMono (m.time + announceReceiptTimeout * intervalNs m.logInterval)).loseSource
  | _, _ => .next s

/-- GNSS is used: GNSS_EN. -/
def State.gnssOn (s : State) : Bool := s.regBit Reg.timCfg 1

/-- GNSS stops being qualified (R369): a loss when it is the source (R370). -/
def State.gnssLost (s : State) : State :=
  let s1 := s.onTim fun t => { t with gnssOk := false, labelRun := 0 }
  if s.tim.source = .gnss then s1.loseSource else if s.tim.gnssOk then s1.runBmca else s1

/-- GNSS_LOSS (R370): 3.5 s after the last labelled edge. -/
def execGnssLoss (s : State) : Host.Outcome State Fault Refusal :=
  match s.tim.labelledAt with
  | none => .next s
  | some m =>
    let s1 := s.runToMono (m + 3500000000)
    .next ((s1.add Reg.timSyncMissCnt (s1.ppsMissesTo s1.tim.mono)).onTim fun t => { t with labelledAt := none, label := none }).gnssLost

/-! ### GNSS input (R369) -/

/-- PPS_IN_EDGE (R365, R369): the edge that PPS_IN_FALL selects is timestamped at the ball, less CABLE_NS. -/
def execPpsInEdge (falling : Bool) (detect : Nat) (s : State) : Host.Outcome State Fault Refusal :=
  if s.gnssOn && s.awake && decide (falling = s.regBit Reg.timCfg 20) then
    .next (s.onTim fun t =>
      { t with edge := some ((s.tbReading detect : Int) * 1024 - signed 16 (s.regField Reg.timGnss 15 0) * 65536, s.tbReading detect / 64, t.mono) })
  else .next s

/-- θ of a labelled edge in ns (R369). DEDUCED (log 33): rounded to the nearest ns. -/
def gnssTheta (stamp : Int) (label : Nat) (offset : Int) : Int :=
  (stamp - ((label : Int) + offset) * 65536 * Int.ofNat nsPerSec + 32768) / 65536

/-- The fields of a sentence between its commas. -/
def nmeaFields : List Byte → List (List Byte)
  | [] => [[]]
  | b :: bs =>
    if b = 0x2C then [] :: nmeaFields bs
    else match nmeaFields bs with
      | f :: fs => (b :: f) :: fs
      | [] => [[b]]

/-- A hexadecimal digit in ASCII. -/
def hexDigit (b : Byte) : Option Nat :=
  let n := b.toNat
  if 48 ≤ n && n ≤ 57 then some (n - 48) else if 65 ≤ n && n ≤ 70 then some (n - 55) else if 97 ≤ n && n ≤ 102 then some (n - 87) else none

/-- Decimal digits in ASCII as a number. -/
def decimal (bs : List Byte) : Option Nat :=
  if bs.isEmpty then none
  else bs.foldl (fun v b => v.bind fun n => (hexDigit b).bind fun d => if d < 10 then some (10 * n + d) else none) (some 0)

/-- The days from 1970-01-01 to a date of the Gregorian calendar. -/
def daysOf (y m d : Nat) : Nat :=
  let y1 := if m ≤ 2 then y - 1 else y
  y1 / 400 * 146097 + (y1 % 400 * 365 + y1 % 400 / 4 - y1 % 400 / 100 + ((153 * ((m + 9) % 12) + 2) / 5 + d - 1)) - 719468

/-- The UTC second of a time of day hhmmss and a date, and whether it is an inserted second 23:59:60, which by R356 is the second 23:59:59 again. -/
def utcOf (time : List Byte) (y m d : Option Nat) : Option (Nat × Bool) := do
  let h ← decimal (time.take 2)
  let n ← decimal ((time.drop 2).take 2)
  let s ← decimal ((time.drop 4).take 2)
  let days := daysOf (← y) (← m) (← d)
  some (days * 86400 + h * 3600 + n * 60 + min s 59, decide (s = 60))

/-- The UTC second of a ZDA or RMC sentence with a right checksum (R369). PRESUMED (log 100): the layout of NMEA 0183; an RMC marked as not valid labels
nothing, and its two-digit year is one of 2000 to 2099. -/
def nmeaSecond (bytes : List Byte) : Option (Nat × Bool) :=
  let body := (bytes.drop 1).takeWhile fun b => decide (b ≠ 0x2A)
  let sum := (bytes.drop (body.length + 2)).take 2
  let right := match sum.map hexDigit with
    | [some a, some b] => decide (16 * a + b = (body.foldl (fun (x : Byte) b => x ^^^ b) 0).toNat)
    | _ => false
  let fs := nmeaFields body
  let f (i : Nat) : List Byte := fs.getD i []
  let kind := (f 0).drop 2
  if decide (bytes.head? ≠ some 0x24) || !right || decide ((f 0).length ≠ 5) then none
  else if kind = [0x5A, 0x44, 0x41] then utcOf (f 1) (decimal (f 4)) (decimal (f 3)) (decimal (f 2))
  else if decide (kind = [0x52, 0x4D, 0x43]) && decide (f 2 = [0x41]) then
    utcOf (f 1) ((decimal ((f 9).drop 4)).map (2000 + ·)) (decimal (((f 9).drop 2).take 2)) (decimal ((f 9).take 2))
  else none

/-- Label b comes exactly 1 s after label a (R369): an inserted second repeats the number of the one before it. DEDUCED (log 33). -/
def labelFollows (a b : Nat × Bool) : Bool := if b.2 then !a.2 && decide (b.1 = a.1) else decide (b.1 = a.1 + 1)

/-- The second that a sentence labels an edge with: it comes at the rate of TIM_TOD, 10 ms to 900 ms after the edge (R369, R384). -/
def State.todLabel (s : State) (d : TodIn) (edge : Nat) : Option (Nat × Bool) :=
  if !s.gnssOn || decide (d.baud ≠ s.regField Reg.timTod 1 0) || decide (d.at_ < edge + 10000000) || decide (edge + 900000000 < d.at_) then none
  else nmeaSecond d.bytes

/-- TOD_SENTENCE (R369): the edge is labelled; four labels in succession qualify GNSS, a broken succession ends that. The times of sentence and edge are those
of the timebase. -/
def State.todSentence (s : State) (d : TodIn) : State :=
  match s.tim.edge with
  | none => s
  | some (stamp, edge, m) =>
    match s.todLabel d edge with
    | none => s
    | some u =>
      let run := match s.tim.label with
        | some l => if labelFollows l u then s.tim.labelRun + 1 else 1
        | none => 1
      let s1 := (s.add Reg.timSyncMissCnt (s.ppsMissesTo m)).onTim fun t => { t with edge := none, label := some u, labelledAt := some m }
      let s2 := if decide (run = 1) && s.tim.gnssOk then s1.gnssLost else s1
      let s3 := s2.onTim fun t => { t with labelRun := run, gnssOk := t.gnssOk || decide (4 ≤ run) }
      let s4 := if s3.tim.gnssOk = s2.tim.gnssOk then s3 else s3.runBmca
      s4.onTim fun t => { t with measured := if t.source = .gnss then some (gnssTheta stamp u.1 (s.offsetAt s.nowSec)) else t.measured }

/-- TOD_SENTENCE (R369). -/
def execTodSentence (t : TodIn) (s : State) : Host.Outcome State Fault Refusal := .next (s.todSentence t)

/-! ### TIME_SET (R374) -/

/-- The leap announcement of an argument (Table HIF-7). -/
def leapArg (v : Nat) : Option Leap :=
  match v with
  | 1 => some .insert
  | 2 => some .delete
  | _ => none

/-- The offset and the leap announcement of a TIME_SET are applied (R356, R357). `sec` is the timebase second it speaks of. DEDUCED (log 34):
leap announcement 0 leaves an announcement as it is. -/
def State.applyOffset (s : State) (w4 : Word) (sec : Nat) : State :=
  let off := signed 16 (field w4 15 0)
  let s1 := (s.giveOffset off sec).onTim fun t => { t with offsetValid := flag w4 16 }
  match leapArg (field w4 18 17) with
  | none => s1
  | some k => s1.onTim fun t => { t with leap := some (k, leapSecondAt k sec off), leapPtp := false }

/-- How long a slew of p ppb takes to make an offset up, ns (R374). DEDUCED (log 34): its rate is held until then, and the servo then stands at integ. -/
def slewTime (theta : Int) (p : Word) : Nat :=
  if fpIsFinite p && !fpEq p 0 then (fpNearest (fpDiv (fpMul (fpOfInt (theta.natAbs : Int)) (fpOfInt nsPerSec)) (fpAbs p))).toNat else 0

/-- A TIME_SET that is accepted: offset, then a step or a slew, the state kept; in BIVOUAC a new e0 (R374). -/
def State.setTime (s : State) (sec ns : Nat) (w4 w5 : Word) : State × CmdResult :=
  let theta : Int := (s.tim.now : Int) - (Int.ofNat (sec * nsPerSec + ns))
  let s1 := s.applyOffset w4 sec
  let s2 := if s.tim.state = .bivouac then
      s1.onTim fun t => { t with bivouacAt := t.mono, bivouacE0 := fpOfInt w5.toNat, errEst := some (fpOfInt w5.toNat) }
    else s1
  if 1000000 ≤ theta.natAbs then
    (s2.onTim fun t => { t with pendingStep := some (theta, true), theta := theta }, { status := stOk, result := [satInt32 theta, 1] })
  else
    let (raw, p) := s2.servoP theta
    (s2.onTim fun t =>
      { t with freqAdj := fpAdd t.integ p, slewing := decide (raw ≠ p), theta := theta, slewEnd := some (t.mono + slewTime theta p) },
      { status := stOk, result := [satInt32 theta, 0] })

/-- TIME_SET (R374). -/
def execTimeSet (h : CmdHdr) (w1 w2 w3 w4 w5 : Word) (s : State) : Host.Outcome State Fault Refusal :=
  .next (s.command h false fun _ x =>
    if decide (nsPerSec ≤ w3.toNat) || decide (field w4 18 17 = 3) then (x, .done { status := stBadArg })
    else if (decide (x.tim.state = .acquiring) || decide (x.tim.state = .locked)) && !flag w4 19 then
      (x, .done { status := stSourceActive })
    else if flag w4 20 then (x.applyOffset w4 x.nowSec, .done { status := stOk, result := [0, 0] })
    else
      let r := x.setTime (field w2 15 0 * 2 ^ 32 + w1.toNat) w3.toNat w4 w5
      (r.1, .done r.2))

/-! ### Second boundaries, leap seconds, RTC -/

/-- The timebase second boundary after now, or now if the timebase stands at one whose work is not done. -/
def State.nextSecond (s : State) : Nat :=
  if decide (s.nowNs = 0) && decide (s.tim.secondDone ≠ some s.nowSec) then s.tim.now else (s.nowSec + 1) * nsPerSec

/-- PPS_OUT is driven (R376, R385). -/
def State.ppsDriven (s : State) : Bool :=
  s.regBit Reg.timPpsOut 0 &&
  (!s.regBit Reg.timPpsOut 1 || decide (s.tim.state = .locked) || decide (s.tim.state = .bivouac))

/-- e of R368 is formed again in BIVOUAC. -/
def State.holdoverNow (s : State) : State :=
  if decide (s.tim.state = .bivouac) && s.tim.errEst.isSome then
    s.onTim fun t => { t with errEst := some (s.holdover t.bivouacE0 (t.mono - t.bivouacAt)) }
  else s

/-- TIMEBASE_SECOND_BOUNDARY (R368, R376). -/
def execTimebaseSecondBoundary (s : State) : Host.Outcome State Fault Refusal :=
  if !s.awake then .next s
  else
    let s1 := ((s.runTo s.nextSecond).onTim fun t => { t with secondDone := some (t.now / nsPerSec) }).holdoverNow
    .next (if s1.ppsDriven then s1.onTim fun t => { t with ppsRise := some t.now } else s1)

/-- LEAP_SECOND (R357, R358): the UTC offset changes at the start of its timebase second. -/
def execLeapSecond (s : State) : Host.Outcome State Fault Refusal :=
  match s.tim.leap with
  | none => .next s
  | some (k, l) =>
    .next ((s.runTo (l * nsPerSec)).onTim fun t =>
      { t with
        utcOffset := t.utcOffset + k.delta, leap := none, leapPtp := false
        lastLeap := some (k, l), leapDone := some (k, l) })

/-- RTC_LOAD (R377): at a second boundary while LOCKED with a valid offset. -/
def execRtcLoad (s : State) : Host.Outcome State Fault Refusal :=
  if decide (s.tim.state = .locked) && s.tim.offsetValid && s.awake then
    let s1 := if s.nowNs = 0 then s else s.runTo ((s.nowSec + 1) * nsPerSec)
    .next (s1.onAon fun a =>
      { a with
        rtcTicks := (s1.soc s1.nowSec).toNat * 32768, rtcAt := s1.tim.mono, rtcOffset := s1.offsetAt s1.nowSec, rtcValid := true })
  else .next s

/-- PPS_OUT is at its active level now (R376, R385). -/
def State.ppsActive (s : State) : Bool :=
  let w := s.regField Reg.timPpsOut 16 8
  let ms := if 1 ≤ w && w ≤ 500 then w else 100
  match s.tim.ppsRise with
  | some r => decide (s.tim.now < r + ms * 1000000) && decide (r ≤ s.tim.now)
  | none => false

/-- PPS_OUT is high now (R376, R385). -/
def State.ppsPin (s : State) : Bool := s.ppsDriven && (s.ppsActive != s.regBit Reg.timPpsOut 2)

/-- TICK_OUT is high now (R376, R386): each of its events makes an active pulse of 10 µs. -/
def State.tickPin (s : State) : Bool :=
  let active := match s.tim.tickRise with
    | some r => decide (s.tim.now < r + 10000) && decide (r ≤ s.tim.now)
    | none => false
  s.regBit Reg.timTickOut 0 && (active != s.regBit Reg.timTickOut 2)

/-- The timebase is seeded from the RTC (R378). -/
def State.seedTime (s : State) : State :=
  let a := s.aon
  if a.rtcValid then
    s.onTim fun t =>
      { t with
        now := ((Int.ofNat (s.rtcNow / 32768) + a.rtcOffset).toNat * nsPerSec + s.rtcNow % 32768 * nsPerSec / 32768) % timeModulus
        seeded := true, utcOffset := a.rtcOffset, offsetValid := true }
  else s.onTim fun t => { t with now := 0, seeded := true, utcOffset := 0, offsetValid := false }

/-! ### The counter (R355, R504) -/

/-- The timebase counts one cycle of its domain: 4 ns on PLLT, 40 ns on XTA, 10 or 11 ns on FIRC (R355, R504). -/
def State.idleCycle (s : State) : State :=
  match s.clk.domSrc.getD 3 .firc with
  | .pllt => s.run 4
  | .xta => s.run 40
  | _ => (s.run (fircStep s.clk.tbPhase)).onClk fun c => { c with tbPhase := (c.tbPhase + 1) % 96 }

end Sys2Proof.Machine
end

