-- ==== Sys2Proof/Machine/Startup.lean ====
section
/-! DEFINITION. Reset and start-up, CLOCK_HOLD, dormant mode, the battery domain (R378, R457, R466, R470, R482, R484, R485, R498 to R505, R530 to
R540). -/
namespace Sys2Proof.Machine

/-! ### What a reset keeps (R534) -/

/-- Everything but NVM, fuses, the always-on domain and the device time as right after reset: registers at their reset values, SRAM wiped, no seal.
The scrubber's first pass starts now (R27). -/
def State.wiped (s : State) : State :=
  { State.reset with
    pending := s.pending, free := s.free, nvm := s.nvm, aon := s.rtcMark.aon
    tim := { mono := s.tim.mono }
    sys := { scrubAt := s.tim.mono } }

/-- SYS_RESET_CAUSE: the cause, BRACED when brace had not ended, the wake sources (R525, R532, R553). -/
def State.causeWord (s : State) (cause wake : Nat) : Word := place cause 0 ||| placeB s.pwr.brace 3 ||| place wake 4

/-- A reset with its cause. -/
def State.resetBy (s : State) (cause wake : Nat) : State :=
  let w := s.causeWord cause wake
  s.wiped.onAon fun a => { a with resetCause := w }

/-! ### CLOCK_HOLD (R505) -/

/-- CLOCK_HOLD is entered: the domain left without a source, the source that failed, and no attempt if SIRC has failed too. -/
def State.enterHold (s : State) (d : Nat) (x : ClkSrc) (sirc : Bool) : State :=
  let s1 := (s.resetBy 4 0).onAon fun a =>
    { a with
      holdCause := place d 8 ||| place x.code 12 ||| bit 31 ||| (if sirc then 0 else place 3 4)
      holdUnrecorded := true }
  s1.onClk fun c => { c with hold := true, holdAt := s.tim.mono, qualified := if sirc then addSource 0 .sirc else 0 }

/-! ### Steps 3 to 5: fuses, tickets, tamper, wipe (R466, R470, R485) -/

/-- The lifecycle state that a ticket's action leads to (Table SEC-3). -/
def actionState (a : Nat) : Nat := [0, 1, 2, 3, 3, 4].getD a 0

/-- A pending ticket is carried out (R470): the state's fuse, and those that PROVISION and FIELD blow; a transition to RETURN holds the totals. -/
def Nvm.carryTicket (n : Nvm) : Nvm :=
  match n.ticket with
  | none => n
  | some t =>
    let a := ticketAction t
    { n with
      fuses :=
        { n.fuses with
          lc := n.fuses.lc ||| (1 <<< (actionState a - 1))
          imageKeyHash := if a = 1 then ticketHash t else n.fuses.imageKeyHash
          tampEn := if a = 2 then BitVec.ofNat 2 (field (wordAt t 1) 17 16) else n.fuses.tampEn }
      ticket := none, nrgHeld := decide (a = 3) }

/-- The highest lifecycle state below a state whose fuse is blown. -/
def Fuses.stateBelow (f : Fuses) : Nat := maxOf ((List.range f.state).filter fun k => decide (0 < k) && f.lc.getLsbD (k - 1))

/-- The state owes a wipe: it is not BLANK and its LC_WIPED is not blown (R470). -/
def Fuses.owesWipe (f : Fuses) : Bool := decide (0 < f.state) && !f.wiped.getLsbD (f.state - 1)

/-- The lifecycle wipe (R470): key slots, recorder, NRG state; the totals too, but in RETURN. Then LC_WIPED is blown. -/
def Nvm.wipe (n : Nvm) : Nvm :=
  { n with
    slots := List.replicate 16 KeySlot.empty, evrSlots := [], evrHead := 0, evrNext := 0
    banks := if n.fuses.state = 3 then n.banks else List.replicate 4 (.blank, .blank)
    fuses := { n.fuses with wiped := n.fuses.wiped ||| (1 <<< (n.fuses.state - 1)) } }

/-- The lifecycle wipe of step 5 with the record that it leaves: the state before the ticket, and the state. -/
def State.lifecycleWipe (s : State) : State :=
  if s.nvm.fuses.owesWipe then (s.onNvm Nvm.wipe).event 0x0B03 clsNotice [w32 s.nvm.fuses.stateBelow, w32 s.nvm.fuses.state] else s

/-- The inputs of a mask, as their numbers. -/
def inputsOf (m : Nat) : List Nat := [0, 1].filter fun i => decide (m / 2 ^ i % 2 = 1)

/-- The tamper events that came while the core was not powered are recorded at the wake with their own times (Table SEC-7, R448). -/
def State.owedTamper (s : State) : State :=
  s.aon.tampOwed.foldl (fun (x : State) p => x.tamperRecord p.1 p.2.2 (s.rtcTimeAt p.2.1)) s

/-- Step 4: an enabled input that is open stops start-up in TAMPERED (R484, R485). -/
def State.tamperCheck (s : State) (b : BootIn) : State :=
  let en := s.nvm.fuses.tampEn
  let o0 := en.getLsbD 0 && b.open0
  let o1 := en.getLsbD 1 && b.open1
  let mask : Nat := (if o0 then 1 else 0) + if o1 then 2 else 0
  let s1 := s.onAon fun a => { a with open0 := if o0 then 4 else 0, open1 := if o1 then 4 else 0 }
  if mask = 0 then s1
  else
    let s2 := if s1.aon.tampLatch = 0 then s1.onAon fun a => { a with tampLatch := BitVec.ofNat 2 mask, tampRtc := w32 (s.rtcNow / 32768) } else s1
    (inputsOf mask).foldl (fun (x : State) i => x.tamperRecord i 0 s.rtcTime) (s2.onSys fun y => { y with tampered := true })

/-! ### Step 6: boot ROM (R36, R315, R434, R457, R482) -/

/-- NEXT follows the last sound slot (R457). DEDUCED (log 80): it is not below HEAD. -/
def Nvm.recorderFound (n : Nvm) : Nvm := { n with evrNext := max (evrScan n.evrSlots) n.evrHead }

/-- Step 6, with the RESET record (R534). In TAMPERED no key is derived, so no slot is checked (R485). -/
def State.bootRom (s : State) : State :=
  let s1 := s.onNvm Nvm.recorderFound
  let s2 := (if s1.sys.tampered then s1 else s1.checkSlots).restorePoints
  let s3 := (s2.onGzl fun g => { g with epoch := s2.nvm.epoch }).onTck fun t =>
    { t with nextId := s2.nvm.tickId.elim 0 (· + 65536) }
  s3.event 0x0D03 clsLog [s3.aon.resetCause]

/-! ### Steps 7 to 9: sources, PLLs, patch source (R498, R536, R538) -/

/-- The step reached. -/
def State.atStep (s : State) (n : Nat) : State := s.onSys fun y => { y with step := n }

/-- The domains of a source that has qualified at step 8 are moved to it. -/
def State.moveDomains (s : State) (x : ClkSrc) : State :=
  let ds := (List.range 7).filter fun d => decide (s.homeSource d = x) && decide (s.clk.domSrc.getD d .firc ≠ x)
  let s1 := ds.foldl (fun (y : State) d => y.drive d x) s
  if ds.contains 4 then s1.lmuStart else s1

/-- The PLLs of step 8. -/
def bootPlls : List ClkSrc := [.pllc, .plls, .pllt, .pllm]

/-- Words 0 to 15 of a patch header (Table PWR-6). -/
def patchWord (bytes : List Byte) (w : Nat) : Word := wordLe (bytes.drop (4 * w))

/-- A patch header with a valid MAGIC. -/
def patchMagic (bytes : List Byte) : Bool := decide (64 ≤ bytes.length) && decide (patchWord bytes 0 = 0x48435450)

/-- Step 9 begins: the QSPI flash holds a patch, or the ROM waits for host software; in TAMPERED start-up has come to its end (R486). -/
def State.stepNine (s : State) : State :=
  let m := s.tim.mono
  if s.sys.tampered then s.atStep 15
  else s.onSys fun y => { y with step := 9, bootAt := m, patchWait := !patchMagic y.boot.qspi }

/-- Step 8 ends when every PLL is qualified (R536); ACQ_TIMEOUT counts from PLL lock (R360). -/
def State.pllsReady (s : State) : State :=
  let m := s.tim.mono
  if bootPlls.all s.qualified then (s.onSys fun y => { y with acqAt := m }).stepNine else s

/-- A source qualifies at step 8. -/
def State.qualifyMove (s : State) (x : ClkSrc) : State := if s.canQualify x then (s.qualify x).moveDomains x else s.moveDomains x

/-- Step 8: PLLC starts at P0; the PLLs qualify, or are waited for. -/
def State.stepEight (s : State) : State :=
  let s1 := (s.onPwr fun p => { p with level := 0 }).atStep 8
  if s.sys.boot.pllsOk then (bootPlls.foldl State.qualifyMove s1).pllsReady else s1

/-- Step 7: XTA qualifies, or is waited for. -/
def State.stepSeven (s : State) : State :=
  let s1 := s.atStep 7
  if s1.qualified .xta then s1.stepEight
  else if s.sys.boot.xtaOk && s1.canQualify .xta then (s1.qualify .xta).stepEight
  else s1

/-! ### The start-up sequence (R536) -/

/-- Steps 1 and 2: the sources that the power-on check qualifies; where XTA stands in for FIRC, FIRC is recorded as failed (R498, R505). A SIRC that fails
leaves domain 7 to its fallback (R502, R504). -/
def State.firstSources (s : State) (b : BootIn) : State :=
  let q0 := if b.sircOk then addSource s.clk.qualified .sirc else dropSources s.clk.qualified [.sirc]
  let s1 :=
    if s.xtaSub then s.onClk fun c => { c with qualified := addSource q0 .xta, domSrc := List.replicate 7 .xta ++ [.sirc] }
    else s.onClk fun c => { c with qualified := addSource q0 .firc }
  if b.sircOk then s1 else (s1.faultSwitches [.sirc] [7]).1

/-- The timebase is seeded, unless a wake from dormant mode has kept it running (R378). DEDUCED (log 77): at the wipe, since R381 says that the reset
value of TIM_STATUS exists for less than that. -/
def State.seedUnlessKept (s : State) : State := if s.tim.seeded then s else s.seedTime

/-- Step 2: FIRC and SIRC are checked against each other (R498); without FIRC, or XTA in its place, the device is held (R505). -/
def State.stepTwo (s : State) : State :=
  let b := s.sys.boot
  if !b.fircOk && !s.xtaSub then s.enterHold 0 .firc b.sircOk
  else
    let s1 := ((s.firstSources b).onPwr fun p => { p with vbatOk := b.vbatOk }).atStep 3
    if b.vbatOk then s1 else s1.setBits Reg.pwrFault (bit 3)

/-- Step 3: the fuses are read and a pending ticket is carried out (R466, R470); fuses that cannot be trusted lead to TAMPERED. -/
def State.stepThree (s : State) : State :=
  (if s.sys.boot.fuseErr then (s.onSys fun y => { y with tampered := true }).onSec fun x => { x with fuseErr := true }
   else s.onNvm Nvm.carryTicket).atStep 4

/-- Step 4: the records owed from the time without a core domain, and the tamper check (R485). -/
def State.stepFour (s : State) : State :=
  let s1 := s.owedTamper
  (if s.sys.boot.fuseErr then s1 else s1.tamperCheck s.sys.boot).atStep 5

/-- Step 5: the timebase is seeded, and the wipe, with a lifecycle wipe that is owed (R470, R535). Brace holds the NVM writes of a lifecycle wipe, and the step
waits for them (R523, R536). -/
def State.stepFive (s : State) : State :=
  if s.pwr.brace && s.nvm.fuses.owesWipe then s else s.seedUnlessKept.lifecycleWipe.atStep 6

/-- The step of 1 to 6 under way ends and the next begins (R536, Table PWR-5). -/
def State.bootStep (s : State) : State :=
  match s.sys.step with
  | 1 => s.atStep 2
  | 2 => s.stepTwo
  | 3 => s.stepThree
  | 4 => s.stepFour
  | 5 => s.stepFive
  | 6 => s.bootRom.stepSeven
  | _ => s

/-- Steps 1 to 6 go on, through n of them at most, to the next that is left under way, or to a CLOCK_HOLD (R505). -/
def State.bootOn : Nat → State → State
  | 0, s => s
  | n + 1, s =>
    let t := s.bootStep
    if !t.awake || s.sys.boot.rests.contains t.sys.step then t else State.bootOn n t

/-- Start-up from step 1 as far as it goes without the host, a source that has yet to qualify, or a step left under way (R536). -/
def State.startUp (s : State) (b : BootIn) : State := (s.onSys fun y => { y with boot := b }).bootOn 6

/-- A step of 2 to 6 is under way. -/
def State.bootRests (s : State) : Bool := s.awake && decide (2 ≤ s.sys.step) && decide (s.sys.step ≤ 6)

/-- The RTC counts on while the device has no main supply, if SIRC or XTB was qualified when it went (R504), and the tamper sampler latches and stamps the
events of that time (R484, R485); a domain that lost its contents takes its reset values (R377, R533). -/
def State.batteryBack (s : State) (b : BootIn) : State :=
  let runs := s.qualified .sirc || s.qualified .xtb
  let ticks (n : Nat) : Nat := if s.aon.rtcSirc then n * 32768 / max 1 (s.reg Reg.clkSircHz).toNat else n
  let at_ (n : Nat) : Nat := if runs then (s.rtcNow + ticks n) % 2 ^ 47 else s.rtcNow
  let events := b.offTamper.filter fun e => runs && s.nvm.fuses.tampEn.getLsbD e.1.val
  let m := s.tim.mono
  s.onAon fun a =>
    if a.lost then { rtcAt := m }
    else
      { a with
        rtcTicks := at_ b.offTicks, rtcAt := m, rtcValid := a.rtcValid && runs, xtaSub := false
        tampLatch := if a.tampLatch = 0 then events.head?.elim 0 fun e => 1 <<< e.1.val else a.tampLatch
        tampRtc := if a.tampLatch = 0 then events.head?.elim a.tampRtc fun e => w32 (at_ e.2 / 32768) else a.tampRtc
        tampOwed := a.tampOwed ++ events.map fun e => (e.1.val, at_ e.2, 1) }

/-- Power is lost: the bank writes and the record write in progress may be torn (R315, R451). -/
def State.powerCut (s : State) : State := s.tearBanks.tearRecord

/-- POWER_ON (R534, R536): from any state. XTA no longer stands in for FIRC (R505), while CLK_HOLD_CAUSE keeps its value (R517). After a
power-up against R573 the state is unspecified until SYS_RST_N (R574): the device is stuck (log 109). -/
def execPowerOn (b : BootIn) (s : State) : Answer :=
  let low := s.aon.lost
  let s1 := (s.powerCut.batteryBack b).resetBy 1 0
  if !b.ordered then .next (s1.onPwr fun p => { p with unordered := true })
  else
    let s2 := s1.startUp b
    .next (if low then s2.setBits Reg.pwrFault (bit 3) else s2)

/-- PIN_RESET (R534): it also ends CLOCK_HOLD (R505), and the unspecified state of R574. -/
def execPinReset (b : BootIn) (s : State) : Answer := if s.pwr.off then .next s else .next ((s.resetBy 3 0).startUp b)

/-- The core monitor trips (R520, Table PWR-1): VDD_CORE, VDD_SRAM or VDD_FRAM below its reset threshold. -/
def State.coreTrips (s : State) (b : BootIn) : Bool := decide (b.coreMv < s.vrstMv) || decide (b.sramMv < 720) || decide (b.framMv < 1620)

/-- BROWNOUT (R520, R534). A device in CLOCK_HOLD stays in reset (R505). -/
def execBrownout (b : BootIn) (s : State) : Answer :=
  if s.pwr.off || s.pwr.unordered || s.clk.hold || !s.coreTrips b then .next s else .next ((s.powerCut.resetBy 2 0).startUp b)

/-- HOLD_ATTEMPT (R505): the attempts start 100 ms apart, at most 8; one that succeeds ends the hold by a reset with cause CLOCK_HOLD. -/
def execHoldAttempt (ok : Bool) (b : BootIn) (s : State) : Answer :=
  let n := field s.aon.holdCause 3 0
  if !s.clk.hold || decide (field s.aon.holdCause 5 4 ≠ 0) || decide (8 ≤ n) then .next s
  else
    let s1 := (s.runToMono (s.clk.holdAt + n * 100000000)).onAon fun a => { a with holdCause := putField a.holdCause 3 0 (n + 1) }
    if ok then
      .next ((s1.wiped.onAon fun a => { a with holdCause := putFlag (putField a.holdCause 5 4 1) 16 true, xtaSub := true }).startUp b)
    else if n = 7 then .next (s1.onAon fun a => { a with holdCause := putField a.holdCause 5 4 2 })
    else .next s1

/-! ### Sources in service (R498, R501 to R503) -/

/-- MONITOR_TRIP (R499, R501, R502, R505). -/
def execMonitorTrip (src : ClkSrc) (s : State) : Answer :=
  if !s.awake then .next s
  else match s.trip src with
    | (s1, none) => .next s1
    | (s1, some (d, x)) => .next (s1.enterHold d x (s1.qualified .sirc))

/-- SOURCE_QUALIFIED (R498, R503, R536): start-up goes on at steps 7 and 8; later, domains on a fallback return. -/
def execSourceQualified (src : ClkSrc) (s : State) : Answer :=
  if !s.awake || !s.canQualify src then .next s
  else
    let s1 := s.qualify src
    if s.sys.step = 7 && decide (src = ClkSrc.xta) then .next s1.stepEight
    else if s.sys.step = 8 then .next ((s1.returns src).moveDomains src).pllsReady
    else .next (s1.returns src)

/-! ### The patch (R472, R538) -/

/-- Step 10 ends; with SYS_START.GO written, step 11 brings the SerDes up and step 12 begins (R536, R537). -/
def State.goOn (s : State) : State :=
  if s.sys.goWritten && decide (s.sys.step = 11) then (s.onPrt fun p => { p with serdes := true }).atStep 12 else s

/-- Role resolution begins (R437, R536): a device without a partner claims SOLO, one with a partner starts the HELLO exchange. -/
def State.stepThirteen (s : State) : State :=
  let s1 := s.atStep 13
  if s1.gzl.role ≠ .resolving then s1.stepResolved
  else if s1.autoRole ≠ 0 && !s1.gzlOn then s1.claimRole .solo
  else s1.startHello

/-- The moment at which ACQ_TIMEOUT has passed since PLL lock (R360). -/
def State.acqEnd (s : State) : Nat := s.sys.acqAt + s.regField Reg.timLock 31 16 * nsPerSec

/-- Step 12 ends when the timebase is LOCKED or the time is over (R360). -/
def State.acquired (s : State) : State :=
  if s.sys.step = 12 && (decide (s.tim.state = .locked) || decide (s.acqEnd ≤ s.tim.mono)) then s.stepThirteen else s

/-- Start-up goes on after step 10, with a patch running or the ROM alone. -/
def State.patched (s : State) (src : Nat) (version : Word) (outcome : Nat) : State :=
  (((s.onSys fun y => { y with step := 11, patchWait := false, patchGo := false, checking := none, patchSrc := src, patchVersion := version }).onSec fun x =>
    { x with fwPatch := outcome }).goOn).acquired

/-- A patch is fit to run (R472, R538): header, length, key and signature. -/
def State.patchOk (s : State) (p : PatchIn) : Bool :=
  let n := p.bytes.length
  let body := p.bytes.take (n - 64)
  let key := (p.bytes.drop (n - 128)).take 64
  !p.dmaErr && patchMagic p.bytes && decide (192 ≤ n) && decide (n ≤ 1048576) && decide (n % 64 = 0) &&
  decide (field (patchWord p.bytes 1) 3 0 = 4) && decide (field (patchWord p.bytes 1) 31 16 = 1) && decide ((patchWord p.bytes 2).toNat = n) &&
  (!p.host || decide (s.reg Reg.sysPatchLen = patchWord p.bytes 2)) &&
  decide (sha256 key = fwKeyHash) && ecdsaVerify key (p.bytes.drop (n - 64)) body

/-- The signature check of step 10 ends (R472): the patch runs, or the ROM alone. -/
def State.patchChecked (s : State) (p : PatchIn) : State :=
  if s.patchOk p then s.patched (if p.host then 2 else 1) (patchWord p.bytes 3) 1 else s.patched 0 0 2

/-- PATCH_LOADED (R472, R538): the patch is loaded and its signature checked; from the flash when it holds a patch, from host memory once GO is written. -/
def execPatchLoaded (p : PatchIn) (s : State) : Answer :=
  if !s.awake || decide (s.sys.step ≠ 9) || decide (p.host ≠ s.sys.patchWait) || (p.host && !s.sys.patchGo) then .next s
  else
    let s1 := if p.dmaErr then s.inc Reg.hifDmaErrCnt else s
    .next (if p.rests then (s1.onSys fun y => { y with checking := some p }).atStep 10 else s1.patchChecked p)

/-- The levels of QSPI_CLK and QSPI_CS_N between reads of the flash, as from the start of any reset (R569): low and high. -/
def State.qspiPins (_s : State) : Bool × Bool := (false, true)

/-- The ROM waits for SYS_BOOT_CTL (R538). -/
def State.waitsBoot (s : State) : Bool := s.awake && decide (s.sys.step = 9) && s.sys.patchWait && !s.sys.patchGo

/-- A write of SYS_BOOT_CTL (R538, R556). DEDUCED (log 81): with both bits set, GO is taken. -/
def State.bootCtl (s : State) (v : Word) : State :=
  if !s.waitsBoot then s
  else if flag v 0 then s.onSys fun y => { y with patchGo := true }
  else if flag v 1 then s.patched 0 0 0
  else s

/-- BOOT_GO (R538). -/
def execBootGo (s : State) : Answer := .next (s.bootCtl 1)

/-- BOOT_NONE (R538). -/
def execBootNone (s : State) : Answer := .next (s.bootCtl 2)

/-- PATCH_WAIT_TIMEOUT (R538): 2 s from the start of step 9 without a patch or NONE. -/
def execPatchWaitTimeout (s : State) : Answer :=
  if s.waitsBoot then .next ((s.runToMono (s.sys.bootAt + 2 * nsPerSec)).patched 0 0 0) else .next s

/-- A write of SYS_START.GO (R537): it takes effect when step 10 ends. -/
def State.startWritten (s : State) : State :=
  if s.hostUp && decide (s.sys.step ≤ 11) && !s.sys.tampered then ((s.onSys fun y => { y with goWritten := true }).goOn).acquired else s

/-- START_GO (R536, R537). -/
def execStartGo (s : State) : Answer := .next s.startWritten

/-- ACQUISITION_TIMEOUT (R360). -/
def execAcquisitionTimeout (s : State) : Answer :=
  if s.awake && decide (s.sys.step = 12) then .next (s.runToMono s.acqEnd).acquired else .next s

/-- SERVO_MEASUREMENT (R360, R364, R367, R368): `at_` is the device time at which firmware hands the measurement over, and τ counts to it (log 23). -/
def execServoMeasurement (at_ : Nat) (s : State) : Answer := if s.awake then .next (s.runToMono at_).handOver.acquired else .next s

/-! ### Dormant mode (R530 to R532) -/

/-- The timebase value that the wake source TICKS waits for: PWR_WAKE_TICKS grid instants from now, at the rate of TCK_FM (R531). -/
def State.wakeMoment (s : State) : Nat :=
  let p := gridAfter s.fm s.tim.now
  let k := p.1 * s.fm + p.2 + (s.reg Reg.pwrWakeTicks).toNat - 1
  s.instantTime (k / s.fm) (k % s.fm)

/-- The timebase as it counts through dormant mode (R530): servo frozen, no source, BIVOUAC unless FREE. -/
def State.dormantTime (s : State) : Tim :=
  let t := s.enterBivouac.tim
  { t with
    source := .none, parent := none, masters := [], ports := [{}, {}, {}, {}], newSource := true, syncAt := none, syncMissed := 0
    followUp := [], edge := none, label := none, labelRun := 0, labelledAt := none, gnssOk := false, measured := none, pendingStep := none
    ppsRise := none, tickRise := none }

/-- The registers that dormant mode keeps (R551, R552). -/
def State.keepWake (s old : State) : State := (s.setReg Reg.pwrWakeCfg (old.reg Reg.pwrWakeCfg)).setReg Reg.pwrWakeTicks (old.reg Reg.pwrWakeTicks)

/-- What runs on through dormant mode, qualified as it was: XTA and PLLT (R532), SIRC and XTB of the battery domain. -/
def State.keptSources (s : State) : BitVec 8 := s.clk.qualified &&& ([.xta, .pllt, .sirc, .xtb].foldl addSource 0)

/-- What runs on through dormant mode and its wake: the timebase, its sources, the wake registers. -/
def State.keepDormant (s old : State) : State :=
  ({ s with tim := old.tim }.keepWake old).onClk fun c =>
    { c with
      qualified := old.keptSources, locked := old.clk.locked &&& addSource 0 .pllt
      domSrc := setAt c.domSrc 3 (old.clk.domSrc.getD 3 .firc), fallback := setAt c.fallback 3 (old.clk.fallback.getD 3 false) }

/-- Dormant mode is entered (R530): a commit as in R522, then every domain but TB and AON is power-gated. -/
def State.enterDormant (s : State) : State :=
  let s1 := s.powerCommit
  let s2 := { s1 with tim := s1.dormantTime }
  (s2.wiped.keepDormant s2).onPwr fun p => { p with dormant := true, wakeAt := some s.wakeMoment }

/-- DORMANT_REQUEST (R530). -/
def execDormantRequest (value : Word) (s : State) : Answer := if s.hostUp then .next (s.requestDormant value) else .next s

/-- DORMANT_ENTRY (R523, R530): at the next slack, or at once without the grid; brace refuses it. -/
def execDormantEntry (s : State) : Answer :=
  if !s.pwr.dormantPending || !s.awake then .next s
  else if s.pwr.brace then .next (s.onPwr fun p => { p with dormantPending := false })
  else if s.slack && !(s.gridOn && s.pwr.dormantWaits) then .next s.enterDormant
  else .next s

/-- DORMANT_WAKE (R531, R532): an enabled wake source fires; TICKS at its moment. -/
def execDormantWake (sources : BitVec 5) (b : BootIn) (s : State) : Answer :=
  let fired := sources &&& (s.reg Reg.pwrWakeCfg).setWidth 5
  if !s.pwr.dormant || decide (fired = 0) then .next s
  else
    let s1 := if fired.getLsbD 1 then s.runTo (s.pwr.wakeAt.getD 0) else s
    .next (((s1.resetBy 5 fired.toNat).keepDormant s1).startUp b)

/-! ### The device by itself -/

/-- What the device does with no command waiting (log 1, log 6): a start-up step left under way ends, with those that follow it; else the timebase counts one
cycle. -/
def State.idle (s : State) : State :=
  if s.bootRests then (if s.pwr.brace && decide (s.sys.step = 5) && s.nvm.fuses.owesWipe then s.idleCycle else s.bootOn 6)
  else match s.sys.checking with
    | some p => s.patchChecked p
    | none => s.idleCycle

/-! ### The battery domain (R533) -/

/-- VBAT_LOSS (R533): the main supplies are gone and VBAT falls below its retention limit. What the domain holds is unspecified from then until it
takes its reset values at the next power-up. -/
def execVbatLoss (s : State) : Answer :=
  let (ws, s1) := s.powerCut.freeWords 6
  .next (((s1.wiped.onAon fun a =>
    { a with
      lost := true, vbatLost := true, rtcValid := false, rtcTicks := (wordAt ws 0).toNat, tampRtc := wordAt ws 1
      holdCause := wordAt ws 2, resetCause := wordAt ws 3, tampLatch := (wordAt ws 4).setWidth 2, rtcOffset := signed 16 ((wordAt ws 5).toNat % 65536) })).onPwr fun p => { p with off := true })

end Sys2Proof.Machine
end

