-- ==== Sys2Proof/Machine/TimeStep.lean ====
section
/-! DEFINITION. Steps of the timebase: the servo, the record, re-phasing, the grid and the Basin (R35, R38, R171, R172, R373). -/
namespace Sys2Proof.Machine

/-- The timebase after a step of −θ (R373). -/
def State.steppedNow (s : State) (theta : Int) : Nat := (((s.tim.now : Int) - theta) % Int.ofNat timeModulus).toNat

/-- The servo, the counter and the time of a step (R367, R373). DEDUCED (log 67): the size of a step is the new time minus the old one. -/
def State.setNow (s : State) (theta : Int) : State :=
  ((s.onTim fun t =>
    { t with now := s.steppedNow theta, pendingStep := none, lastMeasured := none, thf := none }).inc Reg.timStepCnt).setReg
    Reg.timLastStep (satInt32 (-theta))

/-- The TIME_STEP record (Table EVR-2). -/
def State.stepRecord (s : State) (old : Nat) (flags : Nat) : State :=
  let osec := old / nsPerSec
  s.event 0x0901 clsNotice
    [w32 osec, place (osec / 2 ^ 32 % 65536) 0 ||| place (s.nowSec / 2 ^ 32 % 65536) 16, w32 (old % nsPerSec), w32 s.nowSec, w32 s.nowNs]
    { flags := flags, time := some s.timebaseTime }

/-- The marks that a column flushed now carries beside those of `flushColumn` (R61, R177). -/
def State.markFlushed (s : State) (tick : Nat) : State :=
  let idle := s.tck.safeIdle
  let gone := s.discarded tick
  s.onCol tick fun c => { c with safeIdle := idle, noImage := gone }

/-- Which aligned-column records of a flushed column the DMA has not finished when its slot is released (R178): free values (log 16), a TIME_STEP having no
operand for it. -/
def State.freeSlow (s : State) : List SlowRecord × State :=
  (List.finRange 8).foldl (fun (r : List SlowRecord × State) n =>
    let (slow, s1) := r.2.freeBool
    let (w, s2) := s1.freeWord
    (if slow then r.1 ++ [{ sel := n, bytes := w.toNat }] else r.1, s2)) ([], s)

/-- What a flushed column still gives: its records unless BSN_CFG.NO_FLUSH_REC, the archive, the capture rows (R172, R345). -/
def State.flushedOut (s : State) (tick : Nat) : State :=
  let s1 := (s.markFlushed tick).onTck fun t => { t with lastClosed := some tick }
  match s1.column tick with
  | none => s1
  | some c =>
    let (slow, s1) := s1.freeSlow
    let s2 := if c.noImage then s1 else (if s1.regBit Reg.bsnCfg 1 then s1 else s1.columnRecords c slow).arcDeliver c
    let s3 := s2.capCells c
    let s4 := if c.noImage then s3 else s3.capDerived c
    if c.index + 1 = s.fm then s4.endSide else s4

/-- The Basin and the grid realign (R38, R171): the next tick is the first grid instant later than the new time, with the next tick ID; the modal
groups start anew if MOD_CFG.REINIT_ON_STEP says so (R191). -/
def State.realign (s : State) : State :=
  let p := gridAfter s.fm s.tim.now
  let (s1, ticks) := (s.withdraw fun c => !c.emitted).flush
  let s2 := ticks.foldl State.flushedOut s1
  let s3 := if s2.regBit Reg.modCfg 0 then s2.reinitAll 5 else s2
  (s3.onTck fun t => { t with nextInstant := p, openId := t.nextId, openInstant := p, earlyWaiting := false, afterStep := true }).releaseSlots.inc Reg.tckStepCnt

/-- An instant that a forward step of at most T/2 passes is emitted at once (R35). -/
def State.passInstant (s : State) : State :=
  if s.instantTime s.tck.nextInstant.1 s.tck.nextInstant.2 ≤ s.tim.now then s.emitInstant else s

/-- A step of more than T/2 (R38). -/
def State.bigStep (s : State) (theta : Int) : Bool := s.gridOn && decide (nsPerSec < 2 * theta.natAbs * s.fm)

/-- A step of −θ; `bySet` says that TIME_SET asked for it (R373). -/
def State.timeStep (s : State) (theta : Int) (bySet : Bool) : State := s.oneCycle fun s =>
  let big := s.bigStep theta
  let flags := (if big then 1 else 0) + (if 0 < theta then 2 else 0) + (if bySet then 4 else 0)
  let s1 := ((s.setNow theta).stepRecord s.tim.now flags).nrgRephase.lmuRephase.capStep
  if big then s1.realign else if s1.gridOn then s1.passInstant else s1

/-- TIME_STEP (R373): a pending step takes effect in slack. -/
def execTimeStep (s : State) : Answer :=
  match s.tim.pendingStep with
  | none => .next s
  | some (theta, bySet) => if s.slack && s.awake then .next (s.timeStep theta bySet) else .next s

end Sys2Proof.Machine
end

