-- ==== Sys2Proof/Machine/Regs.lean ====
section
/-! DEFINITION. What a read of a register returns (R10, R391, R566): what is stored, the status that the device shows, latched halves of 64-bit
pairs, and registers that a read clears. -/
namespace Sys2Proof.Machine

/-- The index of an offset among n registers from a base at a stride. -/
def regIdx (base stride n off : Nat) : Option Nat :=
  if base ≤ off ∧ (off - base) % stride = 0 ∧ (off - base) / stride < n then some ((off - base) / stride) else none

/-- A bitmap over the first n numbers. -/
def bitmap (n : Nat) (p : Nat → Bool) : Word := (List.range n).foldl (fun (w : Word) i => w ||| placeB (p i) i) 0

/-! ### Status by block -/

/-- SYS_STEP (R554). -/
def State.stepWord (s : State) : Word :=
  let wait := (decide (s.sys.step = 9) && s.sys.patchWait && !s.sys.patchGo) || (decide (s.sys.step = 11) && !s.sys.goWritten)
  place (if s.sys.tampered then 15 else s.sys.step) 0 ||| placeB (wait && !s.sys.tampered) 4 ||| place s.sys.patchSrc 5

/-- SYS status. DESIGN CHOICE (log 72): the spec gives the LPDDR5 patrol no rate, so the period of its last pass is a free value. -/
def State.viewSys (s : State) (off : Nat) : Option Word :=
  if off = Reg.sysResetCause then some s.aon.resetCause
  else if off = Reg.sysStep then some s.stepWord
  else if off = Reg.sysPatrolPeriodS then some (if s.sys.step ≤ 8 then 0 else Config.patrolPeriodS s.tim.mono)
  else none

/-- TCK_STATUS (R68). -/
def State.tckStatus (s : State) : Word :=
  placeB s.gridOn 0 ||| place s.tck.phase 1 ||| place s.tck.variant 3 ||| placeB s.tck.safeIdle 5 ||| placeB s.clkFallback 6 |||
  place s.pwr.level 7 ||| placeB (s.tck.safeIdle && decide (s.tck.idleCause = 1)) 9

/-- The tick ID of the last closed column (R69). -/
def State.lastTick (s : State) : DWord := BitVec.ofNat 64 (s.tck.lastClosed.getD 0)

/-- TCK status. -/
def State.viewTck (s : State) (off : Nat) : Option Word :=
  if off = Reg.tckStatus then some s.tckStatus
  else if off = Reg.tckTickIdLo then some (lo32 s.lastTick)
  else if off = Reg.tckTickIdHi then some (hi32 s.lastTick)
  else none

/-- The codes of Table SCH-5. -/
def PitchState.code : PitchState → Nat
  | .loading => 1
  | .verifying => 2
  | .raising => 3
  | .armed => 4

/-- SCH_STATUS (R72). -/
def State.schStatus (s : State) : Word :=
  placeB s.sch.activeValid 0 ||| placeB s.sch.shadowValid 1 ||| place ((s.sch.pitch.map (·.state.code)).getD 0) 2 |||
  place s.sch.lastReason 8 ||| (if s.sch.activeValid then place (imgMinLevel s.sch.active) 16 else 0) |||
  (if s.sch.shadowValid then place (imgMinLevel s.sch.shadow) 18 else 0)

/-- SCH status. DESIGN CHOICE (log 90): the serials read 0 while ACTIVE_VALID or SHADOW_VALID is 0, where the spec gives them no value. -/
def State.viewSch (s : State) (off : Nat) : Option Word :=
  if off = Reg.schStatus then some s.schStatus
  else if off = Reg.schActiveSerial then some (if s.sch.activeValid then imgSerial s.sch.active else 0)
  else if off = Reg.schShadowSerial then some (if s.sch.shadowValid then imgSerial s.sch.shadow else 0)
  else none

/-- DPX_IDLE (R99): unfenced Plots outside the map in force; every unfenced one while no variant runs; its reset value until the boot ROM runs (log 83). -/
def State.idlePlots (s : State) : Word :=
  if s.sys.step < 6 then 0
  else if s.imageActive && !s.tck.safeIdle then ~~~s.dpx.fenceEff &&& ~~~(bitmap 32 fun q => s.dpx.map.contains q) else ~~~s.dpx.fenceEff

/-- DPX status. -/
def State.viewDpx (s : State) (off : Nat) : Option Word :=
  if off = Reg.dpxFenceEff then some s.dpx.fenceEff
  else if off = Reg.dpxFencePend then some s.dpx.fencePend
  else if off = Reg.dpxFenceCause then some s.fenceCause
  else if off = Reg.dpxIdle then some s.idlePlots
  else none

/-- MUTED as PRT_STATUSn and ALM_STATUS show it: their reset value, 0, stands until start-up's second step (R567). DEDUCED (log 83). -/
def State.mutedShown (s : State) : Bool := s.muted && decide (2 ≤ s.sys.step)

/-- PRT_STATUSn (R139). -/
def State.prtStatus (s : State) (n : Nat) : Word :=
  let p := s.port n
  placeB (s.portUp n) 0 ||| placeB (!modeOk (s.speed n) (s.fec n)) 1 ||| placeB p.localFault 2 ||| placeB p.remoteFault 3 |||
  placeB (p.fecLock && s.portUp n) 4 ||| placeB s.mutedShown 5 ||| placeB p.disabled 6

/-- PRT status. -/
def State.viewPrt (s : State) (off : Nat) : Option Word :=
  if off = Reg.prtPairStatus then some (placeB s.pairActive 0 ||| placeB s.pairMismatch 1)
  else (regIdx (Reg.prtStatus 0) 0x1000 4 off).map s.prtStatus

/-- BSN_STATUS (R179). -/
def State.bsnStatus (s : State) : Word :=
  let o := s.openCols
  placeB (decide (s.sch.active.size ≠ 0)) 0 ||| place o.length 1 ||| place ((o.head?.map (·.tick % 24)).getD 0) 6 |||
  place ((o.getLast?.map (·.tick % 24)).getD 0) 11 ||| place s.bmax 16

/-- MOD status. -/
def State.viewMod (s : State) (off : Nat) : Option Word :=
  let g := mgGroups s.img
  if off = Reg.modStatus then
    some (place g.length 0 ||| place (g.filter (mgFo s.img)).length 11 ||| placeB (decide (s.sch.active.size ≠ 0)) 21)
  else if off = Reg.modPool then some (place ((g.map (mgSize s.img)).sum / 256) 0)
  else none

/-- TOP_STATUS (R245). -/
def State.topStatus (s : State) : Word :=
  let t := s.top
  placeB (decide (s.sch.active.size ≠ 0)) 0 ||| placeB t.refSplit 1 |||
  placeB (!(t.badBranches.isEmpty && t.badNodes.isEmpty && t.badCuts.isEmpty)) 2 ||| place t.islands 3

/-- ALM status (R250, R252). -/
def State.viewAlm (s : State) (off : Nat) : Option Word :=
  if off = Reg.almStatus then
    some (placeB (decide (s.sch.active.size ≠ 0)) 0 ||| placeB s.alm.fail 1 ||| placeB s.mutedShown 2 |||
      (bitmap 8 s.almActive) <<< 3 ||| place (s.alm.rules.filter fun e => e.2.raised).length 12)
  else if off = Reg.almNextSeq then some s.alm.seq
  else (regIdx (Reg.almRaised 0) 4 64 off).map fun w => bitmap 32 fun i => (s.alm.rule (32 * w + i)).raised

/-- ARC status (R278, R279). -/
def State.viewArc (s : State) (off : Nat) : Option Word :=
  if off = Reg.arcStatus then some (placeB s.arcOn 0 ||| placeB s.arc.regionErr 1 ||| placeB s.arc.replay.isSome 2)
  else if off = Reg.arcWrOff then some (w32 s.arc.wrOff)
  else if off = Reg.arcDrainOff then some (w32 ((s.arc.undrained.head?.map (·.1)).getD s.arc.wrOff))
  else none

/-- LMU status (R302, R307). -/
def State.viewLmu (s : State) (off : Nat) : Option Word :=
  if off = Reg.lmuStatus then
    some (placeB (s.clk.locked.getLsbD ClkSrc.pllm.code) 0 ||| placeB (s.clk.locked.getLsbD ClkSrc.pllm.code && s.lmu.next.isSome) 1)
  else if off = Reg.lmuSettled then some (bitmap 24 s.chSettled)
  else if off = Reg.lmuXfBusy then some (bitmap 24 s.fading)
  else none

/-- NRG_PTp_STATUS (R326). -/
def State.ptStatus (s : State) (p : Nat) : Word :=
  let x := s.nrgPt p
  placeB (s.nrgOn p && s.nrgRuns && s.gate 39) 0 ||| placeB x.cfgErr 1 ||| placeB x.timed 2 ||| placeB (s.latchHeld p) 3 |||
  place x.restored 4 ||| placeB (s.nrgAdopted) 6

/-- NRG status. -/
def State.viewNrg (s : State) (off : Nat) : Option Word :=
  ((regIdx (Reg.nrgPtStatus 0) 0x40 4 off).map s.ptStatus).orElse fun _ =>
    (regIdx (Reg.nrgPlsBacklog 0) 0x10 8 off).map fun n => place (s.pulse n).backlog 0

/-- The codes of Table CAP-2. -/
def CapState.code : CapState → Nat
  | .idle => 0
  | .armed => 1
  | .triggered => 2
  | .done => 3

/-- CAP_STATUS (R350). -/
def State.capStatus (s : State) : Word :=
  (List.range 8).foldl (fun (w : Word) u => w ||| place (s.capUnit u).state.code (2 * u)) 0 |||
  placeB s.cap.armPin 16 ||| placeB s.fireLow 17 ||| placeB s.refLock 18

/-- TIM_STATUS (R381): its reset value until the timebase is seeded. -/
def State.timStatus (s : State) : Word :=
  let t := s.tim
  if !t.seeded then 0xF380
  else
    place t.state.code 0 ||| place t.source.code 3 |||
    (if t.source = .ptp then place ((t.parent.map (·.port)).getD 0) 5 else 0) ||| placeB s.slewingNow 7 ||| placeB t.offsetValid 8 |||
    placeB (s.leapPending s.nowSec) 9 ||| placeB (s.leapDir s.nowSec) 10 ||| placeB (s.leapOccurred s.nowSec) 11 ||| place s.tqCode 12 ||| place s.statTq 16 |||
    place s.statUnlock 19 ||| placeB t.gnssOk 21

/-- TIM status (R388, R389). -/
def State.viewTim (s : State) (off : Nat) : Option Word :=
  if off = Reg.timStatus then some s.timStatus
  else if off = Reg.timNowNs then some (w32 s.nowNs)
  else if off = Reg.timNowSecLo then some (w32 s.nowSec)
  else if off = Reg.timNowSecHi then some (place (s.nowSec / 2 ^ 32 % 65536) 0)
  else if off = Reg.timUtcOffset then some (place (satInt16 (s.offsetAt s.nowSec)) 0)
  else if off = Reg.timTheta then some (satInt32 s.tim.theta)
  else if off = Reg.timFreqAdj then some s.freqNow
  else if off = Reg.timErrEst then some ((s.tim.errEst.map errNs).getD (BitVec.allOnes 32))
  else if off = Reg.timUnlockSec then some s.unlockSec
  else if off = Reg.timSyncMissCnt then some (s.reg Reg.timSyncMissCnt + w32 s.ppsMisses)
  else if off = Reg.timRtcSec then some (w32 (s.rtcNow / 32768))
  else if off = Reg.timRtcStatus then
    some (placeB s.aon.rtcValid 0 ||| place (s.rtcNow % 32768) 1 ||| place (satInt16 s.aon.rtcOffset) 16)
  else none

/-- Ring n waits for space in its completion ring (R399). -/
def State.ringStalled (s : State) (n : Nat) : Bool :=
  let r := s.ring n
  r.works && (decide (s.ringType n = 1) || decide (s.ringType n = 4)) && decide (r.hostIdx ≠ r.devIdx) && !s.cqFree (s.ringCq n)

/-- HIF_RINGn_STATUS (R419). -/
def State.ringStatus (s : State) (n : Nat) : Word :=
  let r := s.ring n
  placeB r.enabled 0 ||| placeB r.error 1 ||| placeB r.cfgErr 2 ||| placeB (s.ringStalled n) 3 ||| placeB r.armed 4 ||| place r.errCause 5

/-- HIF status (R411, R417, R419). -/
def State.viewHif (s : State) (off : Nat) : Option Word :=
  if off = Reg.hifStatus then
    some (placeB s.hif.linkUp 0 ||| place s.hif.speed 1 ||| place s.hif.lanes 4 ||| placeB s.isSealed 8 ||| placeB (s.hif.rings.any fun r => r.2.error) 9)
  else ((regIdx (Reg.hifRingStatus 0) 0x20 64 off).map s.ringStatus).orElse fun _ =>
    (regIdx (Reg.hifRingCtl 0) 0x20 64 off).map fun n => placeB (s.ring n).enabled 0

/-- The words of the doorbell page of ring n that a host can read (Table HIF-3): HOST_IDX, DEV_IDX, DB_STATUS. -/
def State.doorbellWords (s : State) (n : Nat) : List Word :=
  let r := s.ring n
  [place r.hostIdx 0, place r.devIdx 0, placeB r.enabled 0 ||| placeB r.error 1 ||| placeB (s.ringStalled n) 2 ||| place r.errCause 3]

/-- GZL_STATUS (R443). -/
def State.gzlStatus (s : State) : Word :=
  let g := s.gzl
  place g.role.code 0 ||| place g.partnerRole.code 2 ||| placeB g.linkUp 4 ||| place s.lanes 5 ||| placeB g.guyA 7 ||| placeB g.guyB 8 |||
  placeB s.muted 9 ||| placeB g.partnerHeard 10 ||| placeB g.stateValid 11 ||| placeB g.tickMismatch 12 ||| placeB s.imageMismatch 13 |||
  placeB (g.swaps.any Swap.sent) 14

/-- GZL status (R445). -/
def State.viewGzl (s : State) (off : Nat) : Option Word :=
  let t : DWord := BitVec.ofNat 64 s.gzl.stateTick
  if off = Reg.gzlStatus then some s.gzlStatus
  else if off = Reg.gzlEpoch then some s.gzl.epoch
  else if off = Reg.gzlPartnerEpoch then some s.gzl.partnerEpoch
  else if off = Reg.gzlStateTickLo then some (lo32 t)
  else if off = Reg.gzlStateTickHi then some (hi32 t)
  else if off = Reg.gzlSession then some s.gzl.session
  else none

/-- EVR_STATUS (R463). -/
def State.evrStatus (s : State) : Word :=
  placeB s.evr.frozen 0 ||| placeB s.evr.held 1 ||| placeB s.evrFull 2 ||| placeB (s.evr.owed.isSome || decide (0 < s.evr.lostQueue + s.evr.lostFull)) 3 |||
  place s.evr.queue.length 4

/-- EVR status (R464). -/
def State.viewEvr (s : State) (off : Nat) : Option Word :=
  let h : DWord := BitVec.ofNat 64 s.nvm.evrHead
  let n : DWord := BitVec.ofNat 64 s.nvm.evrNext
  if off = Reg.evrStatus then some s.evrStatus
  else if off = Reg.evrHeadLo then some (lo32 h)
  else if off = Reg.evrHeadHi then some (hi32 h)
  else if off = Reg.evrNextLo then some (lo32 n)
  else if off = Reg.evrNextHi then some (hi32 n)
  else if off = Reg.evrCount then some (w32 s.evrCount)
  else none

/-- SEC_LIFECYCLE (R488): the fuses from start-up step 3 on. -/
def State.lifecycleWord (s : State) : Word :=
  let f := s.nvm.fuses
  if s.sys.step < 3 then 0
  else
    place f.state 0 ||| placeB (decide (f.state = 0) || f.wiped.getLsbD (f.state - 1)) 3 ||| placeB s.nvm.nrgHeld 4 |||
    place f.tampEn.toNat 5 ||| placeB s.sec.fuseErr 7

/-- SEC_SLOT_STATUS of slot n: WRITING while a KEY_SLOT_WRITE to it has not ended, else what its last check found (R492). -/
def State.slotShown (s : State) (n : Nat) : Nat :=
  if s.sec.writes.any fun w => decide (w.slot = n) && w.buf.isSome then 3 else s.sec.slotStatus.getD n 0

/-- SEC status (R489 to R494). -/
def State.viewSec (s : State) (off : Nat) : Option Word :=
  let x := s.sec
  if off = Reg.secLifecycle then some s.lifecycleWord
  else if off = Reg.secStatus then
    some (placeB s.sys.tampered 0 ||| placeB x.keyLock 1 ||| placeB x.key.isSome 2 ||| place ((x.key.map (·.purpose)).getD 0) 3 |||
      placeB s.nextJob.isSome 11 ||| place x.fwPatch 12)
  else if off = Reg.secLcStatus then
    some (placeB s.pendingTicket.isSome 0 ||| placeB x.verifying.isSome 1 ||| place x.reason 8 |||
      place ((s.pendingTicket.map ticketAction).getD 0) 16)
  else if off = Reg.secSlotStatus then
    some ((List.range 16).foldl (fun (w : Word) n => w ||| place (s.slotShown n) (2 * n)) 0)
  else if off = Reg.secTampLatch then
    some (place s.aon.tampLatch.toNat 0 ||| placeB s.aon.vbatLost 2 ||| placeB (decide (0 < s.aon.open0)) 3 ||| placeB (decide (0 < s.aon.open1)) 4)
  else if off = Reg.secTampRtc then some s.aon.tampRtc
  else if off = Reg.secDevSerialLo then some (if s.sys.step < 3 then 0 else lo32 Config.devSerial)
  else if off = Reg.secDevSerialHi then some (if s.sys.step < 3 then 0 else hi32 Config.devSerial)
  else (regIdx (Reg.secKeyid 0) 4 16 off).map fun n => if s.slotShown n = 1 then place (x.keyIds.getD n 0) 0 else 0

/-- CLK_DOMd_STATUS (R514). -/
def State.domStatus (s : State) (d : Nat) : Word :=
  place (s.clk.domSrc.getD d .firc).code 0 ||| placeB (s.clk.fallback.getD d false) 3 |||
  place (((s.clk.lastFailed.getD d none).map ClkSrc.code).getD 0) 4

/-- A PLL holds lock (R511): a qualified one, or, once it runs at step 8, one that is still being counted, as it has come to lock or not. -/
def State.holdsLock (s : State) (x : ClkSrc) : Bool :=
  s.clk.locked.getLsbD x.code ||
    (decide (8 ≤ s.sys.step) && s.awake && (reference x).any s.qualified && !s.qualified x && Config.pllLock x.code s.tim.mono)

/-- CLK status (R511, R514 to R518). -/
def State.viewClk (s : State) (off : Nat) : Option Word :=
  let c := s.clk
  if off = Reg.clkSrcStatus then some (place c.qualified.toNat 0 ||| place (dropSources 0xF0 (bootPlls.filter fun x => !s.holdsLock x)).toNat 8 ||| place c.lockout.toNat 16)
  else if off = Reg.clkSluiceStatus then some (place c.sluiceGate 0 ||| place c.sluiceResult 8 ||| placeB c.sluice.isSome 11)
  else if off = Reg.clkSluiceOpen0 then some (c.gates.setWidth 32)
  else if off = Reg.clkSluiceOpen1 then some ((c.gates >>> 32).setWidth 32)
  else if off = Reg.clkHoldCause then some s.aon.holdCause
  else (regIdx (Reg.clkDomStatus 0) 0x10 8 off).map s.domStatus

/-- PWR status (R542, R546). -/
def State.viewPwr (s : State) (off : Nat) : Option Word :=
  let p := s.pwr
  if off = Reg.pwrStatus then
    some (placeB p.brace 0 ||| placeB p.senseLow 1 ||| place p.level 2 ||| placeB s.stepPending 4 ||| placeB p.thermWarn 5 ||| placeB p.vbatOk 6)
  else if off = Reg.pwrDvfsStatus then
    some ((if p.level = 3 then 0 else place s.targetLevel 0) ||| placeB p.request.isSome 2 ||| place p.result 4)
  else if off = Reg.pwrTempPeak then some (match p.tempPeak with | some t => place (unsigned 16 t) 0 | none => 0)
  else none

/-- The status that the device shows at an offset; none where the register holds what was stored. -/
def State.status (s : State) (off : Nat) : Option Word :=
  match off / 65536 with
  | 0x00 => s.viewSys off
  | 0x02 => s.viewTck off
  | 0x03 => s.viewSch off
  | 0x04 => s.viewDpx off
  | 0x06 => s.viewPrt off
  | 0x08 => (regIdx (Reg.flmLevel 0) 4 9 off).map fun n => w32 (s.flume n).level
  | 0x0A => if off = Reg.bsnStatus then some s.bsnStatus else none
  | 0x0B => s.viewMod off
  | 0x0C => if off = Reg.topStatus then some s.topStatus else none
  | 0x0D => s.viewAlm off
  | 0x0E => if off = Reg.prdStatus then some (placeB (decide (s.sch.active.size ≠ 0)) 0 ||| place s.ncMax 1) else none
  | 0x0F => s.viewArc off
  | 0x10 => s.viewLmu off
  | 0x11 => s.viewNrg off
  | 0x12 => if off = Reg.capStatus then some s.capStatus else none
  | 0x13 => s.viewTim off
  | 0x14 => s.viewHif off
  | 0x15 => s.viewGzl off
  | 0x16 => s.viewEvr off
  | 0x17 => s.viewSec off
  | 0x18 => s.viewClk off
  | 0x19 => s.viewPwr off
  | _ => none

/-! ### Reads -/

/-- What a 32-bit read of an offset shows, its effects aside (R10, R391): 0 where no register lies and for a WO register. -/
def State.view (s : State) (off : Nat) : Word :=
  match regRow off with
  | none => 0
  | some r => if r.acc = .wo then 0 else (s.status off).getD (s.reg off)

/-- The halves that a read of an offset latches (R69, R389): TIM_NOW_NS latches both words of the seconds. -/
def latchedBy (off : Nat) : List Nat :=
  if off = Reg.tckTickIdLo then [Reg.tckTickIdHi]
  else if off = Reg.timNowNs then [Reg.timNowSecLo, Reg.timNowSecHi]
  else if off = Reg.evrHeadLo then [Reg.evrHeadHi]
  else if off = Reg.evrNextLo then [Reg.evrNextHi]
  else []

/-- The latches that a read of an offset ends: reading the high word frees it, and TIM_NOW_SEC_HI frees both words of the seconds. -/
def freedBy (off : Nat) : List Nat := if off = Reg.timNowSecHi then [Reg.timNowSecLo, Reg.timNowSecHi] else if off = Reg.timNowSecLo then [] else [off]

/-- A register that a read clears takes its reset value (R10); FLM_PEAKn and EVR_QUEUE_PEAK begin again at the level that stands (R129, R464). -/
def State.clearRead (s : State) (off : Nat) : State :=
  match regRow off with
  | none => s
  | some r =>
    if r.acc ≠ .rc then s
    else if off = Reg.pwrTempPeak then s.onPwr fun p => { p with tempPeak := none }
    else if off = Reg.evrQueuePeak then s.setReg off (w32 s.evr.queue.length)
    else match regIdx (Reg.flmPeak 0) 4 9 off with
    | some n => s.setReg off (w32 (s.flume n).level)
    | none => s.setReg off (regReset off)

/-- A 32-bit read of an aligned offset, with its effects. -/
def State.readReg (s : State) (off : Nat) : Word × State :=
  match mapGet s.latched off with
  | some v => (v, { s with latched := (freedBy off).foldl mapDel s.latched })
  | none =>
    let s1 := { s with latched := (latchedBy off).foldl (fun m h => mapSet m h (s.view h)) s.latched }
    (s.view off, s1.clearRead off)

/-- Reads of successive words from an aligned offset. -/
def State.readWords (s : State) (off : Nat) : Nat → List Word × State
  | 0 => ([], s)
  | n + 1 =>
    let r := s.readReg off
    let q := State.readWords r.2 (off + 4) n
    (r.1 :: q.1, q.2)

/-- A word of BAR2 (Table HIF-1): doorbell pages, the MSI-X table, the PBA. -/
def State.bar2Word (s : State) (off : Nat) : Word :=
  if off < 0x1000 then (s.doorbellWords (off / 64)).getD (off % 64 / 4) 0
  else if decide (0x2000 ≤ off) && decide (off < 0x2800) then s.msixWord ((off - 0x2000) / 4)
  else if decide (0x3000 ≤ off) && decide (off < 0x3010) then s.pbaWord ((off - 0x3000) / 4)
  else 0

/-- The n words from a word number of a host space, read in order (R391): a read of BAR0 has its effects. -/
def State.spaceWords (s : State) (space : HostSpace) (first n : Nat) : List Word × State :=
  match space with
  | .bar0 => s.readWords (4 * first) n
  | .bar2 => ((List.range n).map fun i => s.bar2Word (4 * (first + i) % 0x10000), s)
  | .config => ((List.range n).map fun i => s.configWord (4 * (first + i) % 0x1000), s)

/-- A read of any width (R391): each enclosing word is read, the lower first, and `readData` holds the bytes addressed. -/
def State.hostRead (s : State) (space : HostSpace) (off width : Nat) : State :=
  if !s.hostUp then s
  else
    let first := off / 4
    let last := (off + width + 3) / 4
    let r := s.spaceWords space first (last - first)
    { r.2 with readData := ((bytesOf r.1).drop (off % 4)).take width }

/-- READ_CLEAR (R10, R391). -/
def execReadClear (a : HostAddr) (width : Nat) (s : State) : Answer := .next (s.hostRead a.space a.off.toNat width)

/-- LATCHED_READ (R69, R389, R464). -/
def execLatchedRead (off : BitVec 24) (s : State) : Answer := .next (s.hostRead .bar0 off.toNat 4)

/-- VECTOR_UNMASK (R407): a vector is unmasked and, if its PBA bit is pending, the held message is sent. -/
def execVectorUnmask (v : Fin 128) (s : State) : Answer := .next (if s.hostUp then s.maskVector v.val false else s)

end Sys2Proof.Machine
end

