-- ==== Sys2Proof/Machine/Write.lean ====
section
/-! DEFINITION. Register writes (R10, R25, R33, R39, R41, R184, R236, R391, R528, R563, R564): the access codes, the seal, and what the registers that
act on a write do. -/
namespace Sys2Proof.Machine

/-- A register given the bits of a value that its field table lets a write reach; the others keep their reset value (R566). -/
def State.store (s : State) (off : Nat) (v : Word) : State :=
  match regRow off with
  | none => s
  | some r => s.setReg off ((v &&& r.mask) ||| (r.reset &&& ~~~r.mask))

/-! ### Tick sequencer (R33, R35, R36, R39, R41) -/

/-- TCK_FM and TCK_WD hold values under which the grid can run (R33, R39). -/
def State.gridCfgOk (s : State) : Bool :=
  match fmOf (s.regField Reg.tckFm 3 0) with
  | none => false
  | some fm => decide (50 ≤ s.regField Reg.tckWd 17 0) && decide (s.regField Reg.tckWd 17 0 ≤ 2300000 / fm)

/-- The grid starts: its first instant is the next one of the timebase, and takes the first tick ID (R35, R36). -/
def State.startGrid (s : State) : State :=
  let p := gridAtOrAfter s.fm s.tim.now
  let n := (s.nvm.tickId.map (· + 65536)).getD 0
  s.onTck fun t => { t with nextId := n, nextInstant := p, openId := n, openInstant := p }

/-- A write of TCK_CFG (R33, R39, R41, R65). DEDUCED (log 85): in TAMPERED, where the Basin stays down (R486), EN stays 0. -/
def State.writeTckCfg (s : State) (v : Word) : State :=
  let w := v &&& 2
  if s.gridOn then s.setReg Reg.tckCfg (w ||| 1)
  else if flag v 0 && s.gridCfgOk && !s.sys.tampered then (s.setReg Reg.tckCfg (w ||| 1)).startGrid
  else s.setReg Reg.tckCfg w

/-! ### LPDDR5 regions (R25, R71, R277, R352) -/

/-- The register that enables region r: 0 SCH, 1 ARC, 2 to 9 the capture units. -/
def regionReg (r : Nat) : Nat := if r = 0 then Reg.schStage else if r = 1 then Reg.arcRegion else Reg.capUBase (r - 2)

/-- The span of region r under a register value, in units of 2 MiB: the staging region is exactly 8 MiB. -/
def regionSpan (r : Nat) (w : Word) : Nat × Nat := (field w 12 0, if r = 0 then 4 else field w 26 13)

/-- Region r under a register value overlaps another that is enabled (R25). -/
def State.regionOverlaps (s : State) (r : Nat) (w : Word) : Bool :=
  (List.range 10).any fun q =>
    decide (q ≠ r) && s.regBit (regionReg q) 31 && overlaps (regionSpan r w) (regionSpan q (s.reg (regionReg q)))

/-- The REGION_OVERLAP record (Table EVR-2). -/
def State.overlapRecord (s : State) (r : Nat) : State := s.event 0x0104 clsNotice [place (min r 2) 0 ||| place (r - 2) 8]

/-- An enabled archive region begins empty. -/
def State.freshArchive (s : State) : State := s.onArc fun a => { a with mem := [], wrOff := 0, undrained := [], regionErr := false }

/-- ARC_CFG.EN while it writes into a region that is not valid: 0 (R276). -/
def State.arcEnFollows (s : State) : State :=
  let w := s.reg Reg.arcCfg
  if !flag w 4 && !s.arcRegionOn then s.setReg Reg.arcCfg (putFlag w 0 false) else s

/-- A write of a region's register: an overlap leaves it disabled with a record; an archive region below 64 MiB stays disabled (R25, R278);
without trained LPDDR5 no region is enabled (R581). -/
def State.writeRegion (s : State) (r : Nat) (v : Word) : State :=
  let s1 := s.store (regionReg r) v
  let w := s1.reg (regionReg r)
  let off := s1.setReg (regionReg r) (putFlag w 31 false)
  let refuse (x : State) : State := if r = 1 then x.onArc fun a => { a with regionErr := true } else x
  if !flag w 31 then (if r = 1 then s1.onArc fun a => { a with regionErr := false } else s1)
  else if s.regionOverlaps r w then (refuse off).overlapRecord r
  else if r = 1 && decide (field w 26 13 < 32) then refuse off
  else if !s.sys.boot.ddrOk then (if r = 1 then off.onArc fun a => { a with regionErr := false } else off)
  else if r = 1 then (if s.reg Reg.arcRegion = w then s1 else s1.freshArchive)
  else s1

/-- A write of ARC_CFG (R276): with DEST = 0, EN stays 0 while the region is not valid. -/
def State.writeArcCfg (s : State) (v : Word) : State :=
  (s.store Reg.arcCfg v).arcEnFollows

/-! ### Ports -/

/-- A template of the active image names port n (R236). -/
def State.templateOn (s : State) (n : Nat) : Bool :=
  s.imageActive && (templatesOf s.img).any fun t => decide (tplPort s.img t = n) || (decide (tplPort s.img t = 4) && decide (n < 2))

/-- Ports that a write took out of a mode in which they were up lose their link (R102, R104, R109). DEDUCED (log 84). -/
def State.portsAfter (s old : State) : State :=
  (List.range 4).foldl (fun (x : State) n =>
    if old.portUp n && (!s.portUp n || decide (old.speed n ≠ s.speed n) || decide (old.fec n ≠ s.fec n)) then x.linkLost n else x) s

/-- A write of PRT_CFGn (R137, R236). -/
def State.writePrtCfg (s : State) (n : Nat) (v : Word) : State :=
  if s.templateOn n && decide (field v 1 0 = 1) && flag v 5 then s else (s.store (Reg.prtCfg n) v).portsAfter s

/-! ### Basin, predictor, measurement -/

/-- A write of BSN_OUT_RINGn (R184): an invalid selection stays disabled. -/
def State.writeSelection (s : State) (n : Nat) (v : Word) : State :=
  let sel := s.reg (Reg.bsnOutSel n)
  let count := field sel 29 16
  let div := field v 15 8
  let ok := decide (count ≠ 0) && decide (field sel 12 0 + count ≤ 8192) && decide (1 ≤ div) && decide (div ≤ 24) && decide (s.fm % div = 0)
  s.store (Reg.bsnOutRing n) (if ok then v else putFlag v 31 false)

/-- A write of LMU_PTp_CFG (R297, R306): a point that is put out of use forgets its frequency and the estimates it owes, and
one that is enabled fills its gain table (R298). -/
def State.writeEstimator (s : State) (p : Nat) (v : Word) : State :=
  let s1 := s.store (Reg.lmuPtCfg p) v
  if flag v 0 && s.ptOn p then s1
  else s1.onLmu fun l =>
    { l with
      lastF := mapDel l.lastF p, due := l.due.filter fun e => decide (e.point ≠ p)
      gains := if flag v 0 then mapSet l.gains p (s1.ptM p, s1.ptH p) else mapDel l.gains p }

/-- A write of CAP_CFG (R341). -/
def State.writeCapCfg (s : State) (v : Word) : State :=
  let s1 := s.store Reg.capCfg v
  s1.capMasterChanged s.capMaster s1.capMaster

/-- A write of TIM_CFG or TIM_PRIO: GNSS out of use is lost, and BMCA runs under the new values (R361, R370, log 30). -/
def State.writeTim (s : State) (off : Nat) (v : Word) : State :=
  let s1 := s.store off v
  if s.tim.gnssOk && !s1.gnssOn then s1.gnssLost else s1.runBmca

/-- A write of GZL_CFG (R442): a pair taken out of use loses its link. DEDUCED (log 86): the cause reported is 'lanes'. -/
def State.writeGzlCfg (s : State) (v : Word) : State :=
  let s1 := s.store Reg.gzlCfg v
  if s.gzlOn && !s1.gzlOn then (s1.onGzl fun g => { g with guyA := false, guyB := false }).linkDown downLanes
  else if !s.gzlOn && s1.gzlOn && decide (13 ≤ s.sys.step) then s1.startHello
  else s1

/-- A write of PWR_DVFS_CFG (R528): a CEIL that excludes the active image's MIN_LEVEL leaves CEIL unchanged. -/
def State.writeCeil (s : State) (v : Word) : State :=
  if s.sch.activeValid && decide (imgMinLevel s.sch.active < levelOf (field v 1 0)) then s else s.store Reg.pwrDvfsCfg v

/-- A write of SEC_LC_CTL (R469). -/
def State.writeLcCtl (s : State) (v : Word) : State :=
  let s1 := if flag v 0 then s.applyTicket else s
  if flag v 1 then s1.cancelTicket else s1

/-! ### The registers that act on a write, by block -/

/-- SYS: the seal (R563), SYS_START, SYS_BOOT_CTL. -/
def State.writeSys (s : State) (off : Nat) (v : Word) : State :=
  if off = Reg.sysSeal then (if v = 0x5EA10880 then { s with isSealed := true } else s)
  else if off = Reg.sysStart then (if flag v 0 then s.startWritten else s)
  else if off = Reg.sysBootCtl then s.bootCtl v
  else s.store off v

/-- TCK: TCK_FM and TCK_WD accept writes only while EN is 0 (R41). -/
def State.writeTck (s : State) (off : Nat) (v : Word) : State :=
  if off = Reg.tckCfg then s.writeTckCfg v else if s.gridOn then s else s.store off v

/-- PRT. -/
def State.writePrt (s : State) (off : Nat) (v : Word) : State :=
  match regIdx (Reg.prtCfg 0) 0x1000 4 off, regIdx (Reg.prtCtl 0) 0x1000 4 off with
  | some n, _ => s.writePrtCfg n v
  | _, some n => (s.disablePort n (flag v 0)).store off v
  | none, none => if off = Reg.prtPairCfg then (s.store off v).portsAfter s else s.store off v

/-- LMU. Offset tracking that is switched off forgets the means it has not used (R296). -/
def State.writeLmu (s : State) (off : Nat) (v : Word) : State :=
  match regIdx (Reg.lmuChCtl 0) 4 24 off, regIdx (Reg.lmuPtCfg 0) 0x10 4 off with
  | some c, _ => s.writeChannel c v
  | _, some p => s.writeEstimator p v
  | none, none =>
    if off = Reg.lmuTrk && !flag v 0 then (s.store off v).onLmu fun l => { l with chans := l.chans.map fun x => { x with mean := none, clean := false } }
    else s.store off v

/-- NRG. -/
def State.writeNrg (s : State) (off : Nat) (v : Word) : State :=
  match regIdx (Reg.nrgPtCfg 0) 0x40 4 off, regIdx (Reg.nrgPlsCfg 0) 0x10 8 off with
  | some p, _ => s.writePoint p v
  | _, some n => s.writePulse n v
  | none, none => s.store off v

/-- CAP. -/
def State.writeCap (s : State) (off : Nat) (v : Word) : State :=
  match regIdx (Reg.capUBase 0) 0x40 8 off with
  | some u => s.writeRegion (2 + u) v
  | none => if off = Reg.capCfg then s.writeCapCfg v else s.store off v

/-- HIF: a ring's EN (R395), and its moderation, under which its interrupt is judged again (R407). -/
def State.writeHif (s : State) (off : Nat) (v : Word) : State :=
  match regIdx (Reg.hifRingCtl 0) 0x20 64 off, regIdx (Reg.hifRingMod 0) 0x20 64 off with
  | some n, _ => if flag v 0 then s.enableRing n else s.disableRing n
  | _, some n => (s.store off v).checkFire n
  | none, none => s.store off v

/-- PWR. -/
def State.writePwr (s : State) (off : Nat) (v : Word) : State :=
  if off = Reg.pwrDvfsCfg then s.writeCeil v
  else if off = Reg.pwrDvfsReq then s.requestLevel v
  else if off = Reg.pwrDormant then s.requestDormant v
  else s.store off v

/-- What a write does to a register that takes it. -/
def State.actWrite (s : State) (off : Nat) (v : Word) : State :=
  match off / 65536 with
  | 0x00 => s.writeSys off v
  | 0x02 => s.writeTck off v
  | 0x03 => if off = Reg.schStage then s.writeRegion 0 v else s.store off v
  | 0x06 => s.writePrt off v
  | 0x0A => match regIdx (Reg.bsnOutRing 0) 8 8 off with
    | some n => s.writeSelection n v
    | none => s.store off v
  | 0x0F => if off = Reg.arcCfg then s.writeArcCfg v else if off = Reg.arcRegion then (s.writeRegion 1 v).arcEnFollows else s.store off v
  | 0x10 => s.writeLmu off v
  | 0x11 => s.writeNrg off v
  | 0x12 => s.writeCap off v
  | 0x13 => if off = Reg.timCfg || off = Reg.timPrio then s.writeTim off v
    else if off = Reg.timLock then (s.store off v).acquired else s.store off v
  | 0x14 => s.writeHif off v
  | 0x15 => if off = Reg.gzlCfg then s.writeGzlCfg v else s.store off v
  | 0x17 => if off = Reg.secLcCtl then s.writeLcCtl v else s.store off v
  | 0x18 => if off = Reg.clkSluiceReq then s.requestSluice (field v 5 0) (flag v 8) else s.store off v
  | 0x19 => s.writePwr off v
  | _ => s.store off v

/-- A 32-bit write of an aligned offset, by its access code (R10): RO and RC ignore it, RWS ignores it once sealed, and a 1 clears a bit of a W1C
register. -/
def State.writeReg (s : State) (off : Nat) (v : Word) : State :=
  match regRow off with
  | none => s
  | some r => match r.acc with
    | .ro => s
    | .rc => s
    | .w1c => s.setReg off (s.reg off &&& ~~~v)
    | .rws => if s.isSealed then s else s.actWrite off v
    | .rw => s.actWrite off v
    | .wo => s.actWrite off v

/-- A 32-bit write from the host, which reaches registers from start-up step 9 on (R537). -/
def State.hostWrite (s : State) (off : Nat) (v : Word) : State := if s.hostUp then s.writeReg off v else s

/-- A word of BAR2 is written (Table HIF-1, R391, R410): HOST_IDX of a doorbell page, which DOORBELL and COMPLETION_CONSUME write as well, or the MSI-X
table; the rest is read only. -/
def State.writeBar2 (s : State) (off : Nat) (v : Word) : State :=
  if decide (off < 0x1000) && decide (off % 64 = 0) then s.hostIdxWord (off / 64) v
  else if decide (0x2000 ≤ off) && decide (off < 0x2800) then s.writeMsix ((off - 0x2000) / 4) v else s

/-- A word of a BAR is written. -/
def State.writeSpace (s : State) (space : HostSpace) (off : Nat) (v : Word) : State :=
  match space with
  | .bar0 => s.writeReg off v
  | _ => s.writeBar2 (off % 0x10000) v

/-- A write of a BAR of any width (R391): 32 bits aligned, or 64 bits at a multiple of 4 as two of them, the lower first; any other is ignored and counted. -/
def State.barWrite (s : State) (space : HostSpace) (off width : Nat) (data : DWord) : State :=
  if !s.hostUp then s
  else if space = .config then s.configWrite (off % 0x1000) width data
  else if off % 4 = 0 && width = 4 then s.writeSpace space off (lo32 data)
  else if off % 4 = 0 && width = 8 then (s.writeSpace space off (lo32 data)).writeSpace space (off + 4) (hi32 data)
  else s.inc Reg.hifBadAccCnt

/-! ### Rows -/

/-- REGISTER_WRITE (R10, R391). -/
def execRegisterWrite (a : HostAddr) (width : Nat) (data : BitVec 64) (s : State) : Answer :=
  .next (s.barWrite a.space a.off.toNat width data)

/-- SYS_SEAL (R563, R564). -/
def execSysSeal (value : Word) (s : State) : Answer := .next (s.hostWrite Reg.sysSeal value)

/-- GRID_ENABLE (R33, R39, R65): TCK_CFG written with EN = 1. -/
def execGridEnable (earlyClose : Bool) (s : State) : Answer := .next (s.hostWrite Reg.tckCfg (1 ||| placeB earlyClose 1))

/-- APPLY (R469). -/
def execApply (s : State) : Answer := .next (s.hostWrite Reg.secLcCtl 1)

/-- CANCEL (R469). -/
def execCancel (s : State) : Answer := .next (s.hostWrite Reg.secLcCtl 2)

/-- DVFS_REQUEST (R528, R545). -/
def execDvfsRequest (target : BitVec 2) (s : State) : Answer := .next (s.hostWrite Reg.pwrDvfsReq (target.setWidth 32))

/-- SELECTION_ENABLE (R184). -/
def execSelectionEnable (n : Fin 8) (value : Word) (s : State) : Answer := .next (s.hostWrite (Reg.bsnOutRing n.val) value)

/-- REGION_ENABLE (R25): regions 0 SCH, 1 ARC, 2 to 9 the capture units. -/
def execRegionEnable (region : Fin 10) (value : Word) (s : State) : Answer := .next (s.hostWrite (regionReg region.val) value)

end Sys2Proof.Machine
end

