-- ==== Sys2Proof/Machine/Dispatch.lean ====
section
/-! DEFINITION. The dispatch: one arm per command, a direct call of its meaning. -/
namespace Sys2Proof.Machine

/-- The effect of a command on everything but the queue. -/
def exec (i : Instr) (s : State) : Host.Outcome State Fault Refusal :=
  match i with
  | .pitch h offset length image => Sys2Proof.Machine.execPitch h offset length image s
  | .pitchAbort h => Sys2Proof.Machine.execPitchAbort h s
  | .fencePlot h plot => Sys2Proof.Machine.execFencePlot h plot s
  | .unfencePlot h plot => Sys2Proof.Machine.execUnfencePlot h plot s
  | .roleSet h role => Sys2Proof.Machine.execRoleSet h role s
  | .roleSwap h => Sys2Proof.Machine.execRoleSwap h s
  | .timeSet h w1 w2 w3 w4 w5 => Sys2Proof.Machine.execTimeSet h w1 w2 w3 w4 w5 s
  | .recFreeze h => Sys2Proof.Machine.execRecFreeze h s
  | .recThaw h => Sys2Proof.Machine.execRecThaw h s
  | .recRead h first count addr len => Sys2Proof.Machine.execRecRead h first count addr len s
  | .recErase h upTo => Sys2Proof.Machine.execRecErase h upTo s
  | .keyDerive h purpose ctx => Sys2Proof.Machine.execKeyDerive h purpose ctx s
  | .keySlotWrite h w1 addr len buf => Sys2Proof.Machine.execKeySlotWrite h w1 addr len buf s
  | .keySlotClear h w1 => Sys2Proof.Machine.execKeySlotClear h w1 s
  | .nrgSnapshot h w1 addr len => Sys2Proof.Machine.execNrgSnapshot h w1 addr len s
  | .capArm h w1 => Sys2Proof.Machine.execCapArm h w1 s
  | .capDisarm h w1 => Sys2Proof.Machine.execCapDisarm h w1 s
  | .capRead h w1 offset length addr memErr => Sys2Proof.Machine.execCapRead h w1 offset length addr memErr s
  | .arcReplay h w1 w2 w3 w4 block => Sys2Proof.Machine.execArcReplay h w1 w2 w3 w4 block s
  | .lmuXfade h w1 addr w4 w5 w6 buf => Sys2Proof.Machine.execLmuXfade h w1 addr w4 w5 w6 buf s
  | .telemCfg h w1 => Sys2Proof.Machine.execTelemCfg h w1 s
  | .badOpcode h opcode => Sys2Proof.Machine.execBadOpcode h opcode s
  | .registerWrite a width data => Sys2Proof.Machine.execRegisterWrite a width data s
  | .readClear a width => Sys2Proof.Machine.execReadClear a width s
  | .latchedRead off => Sys2Proof.Machine.execLatchedRead off s
  | .sysSeal value => Sys2Proof.Machine.execSysSeal value s
  | .gridEnable earlyClose => Sys2Proof.Machine.execGridEnable earlyClose s
  | .startGo => Sys2Proof.Machine.execStartGo s
  | .bootGo => Sys2Proof.Machine.execBootGo s
  | .bootNone => Sys2Proof.Machine.execBootNone s
  | .apply => Sys2Proof.Machine.execApply s
  | .cancel => Sys2Proof.Machine.execCancel s
  | .dormantRequest value => Sys2Proof.Machine.execDormantRequest value s
  | .dvfsRequest target => Sys2Proof.Machine.execDvfsRequest target s
  | .sluiceRequest gate open_ => Sys2Proof.Machine.execSluiceRequest gate open_ s
  | .ringEnable n => Sys2Proof.Machine.execRingEnable n s
  | .ringDisable n => Sys2Proof.Machine.execRingDisable n s
  | .doorbell n idx descs readErr => Sys2Proof.Machine.execDoorbell n idx descs readErr s
  | .completionConsume n idx => Sys2Proof.Machine.execCompletionConsume n idx s
  | .portDisable n ctl => Sys2Proof.Machine.execPortDisable n ctl s
  | .channelEnable c value => Sys2Proof.Machine.execChannelEnable c value s
  | .selectionEnable n value => Sys2Proof.Machine.execSelectionEnable n value s
  | .pointEnable p value => Sys2Proof.Machine.execPointEnable p value s
  | .regionEnable region value => Sys2Proof.Machine.execRegionEnable region value s
  | .gridInstant => Sys2Proof.Machine.execGridInstant s
  | .columnOpen => Sys2Proof.Machine.execColumnOpen s
  | .deadlineClose found => Sys2Proof.Machine.execDeadlineClose found s
  | .earlyClose found => Sys2Proof.Machine.execEarlyClose found s
  | .overrunLimit => Sys2Proof.Machine.execOverrunLimit s
  | .copyLimit => Sys2Proof.Machine.execCopyLimit s
  | .operationStart plot errs => Sys2Proof.Machine.execOperationStart plot errs s
  | .operationRetire x => Sys2Proof.Machine.execOperationRetire x s
  | .modalFeedProcessed errs => Sys2Proof.Machine.execModalFeedProcessed errs s
  | .topologyPass passNs errs => Sys2Proof.Machine.execTopologyPass passNs errs s
  | .alarmEvaluate errs => Sys2Proof.Machine.execAlarmEvaluate errs s
  | .gooseRetransmit t => Sys2Proof.Machine.execGooseRetransmit t s
  | .clockReturn => Sys2Proof.Machine.execClockReturn s
  | .sluiceChange quiescent => Sys2Proof.Machine.execSluiceChange quiescent s
  | .dvfsStep => Sys2Proof.Machine.execDvfsStep s
  | .vdone => Sys2Proof.Machine.execVdone s
  | .avsTimeout => Sys2Proof.Machine.execAvsTimeout s
  | .loading memErr => Sys2Proof.Machine.execLoading memErr s
  | .verifying memErr => Sys2Proof.Machine.execVerifying memErr s
  | .tickIdStore => Sys2Proof.Machine.execTickIdStore s
  | .scrub lines errs => Sys2Proof.Machine.execScrub lines errs s
  | .fircCalibration fircCount sircCount => Sys2Proof.Machine.execFircCalibration fircCount sircCount s
  | .offsetTracking c => Sys2Proof.Machine.execOffsetTracking c s
  | .telemetrySample temps vmons => Sys2Proof.Machine.execTelemetrySample temps vmons s
  | .telemetryDelivery => Sys2Proof.Machine.execTelemetryDelivery s
  | .recorderHousekeeping upset => Sys2Proof.Machine.execRecorderHousekeeping upset s
  | .frameReceive port f errs => Sys2Proof.Machine.execFrameReceive port f errs s
  | .hostInjection n d errs => Sys2Proof.Machine.execHostInjection n d errs s
  | .basinWrite errs => Sys2Proof.Machine.execBasinWrite errs s
  | .portLinkDown loss => Sys2Proof.Machine.execPortLinkDown loss s
  | .portLinkUp port => Sys2Proof.Machine.execPortLinkUp port s
  | .frameTransmit port => Sys2Proof.Machine.execFrameTransmit port s
  | .supervisionFrame => Sys2Proof.Machine.execSupervisionFrame s
  | .ddEntryExpire source => Sys2Proof.Machine.execDdEntryExpire source s
  | .arpReply port => Sys2Proof.Machine.execArpReply port s
  | .ptpMessageSend port kind => Sys2Proof.Machine.execPtpMessageSend port kind s
  | .lmuLabel bits => Sys2Proof.Machine.execLmuLabel bits s
  | .pulseTimer n => Sys2Proof.Machine.execPulseTimer n s
  | .localEstimate p => Sys2Proof.Machine.execLocalEstimate p s
  | .capFireEdge detect => Sys2Proof.Machine.execCapFireEdge detect s
  | .fireSample high => Sys2Proof.Machine.execFireSample high s
  | .fireDrive => Sys2Proof.Machine.execFireDrive s
  | .capArmEdge rising => Sys2Proof.Machine.execCapArmEdge rising s
  | .capRefEdge stamp => Sys2Proof.Machine.execCapRefEdge stamp s
  | .archiveCompress errs => Sys2Proof.Machine.execArchiveCompress errs s
  | .archiveBlockComplete => Sys2Proof.Machine.execArchiveBlockComplete s
  | .archiveDrain memErr => Sys2Proof.Machine.execArchiveDrain memErr s
  | .replayComplete memErr => Sys2Proof.Machine.execReplayComplete memErr s
  | .servoMeasurement at_ => Sys2Proof.Machine.execServoMeasurement at_ s
  | .syncMiss => Sys2Proof.Machine.execSyncMiss s
  | .announceTimeout => Sys2Proof.Machine.execAnnounceTimeout s
  | .ppsInEdge falling detect => Sys2Proof.Machine.execPpsInEdge falling detect s
  | .todSentence t => Sys2Proof.Machine.execTodSentence t s
  | .gnssLoss => Sys2Proof.Machine.execGnssLoss s
  | .timeStep => Sys2Proof.Machine.execTimeStep s
  | .leapSecond => Sys2Proof.Machine.execLeapSecond s
  | .rtcLoad => Sys2Proof.Machine.execRtcLoad s
  | .hostLinkReset => Sys2Proof.Machine.execHostLinkReset s
  | .interruptTimer n => Sys2Proof.Machine.execInterruptTimer n s
  | .laneLock lane => Sys2Proof.Machine.execLaneLock lane s
  | .laneLoss lane => Sys2Proof.Machine.execLaneLoss lane s
  | .linkSilence => Sys2Proof.Machine.execLinkSilence s
  | .helloSend => Sys2Proof.Machine.execHelloSend s
  | .helloReceive hdr b => Sys2Proof.Machine.execHelloReceive hdr b s
  | .heartbeatReceive hdr b => Sys2Proof.Machine.execHeartbeatReceive hdr b s
  | .ackReceive hdr => Sys2Proof.Machine.execAckReceive hdr s
  | .nakReceive hdr => Sys2Proof.Machine.execNakReceive hdr s
  | .stateReceive hdr b memErr => Sys2Proof.Machine.execStateReceive hdr b memErr s
  | .tickEndReceive hdr b => Sys2Proof.Machine.execTickEndReceive hdr b s
  | .alarmReceive hdr records => Sys2Proof.Machine.execAlarmReceive hdr records s
  | .swapReceive hdr epoch tick => Sys2Proof.Machine.execSwapReceive hdr epoch tick s
  | .linkFrameDiscard cause => Sys2Proof.Machine.execLinkFrameDiscard cause s
  | .ackSend => Sys2Proof.Machine.execAckSend s
  | .nakRepeat => Sys2Proof.Machine.execNakRepeat s
  | .retransmitTimeout => Sys2Proof.Machine.execRetransmitTimeout s
  | .heartbeatSend => Sys2Proof.Machine.execHeartbeatSend s
  | .guyLineBWord word => Sys2Proof.Machine.execGuyLineBWord word s
  | .guyLineIntervalEnd => Sys2Proof.Machine.execGuyLineIntervalEnd s
  | .epochWriteComplete => Sys2Proof.Machine.execEpochWriteComplete s
  | .evrWrite => Sys2Proof.Machine.execEvrWrite s
  | .freezeTimeout => Sys2Proof.Machine.execFreezeTimeout s
  | .ticketVerified => Sys2Proof.Machine.execTicketVerified s
  | .keyMaskRefresh => Sys2Proof.Machine.execKeyMaskRefresh s
  | .keyJob => Sys2Proof.Machine.execKeyJob s
  | .slotCommit => Sys2Proof.Machine.execSlotCommit s
  | .tamperSample open0 open1 => Sys2Proof.Machine.execTamperSample open0 open1 s
  | .monitorTrip src => Sys2Proof.Machine.execMonitorTrip src s
  | .sourceQualified src => Sys2Proof.Machine.execSourceQualified src s
  | .holdAttempt ok b => Sys2Proof.Machine.execHoldAttempt ok b s
  | .brace => Sys2Proof.Machine.execBrace s
  | .braceEnd => Sys2Proof.Machine.execBraceEnd s
  | .brownout b => Sys2Proof.Machine.execBrownout b s
  | .pinReset b => Sys2Proof.Machine.execPinReset b s
  | .powerOn b => Sys2Proof.Machine.execPowerOn b s
  | .dormantEntry => Sys2Proof.Machine.execDormantEntry s
  | .dormantWake sources b => Sys2Proof.Machine.execDormantWake sources b s
  | .vbatLoss => Sys2Proof.Machine.execVbatLoss s
  | .patchLoaded p => Sys2Proof.Machine.execPatchLoaded p s
  | .patchWaitTimeout => Sys2Proof.Machine.execPatchWaitTimeout s
  | .acquisitionTimeout => Sys2Proof.Machine.execAcquisitionTimeout s
  | .pcieLinkUp speed lanes => Sys2Proof.Machine.execPcieLinkUp speed lanes s
  | .longCommandComplete h => Sys2Proof.Machine.execLongCommandComplete h s
  | .vectorUnmask v => Sys2Proof.Machine.execVectorUnmask v s
  | .pwrSenseChange supply => Sys2Proof.Machine.execPwrSenseChange supply s
  | .timebaseSecondBoundary => Sys2Proof.Machine.execTimebaseSecondBoundary s
  | .fireRelease => Sys2Proof.Machine.execFireRelease s

end Sys2Proof.Machine
end

