-- ==== Sys2Proof/Machine/Jtag.lean ====
section
/-! DEFINITION. The JTAG port: boundary scan, IDCODE and BYPASS (R584). No command of the table clocks it, so nothing here is called by `exec` (log 102). -/
namespace Sys2Proof.Machine

/-- The next state of the TAP at a rising edge of JTAG_TCK (IEEE 1149.1). -/
def tapNext (t : TapState) (tms : Bool) : TapState :=
  match t, tms with
  | .reset, true => .reset
  | .reset, false => .idle
  | .idle, true => .selectDr
  | .idle, false => .idle
  | .selectDr, true => .selectIr
  | .selectDr, false => .captureDr
  | .captureDr, true => .exit1Dr
  | .captureDr, false => .shiftDr
  | .shiftDr, true => .exit1Dr
  | .shiftDr, false => .shiftDr
  | .exit1Dr, true => .updateDr
  | .exit1Dr, false => .pauseDr
  | .pauseDr, true => .exit2Dr
  | .pauseDr, false => .pauseDr
  | .exit2Dr, true => .updateDr
  | .exit2Dr, false => .shiftDr
  | .updateDr, true => .selectDr
  | .updateDr, false => .idle
  | .selectIr, true => .reset
  | .selectIr, false => .captureIr
  | .captureIr, true => .exit1Ir
  | .captureIr, false => .shiftIr
  | .shiftIr, true => .exit1Ir
  | .shiftIr, false => .shiftIr
  | .exit1Ir, true => .updateIr
  | .exit1Ir, false => .pauseIr
  | .pauseIr, true => .exit2Ir
  | .pauseIr, false => .pauseIr
  | .exit2Ir, true => .updateIr
  | .exit2Ir, false => .shiftIr
  | .updateIr, true => .selectDr
  | .updateIr, false => .idle

/-- The boundary scan is served: not in TAMPERED, nor in the lifecycle states FIELD and SCRAPPED (R584). -/
def State.boundaryServed (s : State) : Bool := !s.sys.tampered && decide (s.nvm.fuses.state ≠ 2) && decide (s.nvm.fuses.state ≠ 4)

/-- The instruction that is served for one that is loaded: BYPASS in the place of a boundary scan that is not served (R584). PRESUMED (log 102): IEEE 1149.1
gives BYPASS to an instruction that a port does not have. -/
def State.tapServes (s : State) (i : TapInstr) : TapInstr :=
  match i with
  | .bypass => .bypass
  | .idcode => .idcode
  | j => if s.boundaryServed then j else .bypass

/-- The instruction of a code: all ones is BYPASS (IEEE 1149.1), and so is a code that names none. -/
def tapDecode (code : List Bool) : TapInstr :=
  if code.all id then .bypass
  else match Config.jtagCode code with
    | some 0 => .idcode
    | some 1 => .sample
    | some 2 => .preload
    | some 3 => .extest
    | none => .bypass

/-- IDCODE, least significant bit first; bit 0 is 1 (IEEE 1149.1). -/
def idcodeBits : List Bool := true :: (List.range 31).map Config.jtagIdcode.getLsbD

/-- What the data register of an instruction captures. The levels of the balls are free values. -/
def State.tapCapture (s : State) (i : TapInstr) : List Bool × State :=
  match i with
  | .bypass => ([false], s)
  | .idcode => (idcodeBits, s)
  | _ => let r := s.freeWords Config.boundaryCells; (r.1.map fun w => w.getLsbD 0, r.2)

/-- One rising edge of JTAG_TCK with JTAG_TMS and JTAG_TDI: what the TAP's state does, then its next state (R584). -/
def State.tapClock (s : State) (tms tdi : Bool) : State :=
  let t := s.jtag
  let i := s.tapServes t.instr
  let r : Tap × State := match t.state with
    | .reset => ({ t with instr := .idcode, balls := [] }, s)
    | .captureDr => let c := s.tapCapture i; ({ t with dr := c.1 }, c.2)
    | .shiftDr => ({ t with dr := t.dr.drop 1 ++ [tdi] }, s)
    | .updateDr => ({ t with balls := if i = .preload || i = .extest then t.dr else t.balls }, s)
    | .captureIr => ({ t with ir := [true, false] ++ List.replicate (Config.jtagIrLength - 2) false }, s)
    | .shiftIr => ({ t with ir := t.ir.drop 1 ++ [tdi] }, s)
    | .updateIr => ({ t with instr := tapDecode t.ir }, s)
    | _ => (t, s)
  { r.2 with jtag := { r.1 with state := tapNext t.state tms } }

/-- JTAG_TRST_N low: the TAP is reset. -/
def State.tapReset (s : State) : State := { s with jtag := {} }

/-- JTAG_TDO: the bit shifted out, high impedance in every state that does not shift (IEEE 1149.1, Table PIN-1). -/
def State.tapOut (s : State) : Option Bool :=
  match s.jtag.state with
  | .shiftDr => s.jtag.dr.head?
  | .shiftIr => s.jtag.ir.head?
  | _ => none

/-- The levels that EXTEST drives at the balls in the place of the device's own; none without it (R584). -/
def State.tapDrives (s : State) : Option (List Bool) := if s.tapServes s.jtag.instr = .extest then some s.jtag.balls else none

end Sys2Proof.Machine
end

