-- ==== Sys2Proof/Safety.lean ====
section
/-! DEFINITION. The terms that the statements use: which commands come from a command ring, which reset the device, a state with a command
accepted, fuses that only gain bits, registers in canonical form, and the
registers that act on a write. -/
namespace Sys2Proof.Machine

/-- The header of a command that a command ring carries, and whether TAMPERED leaves the command served (R408, R486). An opcode that
Table HIF-7 lists is not one that completes with BAD_OPCODE. -/
def ringCommand : Instr → Option (CmdHdr × Bool)
  | .pitch h _ _ _ => some (h, false)
  | .pitchAbort h => some (h, false)
  | .fencePlot h _ => some (h, false)
  | .unfencePlot h _ => some (h, false)
  | .roleSet h _ => some (h, false)
  | .roleSwap h => some (h, false)
  | .timeSet h _ _ _ _ _ => some (h, false)
  | .recFreeze h => some (h, true)
  | .recThaw h => some (h, true)
  | .recRead h _ _ _ _ => some (h, true)
  | .recErase h _ => some (h, true)
  | .keyDerive h _ _ => some (h, false)
  | .keySlotWrite h _ _ _ _ => some (h, false)
  | .keySlotClear h _ => some (h, false)
  | .nrgSnapshot h _ _ _ => some (h, false)
  | .capArm h _ => some (h, false)
  | .capDisarm h _ => some (h, false)
  | .capRead h _ _ _ _ _ => some (h, false)
  | .arcReplay h _ _ _ _ _ => some (h, false)
  | .lmuXfade h _ _ _ _ _ _ => some (h, false)
  | .telemCfg h _ => some (h, true)
  | .badOpcode h op => if opcodes.contains op.toNat then none else some (h, false)
  | _ => none

/-- The descriptor that a header names is read: DEV_IDX of its ring is one entry further on (R394, R405). -/
def State.commandTaken (s : State) (h : CmdHdr) : State :=
  s.setRing h.ring.val { s.ring h.ring.val with devIdx := idxNext (s.ringSize h.ring.val) (s.ring h.ring.val).devIdx }

/-- The next command of a header's ring is read, and the device is not TAMPERED (R397, R399, R405, R486). -/
@[reducible] def State.serves (s : State) (h : CmdHdr) : Prop := s.canAccept h = true ∧ s.sys.tampered = false

/-- A command completes at once (R403, R405). -/
def State.done (s : State) (h : CmdHdr) (r : CmdResult) (t : State) : State := t.complete (s.refOf h) r

/-- A command becomes one of the long commands in progress (R405). -/
def State.begun (s : State) (h : CmdHdr) (t : State) : State :=
  t.onHif fun x => { x with outstanding := x.outstanding ++ [s.refOf h] }

/-- The commands that reset the device, put it into dormant mode or CLOCK_HOLD, or clear its supplies (R505, R530, R534). -/
def resetsDevice : Instr → Bool
  | .powerOn _ => true
  | .pinReset _ => true
  | .brownout _ => true
  | .holdAttempt _ _ => true
  | .monitorTrip _ => true
  | .dormantEntry => true
  | .dormantWake _ _ => true
  | .vbatLoss => true
  | _ => false

/-- Fuses that have only gained bits (R467, R470). -/
@[reducible] def Fuses.le (f g : Fuses) : Prop := f.lc &&& g.lc = f.lc ∧ f.wiped &&& g.wiped = f.wiped

/-- The registers that differ from their reset values, each listed once and in rising order. -/
@[reducible] def State.regsSound (s : State) : Prop := mapWf s.regs = true ∧ ∀ e ∈ s.regs, e.2 ≠ regReset e.1

/-- The registers whose write does more than store its bits: those that the table gives a command of their own, and those that act once they are
stored. -/
def actsOnWrite (off : Nat) : Bool :=
  [Reg.sysSeal, Reg.sysStart, Reg.sysBootCtl, Reg.tckCfg, Reg.schStage, Reg.prtPairCfg, Reg.arcCfg, Reg.arcRegion, Reg.lmuTrk, Reg.capCfg, Reg.timCfg, Reg.timPrio,
    Reg.timLock, Reg.gzlCfg, Reg.secLcCtl, Reg.clkSluiceReq, Reg.pwrDvfsCfg, Reg.pwrDvfsReq, Reg.pwrDormant].contains off ||
  (regIdx (Reg.prtCfg 0) 0x1000 4 off).isSome || (regIdx (Reg.prtCtl 0) 0x1000 4 off).isSome || (regIdx (Reg.bsnOutRing 0) 8 8 off).isSome ||
  (regIdx (Reg.lmuChCtl 0) 4 24 off).isSome || (regIdx (Reg.lmuPtCfg 0) 0x10 4 off).isSome || (regIdx (Reg.nrgPtCfg 0) 0x40 4 off).isSome ||
  (regIdx (Reg.nrgPlsCfg 0) 0x10 8 off).isSome || (regIdx (Reg.capUBase 0) 0x40 8 off).isSome || (regIdx (Reg.hifRingCtl 0) 0x20 64 off).isSome ||
  (regIdx (Reg.hifRingMod 0) 0x20 64 off).isSome

end Sys2Proof.Machine
end

