-- ==== Sys2Proof/Certificates/Slice0/Obligations.lean ====
section
/-! DEFINITION. The statements for the provers. -/
open Sys2Proof Sys2Proof.Machine

/-! ### The queue, the step, the shared operations -/

/-- The command at the front of the queue is carried out on the state with the rest of the queue. -/
def Obligations.StepRunsFrontCommand : Prop :=
  ∀ (c : Instr) (rest : List Instr) (s : State), step { s with pending := c :: rest } = exec c { s with pending := rest }

/-- On an empty queue the timebase counts one cycle: 4 ns on PLLT, 40 ns on XTA, else a FIRC cycle of 10 or 11 ns (R355, R504); but where a start-up
step from 2 to 6, or the signature check of step 10, is under way, the step ends it and start-up goes on (R472, R536). That a step on an empty queue
is such a cycle, or the end of such a step, is the model's choice (logs 1 and 6). -/
def Obligations.EmptyQueueCountsOneCycle : Prop :=
  (∀ s : State, s.pending = [] → s.bootRests = false → s.sys.checking = none → ∃ t n, step s = .next t ∧ t = { s with tim := t.tim, clk := t.clk } ∧
    t.tim = { s.tim with now := (s.tim.now + n) % timeModulus, mono := s.tim.mono + n } ∧
    t.clk = { s.clk with tbPhase := t.clk.tbPhase } ∧
    (s.clk.domSrc.getD 3 .firc = .pllt → n = 4) ∧ (s.clk.domSrc.getD 3 .firc = .xta → n = 40) ∧
    (s.clk.domSrc.getD 3 .firc = .firc → n = 10 ∨ n = 11)) ∧
  (∀ s : State, s.pending = [] → s.bootRests = true → s.pwr.brace = false → step s = .next (s.bootOn 6)) ∧
  (∀ (s : State) (p : PatchIn), s.pending = [] → s.bootRests = false → s.sys.checking = some p → step s = .next
    (if s.patchOk p = true then s.patched (if p.host then 2 else 1) (patchWord p.bytes 3) 1 else s.patched 0 0 2))

/-- Every command answers a next state and leaves the queue as it is, and a step takes exactly the front of the queue. -/
def Obligations.EveryCommandAnswersAndQueueIsFifo : Prop :=
  (∀ (c : Instr) (s : State), ∃ t, exec c s = .next t ∧ t.pending = s.pending) ∧
  ∀ s : State, ∃ t, step s = .next t ∧ t.pending = s.pending.tail

/-- The lifecycle state is the highest state whose LC_STATE bit is blown, or BLANK (0) when none is, and it never moves backwards (R467): no step from
any state takes back a blown LC_STATE bit, or an LC_WIPED bit, or lowers the state. -/
def Obligations.LifecycleNeverMovesBack : Prop :=
  (∀ f : Fuses, (f.lc = 0 → f.state = 0) ∧ (f.lc ≠ 0 → 1 ≤ f.state ∧ f.state ≤ 4 ∧ f.lc.getLsbD (f.state - 1) = true) ∧
    ∀ n, f.state < n → f.lc.getLsbD (n - 1) = false) ∧
  ∀ s t : State, step s = .next t → s.nvm.fuses.le t.nvm.fuses ∧ s.nvm.fuses.state ≤ t.nvm.fuses.state

/-- The seal lasts until the next reset (R564): a step that carries out no command that resets the device, and goes on with no start-up step of a
reset that is not over, leaves it set. -/
def Obligations.SealLastsUntilReset : Prop :=
  ∀ s t : State, s.isSealed = true → s.pending.head?.all (fun c => !resetsDevice c) = true → (s.pending = [] → s.bootRests = false) → step s = .next t →
    t.isSealed = true

/-- Stored key slots change only when a slot command commits (R481, R483), at once, at the end of brace that held it, or where brace or dormant mode
completes it (R522, R523, R530), or when a reset or its start-up wipes them all (R470), but for the copy of a slot that a key job wraps and NVM takes
(R481): that copy changes no marker. The stored epoch changes only when the write of a claimed epoch completes (R434), in the same places. -/
def Obligations.StoredKeysAndEpochChangeOnlyByTheirCommands : Prop :=
  (∀ (c : Instr) (s t : State), exec c s = .next t →
    (t.nvm.slots = s.nvm.slots ∨ c = .slotCommit ∨ (∃ h w, c = .keySlotClear h w) ∨
      (c = .keyJob ∧ t.nvm.slots.map KeySlot.marker = s.nvm.slots.map KeySlot.marker) ∨ c = .braceEnd ∨ c = .brace ∨ (∃ p, c = .pwrSenseChange p) ∨
      c = .dormantEntry ∨ (resetsDevice c = true ∧ t.nvm.slots = List.replicate 16 KeySlot.empty)) ∧
    (t.nvm.epoch = s.nvm.epoch ∨ c = .epochWriteComplete ∨ c = .braceEnd ∨ c = .brace ∨ (∃ p, c = .pwrSenseChange p) ∨ c = .dormantEntry)) ∧
  (∀ s t : State, s.pending = [] → step s = .next t →
    (t.nvm.slots = s.nvm.slots ∨ t.nvm.slots = List.replicate 16 KeySlot.empty) ∧ t.nvm.epoch = s.nvm.epoch) ∧
  ∀ s : State, s.gzl.claim = none → s.nextCommit = none → s.finishWrites = s

/-- After reset the queue is empty, every register holds the reset value of its table, nothing is sealed, no lifecycle bit is blown and no key is
stored. What the tables do not give, a blank NVM among it, is the model's choice (logs 4 and 5). -/
def Obligations.ResetLeavesTableValues : Prop :=
  State.reset.pending = [] ∧ (∀ off, State.reset.reg off = regReset off) ∧ State.reset.isSealed = false ∧ State.reset.regsSound ∧
  State.reset.nvm.fuses.lc = 0 ∧ State.reset.nvm.slots = List.replicate 16 KeySlot.empty ∧ State.reset.gzl.role = .resolving ∧
  State.reset.tim.state = .free ∧ (∀ n < 64, (State.reset.ring n).enabled = false)

/-- A register reads as what was last written to it, and a write of one register changes nothing else; the registers keep their canonical form. -/
def Obligations.RegisterHoldsWhatWasWritten : Prop :=
  ∀ (s : State) (off : Nat) (v : Word), (s.setReg off v).reg off = v ∧ (∀ o, o ≠ off → (s.setReg off v).reg o = s.reg o) ∧
    s.setReg off v = { s with regs := (s.setReg off v).regs } ∧ (s.regsSound → (s.setReg off v).regsSound)

/-- A counter that is counted goes up by one modulo 2^32 (R69) and nothing else changes. -/
def Obligations.CounterCountsByOne : Prop :=
  ∀ (s : State) (off : Nat), (s.inc off).reg off = s.reg off + 1 ∧ (∀ o, o ≠ off → (s.inc off).reg o = s.reg o) ∧
    s.inc off = { s with regs := (s.inc off).regs }

/-- Ring indices as R394 lays them out: a ring that is enabled has 2^LOG2SIZE entries, LOG2SIZE from 6 to 12, a base that is 4,096-byte aligned, and
both indices 0; an index is valid when its position is below the size and bits 14:12 are 0; the next index is one position on, with the wrap bit
toggled from the last one; a ring is empty when its indices are equal and full when their positions are and their wrap bits differ; and n entries on
from an index is n entries ahead, for every n up to the size. -/
def Obligations.RingIndicesFollowTheirLayout : Prop :=
  (∀ (n : Fin 64) (s : State), s.hostUp = true → (s.ring n.val).enabled = false → s.ringCfgOk n.val = true → ∃ t : State,
    exec (.ringEnable n) s = .next t ∧ (t.ring n.val).hostIdx = 0 ∧ (t.ring n.val).devIdx = 0 ∧
    ∃ lg : Nat, 6 ≤ lg ∧ lg ≤ 12 ∧ t.ringSize n.val = 2 ^ lg) ∧
  (∀ n : Fin 64, ∀ r ∈ regRow (Reg.hifRingBaseLo n.val), r.mask &&& 0xFFF = 0 ∧ r.reset &&& 0xFFF = 0) ∧
  ∀ lg i j : Nat, 6 ≤ lg → lg ≤ 12 → i < 65536 → j < 65536 →
    (idxValid (2 ^ lg) i = true ↔ i % 4096 < 2 ^ lg ∧ i / 4096 % 8 = 0) ∧
    (idxValid (2 ^ lg) i = true → idxNext (2 ^ lg) i =
      if i % 4096 + 1 < 2 ^ lg then i + 1 else if i < 32768 then 32768 else 0) ∧
    (idxValid (2 ^ lg) i = true → idxValid (2 ^ lg) j = true →
      (idxDist (2 ^ lg) i j = 0 ↔ i = j) ∧ (idxDist (2 ^ lg) i j = 2 ^ lg ↔ i % 4096 = j % 4096 ∧ i / 32768 ≠ j / 32768)) ∧
    (idxValid (2 ^ lg) i = true → ∀ n ≤ 2 ^ lg, idxValid (2 ^ lg) (idxAdd (2 ^ lg) i n) = true ∧ idxAdd (2 ^ lg) i n < 65536 ∧
      idxDist (2 ^ lg) i (idxAdd (2 ^ lg) i n) = n)

/-- A command of a ring whose next descriptor is not read stays where it is: nothing changes (R399, R405). -/
def Obligations.UnreadCommandChangesNothing : Prop :=
  ∀ (c : Instr) (h : CmdHdr) (served : Bool) (s : State), ringCommand c = some (h, served) → s.canAccept h = false → exec c s = .next s

/-- In TAMPERED every command but REC_FREEZE, REC_THAW, REC_READ, REC_ERASE and TELEM_CFG completes with TAMPER and has no other effect (R486). -/
def Obligations.TamperedDeviceRefusesCommands : Prop :=
  ∀ (c : Instr) (h : CmdHdr) (s : State), ringCommand c = some (h, false) → s.canAccept h = true → s.sys.tampered = true →
    exec c s = .next ((s.commandTaken h).complete (s.refOf h) { status := stTamper })

/-- A completion is written at the end of its command's completion ring while that ring has room, with the index, TAG, status and RESULT of its
command and PHASE the inverse of the ring's wrap bit (R403); it counts in HIF_CMD_CNT, and in HIF_CMD_ERR_CNT unless its status is OK. -/
def Obligations.CompletionIsWrittenAndCounted : Prop :=
  ∀ (s : State) (c : CmdRef) (r : CmdResult), c.gen = s.hif.gen → s.cqFree (s.ringCq c.ring) = true →
    let q := s.ringCq c.ring
    let t := s.complete c r
    (t.ring q).entries = (s.ring q).entries ++
      [{ index := c.index, src := c.ring, phase := !idxWrap (s.ring q).devIdx, tag := c.tag, status := r.status, detail := r.detail,
         length := r.length, result := r.result, data := r.data, addr := r.addr, time := s.tim.mono, relaxed := s.relaxedData }] ∧
    (t.ring q).devIdx = idxNext (s.ringSize q) (s.ring q).devIdx ∧
    t.reg Reg.hifCmdCnt = s.reg Reg.hifCmdCnt + 1 ∧
    t.reg Reg.hifCmdErrCnt = s.reg Reg.hifCmdErrCnt + (if r.status = stOk then 0 else 1) ∧
    t = { s with hif := t.hif, regs := t.regs }

/-! ### Commands of the command rings -/

/-- PITCH that is accepted becomes a long command with its image staged (R56); a second one answers BUSY (R63). PITCH_ABORT ends a PITCH in progress
with ABORTED; without one it answers TOO_LATE after a switch, else IDLE (R62). That the shadow half is no longer valid from the acceptance of the
PITCH on, and not from LOADING, is the model's reading (log 106). -/
def Obligations.PitchIsBegunAndAborted : Prop :=
  (∀ (h : CmdHdr) (offset length : Word) (image : List Byte) (s : State), s.serves h → s.sch.pitch = none → s.inService = true →
    s.regBit Reg.schStage 31 = true → pitchPlaceOk offset length = true → s.hif.outstanding.length < 32 →
    exec (.pitch h offset length image) s = .next (s.begun h ((s.commandTaken h).onSch fun y =>
      { y with
        staging0 := if offset = 0 then image else y.staging0
        staging1 := if offset = 0 then y.staging1 else image, shadowValid := false
        pitch := some { ref := s.refOf h, offset := offset.toNat, length := length.toNat }, lastSwitched := false }))) ∧
  (∀ (h : CmdHdr) (offset length : Word) (image : List Byte) (s : State), s.serves h → s.sch.pitch.isSome = true →
    exec (.pitch h offset length image) s = .next (s.done h { status := stBusy } (s.commandTaken h))) ∧
  (∀ (h : CmdHdr) (s : State) (p : Pitch), s.serves h → s.sch.pitch = some p →
    exec (.pitchAbort h) s = .next (s.done h { status := stOk }
      ((s.commandTaken h).pitchEnds { status := stAborted } false)) ∧
    ((s.commandTaken h).pitchEnds { status := stAborted } false).sch.pitch = none) ∧
  (∀ (h : CmdHdr) (s : State), s.serves h → s.sch.pitch = none →
    exec (.pitchAbort h) s = .next (s.done h { status := if s.sch.lastSwitched then stTooLate else stIdle } (s.commandTaken h)))

/-- FENCE_PLOT and UNFENCE_PLOT register the Plot for the next close (R97): a Plot number above 31 answers BAD_ARG, a Plot already so registered
answers OK with nothing changed, and an UNFENCE_PLOT of a Plot behind a closed sluice GATED (R98). That GATED comes first, also where the Plot already
is or will be unfenced, is the model's choice (log 90). -/
def Obligations.FencesAreRegistered : Prop :=
  (∀ (h : CmdHdr) (p : Byte) (s : State), s.serves h → p.toNat < 32 → s.dpx.fencePend.getLsbD p.toNat = false →
    exec (.fencePlot h p) s = .next (s.done h { status := stOk } ((s.commandTaken h).onDpx fun d =>
      { d with fencePend := d.fencePend ||| ((1 : BitVec 32) <<< p.toNat), pendCause := d.pendCause &&& ~~~((1 : BitVec 32) <<< p.toNat) }))) ∧
  (∀ (h : CmdHdr) (p : Byte) (s : State), s.serves h → p.toNat < 32 → s.plotGate p.toNat = true → s.dpx.fencePend.getLsbD p.toNat = true →
    exec (.unfencePlot h p) s = .next (s.done h { status := stOk } ((s.commandTaken h).onDpx fun d =>
      { d with fencePend := d.fencePend &&& ~~~((1 : BitVec 32) <<< p.toNat), pendCause := d.pendCause &&& ~~~((1 : BitVec 32) <<< p.toNat) }))) ∧
  (∀ (h : CmdHdr) (p : Byte) (s : State), s.serves h → 31 < p.toNat →
    exec (.fencePlot h p) s = .next (s.done h { status := stBadArg } (s.commandTaken h)) ∧
    exec (.unfencePlot h p) s = .next (s.done h { status := stBadArg } (s.commandTaken h))) ∧
  (∀ (h : CmdHdr) (p : Byte) (s : State), s.serves h → p.toNat < 32 → s.dpx.fencePend.getLsbD p.toNat = true →
    exec (.fencePlot h p) s = .next (s.done h { status := stOk } (s.commandTaken h))) ∧
  (∀ (h : CmdHdr) (p : Byte) (s : State), s.serves h → p.toNat < 32 → s.plotGate p.toNat = false →
    exec (.unfencePlot h p) s = .next (s.done h { status := stGated } (s.commandTaken h))) ∧
  (∀ (h : CmdHdr) (p : Byte) (s : State), s.serves h → p.toNat < 32 → s.plotGate p.toNat = true → s.dpx.fencePend.getLsbD p.toNat = false →
    exec (.unfencePlot h p) s = .next (s.done h { status := stOk } (s.commandTaken h)))

/-- ROLE_SET of the current role answers OK with no change, and of another role on a SOLO device STATE. Else, on a paired device ACTIVE claims the
role with an epoch one above both devices', STANDBY stands down and SOLO answers STATE; on a device alone SOLO claims the role, ACTIVE and STANDBY
answer STATE. Role 3 answers BAD_ARG. The result is always the device's epoch after the command (R438). A ROLE_SWAP that can proceed becomes a long
command, else it answers STATE with the epoch (R440). -/
def Obligations.RolesAreSetAndSwapped : Prop :=
  (∀ (h : CmdHdr) (s : State), s.serves h → s.gzlOn = true → s.gzl.role ≠ .active → s.gzl.role ≠ .solo → ∃ t,
    exec (.roleSet h 0) s = .next (s.done h { status := stOk, result := [t.gzl.epoch] } t) ∧ t = (s.commandTaken h).claimRole .active ∧
    t.gzl.role = .active ∧ t.gzl.epoch = sat32 (max s.gzl.epoch.toNat s.gzl.partnerEpoch.toNat + 1)) ∧
  (∀ (h : CmdHdr) (s : State), s.serves h → s.gzlOn = true → s.gzl.role ≠ .standby → s.gzl.role ≠ .solo → ∃ t,
    exec (.roleSet h 1) s = .next (s.done h { status := stOk, result := [t.gzl.epoch] } t) ∧ t = (s.commandTaken h).standDown false) ∧
  (∀ (h : CmdHdr) (s : State), s.serves h → s.gzlOn = false → s.gzl.role ≠ .solo → ∃ t,
    exec (.roleSet h 2) s = .next (s.done h { status := stOk, result := [t.gzl.epoch] } t) ∧ t = (s.commandTaken h).claimRole .solo ∧ t.gzl.role = .solo) ∧
  (∀ (h : CmdHdr) (s : State), s.serves h → s.gzlOn = true → s.gzl.role ≠ .solo →
    exec (.roleSet h 2) s = .next (s.done h { status := stState, result := [s.gzl.epoch] } (s.commandTaken h))) ∧
  (∀ (h : CmdHdr) (s : State) (k : BitVec 2), s.serves h → s.gzl.role = (if k = 0 then .active else if k = 1 then .standby else .solo) → k ≠ 3 →
    exec (.roleSet h k) s = .next (s.done h { status := stOk, result := [s.gzl.epoch] } (s.commandTaken h))) ∧
  (∀ (h : CmdHdr) (s : State) (k : BitVec 2), s.serves h → s.gzl.role = .solo → k = 0 ∨ k = 1 →
    exec (.roleSet h k) s = .next (s.done h { status := stState, result := [s.gzl.epoch] } (s.commandTaken h))) ∧
  (∀ (h : CmdHdr) (s : State), s.serves h → s.gzlOn = false →
    (s.gzl.role ≠ .active → exec (.roleSet h 0) s = .next (s.done h { status := stState, result := [s.gzl.epoch] } (s.commandTaken h))) ∧
    (s.gzl.role ≠ .standby → exec (.roleSet h 1) s = .next (s.done h { status := stState, result := [s.gzl.epoch] } (s.commandTaken h)))) ∧
  (∀ (h : CmdHdr) (s : State), s.serves h →
    exec (.roleSet h 3) s = .next (s.done h { status := stBadArg, result := [s.gzl.epoch] } (s.commandTaken h))) ∧
  (∀ (h : CmdHdr) (s : State), s.serves h → s.swapOk = true → s.hif.outstanding.length < 32 →
    exec (.roleSwap h) s = .next (s.begun h ((s.commandTaken h).onGzl fun g => { g with swaps := g.swaps ++ [{ ref := s.refOf h }] }))) ∧
  (∀ (h : CmdHdr) (s : State), s.serves h → s.swapOk = false →
    exec (.roleSwap h) s = .next (s.done h { status := stState, result := [s.gzl.epoch] } (s.commandTaken h)))

/-- TIME_SET (R374): a nanosecond count of 10^9 or more, or leap code 3, answers BAD_ARG; a set while a source is in use (ACQUIRING or LOCKED),
without FORCE, answers SOURCE_ACTIVE. Else it completes with OK. With OFFSET_ONLY and no leap argument the UTC offset in force becomes the one given
and the time stays. Without OFFSET_ONLY, what the time is off by, θ, becomes a step that waits for slack if it is 1 ms or more, and is slewed away if
it is less; the result is θ and 1 for a step, 0 for a slew. In BIVOUAC the error estimate becomes the one given. That a leap argument of 0 leaves an
announcement as it is, and that the rate of the slew, the integral plus the proportional term, holds until θ is made up, is the model's reading (log
34). -/
def Obligations.TimeIsSet : Prop :=
  (∀ (h : CmdHdr) (w1 w2 w3 w4 w5 : Word) (s : State), s.serves h → nsPerSec ≤ w3.toNat ∨ field w4 18 17 = 3 →
    exec (.timeSet h w1 w2 w3 w4 w5) s = .next (s.done h { status := stBadArg } (s.commandTaken h))) ∧
  (∀ (h : CmdHdr) (w1 w2 w3 w4 w5 : Word) (s : State), s.serves h → w3.toNat < nsPerSec → field w4 18 17 ≠ 3 →
    s.tim.state = .locked ∨ s.tim.state = .acquiring → flag w4 19 = false →
    exec (.timeSet h w1 w2 w3 w4 w5) s = .next (s.done h { status := stSourceActive } (s.commandTaken h))) ∧
  (∀ (h : CmdHdr) (w1 w2 w3 w4 w5 : Word) (s : State), s.serves h → w3.toNat < nsPerSec → field w4 18 17 = 0 →
    flag w4 19 = true ∨ (s.tim.state ≠ .locked ∧ s.tim.state ≠ .acquiring) → flag w4 20 = true → ∃ t : State,
    exec (.timeSet h w1 w2 w3 w4 w5) s = .next (s.done h { status := stOk, result := [0, 0] } t) ∧
    t.offsetAt s.nowSec = signed 16 (field w4 15 0) ∧ t.tim.offsetValid = flag w4 16 ∧
    t.tim.leap.map Prod.fst = s.tim.leap.map Prod.fst ∧
    t = { s.commandTaken h with tim := { s.tim with
      utcOffset := t.tim.utcOffset, lastLeap := t.tim.lastLeap, leap := t.tim.leap, leapDone := t.tim.leapDone, offsetValid := t.tim.offsetValid } }) ∧
  (∀ (h : CmdHdr) (w1 w2 w3 w4 w5 : Word) (s : State) (θ : Int), s.serves h → w3.toNat < nsPerSec → field w4 18 17 ≠ 3 →
    flag w4 19 = true ∨ (s.tim.state ≠ .locked ∧ s.tim.state ≠ .acquiring) → flag w4 20 = false →
    θ = (s.tim.now : Int) - Int.ofNat ((field w2 15 0 * 2 ^ 32 + w1.toNat) * nsPerSec + w3.toNat) → 1000000 ≤ θ.natAbs → ∃ t : State,
    exec (.timeSet h w1 w2 w3 w4 w5) s = .next (s.done h { status := stOk, result := [satInt32 θ, 1] } t) ∧
    t.tim.theta = θ ∧ t.tim.now = s.tim.now ∧ t.tim.pendingStep = some (θ, true) ∧ t.tim.freqAdj = s.tim.freqAdj ∧
    t.tim.errEst = (if s.tim.state = .bivouac then some (fpOfInt w5.toNat) else s.tim.errEst) ∧ t = { s.commandTaken h with tim := t.tim }) ∧
  (∀ (h : CmdHdr) (w1 w2 w3 w4 w5 : Word) (s : State) (θ : Int), s.serves h → w3.toNat < nsPerSec → field w4 18 17 ≠ 3 →
    flag w4 19 = true ∨ (s.tim.state ≠ .locked ∧ s.tim.state ≠ .acquiring) → flag w4 20 = false →
    θ = (s.tim.now : Int) - Int.ofNat ((field w2 15 0 * 2 ^ 32 + w1.toNat) * nsPerSec + w3.toNat) → θ.natAbs < 1000000 → ∃ t : State,
    exec (.timeSet h w1 w2 w3 w4 w5) s = .next (s.done h { status := stOk, result := [satInt32 θ, 0] } t) ∧
    t.tim.theta = θ ∧ t.tim.now = s.tim.now ∧ t.tim.pendingStep = s.tim.pendingStep ∧ t.tim.freqAdj = fpAdd s.tim.integ (s.servoP θ).2 ∧
    t.tim.errEst = (if s.tim.state = .bivouac then some (fpOfInt w5.toNat) else s.tim.errEst) ∧ t = { s.commandTaken h with tim := t.tim })

/-- REC_FREEZE and REC_THAW stop and release the recorder, and answer STATE when it is so already (R454); REC_READ delivers records from the first it
can (R458); REC_ERASE moves HEAD past the named record, and answers STATE while writing is held and BAD_ARG for a record that is not stored (R459).
The recorder commits a queued record in 1.6 µs from start-up step 6, unless a freeze or brace holds it (R451 to R454), and a freeze longer than
FREEZE_MS ends by itself (R455). -/
def Obligations.RecorderHoldsAndServesRecords : Prop :=
  (∀ (h : CmdHdr) (s : State), s.canAccept h = true → s.evr.frozen = false →
    exec (.recFreeze h) s = .next (s.done h { status := stOk }
      ((s.commandTaken h).onEvr fun e => { e with frozen := true, frozenAt := s.tim.mono }))) ∧
  (∀ (h : CmdHdr) (s : State), s.canAccept h = true → s.evr.frozen = true →
    exec (.recFreeze h) s = .next (s.done h { status := stState } (s.commandTaken h)) ∧
    exec (.recThaw h) s = .next (s.done h { status := stOk } ((s.commandTaken h).onEvr fun e => { e with frozen := false }))) ∧
  (∀ (h : CmdHdr) (s : State), s.canAccept h = true → s.evr.frozen = false →
    exec (.recThaw h) s = .next (s.done h { status := stState } (s.commandTaken h))) ∧
  (∀ (h : CmdHdr) (first count : Word) (addr : BitVec 64) (len : Word) (s : State) (q : Nat), s.canAccept h = true → 1 ≤ count.toNat →
    count.toNat ≤ 65536 → 64 ≤ len.toNat → s.readStart first = some q → s.hif.outstanding.length < 32 →
    let n := min (min count.toNat (len.toNat / 64)) (s.nvm.evrNext - q)
    exec (.recRead h first count addr len) s = .next (s.begun h ((s.commandTaken h).onHif fun x =>
      { x with
        finishing := x.finishing ++ [(s.refOf h,
          { status := stOk, length := 64 * n, result := [w32 q, w32 n]
            data := (List.range n).flatMap fun i => bytesOf (s.storedRecord (q + i)), addr := addr })] }))) ∧
  (∀ (h : CmdHdr) (upTo : Word) (s : State), s.canAccept h = true → s.evrHeldOff = false → s.evrNamed upTo < s.evrCount → s.evrFull = false →
    exec (.recErase h upTo) s = .next (s.done h { status := stOk, result := [w32 (s.evrNamed upTo + 1)] }
      ((s.commandTaken h).onNvm fun n => { n with evrHead := n.evrHead + s.evrNamed upTo + 1 }))) ∧
  (∀ (h : CmdHdr) (upTo : Word) (s : State), s.canAccept h = true →
    (s.evrHeldOff = true → exec (.recErase h upTo) s = .next (s.done h { status := stState } (s.commandTaken h))) ∧
    (s.evrHeldOff = false → s.evrCount ≤ s.evrNamed upTo →
      exec (.recErase h upTo) s = .next (s.done h { status := stBadArg } (s.commandTaken h)))) ∧
  (∀ s : State, s.evrHeldOff = false → 6 ≤ s.sys.step → s.awake = true → exec .evrWrite s = .next (s.run 1600).drainOne) ∧
  (∀ s : State, s.evrHeldOff = true → exec .evrWrite s = .next s) ∧
  (∀ s : State, s.evr.frozen = true → exec .freezeTimeout s = .next
    ((((s.runToMono (s.evr.frozenAt + s.freezeMs * 1000000)).onEvr fun e => { e with frozen := false }).inc Reg.evrFreezeToCnt).event 0x0002 clsLog
      [w32 s.freezeMs])) ∧
  (∀ s : State, s.evr.frozen = false → exec .freezeTimeout s = .next s)

/-- The key commands are served while keys are not locked and the device is in service (R483). With no key job and no slot command before it,
KEY_DERIVE of a purpose that a key serves completes with OK, the key of that purpose and context in the key register and its job counted, and before
it that of the unwrap that a slot not unwrapped since it last changed needs (R474, R476, R477). KEY_SLOT_WRITE with 64 good bytes queues its wrap and
its commit, its slot showing WRITING (R481, R492); the commit completes it. KEY_SLOT_CLEAR of a slot that no command waits for empties it at once, and
its copies are gone; in brace it waits for the end (R523). With keys locked all three answer TAMPER, out of service LIFECYCLE (R483). That a
KEY_DERIVE with nothing before it completes at once, and the counting of unwraps, is the model's reading (logs 63 and 68). -/
def Obligations.KeyCommands : Prop :=
  (∀ (h : CmdHdr) (p : Byte) (ctx : Word) (s : State), s.serves h → s.keyGate = none → s.sec.jobs = [] → s.sec.writes = [] →
    p.toNat = purposeArchive ∨ (p.toNat = purposeGreaz ∧ (s.workingKey purposeGreaz (deriveCtx purposeGreaz ctx)).isSome = true) →
    ∃ (t : State) (k : MaskedKey), exec (.keyDerive h p ctx) s = .next (s.done h { status := stOk } t) ∧
    t.sec.key = some k ∧ k.purpose = p.toNat ∧ k.ctx = deriveCtx p.toNat ctx ∧
    t.reg Reg.secJobCnt = s.reg Reg.secJobCnt + (if p.toNat = purposeGreaz ∧ s.sec.unwrapped.getLsbD s.linkSlot = false ∧
      (s.heldKey purposeGreaz (deriveCtx purposeGreaz ctx) (some s.linkSlot)).2 = none then 2 else 1) ∧
    (∀ o, o ≠ Reg.secJobCnt → o ≠ Reg.secDeriveCnt → t.reg o = s.reg o) ∧
    t = { s.commandTaken h with
      sec := { s.sec with key := t.sec.key, cache := t.sec.cache, slotStatus := t.sec.slotStatus, keyIds := t.sec.keyIds, unwrapped := t.sec.unwrapped }
      regs := t.regs, free := t.free }) ∧
  (∀ (h : CmdHdr) (p : Byte) (ctx : Word) (s : State), s.serves h → s.keyGate = none → p.toNat ≠ purposeGreaz → p.toNat ≠ purposeArchive →
    exec (.keyDerive h p ctx) s = .next (s.done h { status := stBadArg } (s.commandTaken h))) ∧
  (∀ (h : CmdHdr) (w1 : Word) (addr : BitVec 64) (len : Word) (buf : List Byte) (s : State), s.serves h → s.keyGate = none → 64 ≤ len.toNat →
    h.dmaErr = false → w1.toNat ≤ 15 → slotBufferOk (buf.take 64) = true → ∃ t : State,
    exec (.keySlotWrite h w1 addr len buf) s = .next t ∧
    t.sec.writes = s.sec.writes ++ [{ ref := s.refOf h, slot := w1.toNat, buf := some (buf.take 64), behind := s.slotRefs w1.toNat }] ∧
    t.sec.jobs = s.sec.jobs ++ [.wrap w1.toNat] ∧ t.slotShown w1.toNat = 3 ∧
    t.hif = { (s.commandTaken h).hif with blocking := s.hif.blocking ++ [s.refOf h] } ∧
    t = { s with hif := t.hif, sec := { s.sec with writes := t.sec.writes, jobs := t.sec.jobs } }) ∧
  (∀ (h : CmdHdr) (w1 : Word) (s : State), s.serves h → s.keyGate = none → s.pwr.brace = false → s.slotRefs (field w1 3 0) = [] →
    exec (.keySlotClear h w1) s = .next (s.done h { status := stOk } ((s.commandTaken h).clearSlot (field w1 3 0))) ∧
    ∀ k ∈ ((s.commandTaken h).clearSlot (field w1 3 0)).nvm.slots[field w1 3 0]?, k.copyA = [] ∧ k.copyB = []) ∧
  (∀ (h : CmdHdr) (w1 : Word) (s : State), s.serves h → s.keyGate = none → s.pwr.brace = true → s.slotRefs (field w1 3 0) = [] → ∃ t : State,
    exec (.keySlotClear h w1) s = .next t ∧ t.pwr = { s.pwr with held := s.pwr.held ++ [.slot (s.refOf h)] } ∧
    t.sec = { s.sec with writes := s.sec.writes ++ [{ ref := s.refOf h, slot := field w1 3 0, buf := none, stage := .held }] } ∧
    t.hif = { (s.commandTaken h).hif with blocking := s.hif.blocking ++ [s.refOf h] } ∧ t = { s with hif := t.hif, sec := t.sec, pwr := t.pwr }) ∧
  (∀ (h : CmdHdr) (p : Byte) (ctx w1 : Word) (addr : BitVec 64) (len : Word) (buf : List Byte) (s : State) (st : Nat), s.serves h → s.keyGate = some st →
    exec (.keyDerive h p ctx) s = .next (s.done h { status := st } (s.commandTaken h)) ∧
    exec (.keySlotWrite h w1 addr len buf) s = .next (s.done h { status := st } (s.commandTaken h)) ∧
    exec (.keySlotClear h w1) s = .next (s.done h { status := st } (s.commandTaken h))) ∧
  (∀ s : State, (s.sec.keyLock = true → s.keyGate = some stTamper) ∧ (s.sec.keyLock = false → s.inService = false → s.keyGate = some stLifecycle) ∧
    (s.sec.keyLock = false → s.inService = true → s.keyGate = none))

/-- NRG_SNAPSHOT delivers 64 bytes and 576 for each masked point and clears their wrap counts (R318); an empty mask answers BAD_ARG, a shorter buffer
BUF_SMALL. -/
def Obligations.SnapshotIsDelivered : Prop :=
  (∀ (h : CmdHdr) (w1 : Word) (addr : BitVec 64) (len : Word) (s : State), s.serves h → field w1 3 0 ≠ 0 →
    64 + 576 * ((List.range 4).filter fun p => flag w1 p).length ≤ len.toNat → ∃ data t,
    exec (.nrgSnapshot h w1 addr len) s =
      .next (s.done h { status := stOk, length := data.length, data := data, addr := addr } t) ∧
    data.length = 64 + 576 * ((List.range 4).filter fun p => flag w1 p).length ∧ t = { s.commandTaken h with nrg := t.nrg } ∧
    ∀ p < 4, flag w1 p = true → ∀ x ∈ t.nrg.points[p]?, x.wraps = List.replicate 32 0) ∧
  (∀ (h : CmdHdr) (w1 : Word) (addr : BitVec 64) (len : Word) (s : State), s.serves h → field w1 3 0 = 0 →
    exec (.nrgSnapshot h w1 addr len) s = .next (s.done h { status := stBadArg } (s.commandTaken h))) ∧
  (∀ (h : CmdHdr) (w1 : Word) (addr : BitVec 64) (len : Word) (s : State), s.serves h → field w1 3 0 ≠ 0 →
    len.toNat < 64 + 576 * ((List.range 4).filter fun p => flag w1 p).length →
    exec (.nrgSnapshot h w1 addr len) s = .next (s.done h { status := stBufSmall } (s.commandTaken h)))

/-- CAP_ARM without BUS arms the masked units when each may be armed (R335), CAP_DISARM ends them (R344), and with BUS on a device that is not the
master both answer NOT_MASTER (R341); CAP_READ of a unit that is DONE delivers its record from the offset on (R347), of another it answers EMPTY. -/
def Obligations.CaptureCommands : Prop :=
  (∀ (h : CmdHdr) (w1 : Word) (s : State), s.serves h → flag w1 8 = false → (capUnits w1).all (s.commandTaken h).capArmOk = true →
    exec (.capArm h w1) s = .next (s.done h { status := stOk }
      ((capUnits w1).foldl (fun (y : State) u => y.capArm u (flag w1 9)) (s.commandTaken h)))) ∧
  (∀ (h : CmdHdr) (w1 : Word) (s : State), s.serves h → flag w1 8 = false →
    exec (.capDisarm h w1) s = .next (s.done h { status := stOk } ((capUnits w1).foldl State.capDisarm (s.commandTaken h)))) ∧
  (∀ (h : CmdHdr) (w1 : Word) (s : State), s.serves h → flag w1 8 = true → s.capMaster = false →
    exec (.capArm h w1) s = .next (s.done h { status := stNotMaster } (s.commandTaken h)) ∧
    exec (.capDisarm h w1) s = .next (s.done h { status := stNotMaster } (s.commandTaken h))) ∧
  (∀ (h : CmdHdr) (w1 offset length : Word) (addr : BitVec 64) (s : State), s.serves h → (s.capUnit (field w1 2 0)).state = .done →
    offset.toNat % 64 = 0 → ((s.commandTaken h).capRecord (field w1 2 0)).length ≤ offset.toNat + length.toNat →
    offset.toNat < ((s.commandTaken h).capRecord (field w1 2 0)).length → 64 ≤ length.toNat → flag w1 8 = false → s.hif.outstanding.length < 32 →
    let data := ((s.commandTaken h).capRecord (field w1 2 0)).drop offset.toNat
    exec (.capRead h w1 offset length addr false) s = .next (s.begun h ((s.commandTaken h).onHif fun x =>
      { x with finishing := x.finishing ++ [(s.refOf h, { status := stOk, length := data.length, data := data, addr := addr })] }))) ∧
  (∀ (h : CmdHdr) (w1 offset length : Word) (addr : BitVec 64) (e : Bool) (s : State), s.serves h → (s.capUnit (field w1 2 0)).state ≠ .done →
    exec (.capRead h w1 offset length addr e) s = .next (s.done h { status := stEmpty } (s.commandTaken h)))

/-- ARC_REPLAY of a host block becomes a long command (R272); LMU_XFADE with a symmetric bank, channels that are on and not fading, and a start that
lies far enough ahead becomes a long command (R293, R294); TELEM_CFG names an enabled ring of TYPE 9 or turns telemetry off (R540); an opcode that is
not listed completes with BAD_OPCODE (R408). -/
def Obligations.ReplayFadeTelemetryAndBadOpcode : Prop :=
  (∀ (h : CmdHdr) (w1 w2 w3 w4 : Word) (block : List Byte) (s : State), s.serves h → (s.ring (field w1 13 8)).works = true →
    s.ringType (field w1 13 8) = 6 → flag w1 0 = true → s.arc.replay = none → h.dmaErr = false → s.hif.outstanding.length < 32 →
    exec (.arcReplay h w1 w2 w3 w4 block) s =
      .next (s.begun h ((s.commandTaken h).startReplay (s.refOf h) (field w1 13 8) (block.take w4.toNat) none))) ∧
  (∀ (h : CmdHdr) (w1 w4 w5 w6 : Word) (addr : BitVec 64) (buf : List Byte) (s : State) (l : Nat), s.serves h → w1 ≠ 0 → field w1 31 24 = 0 →
    (∀ c < 24, flag w1 c = true → s.chOn c = true ∧ s.fading c = false) → field w4 12 0 = 0 ∨ (64 ≤ field w4 12 0 ∧ field w4 12 0 ≤ 4096) → h.dmaErr = false →
    (wordsOf (buf.take 384)).length = 96 → (∀ k ∈ wordsOf (buf.take 384), fpIsFinite k = true) →
    (∀ k < 96, wordAt (wordsOf (buf.take 384)) k = wordAt (wordsOf (buf.take 384)) (95 - k)) → s.fadeStart w5 w6 = some l →
    s.hif.outstanding.length < 32 →
    exec (.lmuXfade h w1 addr w4 w5 w6 buf) s = .next (s.begun h ((s.commandTaken h).onLmu fun m =>
      { m with
        fades := m.fades ++ [{ ref := s.refOf h, mask := w1.setWidth 24, coefs := wordsOf (buf.take 384), len := field w4 12 0, start := l }] }))) ∧
  (∀ (h : CmdHdr) (w1 : Word) (s : State), s.canAccept h = true → flag w1 8 = true → (s.ring (field w1 5 0)).enabled = true →
    s.ringType (field w1 5 0) = 9 →
    exec (.telemCfg h w1) s = .next (s.done h { status := stOk }
      ((s.commandTaken h).onPwr fun p => { p with telemRing := some (field w1 5 0) }))) ∧
  (∀ (h : CmdHdr) (w1 : Word) (s : State), s.canAccept h = true → flag w1 8 = false →
    exec (.telemCfg h w1) s = .next (s.done h { status := stOk } ((s.commandTaken h).onPwr fun p => { p with telemRing := none }))) ∧
  (∀ (h : CmdHdr) (op : Byte) (s : State), s.serves h → opcodes.contains op.toNat = false →
    exec (.badOpcode h op) s = .next (s.done h { status := stBadOpcode } (s.commandTaken h)))

/-! ### Register accesses -/

/-- A 32-bit write of a register by its access code (R10, R391): a register that is RW, or RWS on a device that is not sealed, takes the bits that a
write reaches, and nothing else happens but where the register acts on its write: the registers that the table gives a command of their own, the WO
ones among them, do what that command does, the others take their bits and then act (R41, R276, R395, R442, R528). W1C clears the bits written 1, RO
and RC ignore it, as does an offset that holds no register; a 64-bit write is two, lower first; a narrow or misaligned write to a BAR is ignored and
counted, one to configuration space takes the bytes it names; a host index in BAR2 posts descriptors or consumes completions (R410); a write of an
MSI-X mask bit masks its vector, and one that clears the Function Mask sends what is pending (R390, R407); before start-up step 9 no write arrives.
That the boundary is step 9 (log 6), the layout of the MSI-X table and of configuration space (log 101), and the descriptors that a plain write posts
(log 107) are the model's reading. -/
def Obligations.RegisterWritesFollowAccessCodes : Prop :=
  (∀ (off : BitVec 24) (d : BitVec 64) (s : State) (r : RegRow), s.hostUp = true → off.toNat % 4 = 0 → regRow off.toNat = some r →
    (r.acc = .rw ∨ (r.acc = .rws ∧ s.isSealed = false) → actsOnWrite off.toNat = false →
      (off.toNat / 65536 = 0x02 → s.gridOn = false) →
      exec (.registerWrite ⟨.bar0, off⟩ 4 d) s = .next (s.setReg off.toNat ((lo32 d &&& r.mask) ||| (r.reset &&& ~~~r.mask)))) ∧
    (r.acc = .w1c → exec (.registerWrite ⟨.bar0, off⟩ 4 d) s = .next (s.setReg off.toNat (s.reg off.toNat &&& ~~~lo32 d))) ∧
    (r.acc = .ro ∨ r.acc = .rc → exec (.registerWrite ⟨.bar0, off⟩ 4 d) s = .next s)) ∧
  (∀ (off : BitVec 24) (d : BitVec 64) (s : State), s.gridOn = true → off.toNat = Reg.tckFm ∨ off.toNat = Reg.tckWd →
    exec (.registerWrite ⟨.bar0, off⟩ 4 d) s = .next s) ∧
  (∀ (d : BitVec 64) (s : State),
    exec (.registerWrite ⟨.bar0, BitVec.ofNat 24 Reg.sysSeal⟩ 4 d) s = exec (.sysSeal (lo32 d)) s ∧
    exec (.registerWrite ⟨.bar0, BitVec.ofNat 24 Reg.sysStart⟩ 4 1) s = exec .startGo s ∧
    exec (.registerWrite ⟨.bar0, BitVec.ofNat 24 Reg.sysStart⟩ 4 0) s = .next s ∧
    exec (.registerWrite ⟨.bar0, BitVec.ofNat 24 Reg.secLcCtl⟩ 4 1) s = exec .apply s ∧
    exec (.registerWrite ⟨.bar0, BitVec.ofNat 24 Reg.secLcCtl⟩ 4 2) s = exec .cancel s ∧
    exec (.registerWrite ⟨.bar0, BitVec.ofNat 24 Reg.pwrDormant⟩ 4 d) s = exec (.dormantRequest (lo32 d)) s ∧
    exec (.registerWrite ⟨.bar0, BitVec.ofNat 24 Reg.tckCfg⟩ 4 1) s = exec (.gridEnable false) s ∧
    exec (.registerWrite ⟨.bar0, BitVec.ofNat 24 Reg.tckCfg⟩ 4 3) s = exec (.gridEnable true) s ∧
    (∀ l : BitVec 2, exec (.registerWrite ⟨.bar0, BitVec.ofNat 24 Reg.pwrDvfsReq⟩ 4 (l.setWidth 64)) s = exec (.dvfsRequest l) s) ∧
    (∀ (g : BitVec 6) (o : Bool), exec (.registerWrite ⟨.bar0, BitVec.ofNat 24 Reg.clkSluiceReq⟩ 4 (g.setWidth 64 ||| (if o then 0x100 else 0))) s =
      exec (.sluiceRequest g o) s) ∧
    (∀ n : Fin 8, exec (.registerWrite ⟨.bar0, BitVec.ofNat 24 (Reg.bsnOutRing n.val)⟩ 4 d) s = exec (.selectionEnable n (lo32 d)) s) ∧
    (∀ n : Fin 10, exec (.registerWrite ⟨.bar0, BitVec.ofNat 24 (regionReg n.val)⟩ 4 d) s = exec (.regionEnable n (lo32 d)) s) ∧
    (∀ n : Fin 4, exec (.registerWrite ⟨.bar0, BitVec.ofNat 24 (Reg.nrgPtCfg n.val)⟩ 4 d) s = exec (.pointEnable n (lo32 d)) s) ∧
    (∀ n : Fin 24, exec (.registerWrite ⟨.bar0, BitVec.ofNat 24 (Reg.lmuChCtl n.val)⟩ 4 d) s = exec (.channelEnable n (lo32 d)) s) ∧
    (∀ n : Fin 64, exec (.registerWrite ⟨.bar0, BitVec.ofNat 24 (Reg.hifRingCtl n.val)⟩ 4 1) s = exec (.ringEnable n) s ∧
      exec (.registerWrite ⟨.bar0, BitVec.ofNat 24 (Reg.hifRingCtl n.val)⟩ 4 0) s = exec (.ringDisable n) s) ∧
    (∀ n : Fin 4, exec (.registerWrite ⟨.bar0, BitVec.ofNat 24 (Reg.prtCtl n.val)⟩ 4 0) s = exec (.portDisable n .enable) s ∧
      exec (.registerWrite ⟨.bar0, BitVec.ofNat 24 (Reg.prtCtl n.val)⟩ 4 1) s = exec (.portDisable n (.disable none)) s)) ∧
  (∀ (off : BitVec 24) (d : BitVec 64) (s x : State) (r : RegRow), s.hostUp = true → regRow off.toNat = some r → s.isSealed = false →
    x = s.setReg off.toNat ((lo32 d &&& r.mask) ||| (r.reset &&& ~~~r.mask)) →
    (∀ n : Fin 64, off.toNat = Reg.hifRingMod n.val → exec (.registerWrite ⟨.bar0, off⟩ 4 d) s = .next (x.checkFire n.val)) ∧
    (∀ n : Fin 4, off.toNat = Reg.prtCfg n.val → s.templateOn n.val = false → exec (.registerWrite ⟨.bar0, off⟩ 4 d) s = .next (x.portsAfter s)) ∧
    (off.toNat = Reg.prtPairCfg → exec (.registerWrite ⟨.bar0, off⟩ 4 d) s = .next (x.portsAfter s)) ∧
    (∀ n : Fin 8, off.toNat = Reg.nrgPlsCfg n.val → flag (lo32 d) 0 = false → exec (.registerWrite ⟨.bar0, off⟩ 4 d) s =
      .next ((s.dropBacklog n.val fun _ => {}).setReg off.toNat (lo32 d &&& 0x00FF07FE))) ∧
    (∀ n : Fin 4, off.toNat = Reg.lmuPtCfg n.val → flag (lo32 d) 0 = true → s.ptOn n.val = true → exec (.registerWrite ⟨.bar0, off⟩ 4 d) s = .next x) ∧
    (off.toNat = Reg.lmuTrk → flag (lo32 d) 0 = true → exec (.registerWrite ⟨.bar0, off⟩ 4 d) s = .next x) ∧
    (off.toNat = Reg.capCfg → s.capMaster = x.capMaster → exec (.registerWrite ⟨.bar0, off⟩ 4 d) s = .next x) ∧
    (off.toNat = Reg.arcCfg → exec (.registerWrite ⟨.bar0, off⟩ 4 d) s = .next
      (if flag (x.reg off.toNat) 4 || x.arcRegionOn then x else x.setReg off.toNat (putFlag (x.reg off.toNat) 0 false))) ∧
    (off.toNat = Reg.timCfg ∨ off.toNat = Reg.timPrio → s.tim.gnssOk = false → exec (.registerWrite ⟨.bar0, off⟩ 4 d) s = .next x.runBmca) ∧
    (off.toNat = Reg.timLock → exec (.registerWrite ⟨.bar0, off⟩ 4 d) s = .next x.acquired) ∧
    (off.toNat = Reg.gzlCfg → s.gzlOn = x.gzlOn → exec (.registerWrite ⟨.bar0, off⟩ 4 d) s = .next x) ∧
    (off.toNat = Reg.pwrDvfsCfg → s.sch.activeValid = false → exec (.registerWrite ⟨.bar0, off⟩ 4 d) s = .next x)) ∧
  (∀ (off : BitVec 24) (d : BitVec 64) (s : State), s.hostUp = true → off.toNat % 4 = 0 →
    (regRow off.toNat = none → exec (.registerWrite ⟨.bar0, off⟩ 4 d) s = .next s) ∧
    exec (.registerWrite ⟨.bar0, off⟩ 8 d) s = .next ((s.writeReg off.toNat (lo32 d)).writeReg (off.toNat + 4) (hi32 d))) ∧
  (∀ (b : HostSpace) (off : BitVec 24) (w : Nat) (d : BitVec 64) (s : State), s.hostUp = true → b ≠ .config → off.toNat % 4 ≠ 0 ∨ (w ≠ 4 ∧ w ≠ 8) →
    exec (.registerWrite ⟨b, off⟩ w d) s = .next (s.inc Reg.hifBadAccCnt)) ∧
  (∀ (n : Fin 64) (d : BitVec 64) (s : State), s.hostUp = true →
    (s.ringType n.val = 2 → exec (.registerWrite ⟨.bar2, BitVec.ofNat 24 (64 * n.val)⟩ 4 d) s = exec (.completionConsume n (BitVec.ofNat 16 (lo32 d).toNat)) s) ∧
    (s.ringType n.val ≠ 2 → ∃ (ds : List (List Word)) (t : State), t = { s with free := t.free } ∧
      exec (.registerWrite ⟨.bar2, BitVec.ofNat 24 (64 * n.val)⟩ 4 d) s = exec (.doorbell n (BitVec.ofNat 16 (lo32 d).toNat) ds false) t)) ∧
  (∀ (v : Fin 128) (s : State), s.hostUp = true →
    exec (.registerWrite ⟨.bar2, BitVec.ofNat 24 (0x2000 + 16 * v.val + 12)⟩ 4 1) s =
      .next { s with hif := { s.hif with masked := s.hif.masked ||| (1 : BitVec 128) <<< v.val } } ∧
    exec (.registerWrite ⟨.bar2, BitVec.ofNat 24 (0x2000 + 16 * v.val + 12)⟩ 4 0) s = exec (.vectorUnmask v) s) ∧
  (∀ (off : BitVec 24) (w : Nat) (d : BitVec 64) (s : State), s.hostUp = true → s.hif.pba = 0 →
    exec (.registerWrite ⟨.config, off⟩ w d) s = .next { s with hif := { s.hif with config := (s.configWrite (off.toNat % 0x1000) w d).hif.config } }) ∧
  (∀ (v : Fin 128) (d : BitVec 64) (s : State), s.hostUp = true → s.functionMasked = true → flag (lo32 d) 30 = false →
    s.hif.pba = (1 : BitVec 128) <<< v.val → s.hif.masked = 0 → ∃ t : State, exec (.registerWrite ⟨.config, 0x80⟩ 4 d) s = .next t ∧
    t.functionMasked = false ∧ t.hif.pba = 0 ∧ t.reg Reg.hifIntrCnt = s.reg Reg.hifIntrCnt + 1 ∧ (∀ o, o ≠ Reg.hifIntrCnt → t.reg o = s.reg o) ∧
    t = { s with regs := t.regs, hif := { s.hif with config := t.hif.config, pba := 0 } }) ∧
  (∀ (b : HostSpace) (off : BitVec 24) (w : Nat) (d : BitVec 64) (s : State), s.hostUp = false → exec (.registerWrite ⟨b, off⟩ w d) s = .next s)

/-- SYS_SEAL, at offset 0x10 with reset 0, takes writes only; one of 0x5EA1_0880 seals the device and any other value is ignored (R563); a sealed
device ignores every write of an RWS register (R564). -/
def Obligations.SealStopsSealedRegisters : Prop :=
  (Reg.sysSeal = 0x10 ∧ regReset Reg.sysSeal = 0 ∧ (regRow Reg.sysSeal).map RegRow.acc = some .wo) ∧
  (∀ (v : Word) (s : State), s.hostUp = true → exec (.sysSeal v) s = .next (if v = 0x5EA10880 then { s with isSealed := true } else s)) ∧
  (∀ (off : BitVec 24) (d : BitVec 64) (s : State) (r : RegRow), s.isSealed = true → off.toNat % 4 = 0 → regRow off.toNat = some r → r.acc = .rws →
    exec (.registerWrite ⟨.bar0, off⟩ 4 d) s = .next s)

/-- A 32-bit read of an RC register returns its value and clears it to its reset value (R10), FLM_PEAKn and EVR_QUEUE_PEAK to the level that stands
(R129, R464), PWR_TEMP_PEAK to no sample (R552); a read of TCK_TICK_ID_LO returns the low word of the last closed tick ID and latches the high word
(R69), and a read of a latched word returns it and frees it. -/
def Obligations.ReadsClearAndLatch : Prop :=
  (∀ (off : BitVec 24) (s : State) (r : RegRow), s.hostUp = true → off.toNat % 4 = 0 → regRow off.toNat = some r → r.acc = .rc →
    off.toNat ≠ Reg.pwrTempPeak → off.toNat ≠ Reg.evrQueuePeak → (∀ n : Fin 9, off.toNat ≠ Reg.flmPeak n.val) → mapGet s.latched off.toNat = none → ∃ t,
    exec (.readClear ⟨.bar0, off⟩ 4) s = .next t ∧
    t = { s with regs := t.regs, readData := leBytes (s.view off.toNat) } ∧ t.reg off.toNat = regReset off.toNat ∧
    ∀ o, o ≠ off.toNat → t.reg o = s.reg o) ∧
  (∀ (n : Fin 9) (s : State), s.hostUp = true → mapGet s.latched (Reg.flmPeak n.val) = none →
    exec (.readClear ⟨.bar0, BitVec.ofNat 24 (Reg.flmPeak n.val)⟩ 4) s =
      .next { s.setReg (Reg.flmPeak n.val) (w32 (s.flume n.val).level) with readData := leBytes (s.view (Reg.flmPeak n.val)) }) ∧
  (∀ s : State, s.hostUp = true → mapGet s.latched Reg.evrQueuePeak = none → exec (.readClear ⟨.bar0, BitVec.ofNat 24 Reg.evrQueuePeak⟩ 4) s =
    .next { s.setReg Reg.evrQueuePeak (w32 s.evr.queue.length) with readData := leBytes (s.view Reg.evrQueuePeak) }) ∧
  (∀ s : State, s.hostUp = true → mapGet s.latched Reg.pwrTempPeak = none → exec (.readClear ⟨.bar0, BitVec.ofNat 24 Reg.pwrTempPeak⟩ 4) s =
    .next { s with pwr := { s.pwr with tempPeak := none }, readData := leBytes (s.view Reg.pwrTempPeak) }) ∧
  (∀ s : State, s.hostUp = true → mapGet s.latched Reg.tckTickIdLo = none → ∃ t,
    exec (.latchedRead (BitVec.ofNat 24 Reg.tckTickIdLo)) s = .next t ∧ t = { s with latched := t.latched, readData := leBytes (lo32 s.lastTick) } ∧
    mapGet t.latched Reg.tckTickIdHi = some (hi32 s.lastTick)) ∧
  (∀ (s : State) (v : Word), s.hostUp = true → mapGet s.latched Reg.tckTickIdHi = some v → ∃ t,
    exec (.latchedRead (BitVec.ofNat 24 Reg.tckTickIdHi)) s = .next t ∧ t = { s with latched := t.latched, readData := leBytes v } ∧
    mapGet t.latched Reg.tckTickIdHi = none)

/-- A write of TCK_CFG.EN = 1 starts the grid when TCK_FM and TCK_WD are valid (R33, R39): its first tick ID is the stored one plus 65,536, or 0 if
none is stored (R36), its first instant the first one of the timebase that has not passed; with values that are not valid EN stays 0. That the first
instant is the first one not yet passed is the model's reading (log 7). -/
def Obligations.GridEnableStartsTheGrid : Prop :=
  (∀ (early : Bool) (s : State), s.hostUp = true → s.isSealed = false → s.gridOn = false → s.gridCfgOk = true → s.sys.tampered = false → ∃ t,
    exec (.gridEnable early) s = .next t ∧ t.gridOn = true ∧ t.reg Reg.tckCfg = (if early then 3 else 1) ∧
    t.tck = { s.tck with
      nextId := (s.nvm.tickId.map (· + 65536)).getD 0, nextInstant := gridAtOrAfter s.fm s.tim.now
      openId := (s.nvm.tickId.map (· + 65536)).getD 0, openInstant := gridAtOrAfter s.fm s.tim.now } ∧
    t = { s with regs := t.regs, tck := t.tck } ∧ ∀ o, o ≠ Reg.tckCfg → t.reg o = s.reg o) ∧
  (∀ (early : Bool) (s : State), s.hostUp = true → s.isSealed = false → s.gridOn = false → s.gridCfgOk = false → ∃ t,
    exec (.gridEnable early) s = .next t ∧ t.gridOn = false ∧ t = { s with regs := t.regs })

/-- GO of SYS_START in start-up step 11 starts the SerDes and step 12 (R537), and before step 11 it is remembered; GO of SYS_BOOT_CTL starts the load
of a host patch that step 9 waits for, and NONE ends that wait with the ROM firmware (R538). -/
def Obligations.StartAndBootWrites : Prop :=
  (∀ s : State, s.hostUp = true → s.sys.step = 11 → s.sys.tampered = false → s.tim.state ≠ .locked → s.tim.mono < s.acqEnd →
    exec .startGo s = .next { s with sys := { s.sys with goWritten := true, step := 12 }, prt := { s.prt with serdes := true } }) ∧
  (∀ s : State, s.hostUp = true → s.sys.step < 11 → s.sys.tampered = false →
    exec .startGo s = .next { s with sys := { s.sys with goWritten := true } }) ∧
  (∀ s : State, s.waitsBoot = true → exec .bootGo s = .next { s with sys := { s.sys with patchGo := true } }) ∧
  (∀ s : State, s.waitsBoot = true → s.sys.goWritten = false → exec .bootNone s =
    .next { s with
      sys := { s.sys with step := 11, patchWait := false, patchGo := false, patchSrc := 0, patchVersion := 0, checking := none }, sec := { s.sec with fwPatch := 0 } }) ∧
  (∀ s : State, s.waitsBoot = false → exec .bootGo s = .next s ∧ exec .bootNone s = .next s)

/-- APPLY starts the verification of the ticket that SEC_TICKET holds and CANCEL clears a pending one (R469); a write of PWR_DORMANT with ENTER and
KEY requests dormant mode, for the next slack, with outputs closed, no brace and a wake source set, else it is ignored (R530); a write of PWR_DVFS_REQ
makes a level request pending for the next slack (R528), one of CLK_SLUICE_REQ a gate request unless one is pending (R508). -/
def Obligations.RequestWritesBecomePending : Prop :=
  (∀ s : State, s.hostUp = true → s.sec.verifying = none →
    exec .apply s = .next (s.onSec fun x => { x with verifying := some ((List.range 64).map fun i => s.reg (Reg.secTicket i)) })) ∧
  (∀ s : State, s.hostUp = true → s.pwr.brace = false → exec .cancel s = .next (s.onNvm fun n => { n with ticket := none })) ∧
  (∀ (v : Word) (s : State), s.hostUp = true → flag v 0 = true → field v 15 8 = 0x5A → s.gateOpen = false → s.pwr.brace = false →
    s.reg Reg.pwrWakeCfg ≠ 0 → exec (.dormantRequest v) s = .next (s.onPwr fun p => { p with dormantPending := true, dormantWaits := true })) ∧
  (∀ (v : Word) (s : State), s.gateOpen = true ∨ s.pwr.brace = true ∨ s.reg Reg.pwrWakeCfg = 0 ∨ flag v 0 = false ∨ field v 15 8 ≠ 0x5A →
    exec (.dormantRequest v) s = .next s) ∧
  (∀ (l : BitVec 2) (s : State), s.hostUp = true →
    exec (.dvfsRequest l) s = .next ((s.setReg Reg.pwrDvfsReq (l.setWidth 32)).onPwr fun p => { p with request := some (min 2 l.toNat), requestWaits := true })) ∧
  (∀ (g : BitVec 6) (o : Bool) (s : State), s.hostUp = true → s.clk.sluice = none →
    exec (.sluiceRequest g o) s = .next ((s.setReg Reg.clkSluiceReq (place g.toNat 0 ||| placeB o 8)).onClk fun c =>
      { c with sluice := some (g.toNat, o), sluiceGate := g.toNat, sluiceWaits := true })) ∧
  (∀ (g : BitVec 6) (o : Bool) (s : State), s.clk.sluice.isSome = true → exec (.sluiceRequest g o) s = .next s)

/-- A ring is enabled with both indices 0 when its configuration is valid, else CFG_ERR is set (R395); EN = 0 stops it, but for a completion ring that
an enabled ring names. -/
def Obligations.RingsAreEnabledAndDisabled : Prop :=
  (∀ (n : Fin 64) (s : State), s.hostUp = true → (s.ring n.val).enabled = false → s.ringCfgOk n.val = true → ∃ t,
    exec (.ringEnable n) s = .next t ∧ t.ring n.val = { enabled := true, armed := decide (s.ringType n.val = 2) } ∧
    (∀ m, m ≠ n.val → t.ring m = s.ring m) ∧ t = { s with hif := { s.hif with rings := t.hif.rings } }) ∧
  (∀ (n : Fin 64) (s : State), s.hostUp = true → (s.ring n.val).enabled = false → s.ringCfgOk n.val = false → ∃ t,
    exec (.ringEnable n) s = .next t ∧ t.ring n.val = { s.ring n.val with cfgErr := true } ∧
    (∀ m, m ≠ n.val → t.ring m = s.ring m) ∧ t = { s with hif := { s.hif with rings := t.hif.rings } }) ∧
  (∀ (n : Fin 64) (s : State), s.hostUp = true → (s.ring n.val).enabled = true → s.ringType n.val ≠ 2 ∨ s.cqInUse n.val = false → ∃ t,
    exec (.ringDisable n) s = .next t ∧
    t.ring n.val = { s.ring n.val with enabled := false, armed := false, posted := [], entries := [], fresh := 0 } ∧
    (∀ m, m ≠ n.val → t.ring m = s.ring m) ∧
    t = { s with hif := { s.hif with rings := t.hif.rings, waiting := s.hif.waiting.filter fun p => decide (p.1 ≠ n.val) } }) ∧
  (∀ (n : Fin 64) (s : State), s.ringType n.val = 2 → s.cqInUse n.val = true → exec (.ringDisable n) s = .next s)

/-- A host index within a descriptor ring is stored, and on every ring but a command or injection ring, whose rows carry their descriptors, it posts
the descriptors up to it (R397, R398); an index out of range or one that overruns the ring puts it in ERROR, in which it has nothing posted and EN
stays 1, and HIF_ERR_LOG names ring and cause (R397); a descriptor read that failed does so too, with the index stored and HIF_DMA_ERR_CNT counted
(R406). A host index of a completion ring frees the entries before it and re-arms the ring, which fires at once if its condition holds (R407). That a
write to a ring that is disabled or in ERROR changes nothing is the model's reading (log 12). -/
def Obligations.HostIndicesPostAndConsume : Prop :=
  (∀ (n : Fin 64) (i : BitVec 16) (ds : List (List Word)) (s : State), s.hostUp = true → (s.ring n.val).works = true → 3 ≤ s.ringType n.val →
    s.ringType n.val ≠ 4 → idxValid (s.ringSize n.val) i.toNat = true →
    idxDist (s.ringSize n.val) (s.ring n.val).devIdx i.toNat = (s.ring n.val).posted.length + ds.length →
    (s.ring n.val).posted.length + ds.length ≤ s.ringSize n.val → ∃ t,
    exec (.doorbell n i ds false) s = .next t ∧
    t.ring n.val = { s.ring n.val with hostIdx := i.toNat, posted := (s.ring n.val).posted ++ ds.map bufDescOf } ∧
    (∀ m, m ≠ n.val → t.ring m = s.ring m) ∧ t = { s with hif := { s.hif with rings := t.hif.rings } }) ∧
  (∀ (n : Fin 64) (i : BitVec 16) (ds : List (List Word)) (s : State), s.hostUp = true → (s.ring n.val).works = true →
    s.ringType n.val = 1 ∨ s.ringType n.val = 4 →
    idxValid (s.ringSize n.val) i.toNat = true → idxDist (s.ringSize n.val) (s.ring n.val).devIdx i.toNat ≤ s.ringSize n.val → ∃ t,
    exec (.doorbell n i ds false) s = .next t ∧ t.ring n.val = { s.ring n.val with hostIdx := i.toNat, posted := [] } ∧
    (∀ m, m ≠ n.val → t.ring m = s.ring m) ∧ t = { s with hif := { s.hif with rings := t.hif.rings } }) ∧
  (∀ (n : Fin 64) (i : BitVec 16) (ds : List (List Word)) (e : Bool) (s : State), s.hostUp = true → (s.ring n.val).works = true →
    s.ringType n.val ≠ 0 → idxValid (s.ringSize n.val) i.toNat = false → ∃ t,
    exec (.doorbell n i ds e) s = .next t ∧
    t.ring n.val = { s.ring n.val with error := true, errCause := 1, armed := false, posted := [], entries := [], fresh := 0 } ∧
    t.reg Reg.hifErrLog = place n.val 0 ||| place 1 8 ||| bit 31 ∧ (∀ m, m ≠ n.val → t.ring m = s.ring m) ∧
    (∀ o, o ≠ Reg.hifErrLog → t.reg o = s.reg o) ∧ t = { s with regs := t.regs, hif := { s.hif with rings := t.hif.rings } }) ∧
  (∀ (n : Fin 64) (i : BitVec 16) (ds : List (List Word)) (e : Bool) (s : State), s.hostUp = true → (s.ring n.val).works = true →
    s.ringType n.val = 1 ∨ 3 ≤ s.ringType n.val → idxValid (s.ringSize n.val) i.toNat = true →
    s.ringSize n.val < idxDist (s.ringSize n.val) (s.ring n.val).devIdx i.toNat → ∃ t,
    exec (.doorbell n i ds e) s = .next t ∧
    t.ring n.val = { s.ring n.val with error := true, errCause := 2, armed := false, posted := [], entries := [], fresh := 0 } ∧
    t.reg Reg.hifErrLog = place n.val 0 ||| place 2 8 ||| bit 31 ∧ (∀ m, m ≠ n.val → t.ring m = s.ring m) ∧
    (∀ o, o ≠ Reg.hifErrLog → t.reg o = s.reg o) ∧ t = { s with regs := t.regs, hif := { s.hif with rings := t.hif.rings } }) ∧
  (∀ (n : Fin 64) (i : BitVec 16) (ds : List (List Word)) (s : State), s.hostUp = true → (s.ring n.val).works = true →
    s.ringType n.val = 1 ∨ 3 ≤ s.ringType n.val → idxValid (s.ringSize n.val) i.toNat = true →
    idxDist (s.ringSize n.val) (s.ring n.val).devIdx i.toNat ≤ s.ringSize n.val → ∃ t,
    exec (.doorbell n i ds true) s = .next t ∧
    t.ring n.val = { s.ring n.val with hostIdx := i.toNat, error := true, errCause := 3, armed := false, posted := [], entries := [], fresh := 0 } ∧
    t.reg Reg.hifErrLog = place n.val 0 ||| place 3 8 ||| bit 31 ∧ t.reg Reg.hifDmaErrCnt = s.reg Reg.hifDmaErrCnt + 1 ∧
    (∀ m, m ≠ n.val → t.ring m = s.ring m) ∧ (∀ o, o ≠ Reg.hifErrLog → o ≠ Reg.hifDmaErrCnt → t.reg o = s.reg o) ∧
    t = { s with regs := t.regs, hif := { s.hif with rings := t.hif.rings } }) ∧
  (∀ (n : Fin 64) (i : BitVec 16) (s : State), s.hostUp = true → (s.ring n.val).works = true → s.ringType n.val = 2 →
    idxValid (s.ringSize n.val) i.toNat = true → s.hif.waiting = [] →
    idxDist (s.ringSize n.val) (s.ring n.val).hostIdx i.toNat = (s.ring n.val).entries.length → ∃ t,
    exec (.completionConsume n i) s = .next t ∧
    t.ring n.val = { s.ring n.val with hostIdx := i.toNat, entries := [], armed := true, fresh := 0 } ∧
    (∀ m, m ≠ n.val → t.ring m = s.ring m) ∧ t = { s with hif := { s.hif with rings := t.hif.rings } }) ∧
  (∀ (n : Fin 64) (i : BitVec 16) (s : State), s.hostUp = true → (s.ring n.val).works = true → s.ringType n.val = 2 →
    idxValid (s.ringSize n.val) i.toNat = true → s.hif.waiting = [] →
    idxDist (s.ringSize n.val) (s.ring n.val).hostIdx i.toNat < (s.ring n.val).entries.length →
    max 1 (s.regField (Reg.hifRingMod n.val) 11 0) + idxDist (s.ringSize n.val) (s.ring n.val).hostIdx i.toNat ≤ (s.ring n.val).entries.length →
    s.hif.masked.getLsbD (s.regField (Reg.hifRingCfg n.val) 20 14) = false → s.functionMasked = false → ∃ t,
    exec (.completionConsume n i) s = .next t ∧
    t.ring n.val = { s.ring n.val with
      hostIdx := i.toNat, entries := (s.ring n.val).entries.drop (idxDist (s.ringSize n.val) (s.ring n.val).hostIdx i.toNat), armed := false, fresh := 0 } ∧
    t.reg Reg.hifIntrCnt = s.reg Reg.hifIntrCnt + 1 ∧ (∀ m, m ≠ n.val → t.ring m = s.ring m) ∧
    (∀ o, o ≠ Reg.hifIntrCnt → t.reg o = s.reg o) ∧ t = { s with regs := t.regs, hif := { s.hif with rings := t.hif.rings } }) ∧
  (∀ (n : Fin 64) (i : BitVec 16) (s : State), s.hostUp = true → (s.ring n.val).works = true → s.ringType n.val = 2 →
    idxValid (s.ringSize n.val) i.toNat = true → (s.ring n.val).entries.length < idxDist (s.ringSize n.val) (s.ring n.val).hostIdx i.toNat → ∃ t,
    exec (.completionConsume n i) s = .next t ∧ (t.ring n.val).error = true ∧ (t.ring n.val).enabled = (s.ring n.val).enabled ∧
    t.reg Reg.hifErrLog = place n.val 0 ||| place 2 8 ||| bit 31 ∧ (∀ m, m ≠ n.val → t.ring m = s.ring m) ∧
    (∀ o, o ≠ Reg.hifErrLog → t.reg o = s.reg o) ∧ t = { s with regs := t.regs, hif := { s.hif with rings := t.hif.rings } }) ∧
  (∀ (n : Fin 64) (i : BitVec 16) (ds : List (List Word)) (e : Bool) (s : State), (s.ring n.val).works = false →
    exec (.doorbell n i ds e) s = .next s ∧ exec (.completionConsume n i) s = .next s)

/-- PRT_CTLn.DISABLE stops a port, discarding what it queues (R109), and its end lets the port train again; a channel that is enabled takes its
configuration and coefficients and starts its settle count at the first label after the write (R290, that label by the model's count, log 103), while
a source above 23 is ignored (R291). -/
def Obligations.PortAndChannelControls : Prop :=
  (∀ (n : Fin 4) (s : State), s.hostUp = true →
    (s.port n.val).busyUntil ≤ s.tim.mono →
    exec (.portDisable n (.disable none)) s = .next (((s.dropQueue n.val).onPort n.val fun p =>
      { p with link := false, fecLock := false, disabled := true }).setReg (Reg.prtCtl n.val) 1)) ∧
  (∀ (n : Fin 4) (s : State), s.hostUp = true →
    exec (.portDisable n .enable) s = .next ((s.onPort n.val fun p => { p with disabled := false }).setReg (Reg.prtCtl n.val) 0)) ∧
  (∀ (c : Fin 24) (v : Word) (s : State), s.hostUp = true → flag v 0 = true → field v 5 1 ≤ 23 → s.chOn c.val = false →
    exec (.channelEnable c v) s = .next ((s.setReg (Reg.lmuChCtl c.val) (v &&& 0x7F)).onCh c.val fun x => { x with changes := x.changes ++
      [{ label := s.tim.now * 12800 / 1000000000 + 1, ctl := v &&& 0x7F, restart := true
         fresh := some (s.reg (Reg.lmuChCfg c.val), s.coefBank (s.reg (Reg.lmuChCfg c.val))) }] })) ∧
  (∀ (c : Fin 24) (v : Word) (s : State), s.hostUp = true → flag v 0 = false → s.chOn c.val = false →
    exec (.channelEnable c v) s = .next (s.setReg (Reg.lmuChCtl c.val) (v &&& 0x7F))) ∧
  (∀ (c : Fin 24) (v : Word) (s : State), flag v 0 = true → 23 < field v 5 1 → exec (.channelEnable c v) s = .next s)

/-- An output selection takes EN = 1 only with a COUNT and FIRST inside the Basin and a DIV of 1 to 24 that divides Fm (R184); a point takes EN = 1
only with a valid configuration, else CFG_ERR is set (R325); with the LPDDR5 memory working a region that overlaps no other is enabled, one that does
stays disabled and a REGION_OVERLAP event forms (R25), whether it is the staging region, the archive region, which must span 64 MiB or more (R278), or
that of a capture unit (R352); without it no region is enabled (R581). -/
def Obligations.EnablesAreChecked : Prop :=
  (∀ (n : Fin 8) (v : Word) (s : State), s.hostUp = true → s.isSealed = false →
    exec (.selectionEnable n v) s = .next (s.setReg (Reg.bsnOutRing n.val) ((if
      field (s.reg (Reg.bsnOutSel n.val)) 29 16 ≠ 0 ∧ field (s.reg (Reg.bsnOutSel n.val)) 12 0 + field (s.reg (Reg.bsnOutSel n.val)) 29 16 ≤ 8192 ∧
      1 ≤ field v 15 8 ∧ field v 15 8 ≤ 24 ∧ s.fm % field v 15 8 = 0
      then v else putFlag v 31 false) &&& 0x8000FF3F))) ∧
  (∀ (p : Fin 4) (v : Word) (s : State), s.hostUp = true → s.isSealed = false → flag v 0 = true → s.pointCfgOk p.val = true → s.nrgOn p.val = false →
    exec (.pointEnable p v) s = .next (((s.setReg (Reg.nrgPtCfg p.val) (v &&& 0xFFFF000F)).onPt p.val fun x => { x with cfgErr := false }).startPoint p.val)) ∧
  (∀ (p : Fin 4) (v : Word) (s : State), s.hostUp = true → s.isSealed = false → flag v 0 = true → s.pointCfgOk p.val = false →
    exec (.pointEnable p v) s = .next ((s.setReg (Reg.nrgPtCfg p.val) (v &&& 0xFFFF000E)).onPt p.val fun x => { x with cfgErr := true })) ∧
  (∀ (v : Word) (s : State), s.hostUp = true → s.isSealed = false → flag v 31 = true → s.sys.boot.ddrOk = true → s.regionOverlaps 0 (v &&& 0x80001FFF) = false →
    exec (.regionEnable 0 v) s = .next (s.setReg Reg.schStage (v &&& 0x80001FFF))) ∧
  (∀ (v : Word) (s : State), s.hostUp = true → s.isSealed = false → flag v 31 = true → s.sys.boot.ddrOk = true → s.regionOverlaps 0 (v &&& 0x80001FFF) = true → ∃ t : State,
    exec (.regionEnable 0 v) s = .next (t.event 0x0104 clsNotice [0]) ∧ t.reg Reg.schStage = v &&& 0x1FFF ∧ t = { s with regs := t.regs }) ∧
  (∀ (u : Fin 8) (n : Fin 10) (v : Word) (s : State), s.hostUp = true → s.isSealed = false → n.val = u.val + 2 → flag v 31 = true →
    s.sys.boot.ddrOk = true → s.regionOverlaps n.val (v &&& 0x87FFFFFF) = false →
    exec (.regionEnable n v) s = .next (s.setReg (Reg.capUBase u.val) (v &&& 0x87FFFFFF))) ∧
  (∀ (u : Fin 8) (n : Fin 10) (v : Word) (s : State), s.hostUp = true → s.isSealed = false → n.val = u.val + 2 → flag v 31 = true →
    s.regionOverlaps n.val (v &&& 0x87FFFFFF) = true → ∃ t : State,
    exec (.regionEnable n v) s = .next (t.event 0x0104 clsNotice [place 2 0 ||| place u.val 8]) ∧ t.reg (Reg.capUBase u.val) = v &&& 0x07FFFFFF ∧
    t = { s with regs := t.regs }) ∧
  (∀ (v : Word) (s : State), s.hostUp = true → s.isSealed = false → flag v 31 = true → s.sys.boot.ddrOk = true → 32 ≤ field v 26 13 →
    s.regionOverlaps 1 (v &&& 0x87FFFFFF) = false → ∃ t : State, exec (.regionEnable 1 v) s = .next t ∧ t.reg Reg.arcRegion = v &&& 0x87FFFFFF ∧
    (∀ o, o ≠ Reg.arcRegion → t.reg o = s.reg o) ∧
    (s.reg Reg.arcRegion ≠ v &&& 0x87FFFFFF → t.arc = { s.arc with mem := [], wrOff := 0, undrained := [], regionErr := false }) ∧
    t = { s with regs := t.regs, arc := t.arc }) ∧
  (∀ (v : Word) (s : State), s.hostUp = true → s.isSealed = false → flag v 31 = true → field v 26 13 < 32 →
    s.regionOverlaps 1 (v &&& 0x87FFFFFF) = false → ∃ t : State, exec (.regionEnable 1 v) s = .next t ∧ t.reg Reg.arcRegion = v &&& 0x07FFFFFF ∧
    t.arc = { s.arc with regionErr := true } ∧ t = { s with regs := t.regs, arc := t.arc }) ∧
  (∀ (v : Word) (s : State), s.hostUp = true → s.isSealed = false → flag v 31 = true → s.regionOverlaps 1 (v &&& 0x87FFFFFF) = true → ∃ t : State,
    exec (.regionEnable 1 v) s = .next (((t.onArc fun a => { a with regionErr := true }).event 0x0104 clsNotice [place 1 0]).arcEnFollows) ∧
    t.reg Reg.arcRegion = v &&& 0x07FFFFFF ∧ t = { s with regs := t.regs }) ∧
  (∀ (n : Fin 10) (v : Word) (s : State), s.hostUp = true → s.isSealed = false → s.sys.boot.ddrOk = false →
    s.regionOverlaps n.val (v &&& 0x87FFFFFF) = false → n.val ≠ 0 → ∃ t : State,
    exec (.regionEnable n v) s = .next t ∧ flag (t.reg (regionReg n.val)) 31 = false ∧ t = { s with regs := t.regs, arc := t.arc }) ∧
  (∀ (v : Word) (s : State), s.hostUp = true → s.isSealed = false → s.sys.boot.ddrOk = false → s.regionOverlaps 0 (v &&& 0x80001FFF) = false → ∃ t : State,
    exec (.regionEnable 0 v) s = .next t ∧ flag (t.reg Reg.schStage) 31 = false ∧ t = { s with regs := t.regs })

/-! ### The grid and the columns -/

/-- Grid instant i of timebase second s lies at s seconds plus floor(i × 10^9 / Fm) nanoseconds, and a leap second, which moves the UTC offset by one
whole second, moves none of them (R34); the instant that follows one lies later, in the next second after the last one, and the first instant that is
not before a given time is the earliest such instant. -/
def Obligations.GridInstantsLieAtTheirTimes : Prop :=
  (∀ fm : Nat, 0 < fm → fm ≤ 240 →
    (∀ sec i : Nat, i < fm → gridTime fm sec i = sec * 1000000000 + i * 1000000000 / fm ∧
      gridTime fm sec i < gridTime fm (gridNext fm (sec, i)).1 (gridNext fm (sec, i)).2 ∧
      gridNext fm (sec, i) = if i + 1 < fm then (sec, i + 1) else (sec + 1, 0)) ∧
    (∀ t : Nat, (gridAtOrAfter fm t).2 < fm ∧ t ≤ gridTime fm (gridAtOrAfter fm t).1 (gridAtOrAfter fm t).2 ∧
      ∀ sec i : Nat, i < fm → t ≤ gridTime fm sec i → gridTime fm (gridAtOrAfter fm t).1 (gridAtOrAfter fm t).2 ≤ gridTime fm sec i)) ∧
  ∀ s t : State, exec .leapSecond s = .next t → t.tck = s.tck ∧ (∀ sec i : Nat, t.instantTime sec i = s.instantTime sec i) ∧
    (t.tim.utcOffset = s.tim.utcOffset ∨ t.tim.utcOffset = s.tim.utcOffset + 1 ∨ t.tim.utcOffset = s.tim.utcOffset - 1)

/-- While the grid runs, GRID_INSTANT emits the next instant, when the timebase reaches it, with the next tick ID, one greater than the one before
(R35, R36); COLUMN_OPEN opens the next column in a free slot, not before the instant that precedes its own (R158); TICK_ID_STORE writes the last tick
ID to NVM once per second in slack, behind the slack work that goes before it (R26, R36). -/
def Obligations.InstantsColumnsAndTickIds : Prop :=
  (∀ s : State, s.gridOn = true → s.awake = true → ∃ t : State,
    exec .gridInstant s = .next t ∧ t.tck = { s.tck with
      lastInstant := some s.tck.nextInstant, nextId := s.tck.nextId + 1, nextInstant := gridNext s.fm s.tck.nextInstant } ∧
    (s.tim.now < s.instantTime s.tck.nextInstant.1 s.tck.nextInstant.2 → s.instantTime s.tck.nextInstant.1 s.tck.nextInstant.2 < timeModulus →
      t.tim.now = s.instantTime s.tck.nextInstant.1 s.tck.nextInstant.2) ∧
    (s.instantTime s.tck.nextInstant.1 s.tck.nextInstant.2 ≤ s.tim.now → t.tim.now = s.tim.now) ∧
    t.bsn = { s.bsn with cols := s.bsn.cols.map fun c => if c.tick = s.tck.nextId then { c with emitted := true } else c } ∧
    t.tim = { s.tim with now := t.tim.now, mono := t.tim.mono, tickRise := t.tim.tickRise } ∧
    t = { s with tim := t.tim, tck := t.tck, bsn := t.bsn, lmu := t.lmu }) ∧
  (∀ s : State, s.gridOn = true → s.awake = true → s.slotFree s.tck.openId = true → ∃ (t : State) (c : Column),
    exec .columnOpen s = .next t ∧ t.bsn = { s.bsn with cols := (s.bsn.cols.filter fun x => decide (s.tck.openId < x.tick + 24)) ++ [c] } ∧
    c.tick = s.tck.openId ∧ c.sec = s.tck.openInstant.1 ∧ c.index = s.tck.openInstant.2 ∧ c.closed = false ∧ c.ended = false ∧
    t.tck = { s.tck with openId := s.tck.openId + 1, openInstant := gridNext s.fm s.tck.openInstant, afterStep := false } ∧
    t = { s with tim := (s.runTo (s.openTime s.tck.openInstant)).tim, tck := t.tck, bsn := t.bsn }) ∧
  (∀ s : State, s.slackAt 5 = true → s.gridOn = true → s.tck.storedSec ≠ some s.nowSec → s.tck.lastInstant.isSome = true →
    s.pwr.brace = false → exec .tickIdStore s = .next
      { s with tck := { s.tck with storedSec := some s.nowSec }, nvm := { s.nvm with tickId := some (s.tck.nextId - 1) } })

/-- The oldest open column whose instant is emitted closes at its deadline, its reporting instant plus Wd (R40), or early when its due cells are
filled before that; while the column before it has not ended its state copy, or no instant of it is emitted, neither close takes place (R17). The
overrun limit of the column in process, its close plus 0.90 T, discards what has not retired (R42), and the copy limit, its close plus 0.98 T, ends a
state copy that has not ended (R43); that both limits are measured on the timebase is the model's choice (log 90). -/
def Obligations.ColumnsCloseAndEnd : Prop :=
  (∀ (errs : List MemErr) (slow : List SlowRecord) (c : Column) (rest : List Column) (s : State), s.gridOn = true → s.awake = true → s.tck.proc = none →
    s.openCols = c :: rest → c.emitted = true →
    exec (.deadlineClose ⟨errs, slow⟩) s = .next ((s.runTo (s.instantTime c.sec c.index + s.wdNs)).closeColumn c false errs slow)) ∧
  (∀ (errs : List MemErr) (slow : List SlowRecord) (c : Column) (rest : List Column) (s : State), s.gridOn = true → s.awake = true → s.tck.proc = none →
    s.openCols = c :: rest → c.emitted = true → c.full = true → s.regBit Reg.tckCfg 1 = true →
    s.tim.now < s.instantTime c.sec c.index + s.wdNs → exec (.earlyClose ⟨errs, slow⟩) s = .next (s.closeColumn c true errs slow)) ∧
  (∀ (errs : List MemErr) (slow : List SlowRecord) (s : State), s.tck.proc.isSome = true ∨ s.openCols.head?.any (·.emitted) = false →
    exec (.deadlineClose ⟨errs, slow⟩) s = .next s ∧ exec (.earlyClose ⟨errs, slow⟩) s = .next s) ∧
  (∀ (p : Proc) (s : State), s.tck.proc = some p → p.windowEnd = none → s.awake = true →
    exec .overrunLimit s = .next (s.runTo (p.closeAt + 90 * nsPerSec / (100 * s.fm))).overrun) ∧
  (∀ (p : Proc) (s : State), s.tck.proc = some p → p.windowEnd.isSome = true → s.awake = true → ∃ t : State,
    exec .copyLimit s = .next t ∧
    t = ((((s.runTo (p.closeAt + 98 * nsPerSec / (100 * s.fm))).addCause causeCopy).abandonCopy p).endCopy) ∧ t.tck.proc = none) ∧
  (∀ s : State, s.tck.proc = none → exec .overrunLimit s = .next s ∧ exec .copyLimit s = .next s)

/-- In an open compute window a Plot starts the operation at the head of its list (R87) and retires the one it executes, poisoned when a read of its
arguments during execution met an uncorrectable error (R80, R93); outside one neither happens. -/
def Obligations.OperationsStartAndRetire : Prop :=
  (∀ (q : Fin 32) (p : Nat) (errs : List MemErr) (s : State), s.windowOpen = true → s.logical q.val = some p →
    exec (.operationStart q errs) s = .next (s.startOn p errs)) ∧
  (∀ (q : Fin 32) (p : Nat) (w : Work) (s : State), s.windowOpen = true → s.logical q.val = some p → (s.plot p).executing = some w →
    exec (.operationRetire ⟨q, []⟩) s = .next
      ((((s.onPlot p fun x => { x with executing := none }).completeOp w).markRetired w.op 0).afterRetire w.op p)) ∧
  (∀ (q : Fin 32) (p : Nat) (w : Work) (errs : List MemErr) (s : State), s.windowOpen = true → s.logical q.val = some p →
    (s.plot p).executing = some w → storeHits errs ≠ [] → exec (.operationRetire ⟨q, errs⟩) s = .next
      (((s.memErrors errs).onPlot p fun x => { x with executing := none }).poisoned w.op p (argHit s.img s.opVariant w.op (storeHits errs)) w.args)) ∧
  (∀ (q : Fin 32) (errs : List MemErr) (s : State), s.windowOpen = false →
    exec (.operationStart q errs) s = .next s ∧ exec (.operationRetire ⟨q, errs⟩) s = .next s)

/-- The modal pipeline that is due takes its next feed (R202, R204); the topology pass of a column whose inputs are there replaces its summary (R225);
the alarm unit evaluates the oldest waiting input of the column in process, that of a SENT operation first (R231); a GOOSE template of a device that
publishes sends its next frame at its time with the next sqNum, the interval doubling up to T0 (R239). -/
def Obligations.EnginesTakeTheirInputs : Prop :=
  (∀ (p : Nat) (feed : ModFeed) (errs : List MemErr) (s : State), s.dueFeed = some (p, feed) → s.windowOpen = true →
    exec (.modalFeedProcessed errs) s = .next ((s.memErrors errs).completeFeed p feed)) ∧
  (∀ (n : Nat) (p : Proc) (errs : List MemErr) (s : State), s.tck.proc = some p → s.passDue = true → s.windowOpen = true →
    exec (.topologyPass n errs) s = .next ((s.memErrors errs).completePass p.tick n)) ∧
  (∀ (e : AlarmEval) (rest : List AlarmEval) (s : State), s.tck.proc.isSome = true → s.alm.sent = e :: rest →
    exec (.alarmEvaluate []) s = .next ((s.onAlm fun m => { m with sent := rest }).evaluate e)) ∧
  (∀ (e : AlarmEval) (rest : List AlarmEval) (s : State), s.tck.proc.isSome = true → s.alm.sent = [] → s.alm.general = e :: rest →
    exec (.alarmEvaluate []) s = .next ((s.onAlm fun m => { m with general := rest }).evaluate e)) ∧
  (∀ s : State, s.tck.proc = none ∨ (s.alm.sent = [] ∧ s.alm.general = []) → exec (.alarmEvaluate []) s = .next s) ∧
  (∀ (n : Fin 32) (m : Nat) (s : State), (s.alm.template n.val).next = some m → (s.alm.template n.val).stopped = false → s.publishes = true →
    s.imageActive = true → s.awake = true → ∃ (g : Goose) (t : State),
    exec (.gooseRetransmit n) s = .next t ∧
    g = { s.alm.template n.val with
      sqNum := ((s.alm.template n.val).sqNum + 1) % 2 ^ 32, interval := min (2 * (s.alm.template n.val).interval) (tplT0 s.img n.val)
      next := some (m + min (2 * (s.alm.template n.val).interval) (tplT0 s.img n.val) * 1000000) } ∧
    t = ((s.runToMono m).onAlm fun x => { x with templates := mapSet x.templates n.val g }).gooseSend n.val (gooseFrame s.img n.val g) false) ∧
  (∀ (n : Fin 32) (s : State), (s.alm.template n.val).next = none ∨ s.publishes = false → exec (.gooseRetransmit n) s = .next s)

/-! ### Time -/

/-- Time sources. SERVO_MEASUREMENT hands the offset measured from the source's messages or edges to the servo (R364, R367); a missed Sync counts in
TIM_SYNC_MISS_CNT and the third in a row loses the source (R370, R371); three Announce intervals without an Announce lose a PTP source, 3.5 s after
the last labelled edge a GNSS source is lost (R370); the selected PPS_IN edge is timestamped by the timebase less the cable delay (R365), at the steps
of what drives the timebase (R504), and its time-of-day sentence, which comes 10 ms to 900 ms after it at the rate of TIM_TOD, labels it (R369), the
seconds without an edge counting as missed (R370). How the missed seconds are counted (at most 3, to the nearest second), the rounding of θ and the
label of an inserted second, which repeats the number of the second before it, are the model's reading (log 33), as are the parts of a sentence that
are read (log 100). -/
def Obligations.TimeSourcesAreFollowed : Prop :=
  (∀ (th : Int) (m : Nat) (s : State), s.awake = true → s.tim.measured = some th →
    exec (.servoMeasurement m) s =
      .next (({ s.runToMono m with tim := { (s.runToMono m).tim with measured := none } } : State).measure th).acquired) ∧
  (∀ (m : Nat) (s : State), s.awake = false → exec (.servoMeasurement m) s = .next s) ∧
  (∀ (a : Nat) (s : State), s.tim.source = .ptp → s.tim.syncAt = some a → s.tim.syncMissed < 2 →
    exec .syncMiss s = .next (((s.runToMono (a + (s.tim.syncMissed + 1) * intervalNs s.tim.syncLog + intervalNs s.tim.syncLog / 2)).inc Reg.timSyncMissCnt).onTim
      fun t => { t with syncMissed := s.tim.syncMissed + 1 })) ∧
  (∀ (a : Nat) (s : State), s.tim.source = .ptp → s.tim.syncAt = some a → 2 ≤ s.tim.syncMissed →
    exec .syncMiss s = .next ((((s.runToMono (a + (s.tim.syncMissed + 1) * intervalNs s.tim.syncLog + intervalNs s.tim.syncLog / 2)).inc
      Reg.timSyncMissCnt).onTim fun t => { t with syncMissed := s.tim.syncMissed + 1 }).loseSource)) ∧
  (∀ (m : Master) (s : State), s.tim.source = .ptp → s.tim.parent = some m →
    exec .announceTimeout s = .next (s.runToMono (m.time + 3 * intervalNs m.logInterval)).loseSource) ∧
  (∀ s : State, s.tim.source ≠ .ptp → exec .announceTimeout s = .next s) ∧
  (∀ (m : Nat) (s : State), s.tim.labelledAt = some m → exec .gnssLoss s = .next
    (((s.runToMono (m + 3500000000)).add Reg.timSyncMissCnt ((s.runToMono (m + 3500000000)).ppsMissesTo (s.runToMono (m + 3500000000)).tim.mono)).onTim fun t =>
      { t with labelledAt := none, label := none }).gnssLost) ∧
  (∀ (falling : Bool) (d : Nat) (s : State), s.gnssOn = true → s.awake = true → s.regBit Reg.timCfg 20 = falling →
    exec (.ppsInEdge falling d) s = .next
      { s with tim := { s.tim with
        edge := some ((s.tbReading d : Int) * 1024 - signed 16 (s.regField Reg.timGnss 15 0) * 65536, s.tbReading d / 64, s.tim.mono) } }) ∧
  (∀ (d : Nat) (s : State), (s.clk.domSrc.getD 3 .firc = .pllt → s.tbReading d = d) ∧
    (s.clk.domSrc.getD 3 .firc ≠ .pllt → s.tbReading d % 64 = 0 ∧ s.tbReading d ≤ d)) ∧
  (∀ (falling : Bool) (d : Nat) (s : State), s.gnssOn = false ∨ s.regBit Reg.timCfg 20 ≠ falling → exec (.ppsInEdge falling d) s = .next s) ∧
  (∀ (d : TodIn) (u l : Nat × Bool) (edge m a : Nat) (stamp : Int) (s : State), s.gnssOn = true → s.tim.edge = some (stamp, edge, m) → s.tim.gnssOk = true → 0 < s.tim.labelRun →
    d.baud = s.regField Reg.timTod 1 0 → edge + 10000000 ≤ d.at_ → d.at_ ≤ edge + 900000000 → nmeaSecond d.bytes = some u →
    s.tim.label = some l → (u.2 = false ∧ u.1 = l.1 + 1) ∨ (u.2 = true ∧ l.2 = false ∧ u.1 = l.1) → s.tim.source = .gnss → s.tim.labelledAt = some a → ∃ t : State,
    exec (.todSentence d) s = .next t ∧ t.tim = { s.tim with
      edge := none, label := some u, labelledAt := some m, labelRun := s.tim.labelRun + 1, measured := some (gnssTheta stamp u.1 (s.offsetAt s.nowSec)) } ∧
    t.reg Reg.timSyncMissCnt = s.reg Reg.timSyncMissCnt + w32 (min 3 ((m - a + 500000000) / 1000000000 - 1)) ∧
    (∀ o, o ≠ Reg.timSyncMissCnt → t.reg o = s.reg o) ∧ t = { s with regs := t.regs, tim := t.tim }) ∧
  (∀ (d : TodIn) (edge m : Nat) (stamp : Int) (s : State), s.tim.edge = some (stamp, edge, m) →
    d.baud ≠ s.regField Reg.timTod 1 0 ∨ d.at_ < edge + 10000000 ∨ edge + 900000000 < d.at_ ∨ nmeaSecond d.bytes = none → exec (.todSentence d) s = .next s)

/-- Moments of the timebase: a pending step takes effect in slack (R373), a leap second changes the UTC offset by its amount at the start of its
second (R357, R358), the RTC is loaded at a second boundary while LOCKED with a valid offset (R377), and a second boundary raises PPS_OUT where it is
driven (R376). -/
def Obligations.TimebaseMoments : Prop :=
  (∀ (th : Int) (b : Bool) (s : State), s.tim.pendingStep = some (th, b) → s.slack = true → s.awake = true →
    exec .timeStep s = .next (s.timeStep th b)) ∧
  (∀ (th : Int) (b : Bool) (s : State), s.tim.pendingStep = some (th, b) → s.slack = false → exec .timeStep s = .next s) ∧
  (∀ (k : Leap) (l : Nat) (s : State), s.tim.leap = some (k, l) → ∃ t : State,
    exec .leapSecond s = .next t ∧ t.tim.utcOffset = s.tim.utcOffset + k.delta ∧ t.tim.leap = none ∧ t.tim.lastLeap = some (k, l) ∧
    t = { s with tim := { (s.runTo (l * nsPerSec)).tim with
      utcOffset := s.tim.utcOffset + k.delta, leap := none, leapPtp := false, lastLeap := some (k, l), leapDone := some (k, l) } }) ∧
  (∀ s : State, s.tim.state = .locked → s.tim.offsetValid = true → s.awake = true → s.nowNs = 0 →
    exec .rtcLoad s = .next { s with aon := { s.aon with
      rtcTicks := (s.soc s.nowSec).toNat * 32768, rtcAt := s.tim.mono, rtcOffset := s.offsetAt s.nowSec, rtcValid := true } }) ∧
  (∀ s : State, s.tim.state ≠ .locked → exec .rtcLoad s = .next s) ∧
  (∀ s : State, s.awake = true → s.ppsDriven = true → s.tim.state ≠ .bivouac → ∃ t : State,
    exec .timebaseSecondBoundary s = .next t ∧ t.tim.now = (s.runTo s.nextSecond).tim.now ∧ t.tim.ppsRise = some t.tim.now ∧
    t.tim.secondDone = some (t.tim.now / nsPerSec) ∧ t = { s with tim := { s.tim with
      now := t.tim.now, mono := t.tim.mono, ppsRise := t.tim.ppsRise, secondDone := t.tim.secondDone } })

/-! ### The host interface -/

/-- HOST_LINK_RESET disables every ring, drops what was posted and the columns still being written, and counts in HIF_RESET_CNT (R392); an armed ring
fires when its oldest completion has waited TIME_US, and a vector that is unmasked with its pending bit set sends its message (R407), unless the MSI-X
Function Mask bit still masks it; the PCIe link comes up with a speed and a width of its capability (R390), from start-up step 9 on, where the host
interface starts (R536, R537; that no link comes up before is the model's reading, log 6, as is the place of Function Mask, log 101); a long command
that has ended completes (R405). -/
def Obligations.HostLinkAndInterrupts : Prop :=
  (∀ s : State, ∃ t : State, exec .hostLinkReset s = .next t ∧ (∀ n < 64, (t.ring n).enabled = false) ∧ t.hif.linkUp = false ∧ t.hif.gen = s.hif.gen + 1 ∧
    t.reg Reg.hifResetCnt = s.reg Reg.hifResetCnt + 1 ∧ t.reg Reg.hifErrLog = place 4 8 ||| bit 31 ∧
    t.reg Reg.bsnOutDropCnt = s.reg Reg.bsnOutDropCnt + w32 (s.bsn.writing.filter (·.tick.isSome)).length ∧
    (∀ o, o ≠ Reg.hifResetCnt → o ≠ Reg.hifErrLog → o ≠ Reg.bsnOutDropCnt → t.reg o = s.reg o) ∧
    t = { s with hif := t.hif, regs := t.regs, bsn := { s.bsn with writing := [] } }) ∧
  (∀ (n : Fin 64) (m : Nat) (s : State), (s.ring n.val).oldest = some m → (s.ring n.val).armed = true → 0 < (s.ring n.val).fresh →
    s.regField (Reg.hifRingMod n.val) 27 16 ≠ 0 →
    exec (.interruptTimer n) s = .next ((s.runToMono (m + s.regField (Reg.hifRingMod n.val) 27 16 * 1000)).checkFire n.val)) ∧
  (∀ (v : Fin 128) (s : State), s.hostUp = true → s.hif.pba.getLsbD v.val = true → s.functionMasked = false → ∃ t : State,
    exec (.vectorUnmask v) s = .next t ∧ t.reg Reg.hifIntrCnt = s.reg Reg.hifIntrCnt + 1 ∧ (∀ o, o ≠ Reg.hifIntrCnt → t.reg o = s.reg o) ∧
    t = { s with regs := t.regs, hif := { s.hif with masked := s.hif.masked &&& ~~~((1 : BitVec 128) <<< v.val), pba := s.hif.pba &&& ~~~((1 : BitVec 128) <<< v.val) } }) ∧
  (∀ (v : Fin 128) (s : State), s.hostUp = true → s.hif.pba.getLsbD v.val = false ∨ s.functionMasked = true → exec (.vectorUnmask v) s = .next
    { s with hif := { s.hif with masked := s.hif.masked &&& ~~~((1 : BitVec 128) <<< v.val), pba := s.hif.pba &&& ~~~((1 : BitVec 128) <<< v.val) } }) ∧
  (∀ (sp : Fin 5) (ln : Fin 9) (s : State), 9 ≤ s.sys.step → s.awake = true → s.hif.linkUp = false → 1 ≤ sp.val →
    ln.val = 1 ∨ ln.val = 2 ∨ ln.val = 4 ∨ ln.val = 8 →
    exec (.pcieLinkUp sp ln) s = .next { s with hif := { s.hif with linkUp := true, speed := sp.val, lanes := ln.val } }) ∧
  (∀ (sp : Fin 5) (ln : Fin 9) (s : State), s.sys.step < 9 → exec (.pcieLinkUp sp ln) s = .next s) ∧
  (∀ (h : CmdHdr) (c : CmdRef) (r : CmdResult) (rest : List (CmdRef × CmdResult)) (s : State), s.hif.finishing = (c, r) :: rest →
    c.ring = h.ring.val → c.tag = h.tag → exec (.longCommandComplete h) s = .next
      (((s.onHif fun x => { x with finishing := rest }).finish c r).capRelease c))

/-! ### The Greaz link and the roles -/

/-- The link's lanes and its end (R421, R424): a lane that locks starts a HELLO exchange; the link goes on with one lane and goes down 10 µs after the
last, after 4 ms of silence, and at the sixteenth tag failure in a row; every failed tag and every frame of an unknown TYPE counts in GZL_AUTH_ERR_CNT
(R422), and each is one job of the key unit (R477) when a key is held or derived for it; that the job counts at the frame's receipt is the model's
reading (log 63), and that without a key the tag has failed too (log 62). -/
def Obligations.LinkComesUpAndGoesDown : Prop :=
  (∀ (l : Fin 2) (s : State), s.awake = true → s.prt.serdes = true → exec (.laneLock l) s = .next (s.setLane l.val true).startHello) ∧
  (∀ (l : Fin 2) (s : State), s.awake = false ∨ s.prt.serdes = false → exec (.laneLock l) s = .next s) ∧
  (∀ s : State, s.gzl.lane0 = true → s.gzl.lane1 = true →
    exec (.laneLoss 0) s = .next { s with gzl := { s.gzl with lane0 := false } } ∧ exec (.laneLoss 1) s = .next { s with gzl := { s.gzl with lane1 := false } }) ∧
  (∀ s : State, s.gzlOn = true → s.gzl.lane0 = true → s.gzl.lane1 = false →
    exec (.laneLoss 0) s = .next (((s.setLane 0 false).run 10000).linkDown downLanes)) ∧
  (∀ s : State, s.gzlOn = true → s.gzl.lane0 = false → s.gzl.lane1 = true →
    exec (.laneLoss 1) s = .next (((s.setLane 1 false).run 10000).linkDown downLanes)) ∧
  (∀ s : State, s.gzl.linkUp = true → exec .linkSilence s = .next (s.linkDown downSilence)) ∧
  (∀ s : State, s.gzl.linkUp = false → exec .linkSilence s = .next s) ∧
  (∀ s : State, s.linkHears = true → exec (.linkFrameDiscard .staleCtr) s = .next (s.inc Reg.gzlReplayCnt)) ∧
  (∀ s : State, s.linkHears = true → ((s.keySlot s.linkSlot).content s.linkSlot).isSome = true →
    (∃ t : State, exec (.linkFrameDiscard .unknownType) s = .next t ∧ t.gzl = { s.gzl with badTags := 0 } ∧
      t.reg Reg.gzlAuthErrCnt = s.reg Reg.gzlAuthErrCnt + 1 ∧
      (s.sec.unwrapped.getLsbD s.linkSlot = true → t.reg Reg.secJobCnt = s.reg Reg.secJobCnt + 1) ∧
      (∀ o, o ≠ Reg.gzlAuthErrCnt → o ≠ Reg.secJobCnt → o ≠ Reg.secDeriveCnt → t.reg o = s.reg o) ∧
      t = { s with regs := t.regs, gzl := t.gzl, sec := t.sec, free := t.free }) ∧
    (s.gzl.badTags < 15 → ∃ t : State, exec (.linkFrameDiscard .tag) s = .next t ∧ t.gzl = { s.gzl with badTags := s.gzl.badTags + 1 } ∧
      t.reg Reg.gzlAuthErrCnt = s.reg Reg.gzlAuthErrCnt + 1 ∧ t.reg Reg.gzlFault = s.reg Reg.gzlFault ||| bit 6 ∧
      (s.sec.unwrapped.getLsbD s.linkSlot = true → t.reg Reg.secJobCnt = s.reg Reg.secJobCnt + 1) ∧
      (∀ o, o ≠ Reg.gzlAuthErrCnt → o ≠ Reg.gzlFault → o ≠ Reg.secJobCnt → o ≠ Reg.secDeriveCnt → t.reg o = s.reg o) ∧
      t = { s with regs := t.regs, gzl := t.gzl, sec := t.sec, free := t.free }) ∧
    (s.gzl.linkUp = true → s.gzl.badTags = 15 → exec (.linkFrameDiscard .tag) s = .next
      ((((((s.frameKey false).1.inc Reg.secJobCnt).inc Reg.gzlAuthErrCnt).setBits Reg.gzlFault (bit 6)).onGzl fun g => { g with badTags := 16 }).linkDown
        downTags))) ∧
  (∀ (c : DiscardCause) (s y : State), s.linkHears = true → c ≠ .staleCtr → s.frameKey (!s.gzl.linkUp) = (y, none) →
    exec (.linkFrameDiscard c) s = .next y.tagFails) ∧
  (∀ (c : DiscardCause) (s : State), s.linkHears = false → exec (.linkFrameDiscard c) s = .next s)

/-- What the link sends (R424 to R426), each frame a job given to the key unit (R477): HELLO during an exchange, an ACK of the highest number applied,
a NAK of the first number missing, counted in GZL_NAK_CNT, and after 50 µs without an ACK what the window holds, counted in GZL_RETX_CNT. -/
def Obligations.LinkSends : Prop :=
  (∀ s : State, s.gzl.hello = true → s.linkHears = true → exec .helloSend s = .next { s with sec := { s.sec with
    jobs := s.sec.jobs ++ [KeyJob.link (w32 s.gzl.txSeq) (.hello s.helloBody)] } }) ∧
  (∀ s : State, s.gzl.linkUp = true → s.linkHears = true → exec .ackSend s = .next { s with
    gzl := { s.gzl with unacked := 0 }, sec := { s.sec with jobs := s.sec.jobs ++ [KeyJob.link (w32 s.gzl.rxSeq) .ack] } }) ∧
  (∀ s : State, s.gzl.linkUp = true → s.linkHears = true → s.gzl.rxGap = true → ∃ t : State, exec .nakRepeat s = .next t ∧
    t.sec = { s.sec with jobs := s.sec.jobs ++ [KeyJob.link (w32 (s.gzl.rxSeq + 1)) .nak] } ∧ t.reg Reg.gzlNakCnt = s.reg Reg.gzlNakCnt + 1 ∧
    (∀ o, o ≠ Reg.gzlNakCnt → t.reg o = s.reg o) ∧ t = { s with regs := t.regs, sec := t.sec }) ∧
  (∀ s : State, s.gzl.linkUp = true → s.linkHears = true → ∃ t : State, exec .retransmitTimeout s = .next t ∧
    t.sec = { s.sec with jobs := s.sec.jobs ++ s.gzl.window.map fun f => KeyJob.link (w32 f.seq) f.body } ∧
    t.reg Reg.gzlRetxCnt = s.reg Reg.gzlRetxCnt + w32 s.gzl.window.length ∧ (∀ o, o ≠ Reg.gzlRetxCnt → t.reg o = s.reg o) ∧
    t = { s with regs := t.regs, sec := t.sec }) ∧
  (∀ s : State, s.linkHears = false → exec .helloSend s = .next s ∧ exec .ackSend s = .next s ∧ exec .nakRepeat s = .next s ∧
    exec .retransmitTimeout s = .next s)

/-- A received frame whose CTR is not greater than the last accepted one is discarded and counted in GZL_REPLAY_CNT (R422), and nothing else changes.
-/
def Obligations.ReplayedFramesAreDiscarded : Prop :=
  ∀ (hdr : LinkHdr) (last : Nat) (s : State) (c : Instr), s.linkHears = true → s.gzl.linkUp = true → s.gzl.rxCtr = some last → hdr.ctr ≤ last →
    ((∃ b, c = .helloReceive hdr b) ∨ (∃ b, c = .heartbeatReceive hdr b) ∨ c = .ackReceive hdr ∨ c = .nakReceive hdr ∨ (∃ b e, c = .stateReceive hdr b e) ∨
      (∃ b, c = .tickEndReceive hdr b) ∨ (∃ r, c = .alarmReceive hdr r) ∨ ∃ e k, c = .swapReceive hdr e k) → ∃ t : State,
    exec c s = .next t ∧ t.reg Reg.gzlReplayCnt = s.reg Reg.gzlReplayCnt + 1 ∧ (∀ o, o ≠ Reg.gzlReplayCnt → t.reg o = s.reg o) ∧
    t = { s with regs := t.regs }

/-- A frame with a fresh CTR whose key the link's slot gives is a job of the key unit (R477), its CTR is the last accepted one (R422, R423) and it
acts: the first clauses say what each type does on every device, in the operations that do it, and the others what that comes to. HELLO takes the
partner's SESSION and brings the link up when it is down (R424); HEARTBEAT marks guy-line A and gives role, epoch and state of the partner (R431,
R433, R435); ACK releases what the window holds up to its number, NAK repeats it from its number on (R426); the next sequenced frame is applied and
one ahead answered with a NAK, once per gap (R425): STATE enters the receive buffer of a STANDBY device, TICK_END that finds the buffer whole makes
its copy valid and one that does not is counted (R428), ALARM counts on (R430), SWAP makes a STANDBY device that holds the column's copy ACTIVE under
a new epoch (R440). The model's choices: HELLO with another SESSION while the link is up restarts the sequence (log 62), the job counts at the receipt
(log 63), all of it takes one cycle (log 104), and SWAP compares the number in the partner's own count (log 43). -/
def Obligations.FreshFramesAct : Prop :=
  ∀ (hdr : LinkHdr) (s : State), s.linkHears = true → s.gzl.rxCtr.all (fun c => decide (c < hdr.ctr)) = true →
    ((s.keySlot s.linkSlot).content s.linkSlot).isSome = true →
    (∀ b : HelloBody, s.gzl.hello = true ∨ s.gzl.linkUp = true →
      exec (.helloReceive hdr b) s = .next (s.oneCycle fun y => (((y.frameKey true).1.inc Reg.secJobCnt).accept hdr.ctr).hello b)) ∧
    (∀ b : HelloBody, s.gzl.hello = true → s.gzl.linkUp = false → s.gzl.role = .standby → ∃ t : State, exec (.helloReceive hdr b) s = .next t ∧
      t.gzl = { s.gzl with
        rxCtr := some hdr.ctr, badTags := 0, hello := false, linkUp := true, partnerSession := b.session, partnerSerial := some b.imageSerial
        partnerRole := b.role, partnerHeard := true
        partnerEpoch := if s.gzl.partnerEpoch.toNat < b.epoch.toNat then b.epoch else s.gzl.partnerEpoch } ∧
      t.sec.jobs = s.sec.jobs ++ [KeyJob.link (w32 s.gzl.rxSeq) .ack] ∧
      (s.sec.unwrapped.getLsbD s.linkSlot = true → t.reg Reg.secJobCnt = s.reg Reg.secJobCnt + 1)) ∧
    (∀ b : HelloBody, s.gzl.hello = false → s.gzl.linkUp = false → exec (.helloReceive hdr b) s = .next s) ∧
    (∀ hello : Bool, ∃ k : MaskedKey, (s.frameKey hello).1.sec.key = some k ∧ k.purpose = purposeGreaz ∧
      k.ctx = (if hello then List.replicate 8 0 else s.linkCtx)) ∧
    (s.gzl.linkUp = true →
      (∀ b : HeartbeatBody, exec (.heartbeatReceive hdr b) s =
        .next (s.oneCycle fun y => (((y.frameKey false).1.inc Reg.secJobCnt).accept hdr.ctr).heartbeat b)) ∧
      exec (.ackReceive hdr) s = .next (s.oneCycle fun y => (((y.frameKey false).1.inc Reg.secJobCnt).accept hdr.ctr).acked hdr.seq.toNat) ∧
      exec (.nakReceive hdr) s = .next (s.oneCycle fun y => (((y.frameKey false).1.inc Reg.secJobCnt).accept hdr.ctr).retransmit hdr.seq.toNat) ∧
      (∀ (b : StateBody) (e : Bool), exec (.stateReceive hdr b e) s =
        .next (s.oneCycle fun y => (((y.frameKey false).1.inc Reg.secJobCnt).accept hdr.ctr).sequenced hdr fun x => x.takeState b e)) ∧
      (∀ b : TickEndBody, exec (.tickEndReceive hdr b) s =
        .next (s.oneCycle fun y => (((y.frameKey false).1.inc Reg.secJobCnt).accept hdr.ctr).sequenced hdr fun x => x.takeTickEnd b)) ∧
      (∀ rs : List (List Word), exec (.alarmReceive hdr rs) s =
        .next (s.oneCycle fun y => (((y.frameKey false).1.inc Reg.secJobCnt).accept hdr.ctr).sequenced hdr fun x =>
          if x.gzl.role = .standby then rs.foldl (fun (y : State) r => y.alarmToRing (fromPartner r)) x else x)) ∧
      (∀ (e : Word) (k : BitVec 64), exec (.swapReceive hdr e k) s =
        .next (s.oneCycle fun y => (((y.frameKey false).1.inc Reg.secJobCnt).accept hdr.ctr).sequenced hdr fun x =>
          if x.gzl.role = .standby && x.gzl.stateValid && decide (x.gzl.stateFrom = k.toNat) then x.claimRole .active else x)) ∧
      (∀ b : HelloBody, s.gzl.role = .standby → s.gzl.partnerSession = b.session → ∃ t : State, exec (.helloReceive hdr b) s = .next t ∧
        t.gzl = { s.gzl with
          rxCtr := some hdr.ctr, badTags := 0, hello := false, partnerSerial := some b.imageSerial, partnerRole := b.role, partnerHeard := true
          partnerEpoch := if s.gzl.partnerEpoch.toNat < b.epoch.toNat then b.epoch else s.gzl.partnerEpoch } ∧
        t.sec.jobs = s.sec.jobs ++ [KeyJob.link (w32 s.gzl.rxSeq) .ack] ∧ (s.sec.unwrapped.getLsbD s.linkSlot = true → t.reg Reg.secJobCnt = s.reg Reg.secJobCnt + 1)) ∧
      (∀ b : HelloBody, s.gzl.role = .standby → s.gzl.partnerSession ≠ b.session → ∃ t : State, exec (.helloReceive hdr b) s = .next t ∧
        t.gzl.linkUp = true ∧ t.gzl.partnerSession = b.session ∧ t.gzl.window = [] ∧ t.gzl.rxSeq = 0 ∧ t.gzl.txSeq = 1 ∧ t.gzl.rxCtr = some hdr.ctr) ∧
      (∀ b : HeartbeatBody, s.gzl.role = .standby → b.hasInstant = false → ∃ t : State, exec (.heartbeatReceive hdr b) s = .next t ∧
        t.gzl = { s.gzl with
          rxCtr := some hdr.ctr, badTags := 0, markA := true, partnerSerial := some b.imageSerial, partnerStateValid := b.stateValid, partnerRole := b.role
          partnerHeard := true, partnerEpoch := if s.gzl.partnerEpoch.toNat < b.epoch.toNat then b.epoch else s.gzl.partnerEpoch } ∧
        (s.sec.unwrapped.getLsbD s.linkSlot = true → t.reg Reg.secJobCnt = s.reg Reg.secJobCnt + 1)) ∧
      (s.gzl.stalled = [] → s.tck.proc = none → ∃ t : State, exec (.ackReceive hdr) s = .next t ∧
        t.gzl = { s.gzl with rxCtr := some hdr.ctr, badTags := 0, window := s.gzl.window.filter fun f => decide (hdr.seq.toNat < f.seq) } ∧
        t.sec.jobs = s.sec.jobs ∧ (s.sec.unwrapped.getLsbD s.linkSlot = true → t.reg Reg.secJobCnt = s.reg Reg.secJobCnt + 1)) ∧
      (∃ t : State, exec (.nakReceive hdr) s = .next t ∧ t.gzl = { s.gzl with rxCtr := some hdr.ctr, badTags := 0 } ∧
        t.sec.jobs = s.sec.jobs ++ (s.gzl.window.filter fun f => decide (hdr.seq.toNat ≤ f.seq)).map (fun f => KeyJob.link (w32 f.seq) f.body) ∧
        t.reg Reg.gzlRetxCnt = s.reg Reg.gzlRetxCnt + w32 (s.gzl.window.filter fun f => decide (hdr.seq.toNat ≤ f.seq)).length) ∧
      (hdr.seq.toNat = s.gzl.rxSeq + 1 → s.gzl.unacked < 15 →
        (∀ (b : StateBody) (e : Bool), s.gzl.role = .standby → ∃ t : State, exec (.stateReceive hdr b e) s = .next t ∧
          t.gzl = { s.gzl with
            rxCtr := some hdr.ctr, badTags := 0, rxSeq := s.gzl.rxSeq + 1, rxGap := false, unacked := s.gzl.unacked + 1
            rx := (if s.gzl.rx.all fun x => decide (x.tick = b.tick) then s.gzl.rx else []) ++ [b]
            rxBad := e || ((s.gzl.rx.all fun x => decide (x.tick = b.tick)) && s.gzl.rxBad) }) ∧
        (∀ b : TickEndBody, s.gzl.role = .standby → b.complete = true → (s.gzl.rx.filter fun x => decide (x.tick = b.tick)).length = b.frames →
          b.imageSerial = s.activeSerial → s.gzl.rxBad = false → ∃ t : State, exec (.tickEndReceive hdr b) s = .next t ∧
          t.gzl.stateValid = true ∧ t.gzl.stateFrom = b.tick.toNat ∧ t.gzl.rx = [] ∧ t.gzl.rxSeq = s.gzl.rxSeq + 1) ∧
        (∀ b : TickEndBody, s.gzl.role = .standby → b.complete = false → ∃ t : State, exec (.tickEndReceive hdr b) s = .next t ∧
          t.gzl.stateValid = s.gzl.stateValid ∧ t.gzl.stateFrom = s.gzl.stateFrom ∧ t.gzl.rx = [] ∧
          t.reg Reg.gzlCopyIncCnt = s.reg Reg.gzlCopyIncCnt + 1) ∧
        (∀ rs : List (List Word), ∃ t : State, exec (.alarmReceive hdr rs) s = .next t ∧
          t.gzl = { s.gzl with rxCtr := some hdr.ctr, badTags := 0, rxSeq := s.gzl.rxSeq + 1, rxGap := false, unacked := s.gzl.unacked + 1 }) ∧
        (∀ (e : Word) (k : BitVec 64), s.gzl.role = .standby → s.gzl.stateValid = true → s.gzl.stateFrom = k.toNat → ∃ t : State,
          exec (.swapReceive hdr e k) s = .next t ∧ t.gzl.role = .active ∧
          t.gzl.epoch = sat32 (max s.gzl.epoch.toNat s.gzl.partnerEpoch.toNat + 1) ∧ t.gzl.rxSeq = s.gzl.rxSeq + 1)) ∧
      (s.gzl.rxSeq + 1 < hdr.seq.toNat → s.gzl.rxGap = false → ∀ (b : StateBody) (e : Bool), ∃ t : State, exec (.stateReceive hdr b e) s = .next t ∧
        t.gzl = { s.gzl with rxCtr := some hdr.ctr, badTags := 0, rxGap := true } ∧
        t.sec.jobs = s.sec.jobs ++ [KeyJob.link (w32 (s.gzl.rxSeq + 1)) .nak] ∧ t.reg Reg.gzlNakCnt = s.reg Reg.gzlNakCnt + 1))

/-- Guy-lines and epoch: at the middle of an interval a device sends its heartbeat on both guy-lines (R432), a word of guy-line B counts only when its
CRC matches (R432), the end of an interval evaluates the marks (R433), and the write of a claimed epoch to NVM ends the claim (R434), also in a brace
when it was under way before (R522), but not while the brace holds it (R523). -/
def Obligations.GuyLinesAndEpoch : Prop :=
  (∀ s : State, s.pairRuns = true → (s.runTo s.middleAt).gzl.linkUp = false → exec .heartbeatSend s = .next
    ((s.runTo s.middleAt).onGzl fun g => { g with hbOut := some (s.runTo s.middleAt).guyWord, hbAt := (s.runTo s.middleAt).tim.mono })) ∧
  (∀ s : State, s.pairRuns = true → (s.runTo s.middleAt).gzl.linkUp = true → exec .heartbeatSend s = .next
    { s.runTo s.middleAt with
      sec := { s.sec with jobs := s.sec.jobs ++ [KeyJob.link (w32 s.gzl.txSeq) (.heartbeat (s.runTo s.middleAt).heartbeatBody)] }
      gzl := { s.gzl with hbOut := some (s.runTo s.middleAt).guyWord, hbAt := (s.runTo s.middleAt).tim.mono } }) ∧
  (∀ (w : BitVec 64) (s : State), s.pairRuns = true → w.toNat % 256 = 0xA5 → (guyCrc (w.toNat % 2 ^ 48)).toNat = w.toNat / 2 ^ 48 →
    exec (.guyLineBWord w) s = .next
      ((s.onGzl fun g => { g with markB := true }).readPartner (roleOfCode (w.toNat / 2 ^ 8 % 4)) (w32 (w.toNat / 2 ^ 16)))) ∧
  (∀ (w : BitVec 64) (s : State), (guyCrc (w.toNat % 2 ^ 48)).toNat ≠ w.toNat / 2 ^ 48 → exec (.guyLineBWord w) s = .next s) ∧
  (∀ s : State, s.pairRuns = true → exec .guyLineIntervalEnd s = .next ((s.runTo s.intervalEndAt).intervalEnds)) ∧
  (∀ (c : Claim) (s : State), s.gzl.claim = some c → c.held = false → s.awake = true → ∃ t : State,
    exec .epochWriteComplete s = .next t ∧ t.nvm = { s.nvm with epoch := c.epoch } ∧
    t.gzl = { s.gzl with claim := none, claimEpoch := some c.epoch } ∧
    t = { s with
      nvm := t.nvm, gzl := t.gzl, regs := t.regs, prt := t.prt, nrg := t.nrg, evr := t.evr, hif := t.hif, bsn := t.bsn }) ∧
  (∀ (c : Claim) (s : State), s.gzl.claim = some c → c.held = true → exec .epochWriteComplete s = .next s) ∧
  (∀ s : State, s.gzl.claim = none ∨ s.awake = false → exec .epochWriteComplete s = .next s)

/-! ### Ports, frames and the Basin -/

/-- A port whose mode and clocks allow it trains and comes up (R32); a port that loses its link discards what it queues and counts in its link-down
counter, with the faults that the PHY reports (R109, R139). A frame received on a port of no pair counts in one of the port's three counters: good,
FCS error, or length error for a frame below 64 bytes or above the port's limit, which is cut there (R110), and is then disposed of; the Basin writer
takes the first item of the next Flume (R127); a host descriptor is injected and its completion posted (R126). That a length error comes before an FCS
error is the model's reading (log 82). -/
def Obligations.PortsTakeFrames : Prop :=
  (∀ (n : Fin 4) (s : State), s.portReady n.val = true → exec (.portLinkUp n) s = .next
    (s.onPort n.val fun p => { p with link := true, localFault := false, remoteFault := false, fecLock := decide (s.fec n.val ≠ 0) })) ∧
  (∀ (n : Fin 4) (s : State), s.portReady n.val = false → exec (.portLinkUp n) s = .next s) ∧
  (∀ (n : Fin 4) (lf rf : Bool) (s : State), (s.port n.val).link = true → (s.port n.val).busyUntil ≤ s.tim.mono → exec (.portLinkDown ⟨n, lf, rf⟩) s = .next
    ((((s.dropQueue n.val).onPort n.val fun p => { p with link := false, fecLock := false }).inc (Reg.prtLinkDownCnt n.val)).onPort n.val fun p =>
      { p with localFault := lf, remoteFault := rf })) ∧
  (∀ (n : Fin 4) (lf rf : Bool) (s : State), (s.port n.val).link = false → exec (.portLinkDown ⟨n, lf, rf⟩) s = .next
    (s.onPort n.val fun p => { p with localFault := lf, remoteFault := rf })) ∧
  (∀ (n : Fin 4) (f : RxFrame) (errs : List MemErr) (s : State), s.portUp n.val = true → s.inPair n.val = false → f.fcsOk = true →
    64 ≤ f.bytes.length + 4 → f.bytes.length + 4 ≤ s.frameLimit n.val →
    exec (.frameReceive n f errs) s = .next ((s.inc (Reg.prtRxGoodCnt n.val)).disposition n.val f.bytes f true errs)) ∧
  (∀ (n : Fin 4) (f : RxFrame) (errs : List MemErr) (s : State), s.portUp n.val = true → s.inPair n.val = false → f.fcsOk = false →
    64 ≤ f.bytes.length + 4 → f.bytes.length + 4 ≤ s.frameLimit n.val →
    exec (.frameReceive n f errs) s = .next ((s.inc (Reg.prtRxFcsCnt n.val)).disposition n.val f.bytes f false errs)) ∧
  (∀ (n : Fin 4) (f : RxFrame) (errs : List MemErr) (s : State), s.portUp n.val = true → s.inPair n.val = false → f.bytes.length + 4 < 64 →
    exec (.frameReceive n f errs) s = .next ((s.inc (Reg.prtRxLenCnt n.val)).disposition n.val f.bytes f false errs)) ∧
  (∀ (n : Fin 4) (f : RxFrame) (errs : List MemErr) (s : State), s.portUp n.val = true → s.inPair n.val = false →
    s.frameLimit n.val < f.bytes.length + 4 → exec (.frameReceive n f errs) s = .next ((s.inc (Reg.prtRxLenCnt n.val)).disposition n.val
      (f.bytes.take (s.frameLimit n.val)) { f with bytes := f.bytes.take (s.frameLimit n.val) } false errs)) ∧
  (∀ (n : Fin 4) (f : RxFrame) (errs : List MemErr) (s : State), s.portUp n.val = false → exec (.frameReceive n f errs) s = .next s) ∧
  (∀ (n k : Nat) (rest : List FlumeItem) (s : State), s.awake = true → s.nextFlume = some n → (s.flume n).items = .mark k :: rest →
    exec (.basinWrite []) s = .next (((s.takeItem n).add (Reg.flmMarkCnt n) k).onFlume n fun f => { f with gap := true })) ∧
  (∀ (n i : Nat) (bs : List Block) (rest : List FlumeItem) (s : State), s.awake = true → s.nextFlume = some n →
    (s.flume n).items = .packet i bs :: rest → exec (.basinWrite []) s = .next
      ((s.takeItem n).writePacket n i (bs.map fun b => { b with bad := [] }) (s.flume n).gap)) ∧
  (∀ (n : Fin 64) (d : InjDesc) (errs : List MemErr) (s : State) (r : CmdResult), s.awake = true → 10 < s.sys.step → s.sys.tampered = false →
    (s.ring n.val).works = true → s.ringType n.val = 4 → (s.ring n.val).hostIdx ≠ (s.ring n.val).devIdx → s.cqFree (s.ringCq n.val) = true →
    (s.inject d errs).2 = some r → exec (.hostInjection n d errs) s = .next
      (((s.inject d errs).1.setRing n.val { (s.inject d errs).1.ring n.val with devIdx := idxNext (s.ringSize n.val) (s.ring n.val).devIdx }).post (s.ringCq n.val)
        { index := (s.ring n.val).devIdx, src := n.val, phase := false, tag := (wordAt d.words 0 >>> 16).setWidth 16, status := r.status, detail := 0, length := 0, result := []
          data := [], addr := 0, time := 0 }))

/-- An up port sends, when the frame before has left, the first frame of its highest priority and counts it in its transmit counter, muted frames
being purged first (R130, R136); an active pair sends supervision frames in sequence, 2 s after one another (R108); a reply that is owed leaves at
general priority (R110); PTP messages leave as their kind says (R362); a duplicate-discard entry is forgotten 400 ms after its last frame (R107). The
alignment of a transmitted PTP message is a free value (log 27). -/
def Obligations.PortsSendFrames : Prop :=
  (∀ (n : Fin 4) (x : TxItem) (s : State), s.portUp n.val = true →
    nextFrame (((s.runToMono (s.port n.val).busyUntil).purgeMuted n.val).port n.val).queue = some x → ∃ z y : State,
    let r := y.ptpEgress n.val x
    z = (s.runToMono (s.port n.val).busyUntil).purgeMuted n.val ∧ y = z.onPort n.val (fun p => { p with queue := p.queue.erase x }) ∧
    exec (.frameTransmit n) s = .next ((r.2.onPort n.val fun p =>
      { p with sent := some { x with bytes := r.1 }, busyUntil := z.tim.mono + z.frameTime n.val r.1.length }).inc (Reg.prtTxCnt n.val))) ∧
  (∀ (n : Fin 4) (s : State), s.portUp n.val = false → exec (.frameTransmit n) s = .next s) ∧
  (∀ s : State, s.pairActive = true → s.awake = true → ∃ y : State,
    y = s.runToMono (s.prt.supAt.elim 0 (· + 2000000000)) ∧ exec .supervisionFrame s = .next
      ((y.send 0 { kind := .general, bytes := y.supervision }).onPrt fun p => { p with supSeq := (p.supSeq + 1) % 65536, supAt := some y.tim.mono })) ∧
  (∀ s : State, s.pairActive = false → exec .supervisionFrame s = .next s) ∧
  (∀ (n : Fin 4) (bs : List Byte) (rest : List (Nat × List Byte)) (s : State), s.prt.replies = (n.val, bs) :: rest → exec (.arpReply n) s = .next
    ((s.onPrt fun p => { p with replies := rest }).send n.val { kind := .general, bytes := bs })) ∧
  (∀ (n k : Fin 4) (s : State), exec (.ptpMessageSend n k) s = .next (s.ptpSend n.val k.val)) ∧
  (∀ (n k : Fin 4) (s : State), s.ptpOn n.val = false → exec (.ptpMessageSend n k) s = .next s) ∧
  (∀ (src : BitVec 48) (e : DdEntry) (s : State), s.prt.dd = [e] → e.source = src → s.tim.mono ≤ e.time + 400000000 → ∃ t : State,
    exec (.ddEntryExpire src) s = .next t ∧ t.prt = { s.prt with dd := [] } ∧ t.tim.mono = e.time + 400000000 ∧ t = { s with prt := t.prt, tim := t.tim })

/-! ### Local measurement, metering and capture -/

/-- 1.1 ms after its instant a label is available to metering and capture (R285); an owed local estimate is made (R298); a pulse output ends its width
with its gap, and the gap with the next owed pulse, the last of a backlog forming BACKLOG_END with its peak (R321); a clean second's mean moves the
channel's offset towards it by the tracking factor (R296). -/
def Obligations.MeasurementsAreMade : Prop :=
  (∀ (k : Nat) (bits : List (List Bool)) (s : State), s.lmu.next = some k → s.awake = true → s.gate 38 = true → ∃ x : State × List LmuSample,
    x = (s.runTo (k * 78125 + 1100000)).lmuAdvance k bits ∧ exec (.lmuLabel bits) s = .next ((x.1.nrgLabel k x.2).capLabel k x.2)) ∧
  (∀ (bits : List (List Bool)) (s : State), s.gate 38 = false → exec (.lmuLabel bits) s = .next s) ∧
  (∀ (p : Fin 4) (s : State), exec (.localEstimate p) s = .next (s.localEstimate p.val fun x f tick cells => x.lateBlock f tick cells)) ∧
  (∀ (p : Fin 4) (s : State), s.lmu.due = [] → exec (.localEstimate p) s = .next s) ∧
  (∀ (n : Fin 8) (m : Nat) (s : State), s.gate 39 = true → (s.pulse n.val).phase = .active m → exec (.pulseTimer n) s = .next
    ((s.runToMono m).onPulse n.val fun y => { y with phase := .gap (m + s.pulseWidth n.val) })) ∧
  (∀ (n : Fin 8) (m : Nat) (s : State), s.gate 39 = true → (s.pulse n.val).phase = .gap m → (s.pulse n.val).backlog = 0 →
    exec (.pulseTimer n) s = .next ((s.runToMono m).onPulse n.val fun y => { y with phase := .idle })) ∧
  (∀ (n : Fin 8) (m : Nat) (s : State), s.gate 39 = true → (s.pulse n.val).phase = .gap m → 1 < (s.pulse n.val).backlog →
    exec (.pulseTimer n) s = .next (((s.runToMono m).onPulse n.val fun y =>
      { y with backlog := y.backlog - 1, peak := if y.backlog = 1 then 0 else y.peak }).pulseStart n.val)) ∧
  (∀ (n : Fin 8) (m : Nat) (s : State), s.gate 39 = true → (s.pulse n.val).phase = .gap m → (s.pulse n.val).backlog = 1 →
    exec (.pulseTimer n) s = .next ((((s.runToMono m).onPulse n.val fun y =>
      { y with backlog := y.backlog - 1, peak := if y.backlog = 1 then 0 else y.peak }).pulseStart n.val).nrgRecord 4
        (s.regField (Reg.nrgPlsCfg n.val) 3 2) n.val s.nrg.label fpNaN (s.pulse n.val).peak)) ∧
  (∀ (n : Fin 8) (s : State), (s.pulse n.val).phase = .idle → exec (.pulseTimer n) s = .next s) ∧
  (∀ (c : Fin 24) (m : Word) (s : State), (s.lmuCh c.val).mean = some m → s.slackAt 6 = true → s.regBit Reg.lmuTrk 0 = true → ∃ t : State,
    exec (.offsetTracking c) s = .next t ∧ t.reg (Reg.lmuChOffset c.val) = fpAdd (s.reg (Reg.lmuChOffset c.val))
      (fpMul (fpSub m (s.reg (Reg.lmuChOffset c.val))) (fpPow2 (-(s.regField Reg.lmuTrk 4 1 : Nat)))) ∧
    (∀ o, o ≠ Reg.lmuChOffset c.val → t.reg o = s.reg o) ∧
    t = { s with regs := t.regs, lmu := (s.onCh c.val fun x => { x with mean := none }).lmu })

/-- The capture pins (R341): a falling edge of CAP_FIRE is timestamped for the armed units with FIRE_IN, its sample 200 µs later triggers them; a due
pulse, the earliest of those waiting, drives the pin for 100 or 300 µs or is skipped and counted, FIRE_SKIPPED showing in the capture that it belongs
to, and the pin is released; CAP_ARM arms and disarms, and CAP_REF measures, on a device that is not master. That an offset of CAP_REF is rounded to
the nearest ns is the model's reading (log 54). -/
def Obligations.CapturePinsAct : Prop :=
  (∀ (d : Nat) (s : State), s.awake = true → s.gate 37 = true → s.cap.edge = none → ∃ (t : State) (stays : Bool), exec (.capFireEdge d) s = .next t ∧
    t.cap = { s.cap with
      edge := some { stamp := s.tbReading d * 1024, at_ := s.tim.mono, stays := stays
                     units := (List.range 8).filter fun u => s.capFlag u 7 && decide ((s.capUnit u).state = .armed) }
      highAt := if s.cap.driving.isSome then s.cap.highAt else some (s.tim.mono + 100000) } ∧
    t = { s with cap := t.cap, free := t.free }) ∧
  (∀ (d : Nat) (e : CapEdge) (s : State), s.cap.edge = some e → exec (.capFireEdge d) s = .next s) ∧
  (∀ (hi : Bool) (e : CapEdge) (s : State), s.cap.edge = some e → ∃ x : State,
    x = (s.runToMono (e.at_ + 200000)).onCap (fun c =>
      { c with edge := none, highAt := if hi || c.driving.isSome then c.highAt else some (e.at_ + 300000) }) ∧
    exec (.fireSample hi) s = .next ((e.units.filter fun u => decide ((x.capUnit u).state = .armed)).foldl (fun (y : State) u =>
      ((y.capTrigger u 4 (e.stamp - ((if hi then 1250000 else s.capColDelay * 1000000) + s.capWire) * 65536)).onUnit u CapUnit.placeLate).capSettle u) x)) ∧
  (∀ (hi : Bool) (s : State), s.cap.edge = none → exec (.fireSample hi) s = .next s) ∧
  (∀ (l r : List CapFire) (f : CapFire) (s : State), s.cap.fires = l ++ f :: r → (∀ g ∈ l, f.due < g.due) → (∀ g ∈ r, f.due ≤ g.due) →
    s.awake = true → ∃ y : State, y = (s.runTo ((f.due + 65535) / 65536)).onCap (fun c => { c with fires := l ++ r }) ∧
    (y.fireReady = true → ∃ t : State, exec .fireDrive s = .next t ∧ t = y.onCap fun c =>
      { c with
        driving := some (y.tim.mono + (if f.long then 300000 else 100000)), highAt := some (y.tim.mono + (if f.long then 300000 else 100000)) }) ∧
    (y.fireReady = false → exec .fireDrive s =
      .next ((y.onUnit f.unit fun x => if y.capHolds x f then { x with skipped := true } else x).inc Reg.capFireSkipCnt))) ∧
  (∀ s : State, s.cap.fires = [] → exec .fireDrive s = .next s) ∧
  (∀ (m : Nat) (s : State), s.cap.driving = some m → exec .fireRelease s = .next ((s.runToMono m).onCap fun c => { c with driving := none })) ∧
  (∀ s : State, s.capMaster = false → s.awake = true → s.gate 37 = true →
    exec (.capArmEdge true) s = .next (((((List.range 8).filter fun u => s.capFlag u 5).filter s.capArmOk).foldl (fun (y : State) u => y.capArm u false)
      (s.onCap fun c => { c with armPin := true }))) ∧
    exec (.capArmEdge false) s = .next ((((List.range 8).filter fun u => s.capFlag u 5).filter fun u => decide ((s.capUnit u).state = .armed)).foldl State.capDisarm
      (s.onCap fun c => { c with armPin := false }))) ∧
  (∀ (stamp : Nat) (s : State), s.capMaster = false → s.awake = true → s.gate 37 = true → ∃ (t : State) (off : Int),
    exec (.capRefEdge stamp) s = .next t ∧
    off = Int.ofNat ((s.tbReading stamp + 32) / 64) - Int.ofNat (((s.tbReading stamp + 32) / 64 + 5000000) / 10000000 * 10000000) -
      Int.ofNat s.capWire ∧
    t.reg Reg.capRefOffset = wInt off ∧ (∀ o, o ≠ Reg.capRefOffset → t.reg o = s.reg o) ∧
    t = { s with regs := t.regs, cap := { s.cap with refs := (off :: s.cap.refs).take 8 } }) ∧
  (∀ (b : Bool) (stamp : Nat) (s : State), s.capMaster = true → exec (.capArmEdge b) s = .next s ∧ exec (.capRefEdge stamp) s = .next s)

/-- The archive: the compressor takes the next delivered column into the open blocks of the enabled groups (R261); an ended block is placed in the
region once its key jobs are done (R267, R269), and one that cannot be sealed counts in ARC_SEAL_FAIL_CNT; the oldest block not drained goes to the
archive ring (R270), or with STATUS MEM_ERROR, and is dropped and counted when the ring takes none (R396, R399); a replay ends with what its decoding
gives (R271, R272). Behind the closed gates of the archive or of the memory of its region none of this happens (R507). -/
def Obligations.ArchiveMovesBlocks : Prop :=
  (∀ (tick : Nat) (dir : Byte) (rest : List (Nat × Byte)) (c : Column) (s : State), s.arc.queue = (tick, dir) :: rest → s.column tick = some c →
    s.gate 36 = true →
    exec (.archiveCompress []) s = .next (((List.range 128).filter s.arcGroup).foldl (fun (x : State) g => x.arcTake c dir g)
      (s.onArc fun a => { a with queue := rest }))) ∧
  (∀ (errs : List MemErr) (s : State), s.arc.queue = [] ∨ s.gate 36 = false → exec (.archiveCompress errs) s = .next s) ∧
  (∀ (b : ArcBlock) (bs : List Byte) (n : Nat) (rest : List ArcBlock) (s : State), s.arc.ended = b :: rest → b.state = .done n bs →
    s.arcReaches = true →
    exec .archiveBlockComplete s = .next ((s.onArc fun a => { a with ended := rest }).arcFinish b bs)) ∧
  (∀ s : State, (s.arcReaches = true ↔ s.gate 36 = true ∧ (s.regBit Reg.arcCfg 4 = true ∨ s.gate 46 = true)) ∧
    (s.arcReaches = false → exec .archiveBlockComplete s = .next s)) ∧
  (∀ (b : ArcBlock) (rest : List ArcBlock) (s : State), s.arc.ended = b :: rest → s.arcReaches = true →
    (b.state = .plain → exec .archiveBlockComplete s = .next ((s.onArc fun a => { a with ended := rest }).arcFinish b b.plainBytes)) ∧
    (b.state = .failed → exec .archiveBlockComplete s = .next ((s.onArc fun a => { a with ended := rest }).inc Reg.arcSealFailCnt)) ∧
    (∀ n, b.state = .waiting n → exec .archiveBlockComplete s = .next s)) ∧
  (∀ (off n : Nat) (rest : List (Nat × Nat)) (s : State), s.arc.undrained = (off, n) :: rest → s.gate 36 = true → s.gate 46 = true →
    s.canDeliver s.arcRing 6 = true → ∃ x : State,
    x = s.onArc (fun a => { a with undrained := rest }) ∧
    exec (.archiveDrain false) s = .next (x.deliverOr s.arcRing 6 (s.regionRead off n)
      [w32 off, w32 (field (hdrWord (s.regionRead off n) 0) 7 0), 0] Reg.arcDropCnt) ∧
    exec (.archiveDrain true) s = .next ((x.deliverFail s.arcRing 6 stMemError
      [w32 off, w32 (field (hdrWord (s.regionRead off n) 0) 7 0), 0]).inc Reg.arcUeCnt)) ∧
  (∀ (e : Bool) (p : Nat × Nat) (rest : List (Nat × Nat)) (s : State), s.arc.undrained = p :: rest → s.gate 36 = true → s.gate 46 = true →
    s.canDeliver s.arcRing 6 = false →
    exec (.archiveDrain e) s = .next ((s.onArc fun a => { a with undrained := rest }).inc Reg.arcDropCnt)) ∧
  (∀ (e : Bool) (s : State), s.arc.undrained = [] ∨ s.gate 36 = false ∨ s.gate 46 = false → exec (.archiveDrain e) s = .next s) ∧
  (∀ (r : ArcReplay) (s : State), s.arc.replay = some r → s.gate 36 = true → (r.range.isSome = true → s.gate 46 = true) → r.overwritten = false →
    r.aborted = false → r.jobs = 0 →
    s.canDeliver r.ring 6 = true → exec (.replayComplete false) s = .next (match s.decodeReplay r with
      | (.record type data, x) =>
        (x.deliverOr r.ring 6 data [0xFFFFFFFF, w32 type, r.ref.tag.setWidth 32] Reg.arcDropCnt).endReplay r stOk type
      | (.failed st, x) => x.endReplay r st 0)) ∧
  (∀ (r : ArcReplay) (s : State), s.arc.replay = some r → s.gate 36 = true → (r.range.isSome = true → s.gate 46 = true) → r.overwritten = true →
    exec (.replayComplete false) s = .next (s.endReplay r stOverwritten 0)) ∧
  (∀ (r : ArcReplay) (e : Bool) (s : State), s.arc.replay = some r → r.range.isSome = true → s.gate 46 = false →
    exec (.replayComplete e) s = .next s) ∧
  (∀ (e : Bool) (s : State), s.arc.replay = none ∨ s.gate 36 = false → exec (.replayComplete e) s = .next s)

/-! ### Slack work, power and the schedule store -/

/-- What waits for slack does nothing outside it (R26): the returns of R503, gate requests, level steps, scrubbing, calibration, telemetry, recorder
housekeeping, offset tracking, the tick ID store, loading and verifying, and a pending step of the timebase. That a device without a running grid is
in slack is the model's reading (log 18). -/
def Obligations.SlackWorkWaitsForSlack : Prop :=
  ∀ (s : State) (c : Instr), s.slack = false →
    (c = .clockReturn ∨ (∃ q, c = .sluiceChange q) ∨ c = .dvfsStep ∨ (∃ n errs, c = .scrub n errs) ∨ (∃ f r, c = .fircCalibration f r) ∨
      (∃ t v, c = .telemetrySample t v) ∨ (∃ u, c = .recorderHousekeeping u) ∨ (∃ n, c = .offsetTracking n) ∨ c = .tickIdStore ∨
      (∃ e, c = .loading e) ∨ (∃ e, c = .verifying e) ∨ c = .timeStep) → exec c s = .next s

/-- In slack a device that is awake does what is due in the order of R26, what comes later waiting for what comes before: it returns CORE and PLOT to
PLLC together (R503), answers a gate request (R508), makes level steps (R527), loads and verifies an image, stores the tick ID, and then scrubs within
the lines of the phase, reporting a complete pass (R27), calibrates against XTA once per second (R506), takes one telemetry sample per slack phase
(R519), and checks up to 64 records per slack (R461). The place of offset tracking in that order, beside calibration as in Table SYS-14, is the
model's reading (log 66). -/
def Obligations.SlackWorkIsDone : Prop :=
  (∀ s : State, s.slack = true → s.awake = true → s.returnDue = true → exec .clockReturn s = .next ((s.drive 0 .pllc).drive 1 .pllc)) ∧
  (∀ (g : Nat) (o q : Bool) (s : State), s.clk.sluice = some (g, o) → s.slack = true → s.awake = true → s.returnDue = false → s.sluiceDue = true →
    exec (.sluiceChange q) s = .next (if s.sluiceResult g o q = sluiceDone
      then (s.onClk fun c => { c with sluice := none, sluiceResult := s.sluiceResult g o q }).setGate g o
      else s.onClk fun c => { c with sluice := none, sluiceResult := s.sluiceResult g o q })) ∧
  (∀ s : State, s.slackAt 3 = true → s.levelSet = true → s.gridOn = false ∨ s.pwr.retryWaits = false → exec .dvfsStep s = .next s.dvfsStep) ∧
  (∀ s : State, s.levelSet = false ∨ (s.gridOn = true ∧ s.pwr.retryWaits = true) → exec .dvfsStep s = .next s) ∧
  (∀ s : State, (s.slackAt 3 = true → s.slackOpen = true ∧ s.returnDue = false ∧ s.sluiceDue = false) ∧
    (s.slackAt 4 = true → s.slackAt 3 = true ∧ s.dvfsDue = false) ∧ (s.slackAt 5 = true → s.slackAt 4 = true ∧ s.pitchDue = false) ∧
    (s.slackAt 6 = true → s.slackAt 5 = true ∧ s.storeDue = false)) ∧
  (∀ (c : Instr) (s : State), s.slackAt 6 = false → ((∃ n errs, c = .scrub n errs) ∨ (∃ f r, c = .fircCalibration f r) ∨
    (∃ t v, c = .telemetrySample t v) ∨ (∃ u, c = .recorderHousekeeping u) ∨ ∃ n, c = .offsetTracking n) → exec c s = .next s) ∧
  (∀ (n : Nat) (s : State), s.slackAt 6 = true → s.scrubRoom ≠ 0 → s.sys.scrubLine + min n s.scrubRoom < 1048576 → exec (.scrub n []) s = .next
    { s with sys := { s.sys with scrubLine := s.sys.scrubLine + min n s.scrubRoom, scrubDone := s.sys.scrubDone + min n s.scrubRoom } }) ∧
  (∀ (n : Nat) (errs : List MemErr) (s : State), s.scrubRoom = 0 → exec (.scrub n errs) s = .next s) ∧
  (∀ (n : Nat) (s : State), s.slackAt 6 = true → s.scrubRoom ≠ 0 → 1048576 ≤ s.sys.scrubLine + min n s.scrubRoom → ∃ t : State,
    exec (.scrub n []) s = .next t ∧ t.reg Reg.sysScrubPeriodMs = w32 ((s.tim.mono - s.sys.scrubAt) / 1000000) ∧
    t.reg Reg.sysScrubCnt = s.reg Reg.sysScrubCnt + 1 ∧ (∀ o, o ≠ Reg.sysScrubPeriodMs → o ≠ Reg.sysScrubCnt → t.reg o = s.reg o) ∧
    t = { s with regs := t.regs, sys := { s.sys with
      scrubLine := s.sys.scrubLine + min n s.scrubRoom - 1048576, scrubDone := s.sys.scrubDone + min n s.scrubRoom, scrubAt := s.tim.mono } }) ∧
  (∀ (f r : Nat) (s : State), s.slackAt 6 = true → s.qualified .xta = true → s.clk.calSec ≠ some s.nowSec → ∃ t : State,
    exec (.fircCalibration f r) s = .next t ∧ t.reg Reg.clkFircHz = w32 ((f * 25000000 + 524288) / 1048576) ∧
    t.reg Reg.clkSircHz = w32 ((r * 25000000 + 524288) / 1048576) ∧ t.reg Reg.clkCalCnt = s.reg Reg.clkCalCnt + 1 ∧
    (∀ o, o ≠ Reg.clkFircHz → o ≠ Reg.clkSircHz → o ≠ Reg.clkFircTrim → o ≠ Reg.clkCalCnt → t.reg o = s.reg o) ∧
    t = { s with regs := t.regs, aon := s.rtcMark.aon, clk := { s.clk with calSec := some s.nowSec } }) ∧
  (∀ (ts vs : List (BitVec 16)) (s : State), s.slackAt 6 = true → s.gridOn = true → s.pwr.sampled = false → exec (.telemetrySample ts vs) s = .next
    ((s.sampleTaken ts vs).onPwr fun p => { p with sampled := true, sampledAt := some s.tim.mono })) ∧
  (∀ (ts vs : List (BitVec 16)) (s : State), s.gridOn = true → s.pwr.sampled = true → exec (.telemetrySample ts vs) s = .next s) ∧
  (∀ s : State, s.slackAt 6 = true → 6 ≤ s.sys.step → exec (.recorderHousekeeping []) s = .next
    (State.checkRecords (min (64 - s.evr.checked) s.evrCount) s.evr.cursor
      (s.onEvr fun e => { e with checked := e.checked + min (64 - s.evr.checked) s.evrCount }))) ∧
  (∀ s : State, 64 ≤ s.evr.checked → exec (.recorderHousekeeping []) s = .next s)

/-- A level step: VDONE completes a lowering at once and a raise 50 µs later (R527), and without it in TIMEOUT_US the step ends with its timeout
counted, TIMEOUT_US after the request was sent (R529). Brace: PWR_SENSE below VWARN begins it, whose commit comes first and then holds NVM writes
(R520, R522); the level must stay above VWARN plus hysteresis for 2 ms (R524), while SENSE_LOW follows VWARN alone (R542). A battery reading below 1.5
V sets VBAT_LOW (R549). Telemetry leaves once per second (R27, R540). What a request does in brace and at the level in force, and a sense level lost
during the 2 ms, are the model's reading (logs 73 and 75). -/
def Obligations.PowerStepsBraceAndTelemetry : Prop :=
  (∀ (d : DvfsStep) (s : State), s.pwr.step = some d → d.settled = false → s.awake = true → d.raise = false → exec .vdone s = .next (s.completeStep d)) ∧
  (∀ (d : DvfsStep) (s : State), s.pwr.step = some d → d.settled = false → s.awake = true → d.raise = true →
    (s.run 50000).slackAt 3 = true → exec .vdone s = .next ((s.run 50000).completeStep d)) ∧
  (∀ (d : DvfsStep) (s : State), s.pwr.step = some d → d.settled = false → s.awake = true → d.raise = true →
    (s.run 50000).slackAt 3 = false → exec .vdone s = .next ((s.run 50000).onPwr fun p => { p with step := some { d with settled := true } })) ∧
  (∀ (d : DvfsStep) (s : State), s.pwr.step = some d → d.settled = false → s.awake = true → ∃ t : State, exec .avsTimeout s = .next t ∧
    t.pwr = { s.pwr with
      step := none, result := dvfsTimeout, retryWaits := d.raise
      request := if d.raise && d.requested && s.pwr.request.isNone then some d.target else s.pwr.request } ∧
    t.reg Reg.pwrAvsToCnt = s.reg Reg.pwrAvsToCnt + 1 ∧ t.reg Reg.pwrFault = s.reg Reg.pwrFault ||| bit 1 ∧
    (∀ o, o ≠ Reg.pwrAvsToCnt → o ≠ Reg.pwrFault → t.reg o = s.reg o) ∧
    t = { s with regs := t.regs, pwr := t.pwr, tim := (s.runToMono (d.sentAt + max 1 (s.regField Reg.pwrAvsCfg 31 16) * 1000)).tim }) ∧
  (∀ s : State, s.pwr.step = none → exec .vdone s = .next s ∧ exec .avsTimeout s = .next s) ∧
  (∀ s : State, s.awake = true → 3 ≤ s.sys.step → s.pwr.brace = false → exec .brace s = .next
    (((s.powerCommit.onPwr fun p => { p with brace := true, braceAt := s.tim.mono, senseLow := true, senseHighAt := none }).inc Reg.pwrBraceCnt).setBits
      Reg.pwrFault (bit 0))) ∧
  (∀ s : State, s.awake = true → 3 ≤ s.sys.step → s.pwr.brace = true → exec .brace s = .next
    { s with pwr := { s.pwr with senseLow := true, senseHighAt := none } }) ∧
  (∀ (m : Nat) (s : State), s.pwr.senseHighAt = some m → s.pwr.brace = true → s.awake = true →
    exec .braceEnd s = .next (s.runToMono (m + 2000000)).leaveBrace) ∧
  (∀ (mv : Nat) (s : State), s.awake = true → s.vwarnMv = 500 + 2 * s.regField Reg.pwrSenseCfg 7 0 ∧
    s.vreleaseMv = s.vwarnMv + 5 * s.regField Reg.pwrSenseCfg 11 8 ∧
    (mv < s.vwarnMv → exec (.pwrSenseChange ⟨mv, none⟩) s = exec .brace { s with pwr := { s.pwr with senseLow := true } }) ∧
    (s.vwarnMv ≤ mv → s.pwr.brace = false → exec (.pwrSenseChange ⟨mv, none⟩) s = .next { s with pwr := { s.pwr with senseLow := false } }) ∧
    (s.vreleaseMv < mv → s.pwr.brace = true → s.pwr.senseHighAt = none → exec (.pwrSenseChange ⟨mv, none⟩) s = .next
      { s with pwr := { s.pwr with senseLow := false, senseHighAt := some s.tim.mono } }) ∧
    (s.vwarnMv ≤ mv → mv ≤ s.vreleaseMv → s.pwr.brace = true → exec (.pwrSenseChange ⟨mv, none⟩) s = .next
      { s with pwr := { s.pwr with senseLow := false, senseHighAt := none } })) ∧
  (∀ (mv v : Nat) (s : State), s.awake = true → exec (.pwrSenseChange ⟨mv, some v⟩) s = exec (.pwrSenseChange ⟨mv, none⟩) (s.vbatRead v) ∧
    (s.vbatRead v).pwr = { s.pwr with vbatOk := decide (1500 ≤ v) } ∧
    (s.vbatRead v).reg Reg.pwrFault = s.reg Reg.pwrFault ||| (if s.pwr.vbatOk = true ∧ v < 1500 then bit 3 else 0) ∧
    (∀ o, o ≠ Reg.pwrFault → (s.vbatRead v).reg o = s.reg o)) ∧
  (∀ (n : Nat) (x : TelemSample) (s : State), s.pwr.telemRing = some n → s.pwr.sample = some x → s.awake = true → s.pwr.deliveredSec ≠ some s.nowSec →
    exec .telemetryDelivery s = .next ((s.onPwr fun p => { p with sample := none, deliveredSec := some s.nowSec }).deliverOr n 9
      (bytesOf (x.words ++ [s.reg Reg.sysScrubPeriodMs, s.sys.patchVersion, 0, 0])) [0x81] Reg.pwrTelemDropCnt)) ∧
  (∀ s : State, s.pwr.telemRing = none ∨ s.pwr.sample = none ∨ s.pwr.deliveredSec = some s.nowSec → exec .telemetryDelivery s = .next s)

/-- In slack a staged image is copied into the shadow half, with the engines' gates open, and then verified (R57, R58): a sound one becomes armed, or
raises the level first, any other is refused with its reason; an uncorrectable error ends the PITCH with LOAD_ERROR. -/
def Obligations.ImagesAreLoadedAndVerified : Prop :=
  (∀ (p : Pitch) (s : State), s.sch.pitch = some p → p.state = .loading → s.slackAt 4 = true → s.gate 46 = true → s.sys.step = 14 → ∃ t : State,
    exec (.loading false) s = .next t ∧ t.sch = { s.sch with shadow := s.stagedImage p, pitch := some { p with state := .verifying } } ∧
    t.gate 33 = true ∧ t.gate 34 = true ∧ t.gate 35 = true ∧ t = { s with sch := t.sch, clk := t.clk }) ∧
  (∀ (p : Pitch) (s : State), s.sch.pitch = some p → p.state = .loading → s.slackAt 4 = true → s.gate 46 = true → s.sys.step = 14 →
    exec (.loading true) s = .next (s.openEngines.pitchRefused 0x12)) ∧
  (∀ (p : Pitch) (s : State), s.sch.pitch = some p → p.state = .verifying → s.slackAt 4 = true → exec (.verifying true) s = .next (s.schedError .double false)) ∧
  (∀ (p : Pitch) (s : State), s.sch.pitch = some p → p.state = .verifying → s.slackAt 4 = true → exec (.verifying false) s = .next
    (match s.imageReason s.sch.shadow p.length with
      | none => { s with sch := { s.sch with
          pitch := some { p with state := if s.levelReaches (imgMinLevel s.sch.shadow) then .armed else .raising } } }
      | some r => s.pitchRefused r)) ∧
  (∀ (e : Bool) (s : State), s.sch.pitch = none ∨ s.slackAt 4 = false → exec (.loading e) s = .next s ∧ exec (.verifying e) s = .next s)

/-! ### Keys, tamper, clocks, reset -/

/-- The key unit: the next job is done and counted, when its key is held or derived (R476, R477): a link frame is sealed under its key with the next
CTR and transmitted (R422), a slot's copy is wrapped, or read back and checked (R481); the slot command whose turn it is commits and completes, while
in brace its write is held (R481, R523); masks are renewed and every key stays what it is (R475). That the check by unwrapping is a job of its own
(log 68), that CTR is taken when the frame is sealed (log 62) and that a job whose key cannot be had counts nothing (log 63) are the model's choices.
-/
def Obligations.KeyUnitWorks : Prop :=
  (∀ (q : Word) (b : LinkBody) (s : State), s.nextJob = some (.link q b) → s.awake = true → exec .keyJob s = .next
    ((s.onSec fun y => { y with jobs := y.jobs.erase (.link q b) }).frameJob q b)) ∧
  (∀ (q : Word) (b : LinkBody) (key : List Byte) (s y : State), s.frameKey (linkIsHello b) = (y, some key) → ∃ t : State, s.frameJob q b = t ∧
    t.gzl = { y.gzl with
      txCtr := y.gzl.txCtr + 1
      wire := some (linkFrame key (if (linkIsHello b) then 0 else y.gzl.session) y.unit q (y.gzl.txCtr + 1) b) } ∧
    t.reg Reg.gzlTxFrameCnt = y.reg Reg.gzlTxFrameCnt + 1 ∧ t.reg Reg.secJobCnt = y.reg Reg.secJobCnt + 1 ∧
    (∀ o, o ≠ Reg.gzlTxFrameCnt → o ≠ Reg.secJobCnt → t.reg o = y.reg o) ∧ t = { y with regs := t.regs, gzl := t.gzl }) ∧
  (∀ (q : Word) (b : LinkBody) (s y : State), s.frameKey (linkIsHello b) = (y, none) → s.frameJob q b = y) ∧
  (∀ (n : Nat) (s : State), s.awake = true →
    (s.nextJob = some (.wrap n) → exec .keyJob s = .next ((s.onSec fun y => { y with jobs := y.jobs.erase (.wrap n) }).wrapJob n)) ∧
    (s.nextJob = some (.check n) → exec .keyJob s = .next ((s.onSec fun y => { y with jobs := y.jobs.erase (.check n) }).checkJob n))) ∧
  (∀ (n : Nat) (w : SlotWrite) (key : List Byte) (s y : State), s.firstWrite n = some w → s.loadKey purposeWrap [BitVec.ofNat 8 n] = (y, some key) →
    (s.wrapJob n).reg Reg.secJobCnt = y.reg Reg.secJobCnt + 1 ∧ (s.wrapJob n).sec.jobs = y.sec.jobs ++ [KeyJob.check n] ∧
    (s.checkJob n).reg Reg.secJobCnt = y.reg Reg.secJobCnt + 1 ∧ (s.checkJob n).sec.jobs = y.sec.jobs) ∧
  (∀ (b : Nat) (s : State), s.nextJob = some (.segment b) → s.awake = true → exec .keyJob s = .next
    ((s.onSec fun y => { y with jobs := y.jobs.erase (.segment b) }).segmentJob b)) ∧
  (∀ (c : CmdRef) (p : Nat) (ctx : List Byte) (bs : List CmdRef) (s : State), s.nextJob = some (.derive c p ctx bs) → s.awake = true → ∃ r : State × CmdResult,
    r = (s.onSec fun y => { y with jobs := y.jobs.erase (.derive c p ctx bs) }).deriveNow p ctx ∧ exec .keyJob s = .next (r.1.finish c r.2)) ∧
  (∀ s : State, s.nextJob = none → exec .keyJob s = .next s) ∧
  (∀ (w : SlotWrite) (b : List Byte) (s : State), s.nextCommit = some w → w.buf = some b → s.pwr.brace = false → s.awake = true →
    exec .slotCommit s = .next (((s.onSec fun x => { x with writes := x.writes.erase w }).commitSlot w.slot).finish w.ref { status := stOk })) ∧
  (∀ (w : SlotWrite) (s : State), s.nextCommit = some w → w.buf = none → s.pwr.brace = false → s.awake = true →
    exec .slotCommit s = .next (((s.onSec fun x => { x with writes := x.writes.erase w }).clearSlot w.slot).finish w.ref { status := stOk })) ∧
  (∀ (w : SlotWrite) (s : State), s.nextCommit = some w → s.pwr.brace = true → s.awake = true → exec .slotCommit s = .next { s with
    sec := { s.sec with writes := s.sec.writes.map fun y => if y = w then { y with stage := .held } else y }
    pwr := { s.pwr with held := s.pwr.held ++ [.slot w.ref] } }) ∧
  (∀ s : State, s.sec.writes = [] ∨ s.awake = false → exec .slotCommit s = .next s) ∧
  (∀ s : State, s.awake = true → (∀ k ∈ s.sec.cache ++ s.sec.key.toList, k.key.length = 32) → ∃ t : State,
    exec .keyMaskRefresh s = .next t ∧ t.sec.cache.map MaskedKey.key = s.sec.cache.map MaskedKey.key ∧
    t.sec.key.map MaskedKey.key = s.sec.key.map MaskedKey.key ∧ t = { s with sec := { s.sec with cache := t.sec.cache, key := t.sec.key }, free := t.free })

/-- A ticket that fails a check of Table SEC-4 leaves its reason in SEC_LC_STATUS and the ticket that was pending, if any, as it was; one that passes
becomes the pending one, but NRG_RELEASE acts at once, and in brace either write to NVM is held (R469). A tamper input that is enabled and sampled
open for the fourth time in a row makes a tamper event, of each of the inputs of which that holds, and one that is disabled none (R484); on a device
that is not awake it is latched with the RTC's time, which the record owed for it will carry (R448, R484, R485), and in CLOCK_HOLD, where the core is
powered, the key unit locks (log 69). -/
def Obligations.TicketsAndTamperInputs : Prop :=
  (∀ (w : Word) (ws : List Word) (s : State), s.sec.verifying = some (w :: ws) → s.awake = true → s.pwr.brace = false →
    exec .ticketVerified s = .next (match s.ticketReason (w :: ws) with
      | some r => { s with sec := { s.sec with verifying := none, reason := r } }
      | none =>
        if ticketAction (w :: ws) = 4 then ({ s with sec := { s.sec with verifying := none, reason := 0 } } : State).releaseTotals
        else { s with sec := { s.sec with verifying := none, reason := 0 }, nvm := { s.nvm with ticket := some (w :: ws) } })) ∧
  (∀ (w : Word) (ws : List Word) (s : State), s.sec.verifying = some (w :: ws) → s.awake = true → s.pwr.brace = true →
    exec .ticketVerified s = .next (match s.ticketReason (w :: ws) with
      | some r => { s with sec := { s.sec with verifying := none, reason := r } }
      | none => { s with
        sec := { s.sec with verifying := none, reason := 0 }
        pwr := { s.pwr with held := s.pwr.held ++ [if ticketAction (w :: ws) = 4 then .nrgZero else .ticket (w :: ws)] } })) ∧
  (∀ s : State, s.sec.verifying = none → exec .ticketVerified s = .next s) ∧
  (∀ (a b : Bool) (s : State), s.nvm.fuses.tampEn = 0 → exec (.tamperSample a b) s = .next { s with aon := { s.aon with open0 := 0, open1 := 0 } }) ∧
  (∀ (b : Bool) (s : State), s.nvm.fuses.tampEn = 1 → s.aon.open0 = 3 →
    exec (.tamperSample true b) s = .next ((s.onAon fun x => { x with open0 := 4, open1 := 0 }).tamperEvent 1)) ∧
  (∀ (b : Bool) (s : State), s.nvm.fuses.tampEn = 1 →
    exec (.tamperSample false b) s = .next { s with aon := { s.aon with open0 := 0, open1 := 0 } }) ∧
  (∀ (a : Bool) (s : State), s.nvm.fuses.tampEn = 2 →
    (s.aon.open1 = 3 → exec (.tamperSample a true) s = .next ((s.onAon fun x => { x with open0 := 0, open1 := 4 }).tamperEvent 2)) ∧
    exec (.tamperSample a false) s = .next { s with aon := { s.aon with open0 := 0, open1 := 0 } }) ∧
  (∀ (a b : Bool) (s : State), s.nvm.fuses.tampEn = 3 → s.aon.open0 = 3 → s.aon.open1 = 3 →
    (a = true ∨ b = true) → exec (.tamperSample a b) s = .next ((s.onAon fun x =>
      { x with open0 := if a then 4 else 0, open1 := if b then 4 else 0 }).tamperEvent ((if a then 1 else 0) ||| (if b then 2 else 0)))) ∧
  (∀ (i : BitVec 2) (s : State), s.awake = false → s.aon.tampLatch = 0 → s.tamperEvent i = { s with
    sec := { s.sec with keyLock := s.sec.keyLock || s.clk.hold }
    aon := { s.aon with
      tampLatch := i, tampRtc := w32 (s.rtcNow / 32768)
      tampOwed := s.aon.tampOwed ++ ([0, 1].filter fun k => i.getLsbD k).map fun k => (k, s.rtcNow, if s.clk.hold then 2 else 1) } })

/-- A monitor that trips a qualified source faults it (R499) and moves the domains that ran from it, entering CLOCK_HOLD when one has no other (R501,
R505); a source that is qualified takes start-up on at steps 7 and 8, and later gets its domains back (R498, R503); CLOCK_HOLD makes at most eight
attempts, 100 ms apart, and one that succeeds resets the device (R505). -/
def Obligations.SourcesTripAndReturn : Prop :=
  (∀ (x : ClkSrc) (s : State), s.awake = true → s.qualified x = false → exec (.monitorTrip x) s = .next s) ∧
  (∀ (x : ClkSrc) (s : State), s.awake = true → s.qualified x = true →
    ((s.noteTrip x).faultSwitches (tripped x) (List.range 8)).2 = none →
    exec (.monitorTrip x) s = .next ((s.noteTrip x).faultSwitches (tripped x) (List.range 8)).1) ∧
  (∀ (x z : ClkSrc) (d : Nat) (s : State), s.awake = true → s.qualified x = true →
    ((s.noteTrip x).faultSwitches (tripped x) (List.range 8)).2 = some (d, z) →
    let y := ((s.noteTrip x).faultSwitches (tripped x) (List.range 8)).1
    exec (.monitorTrip x) s = .next (y.enterHold d z (y.qualified .sirc)) ∧ (y.enterHold d z (y.qualified .sirc)).clk.hold = true) ∧
  (∀ (x : ClkSrc) (s : State), s.awake = true → s.canQualify x = true → s.sys.step ≠ 7 → s.sys.step ≠ 8 →
    exec (.sourceQualified x) s = .next ((s.qualify x).returns x)) ∧
  (∀ s : State, s.awake = true → s.canQualify .xta = true → s.sys.step = 7 → exec (.sourceQualified .xta) s = .next (s.qualify .xta).stepEight) ∧
  (∀ (x : ClkSrc) (s : State), s.awake = true → s.canQualify x = true → s.sys.step = 8 →
    exec (.sourceQualified x) s = .next (((s.qualify x).returns x).moveDomains x).pllsReady) ∧
  (∀ (x : ClkSrc) (s : State), s.canQualify x = false → exec (.sourceQualified x) s = .next s) ∧
  (∀ (b : BootIn) (s : State), s.clk.hold = true → field s.aon.holdCause 5 4 = 0 → field s.aon.holdCause 3 0 < 7 → exec (.holdAttempt false b) s = .next
    ((s.runToMono (s.clk.holdAt + field s.aon.holdCause 3 0 * 100000000)).onAon fun a =>
      { a with holdCause := putField a.holdCause 3 0 (field s.aon.holdCause 3 0 + 1) })) ∧
  (∀ (b : BootIn) (s : State), s.clk.hold = true → field s.aon.holdCause 5 4 = 0 → field s.aon.holdCause 3 0 < 8 → ∃ x : State,
    x = (s.runToMono (s.clk.holdAt + field s.aon.holdCause 3 0 * 100000000)).onAon (fun a =>
      { a with holdCause := putField a.holdCause 3 0 (field s.aon.holdCause 3 0 + 1) }) ∧
    exec (.holdAttempt true b) s = .next
      ((x.wiped.onAon fun a => { a with holdCause := putFlag (putField a.holdCause 5 4 1) 16 true, xtaSub := true }).startUp b)) ∧
  (∀ (ok : Bool) (b : BootIn) (s : State), s.clk.hold = false ∨ field s.aon.holdCause 3 0 = 8 → exec (.holdAttempt ok b) s = .next s)

/-- Every reset puts every register to its reset value and keeps what is stored, and then start-up runs (R534 to R536): POWER_ON from any state with
cause 1, PIN_RESET with cause 3, and BROWNOUT with cause 2 when a core rail is below its limit while the supplies are there (R520), a device in
CLOCK_HOLD staying in reset on a BROWNOUT; a loss of power tears the NVM write in progress and nothing else. A power-up out of order leaves the device
without start-up until PIN_RESET (R574): that it does nothing until then is the model's choice (log 109). The boundary scan port changes nothing but
its own registers, and in TAMPERED, FIELD and SCRAPPED serves BYPASS and IDCODE alone (R584); it has no row of the opcode table (log 102). -/
def Obligations.ResetsStartTheDevice : Prop :=
  (∀ (b : BootIn) (s : State), b.ordered = true → s.aon.lost = false → exec (.powerOn b) s = .next (((s.powerCut.batteryBack b).resetBy 1 0).startUp b)) ∧
  (∀ (b : BootIn) (s : State), b.ordered = true → s.aon.lost = true → exec (.powerOn b) s = .next
    ((((s.powerCut.batteryBack b).resetBy 1 0).startUp b).setBits Reg.pwrFault (bit 3))) ∧
  (∀ (b : BootIn) (s : State), b.ordered = false → ∃ t : State, exec (.powerOn b) s = .next t ∧ t.pwr.unordered = true ∧ t.awake = false ∧
    t = { (s.powerCut.batteryBack b).resetBy 1 0 with pwr := t.pwr }) ∧
  (∀ (b : BootIn) (s : State), s.pwr.off = false → exec (.pinReset b) s = .next ((s.resetBy 3 0).startUp b)) ∧
  (∀ (b : BootIn) (s : State), s.pwr.off = false → s.pwr.unordered = false → s.clk.hold = false →
    b.coreMv < s.vrstMv ∨ b.sramMv < 720 ∨ b.framMv < 1620 → exec (.brownout b) s = .next ((s.powerCut.resetBy 2 0).startUp b)) ∧
  (∀ (b : BootIn) (s : State), s.pwr.off = true → exec (.pinReset b) s = .next s ∧ exec (.brownout b) s = .next s) ∧
  (∀ (b : BootIn) (s : State), s.clk.hold = true ∨ s.pwr.unordered = true ∨ (s.vrstMv ≤ b.coreMv ∧ 720 ≤ b.sramMv ∧ 1620 ≤ b.framMv) →
    exec (.brownout b) s = .next s) ∧
  (∀ (s : State) (cause wake : Nat), (∀ o, (s.resetBy cause wake).reg o = regReset o) ∧ (s.resetBy cause wake).isSealed = false ∧
    (s.resetBy cause wake).nvm = s.nvm ∧ (s.resetBy cause wake).gzl.role = .resolving ∧ (s.resetBy cause wake).pending = s.pending ∧
    (s.resetBy cause wake).aon = { s.rtcMark.aon with resetCause := s.causeWord cause wake } ∧ (s.aon.rtcSirc = false → s.rtcMark = s)) ∧
  (∀ s : State, s.powerCut = { s with nvm := s.powerCut.nvm, free := s.powerCut.free }) ∧
  (∀ (tms tdi : Bool) (s : State), s.tapClock tms tdi = { s with jtag := (s.tapClock tms tdi).jtag, free := (s.tapClock tms tdi).free }) ∧
  (∀ (i : TapInstr) (s : State), s.sys.tampered = true ∨ s.nvm.fuses.state = 2 ∨ s.nvm.fuses.state = 4 → i ≠ .idcode → s.tapServes i = .bypass) ∧
  (∀ s : State, s.jtag.state = .reset → (s.tapClock false false).jtag.instr = .idcode)

/-- Dormant mode: at the next slack a pending request takes effect, brace refusing it (R523, R530), and an enabled wake source starts the device
(R531, R532). A loss of VBAT leaves the always-on domain's contents unknown until the next power-up (R533): what they are then is a free value of the
model. That a loss of VBAT is one while the main supplies are gone is the model's reading (logs 2 and 76). -/
def Obligations.DormantModeAndBatteryLoss : Prop :=
  (∀ s : State, s.pwr.dormantPending = true → s.awake = true → s.pwr.brace = false → s.slack = true →
    s.gridOn = false ∨ s.pwr.dormantWaits = false → exec .dormantEntry s = .next s.enterDormant ∧ s.enterDormant.pwr.dormant = true) ∧
  (∀ s : State, s.pwr.brace = false → s.slack = false ∨ (s.gridOn = true ∧ s.pwr.dormantWaits = true) → exec .dormantEntry s = .next s) ∧
  (∀ s : State, s.pwr.dormantPending = true → s.awake = true → s.pwr.brace = true → exec .dormantEntry s = .next
    { s with pwr := { s.pwr with dormantPending := false } }) ∧
  (∀ s : State, s.pwr.dormantPending = false → exec .dormantEntry s = .next s) ∧
  (∀ (src : BitVec 5) (b : BootIn) (s : State), s.pwr.dormant = true → src &&& (s.reg Reg.pwrWakeCfg).setWidth 5 ≠ 0 →
    (src &&& (s.reg Reg.pwrWakeCfg).setWidth 5).getLsbD 1 = false → exec (.dormantWake src b) s = .next
      (((s.resetBy 5 (src &&& (s.reg Reg.pwrWakeCfg).setWidth 5).toNat).keepDormant s).startUp b)) ∧
  (∀ (src : BitVec 5) (b : BootIn) (s : State), s.pwr.dormant = true → (src &&& (s.reg Reg.pwrWakeCfg).setWidth 5).getLsbD 1 = true → ∃ x : State,
    x = s.runTo (s.pwr.wakeAt.getD 0) ∧ exec (.dormantWake src b) s = .next
      (((x.resetBy 5 (src &&& (s.reg Reg.pwrWakeCfg).setWidth 5).toNat).keepDormant x).startUp b)) ∧
  (∀ (src : BitVec 5) (b : BootIn) (s : State), s.pwr.dormant = false ∨ src &&& (s.reg Reg.pwrWakeCfg).setWidth 5 = 0 →
    exec (.dormantWake src b) s = .next s) ∧
  (∀ s : State, ∃ t : State, exec .vbatLoss s = .next t ∧ t.aon.lost = true ∧ t.aon.vbatLost = true ∧ t.aon.rtcValid = false ∧ t.pwr.off = true ∧
    t.nvm = s.powerCut.nvm ∧ t.pending = s.pending ∧ (∀ o, t.reg o = regReset o) ∧
    t.aon.tampRtc = (s.powerCut.freeWords 6).1.getD 1 0 ∧ t.aon.holdCause = (s.powerCut.freeWords 6).1.getD 2 0 ∧
    t.aon.resetCause = (s.powerCut.freeWords 6).1.getD 3 0)

/-- Start-up step 9 takes a patch from its source when it is valid (R472, R538), and goes on with the ROM firmware when it is not, or when 2 s pass
without one; a check that is left under way shows as step 10 (R536, Table PWR-5) and goes on when the block next idles (the model's choice, log 6);
step 12 ends when its time is over (R360). -/
def Obligations.StartUpWaitsEnd : Prop :=
  (∀ (p : PatchIn) (s : State), s.awake = true → s.sys.step = 9 → p.host = s.sys.patchWait → p.host = false ∨ s.sys.patchGo = true → p.dmaErr = false →
    p.rests = false →
    exec (.patchLoaded p) s = .next
      (if s.patchOk p = true then s.patched (if p.host then 2 else 1) (patchWord p.bytes 3) 1 else s.patched 0 0 2)) ∧
  (∀ (p : PatchIn) (s : State), s.awake = true → s.sys.step = 9 → p.host = s.sys.patchWait → p.host = false ∨ s.sys.patchGo = true → p.dmaErr = false →
    p.rests = true → exec (.patchLoaded p) s = .next { s with sys := { s.sys with checking := some p, step := 10 } }) ∧
  (∀ (p : PatchIn) (s : State), s.sys.step ≠ 9 ∨ p.host ≠ s.sys.patchWait → exec (.patchLoaded p) s = .next s) ∧
  (∀ s : State, s.waitsBoot = true → exec .patchWaitTimeout s = .next ((s.runToMono (s.sys.bootAt + 2 * nsPerSec)).patched 0 0 0)) ∧
  (∀ s : State, s.waitsBoot = false → exec .patchWaitTimeout s = .next s) ∧
  (∀ s : State, s.awake = true → s.sys.step = 12 → s.tim.mono ≤ s.acqEnd → exec .acquisitionTimeout s = .next (s.runToMono s.acqEnd).stepThirteen) ∧
  (∀ s : State, s.sys.step ≠ 12 → exec .acquisitionTimeout s = .next s)
end

