-- ==== Sys2Proof/Laws/Kept.lean ====
section
/-! SUPPORT. What no operation but a few changes: the queue, the seal, the fuses, the stored keys and the stored epoch. One lemma per operation. -/
set_option linter.unusedSimpArgs false
set_option linter.unusedVariables false
namespace Sys2Proof.Machine
/-- The queue, the seal, the fuses, the stored key slots and the stored epoch. -/
def State.kept (s : State) : List Instr × Bool × Fuses × List KeySlot × Word := (s.pending, s.isSealed, s.nvm.fuses, s.nvm.slots, s.nvm.epoch)
theorem foldl_kept {α : Type} (f : State → α → State) (h : ∀ x a, (f x a).kept = x.kept) (l : List α) (s : State) : (l.foldl f s).kept = s.kept := by
  induction l generalizing s with
  | nil => rfl
  | cons a l ih => simp [List.foldl, ih, h]
theorem ite_kept (c : Prop) [Decidable c] (a b : State) : (if c then a else b).kept = if c then a.kept else b.kept := by split <;> rfl
theorem ite_to {c : Prop} [Decidable c] {a b : State} {k} (ha : a.kept = k) (hb : b.kept = k) : (if c then a else b).kept = k := by split <;> assumption
theorem fst_ite_to {α : Type} {c : Prop} [Decidable c] {a b : State × α} {k} (ha : a.1.kept = k) (hb : b.1.kept = k) : (if c then a else b).1.kept = k := by split <;> assumption
theorem fst_ite_kept {α : Type} (c : Prop) [Decidable c] (a b : State × α) : (if c then a else b).1.kept = if c then a.1.kept else b.1.kept := by split <;> rfl
theorem snd_ite_kept {α : Type} (c : Prop) [Decidable c] (a b : α × State) : (if c then a else b).2.kept = if c then a.2.kept else b.2.kept := by split <;> rfl
theorem mk_kept (s : State) (regs : List (Nat × Word)) (latched : List (Nat × Word)) (readData : List Byte) (free : Nat) (hif : Hif) (evr : Evr) (tim : Tim) (tck : Tck) (sch : Sch) (aon : Aon) (sec : Sec) (clk : Clk) (pwr : Pwr) (sys : Sys) (gzl : Gzl) (prt : Prt) (hdg : Hdg) (bsn : Bsn) (mod : Mod) (top : Top) (alm : Alm) (prd : Prd) (arc : Arc) (lmu : Lmu) (nrg : Nrg) (cap : Cap) (dpx : Dpx) (jtag : Tap) : (State.mk s.pending regs s.isSealed latched readData free hif evr tim tck sch s.nvm aon sec clk pwr sys gzl prt hdg bsn mod top alm prd arc lmu nrg cap dpx jtag).kept = s.kept := rfl
theorem foldl1_kept {α β : Type} (f : State × β → α → State × β) (h : ∀ x a, (f x a).1.kept = x.1.kept) (l : List α) (s : State × β) : (l.foldl f s).1.kept = s.1.kept := by
  induction l generalizing s with
  | nil => rfl
  | cons a l ih => simp [List.foldl, ih, h]
theorem onNvm_keeps (s : State) (a : Nvm → Option Nat) (b : Nvm → Word) (c : Nvm → List (Nat × List Word)) (d e : Nvm → Nat) (f : Nvm → List (Bank × Bank)) (g : Nvm → Bool) (h : Nvm → Option (List Word)) (i : Nvm → List Int) (j : Nvm → List (Nat × Byte)) :
    (s.onNvm fun n => Nvm.mk n.fuses n.epoch (a n) (b n) (c n) (d n) (e n) n.slots (f n) (g n) (h n) (i n) (j n)).kept = s.kept := rfl
theorem State.onHif_kept (s : State) (f : Hif → Hif) : (State.onHif s f).kept = s.kept := by
  unfold State.onHif; simp only [↓foldl_kept, ↓foldl1_kept, ↓onNvm_keeps, ↓mk_kept, ↓ite_kept, ↓fst_ite_kept, ↓snd_ite_kept, ite_self, implies_true]
theorem State.onEvr_kept (s : State) (f : Evr → Evr) : (State.onEvr s f).kept = s.kept := by
  unfold State.onEvr; simp only [↓foldl_kept, ↓foldl1_kept, ↓onNvm_keeps, ↓mk_kept, ↓ite_kept, ↓fst_ite_kept, ↓snd_ite_kept, ite_self, implies_true]
theorem State.onTim_kept (s : State) (f : Tim → Tim) : (State.onTim s f).kept = s.kept := by
  unfold State.onTim; simp only [↓foldl_kept, ↓foldl1_kept, ↓onNvm_keeps, ↓mk_kept, ↓ite_kept, ↓fst_ite_kept, ↓snd_ite_kept, ite_self, implies_true]
theorem State.onTck_kept (s : State) (f : Tck → Tck) : (State.onTck s f).kept = s.kept := by
  unfold State.onTck; simp only [↓foldl_kept, ↓foldl1_kept, ↓onNvm_keeps, ↓mk_kept, ↓ite_kept, ↓fst_ite_kept, ↓snd_ite_kept, ite_self, implies_true]
theorem State.onSch_kept (s : State) (f : Sch → Sch) : (State.onSch s f).kept = s.kept := by
  unfold State.onSch; simp only [↓foldl_kept, ↓foldl1_kept, ↓onNvm_keeps, ↓mk_kept, ↓ite_kept, ↓fst_ite_kept, ↓snd_ite_kept, ite_self, implies_true]
theorem State.onNvm_kept (s : State) (f : Nvm → Nvm) (h1 : (f s.nvm).fuses = s.nvm.fuses) (h2 : (f s.nvm).slots = s.nvm.slots) (h3 : (f s.nvm).epoch = s.nvm.epoch) : (s.onNvm f).kept = s.kept := by
  simp only [State.kept, State.onNvm, h1, h2, h3]
theorem State.onAon_kept (s : State) (f : Aon → Aon) : (State.onAon s f).kept = s.kept := by
  unfold State.onAon; simp only [↓foldl_kept, ↓foldl1_kept, ↓onNvm_keeps, ↓mk_kept, ↓ite_kept, ↓fst_ite_kept, ↓snd_ite_kept, ite_self, implies_true]
theorem State.onSec_kept (s : State) (f : Sec → Sec) : (State.onSec s f).kept = s.kept := by
  unfold State.onSec; simp only [↓foldl_kept, ↓foldl1_kept, ↓onNvm_keeps, ↓mk_kept, ↓ite_kept, ↓fst_ite_kept, ↓snd_ite_kept, ite_self, implies_true]
theorem State.onClk_kept (s : State) (f : Clk → Clk) : (State.onClk s f).kept = s.kept := by
  unfold State.onClk; simp only [↓foldl_kept, ↓foldl1_kept, ↓onNvm_keeps, ↓mk_kept, ↓ite_kept, ↓fst_ite_kept, ↓snd_ite_kept, ite_self, implies_true]
theorem State.onPwr_kept (s : State) (f : Pwr → Pwr) : (State.onPwr s f).kept = s.kept := by
  unfold State.onPwr; simp only [↓foldl_kept, ↓foldl1_kept, ↓onNvm_keeps, ↓mk_kept, ↓ite_kept, ↓fst_ite_kept, ↓snd_ite_kept, ite_self, implies_true]
theorem State.onSys_kept (s : State) (f : Sys → Sys) : (State.onSys s f).kept = s.kept := by
  unfold State.onSys; simp only [↓foldl_kept, ↓foldl1_kept, ↓onNvm_keeps, ↓mk_kept, ↓ite_kept, ↓fst_ite_kept, ↓snd_ite_kept, ite_self, implies_true]
theorem State.onGzl_kept (s : State) (f : Gzl → Gzl) : (State.onGzl s f).kept = s.kept := by
  unfold State.onGzl; simp only [↓foldl_kept, ↓foldl1_kept, ↓onNvm_keeps, ↓mk_kept, ↓ite_kept, ↓fst_ite_kept, ↓snd_ite_kept, ite_self, implies_true]
theorem State.onPrt_kept (s : State) (f : Prt → Prt) : (State.onPrt s f).kept = s.kept := by
  unfold State.onPrt; simp only [↓foldl_kept, ↓foldl1_kept, ↓onNvm_keeps, ↓mk_kept, ↓ite_kept, ↓fst_ite_kept, ↓snd_ite_kept, ite_self, implies_true]
theorem State.onHdg_kept (s : State) (f : Hdg → Hdg) : (State.onHdg s f).kept = s.kept := by
  unfold State.onHdg; simp only [↓foldl_kept, ↓foldl1_kept, ↓onNvm_keeps, ↓mk_kept, ↓ite_kept, ↓fst_ite_kept, ↓snd_ite_kept, ite_self, implies_true]
theorem State.onBsn_kept (s : State) (f : Bsn → Bsn) : (State.onBsn s f).kept = s.kept := by
  unfold State.onBsn; simp only [↓foldl_kept, ↓foldl1_kept, ↓onNvm_keeps, ↓mk_kept, ↓ite_kept, ↓fst_ite_kept, ↓snd_ite_kept, ite_self, implies_true]
theorem State.onDpx_kept (s : State) (f : Dpx → Dpx) : (State.onDpx s f).kept = s.kept := by
  unfold State.onDpx; simp only [↓foldl_kept, ↓foldl1_kept, ↓onNvm_keeps, ↓mk_kept, ↓ite_kept, ↓fst_ite_kept, ↓snd_ite_kept, ite_self, implies_true]
theorem State.onMod_kept (s : State) (f : Mod → Mod) : (State.onMod s f).kept = s.kept := by
  unfold State.onMod; simp only [↓foldl_kept, ↓foldl1_kept, ↓onNvm_keeps, ↓mk_kept, ↓ite_kept, ↓fst_ite_kept, ↓snd_ite_kept, ite_self, implies_true]
theorem State.onTop_kept (s : State) (f : Top → Top) : (State.onTop s f).kept = s.kept := by
  unfold State.onTop; simp only [↓foldl_kept, ↓foldl1_kept, ↓onNvm_keeps, ↓mk_kept, ↓ite_kept, ↓fst_ite_kept, ↓snd_ite_kept, ite_self, implies_true]
theorem State.onAlm_kept (s : State) (f : Alm → Alm) : (State.onAlm s f).kept = s.kept := by
  unfold State.onAlm; simp only [↓foldl_kept, ↓foldl1_kept, ↓onNvm_keeps, ↓mk_kept, ↓ite_kept, ↓fst_ite_kept, ↓snd_ite_kept, ite_self, implies_true]
theorem State.onPrd_kept (s : State) (f : Prd → Prd) : (State.onPrd s f).kept = s.kept := by
  unfold State.onPrd; simp only [↓foldl_kept, ↓foldl1_kept, ↓onNvm_keeps, ↓mk_kept, ↓ite_kept, ↓fst_ite_kept, ↓snd_ite_kept, ite_self, implies_true]
theorem State.onArc_kept (s : State) (f : Arc → Arc) : (State.onArc s f).kept = s.kept := by
  unfold State.onArc; simp only [↓foldl_kept, ↓foldl1_kept, ↓onNvm_keeps, ↓mk_kept, ↓ite_kept, ↓fst_ite_kept, ↓snd_ite_kept, ite_self, implies_true]
theorem State.onLmu_kept (s : State) (f : Lmu → Lmu) : (State.onLmu s f).kept = s.kept := by
  unfold State.onLmu; simp only [↓foldl_kept, ↓foldl1_kept, ↓onNvm_keeps, ↓mk_kept, ↓ite_kept, ↓fst_ite_kept, ↓snd_ite_kept, ite_self, implies_true]
theorem State.onNrg_kept (s : State) (f : Nrg → Nrg) : (State.onNrg s f).kept = s.kept := by
  unfold State.onNrg; simp only [↓foldl_kept, ↓foldl1_kept, ↓onNvm_keeps, ↓mk_kept, ↓ite_kept, ↓fst_ite_kept, ↓snd_ite_kept, ite_self, implies_true]
theorem State.onCap_kept (s : State) (f : Cap → Cap) : (State.onCap s f).kept = s.kept := by
  unfold State.onCap; simp only [↓foldl_kept, ↓foldl1_kept, ↓onNvm_keeps, ↓mk_kept, ↓ite_kept, ↓fst_ite_kept, ↓snd_ite_kept, ite_self, implies_true]
theorem State.setReg_kept (s : State) (off : Nat) (v : Word) : (State.setReg s off v).kept = s.kept := by
  unfold State.setReg; simp only [↓foldl_kept, ↓foldl1_kept, ↓onNvm_keeps, ↓mk_kept, ↓ite_kept, ↓fst_ite_kept, ↓snd_ite_kept, ite_self, implies_true]
theorem State.add_kept (s : State) (off : Nat) (n : Nat) : (State.add s off n).kept = s.kept := by
  unfold State.add; simp only [↓State.setReg_kept, ↓foldl_kept, ↓foldl1_kept, ↓onNvm_keeps, ↓mk_kept, ↓ite_kept, ↓fst_ite_kept, ↓snd_ite_kept, ite_self, implies_true]
theorem State.inc_kept (s : State) (off : Nat) : (State.inc s off).kept = s.kept := by
  unfold State.inc; simp only [↓State.add_kept, ↓foldl_kept, ↓foldl1_kept, ↓onNvm_keeps, ↓mk_kept, ↓ite_kept, ↓fst_ite_kept, ↓snd_ite_kept, ite_self, implies_true]
theorem State.peak_kept (s : State) (off : Nat) (v : Nat) : (State.peak s off v).kept = s.kept := by
  unfold State.peak; simp only [↓State.setReg_kept, ↓foldl_kept, ↓foldl1_kept, ↓onNvm_keeps, ↓mk_kept, ↓ite_kept, ↓fst_ite_kept, ↓snd_ite_kept, ite_self, implies_true]
theorem State.setBits_kept (s : State) (off : Nat) (m : Word) : (State.setBits s off m).kept = s.kept := by
  unfold State.setBits; simp only [↓State.setReg_kept, ↓foldl_kept, ↓foldl1_kept, ↓onNvm_keeps, ↓mk_kept, ↓ite_kept, ↓fst_ite_kept, ↓snd_ite_kept, ite_self, implies_true]
theorem State.countErr_kept (s : State) (k : ErrKind) (ce : Nat) (ue : Nat) : (State.countErr s k ce ue).kept = s.kept := by
  unfold State.countErr; split <;> simp only [↓State.inc_kept, ↓foldl_kept, ↓foldl1_kept, ↓onNvm_keeps, ↓mk_kept, ↓ite_kept, ↓fst_ite_kept, ↓snd_ite_kept, ite_self, implies_true]
theorem State.freeWord_kept (s : State) : (State.freeWord s).2.kept = s.kept := by
  unfold State.freeWord; simp only [↓foldl_kept, ↓foldl1_kept, ↓onNvm_keeps, ↓mk_kept, ↓ite_kept, ↓fst_ite_kept, ↓snd_ite_kept, ite_self, implies_true]
theorem State.freeWords_kept (s : State) (n : Nat) : (State.freeWords s n).2.kept = s.kept := by
  unfold State.freeWords; simp only [↓State.freeWord_kept, ↓foldl_kept, ↓foldl1_kept, ↓onNvm_keeps, ↓mk_kept, ↓ite_kept, ↓fst_ite_kept, ↓snd_ite_kept, ite_self, implies_true]
theorem State.freeBytes_kept (s : State) (n : Nat) : (State.freeBytes s n).2.kept = s.kept := by
  unfold State.freeBytes; simp only [↓foldl_kept, ↓foldl1_kept, ↓onNvm_keeps, ↓mk_kept, ↓ite_kept, ↓fst_ite_kept, ↓snd_ite_kept, ite_self, implies_true]
theorem State.freeBool_kept (s : State) : (State.freeBool s).2.kept = s.kept := by
  unfold State.freeBool; simp only [↓foldl_kept, ↓foldl1_kept, ↓onNvm_keeps, ↓mk_kept, ↓ite_kept, ↓fst_ite_kept, ↓snd_ite_kept, ite_self, implies_true]
theorem State.run_kept (s : State) (n : Nat) : (State.run s n).kept = s.kept := by
  unfold State.run; simp only [↓State.onTim_kept, ↓foldl_kept, ↓foldl1_kept, ↓onNvm_keeps, ↓mk_kept, ↓ite_kept, ↓fst_ite_kept, ↓snd_ite_kept, ite_self, implies_true]
theorem State.runTo_kept (s : State) (t : Nat) : (State.runTo s t).kept = s.kept := by
  unfold State.runTo; simp only [↓State.run_kept, ↓foldl_kept, ↓foldl1_kept, ↓onNvm_keeps, ↓mk_kept, ↓ite_kept, ↓fst_ite_kept, ↓snd_ite_kept, ite_self, implies_true]
theorem State.runToMono_kept (s : State) (m : Nat) : (State.runToMono s m).kept = s.kept := by
  unfold State.runToMono; simp only [↓State.run_kept, ↓foldl_kept, ↓foldl1_kept, ↓onNvm_keeps, ↓mk_kept, ↓ite_kept, ↓fst_ite_kept, ↓snd_ite_kept, ite_self, implies_true]
theorem State.giveOffset_kept (s : State) (offset : Int) (sec : Nat) : (State.giveOffset s offset sec).kept = s.kept := by
  unfold State.giveOffset; split <;> simp only [↓State.onTim_kept, ↓foldl_kept, ↓foldl1_kept, ↓onNvm_keeps, ↓mk_kept, ↓ite_kept, ↓fst_ite_kept, ↓snd_ite_kept, ite_self, implies_true]
theorem State.slackBegins_kept (s : State) : (State.slackBegins s).kept = s.kept := by
  unfold State.slackBegins; simp only [↓State.onEvr_kept, ↓State.onTck_kept, ↓State.onClk_kept, ↓State.onPwr_kept, ↓State.onSys_kept, ↓foldl_kept, ↓foldl1_kept, ↓onNvm_keeps, ↓mk_kept, ↓ite_kept, ↓fst_ite_kept, ↓snd_ite_kept, ite_self, implies_true]
theorem State.rtcMark_kept (s : State) : (State.rtcMark s).kept = s.kept := by
  unfold State.rtcMark; simp only [↓foldl_kept, ↓foldl1_kept, ↓onNvm_keeps, ↓mk_kept, ↓ite_kept, ↓fst_ite_kept, ↓snd_ite_kept, ite_self, implies_true]
theorem State.rtcCounts_kept (s : State) (sirc : Bool) : (State.rtcCounts s sirc).kept = s.kept := by
  unfold State.rtcCounts; simp only [↓foldl_kept, ↓foldl1_kept, ↓onNvm_keeps, ↓mk_kept, ↓ite_kept, ↓fst_ite_kept, ↓snd_ite_kept, ite_self, implies_true]
theorem State.queueEvent_kept (s : State) (r : List Word) : (State.queueEvent s r).kept = s.kept := by
  unfold State.queueEvent
  repeat' first
    | (simp only [↓State.onEvr_kept, ↓State.inc_kept, ↓State.peak_kept, ↓foldl_kept, ↓foldl1_kept, ↓onNvm_keeps, ↓mk_kept, ↓ite_kept, ↓fst_ite_kept, ↓snd_ite_kept, ite_self, implies_true]; done)
    | split
    | dsimp only
theorem State.oneCycle_kept (s : State) (f : State → State) (hf : ∀ a0, State.kept (f a0) = State.kept a0) : (State.oneCycle s f).kept = s.kept := by
  unfold State.oneCycle; simp only [hf, ↓State.onEvr_kept, ↓foldl_kept, ↓foldl1_kept, ↓onNvm_keeps, ↓mk_kept, ↓ite_kept, ↓fst_ite_kept, ↓snd_ite_kept, ite_self, implies_true]
theorem State.event_kept (s : State) (code : Nat) (cls : Nat) (data : List Word) (src : EventSource := {}) : (State.event s code cls data src).kept = s.kept := by
  unfold State.event; simp only [↓State.queueEvent_kept, ↓foldl_kept, ↓foldl1_kept, ↓onNvm_keeps, ↓mk_kept, ↓ite_kept, ↓fst_ite_kept, ↓snd_ite_kept, ite_self, implies_true]
theorem State.setRing_kept (s : State) (n : Nat) (r : Ring) : (State.setRing s n r).kept = s.kept := by
  unfold State.setRing; simp only [↓State.onHif_kept, ↓foldl_kept, ↓foldl1_kept, ↓onNvm_keeps, ↓mk_kept, ↓ite_kept, ↓fst_ite_kept, ↓snd_ite_kept, ite_self, implies_true]
theorem State.fire_kept (s : State) (n : Nat) : (State.fire s n).kept = s.kept := by
  unfold State.fire; simp only [↓State.onHif_kept, ↓State.inc_kept, ↓State.setRing_kept, ↓foldl_kept, ↓foldl1_kept, ↓onNvm_keeps, ↓mk_kept, ↓ite_kept, ↓fst_ite_kept, ↓snd_ite_kept, ite_self, implies_true]
theorem State.checkFire_kept (s : State) (n : Nat) : (State.checkFire s n).kept = s.kept := by
  unfold State.checkFire; simp only [↓State.fire_kept, ↓foldl_kept, ↓foldl1_kept, ↓onNvm_keeps, ↓mk_kept, ↓ite_kept, ↓fst_ite_kept, ↓snd_ite_kept, ite_self, implies_true]
theorem State.writeCompletion_kept (s : State) (n : Nat) (c : Completion) : (State.writeCompletion s n c).kept = s.kept := by
  unfold State.writeCompletion; simp only [↓State.setRing_kept, ↓State.checkFire_kept, ↓foldl_kept, ↓foldl1_kept, ↓onNvm_keeps, ↓mk_kept, ↓ite_kept, ↓fst_ite_kept, ↓snd_ite_kept, ite_self, implies_true]
theorem State.post_kept (s : State) (n : Nat) (c : Completion) : (State.post s n c).kept = s.kept := by
  unfold State.post; simp only [↓State.onHif_kept, ↓State.writeCompletion_kept, ↓foldl_kept, ↓foldl1_kept, ↓onNvm_keeps, ↓mk_kept, ↓ite_kept, ↓fst_ite_kept, ↓snd_ite_kept, ite_self, implies_true]
theorem State.drainWaiting_kept (s : State) (n : Nat) (l : List (Nat × Completion)) : (State.drainWaiting s n l).kept = s.kept := by
  induction l generalizing s with
  | nil => rfl
  | cons a rest ih =>
    unfold State.drainWaiting
    split
    · rw [ih, State.onHif_kept, State.writeCompletion_kept]
    · exact ih s
theorem State.complete_kept (s : State) (c : CmdRef) (r : CmdResult) : (State.complete s c r).kept = s.kept := by
  unfold State.complete; simp only [↓State.inc_kept, ↓State.post_kept, ↓foldl_kept, ↓foldl1_kept, ↓onNvm_keeps, ↓mk_kept, ↓ite_kept, ↓fst_ite_kept, ↓snd_ite_kept, ite_self, implies_true]
theorem State.finish_kept (s : State) (c : CmdRef) (r : CmdResult) : (State.finish s c r).kept = s.kept := by
  unfold State.finish; simp only [↓State.onHif_kept, ↓State.complete_kept, ↓foldl_kept, ↓foldl1_kept, ↓onNvm_keeps, ↓mk_kept, ↓ite_kept, ↓fst_ite_kept, ↓snd_ite_kept, ite_self, implies_true]
theorem State.command_kept (s : State) (h : CmdHdr) (tamperOk : Bool) (body : CmdRef → State → State × CmdEnd) (hbody : ∀ a0 a1, State.kept (body a0 a1).1 = State.kept a1) : (State.command s h tamperOk body).kept = s.kept := by
  unfold State.command
  repeat' first
    | (simp only [hbody, ↓State.onHif_kept, ↓State.setRing_kept, ↓State.complete_kept, ↓foldl_kept, ↓foldl1_kept, ↓onNvm_keeps, ↓mk_kept, ↓ite_kept, ↓fst_ite_kept, ↓snd_ite_kept, ite_self, implies_true]; done)
    | split
    | (rename_i h; have h' := congrArg (fun p => p.1.kept) h; simp only [hbody, ↓State.onHif_kept, ↓State.setRing_kept, ↓State.complete_kept, ↓foldl_kept, ↓foldl1_kept, ↓onNvm_keeps, ↓mk_kept, ↓ite_kept, ↓fst_ite_kept, ↓snd_ite_kept, ite_self, implies_true] at h'; simp only [hbody, ↓State.onHif_kept, ↓State.setRing_kept, ↓State.complete_kept, ↓foldl_kept, ↓foldl1_kept, ↓onNvm_keeps, ↓mk_kept, ↓ite_kept, ↓fst_ite_kept, ↓snd_ite_kept, ite_self, implies_true, ← h']; done)
    | dsimp only
theorem State.dmaError_kept (s : State) : (State.dmaError s).1.kept = s.kept := by
  unfold State.dmaError; simp only [↓State.inc_kept, ↓foldl_kept, ↓foldl1_kept, ↓onNvm_keeps, ↓mk_kept, ↓ite_kept, ↓fst_ite_kept, ↓snd_ite_kept, ite_self, implies_true]
theorem State.takeBuffer_kept (s : State) (n : Nat) (b : BufDesc) (rest : List BufDesc) (result : List Word) : (State.takeBuffer s n b rest result).1.kept = s.kept := by
  unfold State.takeBuffer; simp only [↓State.setRing_kept, ↓foldl_kept, ↓foldl1_kept, ↓onNvm_keeps, ↓mk_kept, ↓ite_kept, ↓fst_ite_kept, ↓snd_ite_kept, ite_self, implies_true]
theorem State.postRecord_kept (s : State) (c : Completion) : (State.postRecord s c).kept = s.kept := by
  unfold State.postRecord; simp only [↓State.onBsn_kept, ↓State.post_kept, ↓foldl_kept, ↓foldl1_kept, ↓onNvm_keeps, ↓mk_kept, ↓ite_kept, ↓fst_ite_kept, ↓snd_ite_kept, ite_self, implies_true]
theorem State.deliverSlow_kept (s : State) (n : Nat) (type : Nat) (data : List Byte) (result : List Word) (slow : Option (Nat × Nat)) : (State.deliverSlow s n type data result slow).1.kept = s.kept := by
  unfold State.deliverSlow
  repeat' first
    | with_reducible rfl
    | split
    | (rename_i h _; have h' := congrArg (fun p => p.1.kept) h; simp only [↓State.onBsn_kept, ↓State.inc_kept, ↓State.takeBuffer_kept, ↓State.postRecord_kept, ↓foldl_kept, ↓foldl1_kept, ↓onNvm_keeps, ↓mk_kept, ↓ite_kept, ↓fst_ite_kept, ↓snd_ite_kept, ite_self, implies_true] at h'; simp only [↓State.onBsn_kept, ↓State.inc_kept, ↓State.takeBuffer_kept, ↓State.postRecord_kept, ↓foldl_kept, ↓foldl1_kept, ↓onNvm_keeps, ↓mk_kept, ↓ite_kept, ↓fst_ite_kept, ↓snd_ite_kept, ite_self, implies_true, ← h']; done)
    | (rename_i h _ _; have h' := congrArg (fun p => p.1.kept) h; simp only [↓State.onBsn_kept, ↓State.inc_kept, ↓State.takeBuffer_kept, ↓State.postRecord_kept, ↓foldl_kept, ↓foldl1_kept, ↓onNvm_keeps, ↓mk_kept, ↓ite_kept, ↓fst_ite_kept, ↓snd_ite_kept, ite_self, implies_true] at h'; simp only [↓State.onBsn_kept, ↓State.inc_kept, ↓State.takeBuffer_kept, ↓State.postRecord_kept, ↓foldl_kept, ↓foldl1_kept, ↓onNvm_keeps, ↓mk_kept, ↓ite_kept, ↓fst_ite_kept, ↓snd_ite_kept, ite_self, implies_true, ← h']; done)
    | (rename_i h _ _ _ _; have h' := congrArg (fun p => p.1.kept) h; simp only [↓State.onBsn_kept, ↓State.inc_kept, ↓State.takeBuffer_kept, ↓State.postRecord_kept, ↓foldl_kept, ↓foldl1_kept, ↓onNvm_keeps, ↓mk_kept, ↓ite_kept, ↓fst_ite_kept, ↓snd_ite_kept, ite_self, implies_true] at h'; simp only [↓State.onBsn_kept, ↓State.inc_kept, ↓State.takeBuffer_kept, ↓State.postRecord_kept, ↓foldl_kept, ↓foldl1_kept, ↓onNvm_keeps, ↓mk_kept, ↓ite_kept, ↓fst_ite_kept, ↓snd_ite_kept, ite_self, implies_true, ← h']; done)
theorem State.deliver_kept (s : State) (n : Nat) (type : Nat) (data : List Byte) (result : List Word) : (State.deliver s n type data result).1.kept = s.kept := by
  unfold State.deliver; simp only [↓State.deliverSlow_kept, ↓foldl_kept, ↓foldl1_kept, ↓onNvm_keeps, ↓mk_kept, ↓ite_kept, ↓fst_ite_kept, ↓snd_ite_kept, ite_self, implies_true]
theorem State.deliverOr_kept (s : State) (n : Nat) (type : Nat) (data : List Byte) (result : List Word) (dropCnt : Nat) : (State.deliverOr s n type data result dropCnt).kept = s.kept := by
  unfold State.deliverOr
  repeat' first
    | split
    | (rename_i h; have h' := congrArg (fun p => p.1.kept) h; simp only [↓State.inc_kept, ↓State.deliver_kept, ↓foldl_kept, ↓foldl1_kept, ↓onNvm_keeps, ↓mk_kept, ↓ite_kept, ↓fst_ite_kept, ↓snd_ite_kept, ite_self, implies_true] at h'; simp only [↓State.inc_kept, ↓State.deliver_kept, ↓foldl_kept, ↓foldl1_kept, ↓onNvm_keeps, ↓mk_kept, ↓ite_kept, ↓fst_ite_kept, ↓snd_ite_kept, ite_self, implies_true, ← h']; done)
theorem State.deliverFail_kept (s : State) (n : Nat) (type : Nat) (status : Nat) (result : List Word) : (State.deliverFail s n type status result).kept = s.kept := by
  unfold State.deliverFail
  repeat' first
    | (simp only [↓State.takeBuffer_kept, ↓State.postRecord_kept, ↓foldl_kept, ↓foldl1_kept, ↓onNvm_keeps, ↓mk_kept, ↓ite_kept, ↓fst_ite_kept, ↓snd_ite_kept, ite_self, implies_true]; done)
    | split
theorem State.enableRing_kept (s : State) (n : Nat) : (State.enableRing s n).kept = s.kept := by
  unfold State.enableRing; simp only [↓State.setRing_kept, ↓foldl_kept, ↓foldl1_kept, ↓onNvm_keeps, ↓mk_kept, ↓ite_kept, ↓fst_ite_kept, ↓snd_ite_kept, ite_self, implies_true]
theorem State.disableRing_kept (s : State) (n : Nat) : (State.disableRing s n).kept = s.kept := by
  unfold State.disableRing; simp only [↓State.onHif_kept, ↓State.setRing_kept, ↓foldl_kept, ↓foldl1_kept, ↓onNvm_keeps, ↓mk_kept, ↓ite_kept, ↓fst_ite_kept, ↓snd_ite_kept, ite_self, implies_true]
theorem State.ringError_kept (s : State) (n : Nat) (cause : Nat) : (State.ringError s n cause).kept = s.kept := by
  unfold State.ringError; simp only [↓State.setReg_kept, ↓State.setRing_kept, ↓foldl_kept, ↓foldl1_kept, ↓onNvm_keeps, ↓mk_kept, ↓ite_kept, ↓fst_ite_kept, ↓snd_ite_kept, ite_self, implies_true]
theorem State.hostPosts_kept (s : State) (n : Nat) (idx : Nat) (descs : List (List Word)) (readErr : Bool) : (State.hostPosts s n idx descs readErr).kept = s.kept := by
  unfold State.hostPosts; simp only [↓State.inc_kept, ↓State.setRing_kept, ↓State.ringError_kept, ↓foldl_kept, ↓foldl1_kept, ↓onNvm_keeps, ↓mk_kept, ↓ite_kept, ↓fst_ite_kept, ↓snd_ite_kept, ite_self, implies_true]
theorem State.hostConsumes_kept (s : State) (n : Nat) (idx : Nat) : (State.hostConsumes s n idx).kept = s.kept := by
  unfold State.hostConsumes; simp only [↓State.setRing_kept, ↓State.checkFire_kept, ↓State.drainWaiting_kept, ↓State.ringError_kept, ↓foldl_kept, ↓foldl1_kept, ↓onNvm_keeps, ↓mk_kept, ↓ite_kept, ↓fst_ite_kept, ↓snd_ite_kept, ite_self, implies_true]
theorem State.hostIdxWrite_kept (s : State) (n : Nat) (idx : Nat) (descs : List (List Word)) (readErr : Bool) : (State.hostIdxWrite s n idx descs readErr).kept = s.kept := by
  unfold State.hostIdxWrite; simp only [↓State.hostPosts_kept, ↓State.hostConsumes_kept, ↓foldl_kept, ↓foldl1_kept, ↓onNvm_keeps, ↓mk_kept, ↓ite_kept, ↓fst_ite_kept, ↓snd_ite_kept, ite_self, implies_true]
theorem State.hostIdxWord_kept (s : State) (n : Nat) (v : Word) : (State.hostIdxWord s n v).kept = s.kept := by
  unfold State.hostIdxWord; simp only [↓State.freeWords_kept, ↓State.hostIdxWrite_kept, ↓foldl_kept, ↓foldl1_kept, ↓onNvm_keeps, ↓mk_kept, ↓ite_kept, ↓fst_ite_kept, ↓snd_ite_kept, ite_self, implies_true]
theorem execRingEnable_kept (n : Fin 64) (s : State) : ∃ s', execRingEnable n s = .next s' ∧ s'.kept = s.kept := by
  unfold execRingEnable; split <;> exact ⟨_, rfl, by simp only [↓State.enableRing_kept, ↓foldl_kept, ↓foldl1_kept, ↓onNvm_keeps, ↓mk_kept, ↓ite_kept, ↓fst_ite_kept, ↓snd_ite_kept, ite_self, implies_true]⟩
theorem execRingDisable_kept (n : Fin 64) (s : State) : ∃ s', execRingDisable n s = .next s' ∧ s'.kept = s.kept := by
  unfold execRingDisable; split <;> exact ⟨_, rfl, by simp only [↓State.disableRing_kept, ↓foldl_kept, ↓foldl1_kept, ↓onNvm_keeps, ↓mk_kept, ↓ite_kept, ↓fst_ite_kept, ↓snd_ite_kept, ite_self, implies_true]⟩
theorem execDoorbell_kept (n : Fin 64) (idx : BitVec 16) (descs : List (List Word)) (readErr : Bool) (s : State) : ∃ s', execDoorbell n idx descs readErr s = .next s' ∧ s'.kept = s.kept := by
  unfold execDoorbell; split <;> exact ⟨_, rfl, by simp only [↓State.hostIdxWrite_kept, ↓foldl_kept, ↓foldl1_kept, ↓onNvm_keeps, ↓mk_kept, ↓ite_kept, ↓fst_ite_kept, ↓snd_ite_kept, ite_self, implies_true]⟩
theorem execCompletionConsume_kept (n : Fin 64) (idx : BitVec 16) (s : State) : ∃ s', execCompletionConsume n idx s = .next s' ∧ s'.kept = s.kept := by
  unfold execCompletionConsume; split <;> exact ⟨_, rfl, by simp only [↓State.hostIdxWrite_kept, ↓foldl_kept, ↓foldl1_kept, ↓onNvm_keeps, ↓mk_kept, ↓ite_kept, ↓fst_ite_kept, ↓snd_ite_kept, ite_self, implies_true]⟩
theorem execInterruptTimer_kept (n : Fin 64) (s : State) : ∃ s', execInterruptTimer n s = .next s' ∧ s'.kept = s.kept := by
  unfold execInterruptTimer
  repeat' first
    | split
    | dsimp only
    | (refine ⟨_, rfl, ?_⟩; repeat' first
        | simp only [↓State.runToMono_kept, ↓State.checkFire_kept, ↓foldl_kept, ↓foldl1_kept, ↓onNvm_keeps, ↓mk_kept, ↓ite_kept, ↓fst_ite_kept, ↓snd_ite_kept, ite_self, implies_true])
theorem State.resetHostLink_kept (s : State) : (State.resetHostLink s).kept = s.kept := by
  unfold State.resetHostLink; simp only [↓State.onHif_kept, ↓State.onBsn_kept, ↓State.setReg_kept, ↓State.add_kept, ↓State.inc_kept, ↓foldl_kept, ↓foldl1_kept, ↓onNvm_keeps, ↓mk_kept, ↓ite_kept, ↓fst_ite_kept, ↓snd_ite_kept, ite_self, implies_true]
theorem execHostLinkReset_kept (s : State) : ∃ s', execHostLinkReset s = .next s' ∧ s'.kept = s.kept := by
  unfold execHostLinkReset; exact ⟨_, rfl, by simp only [↓State.resetHostLink_kept, ↓foldl_kept, ↓foldl1_kept, ↓onNvm_keeps, ↓mk_kept, ↓ite_kept, ↓fst_ite_kept, ↓snd_ite_kept, ite_self, implies_true]⟩
theorem execPcieLinkUp_kept (speed : Fin 5) (lanes : Fin 9) (s : State) : ∃ s', execPcieLinkUp speed lanes s = .next s' ∧ s'.kept = s.kept := by
  unfold execPcieLinkUp; split <;> exact ⟨_, rfl, by simp only [↓State.onHif_kept, ↓foldl_kept, ↓foldl1_kept, ↓onNvm_keeps, ↓mk_kept, ↓ite_kept, ↓fst_ite_kept, ↓snd_ite_kept, ite_self, implies_true]⟩
theorem execBadOpcode_kept (h : CmdHdr) (opcode : Byte) (s : State) : ∃ s', execBadOpcode h opcode s = .next s' ∧ s'.kept = s.kept := by
  unfold execBadOpcode; split <;> exact ⟨_, rfl, by simp only [↓State.command_kept, ↓foldl_kept, ↓foldl1_kept, ↓onNvm_keeps, ↓mk_kept, ↓ite_kept, ↓fst_ite_kept, ↓snd_ite_kept, ite_self, implies_true]⟩
theorem State.deliverLater_kept (s : State) (c : CmdRef) (r : CmdResult) : (State.deliverLater s c r).1.kept = s.kept := by
  unfold State.deliverLater; simp only [↓State.onHif_kept, ↓foldl_kept, ↓foldl1_kept, ↓onNvm_keeps, ↓mk_kept, ↓ite_kept, ↓fst_ite_kept, ↓snd_ite_kept, ite_self, implies_true]
theorem State.recorded_kept (s : State) (code : Nat) : (State.recorded s code).kept = s.kept := by
  unfold State.recorded; simp only [↓State.onAon_kept, ↓foldl_kept, ↓foldl1_kept, ↓onNvm_keeps, ↓mk_kept, ↓ite_kept, ↓fst_ite_kept, ↓snd_ite_kept, ite_self, implies_true]
theorem State.commitRecord_kept (s : State) (r : List Word) : (State.commitRecord s r).kept = s.kept := by
  unfold State.commitRecord; simp only [↓State.deliverOr_kept, ↓State.recorded_kept, ↓foldl_kept, ↓foldl1_kept, ↓onNvm_keeps, ↓mk_kept, ↓ite_kept, ↓fst_ite_kept, ↓snd_ite_kept, ite_self, implies_true]
theorem State.clearLosses_kept (s : State) : (State.clearLosses s).kept = s.kept := by
  unfold State.clearLosses; simp only [↓State.onEvr_kept, ↓foldl_kept, ↓foldl1_kept, ↓onNvm_keeps, ↓mk_kept, ↓ite_kept, ↓fst_ite_kept, ↓snd_ite_kept, ite_self, implies_true]
theorem State.owedLost_kept (s : State) : (State.owedLost s).kept = s.kept := by
  unfold State.owedLost; simp only [↓State.queueEvent_kept, ↓State.clearLosses_kept, ↓foldl_kept, ↓foldl1_kept, ↓onNvm_keeps, ↓mk_kept, ↓ite_kept, ↓fst_ite_kept, ↓snd_ite_kept, ite_self, implies_true]
theorem State.lostAtStore_kept (s : State) (r : List Word) : (State.lostAtStore s r).kept = s.kept := by
  unfold State.lostAtStore; simp only [↓State.onEvr_kept, ↓State.inc_kept, ↓foldl_kept, ↓foldl1_kept, ↓onNvm_keeps, ↓mk_kept, ↓ite_kept, ↓fst_ite_kept, ↓snd_ite_kept, ite_self, implies_true]
theorem State.drainOne_kept (s : State) : (State.drainOne s).kept = s.kept := by
  unfold State.drainOne; split <;> simp only [↓State.onEvr_kept, ↓State.commitRecord_kept, ↓State.owedLost_kept, ↓State.lostAtStore_kept, ↓foldl_kept, ↓foldl1_kept, ↓onNvm_keeps, ↓mk_kept, ↓ite_kept, ↓fst_ite_kept, ↓snd_ite_kept, ite_self, implies_true]
theorem State.drain_kept (n : Nat) (s : State) : (State.drain n s).kept = s.kept := by
  induction n generalizing s with
  | zero => rfl
  | succ n ih => unfold State.drain; rw [ih, State.drainOne_kept]
theorem State.evrBrace_kept (s : State) : (State.evrBrace s).kept = s.kept := by
  unfold State.evrBrace; simp only [↓State.onEvr_kept, ↓State.commitRecord_kept, ↓State.lostAtStore_kept, ↓State.drain_kept, ↓foldl_kept, ↓foldl1_kept, ↓onNvm_keeps, ↓mk_kept, ↓ite_kept, ↓fst_ite_kept, ↓snd_ite_kept, ite_self, implies_true]
theorem execEvrWrite_kept (s : State) : ∃ s', execEvrWrite s = .next s' ∧ s'.kept = s.kept := by
  unfold execEvrWrite; split <;> exact ⟨_, rfl, by simp only [↓State.run_kept, ↓State.drainOne_kept, ↓foldl_kept, ↓foldl1_kept, ↓onNvm_keeps, ↓mk_kept, ↓ite_kept, ↓fst_ite_kept, ↓snd_ite_kept, ite_self, implies_true]⟩
theorem execRecFreeze_kept (h : CmdHdr) (s : State) : ∃ s', execRecFreeze h s = .next s' ∧ s'.kept = s.kept := by
  unfold execRecFreeze; exact ⟨_, rfl, by simp only [↓State.onEvr_kept, ↓State.command_kept, ↓foldl_kept, ↓foldl1_kept, ↓onNvm_keeps, ↓mk_kept, ↓ite_kept, ↓fst_ite_kept, ↓snd_ite_kept, ite_self, implies_true]⟩
theorem execRecThaw_kept (h : CmdHdr) (s : State) : ∃ s', execRecThaw h s = .next s' ∧ s'.kept = s.kept := by
  unfold execRecThaw; exact ⟨_, rfl, by simp only [↓State.onEvr_kept, ↓State.command_kept, ↓foldl_kept, ↓foldl1_kept, ↓onNvm_keeps, ↓mk_kept, ↓ite_kept, ↓fst_ite_kept, ↓snd_ite_kept, ite_self, implies_true]⟩
theorem execFreezeTimeout_kept (s : State) : ∃ s', execFreezeTimeout s = .next s' ∧ s'.kept = s.kept := by
  unfold execFreezeTimeout; split <;> exact ⟨_, rfl, by simp only [↓State.onEvr_kept, ↓State.inc_kept, ↓State.runToMono_kept, ↓State.event_kept, ↓foldl_kept, ↓foldl1_kept, ↓onNvm_keeps, ↓mk_kept, ↓ite_kept, ↓fst_ite_kept, ↓snd_ite_kept, ite_self, implies_true]⟩
theorem execRecRead_kept (h : CmdHdr) (first : Word) (count : Word) (addr : BitVec 64) (len : Word) (s : State) : ∃ s', execRecRead h first count addr len s = .next s' ∧ s'.kept = s.kept := by
  refine ⟨_, rfl, State.command_kept _ _ _ _ (fun c x => ?_)⟩
  dsimp only
  repeat' first
    | with_reducible rfl
    | exact State.deliverLater_kept ..
    | split
theorem execRecErase_kept (h : CmdHdr) (upTo : Word) (s : State) : ∃ s', execRecErase h upTo s = .next s' ∧ s'.kept = s.kept := by
  unfold execRecErase; exact ⟨_, rfl, by simp only [↓State.onEvr_kept, ↓State.command_kept, ↓State.clearLosses_kept, ↓foldl_kept, ↓foldl1_kept, ↓onNvm_keeps, ↓mk_kept, ↓ite_kept, ↓fst_ite_kept, ↓snd_ite_kept, ite_self, implies_true]⟩
theorem State.checkRecords_kept (n q : Nat) (s : State) : (State.checkRecords n q s).kept = s.kept := by
  induction n generalizing q s with
  | zero => rfl
  | succ n ih =>
    unfold State.checkRecords
    dsimp only
    rw [ih, ite_kept, State.setReg_kept, State.inc_kept, ite_self]
theorem State.tearRecord_kept (s : State) : (State.tearRecord s).kept = s.kept := by
  unfold State.tearRecord; split <;> simp only [↓State.freeWord_kept, ↓foldl_kept, ↓foldl1_kept, ↓onNvm_keeps, ↓mk_kept, ↓ite_kept, ↓fst_ite_kept, ↓snd_ite_kept, ite_self, implies_true]
theorem State.writeBank_kept (s : State) (p : Nat) (n : Bank) : (State.writeBank s p n).kept = s.kept := by
  unfold State.writeBank; simp only [↓State.onNrg_kept, ↓foldl_kept, ↓foldl1_kept, ↓onNvm_keeps, ↓mk_kept, ↓ite_kept, ↓fst_ite_kept, ↓snd_ite_kept, ite_self, implies_true]
theorem State.tearBank_kept (s : State) (p : Nat) : (State.tearBank s p).kept = s.kept := by
  unfold State.tearBank
  repeat' first
    | (refine (State.onNvm_kept _ _ rfl rfl rfl).trans ?_)
    | split
    | (rename_i h _ _ _ _ _; have h' := congrArg (fun p => p.2.kept) h; simp only [↓State.freeWord_kept, ↓foldl_kept, ↓foldl1_kept, ↓onNvm_keeps, ↓mk_kept, ↓ite_kept, ↓fst_ite_kept, ↓snd_ite_kept, ite_self, implies_true] at h'; simp only [↓State.freeWord_kept, ↓foldl_kept, ↓foldl1_kept, ↓onNvm_keeps, ↓mk_kept, ↓ite_kept, ↓fst_ite_kept, ↓snd_ite_kept, ite_self, implies_true, ← h']; done)
    | dsimp only
theorem State.tearBanks_kept (s : State) : (State.tearBanks s).kept = s.kept := by
  unfold State.tearBanks; simp only [↓State.tearBank_kept, ↓foldl_kept, ↓foldl1_kept, ↓onNvm_keeps, ↓mk_kept, ↓ite_kept, ↓fst_ite_kept, ↓snd_ite_kept, ite_self, implies_true]
theorem State.releaseTotals_kept (s : State) : (State.releaseTotals s).kept = s.kept := by
  unfold State.releaseTotals
  extract_lets s1 s2
  have h1 : s1.kept = s.kept := rfl
  clear_value s1
  have h2 : s2.kept = s1.kept := foldl_kept _ (fun x p => (foldl_kept _ (fun y a => State.setReg_kept _ _ _) _ _).trans
    ((State.setReg_kept _ _ _).trans (State.setReg_kept _ _ _))) _ _
  clear_value s2
  rw [State.event_kept, h2, h1]
theorem State.applyNvm_ticket_kept (s : State) (ws : List Word) : (s.applyNvm (.ticket ws)).kept = s.kept := rfl
theorem State.applyNvm_session_kept (s : State) (v : Word) : (s.applyNvm (.session v)).kept = s.kept := rfl
theorem State.applyNvm_tickId_kept (s : State) (v : Nat) : (s.applyNvm (.tickId v)).kept = s.kept := rfl
theorem State.applyNvm_bank_kept (s : State) (p : Nat) (b : Bank) : (s.applyNvm (.bank p b)).kept = s.kept := by
  rw [State.applyNvm, State.writeBank_kept]
theorem State.applyNvm_nrgZero_kept (s : State) : (s.applyNvm .nrgZero).kept = s.kept := by
  rw [State.applyNvm, State.releaseTotals_kept]
theorem State.applyNvm_slot_kept (s : State) (r : CmdRef) : (s.applyNvm (.slot r)).kept = s.kept := rfl
theorem State.nvmWrite_ticket_kept (s : State) (ws : List Word) : (s.nvmWrite (.ticket ws)).kept = s.kept := by
  unfold State.nvmWrite; split
  · exact State.onPwr_kept _ _
  · exact State.applyNvm_ticket_kept _ _
theorem State.nvmWrite_session_kept (s : State) (v : Word) : (s.nvmWrite (.session v)).kept = s.kept := by
  unfold State.nvmWrite; split
  · exact State.onPwr_kept _ _
  · exact State.applyNvm_session_kept _ _
theorem State.nvmWrite_tickId_kept (s : State) (v : Nat) : (s.nvmWrite (.tickId v)).kept = s.kept := by
  unfold State.nvmWrite; split
  · exact State.onPwr_kept _ _
  · exact State.applyNvm_tickId_kept _ _
theorem State.nvmWrite_bank_kept (s : State) (p : Nat) (b : Bank) : (s.nvmWrite (.bank p b)).kept = s.kept := by
  unfold State.nvmWrite; split
  · exact State.onPwr_kept _ _
  · exact State.applyNvm_bank_kept _ _ _
theorem State.nvmWrite_nrgZero_kept (s : State) : (s.nvmWrite (.nrgZero)).kept = s.kept := by
  unfold State.nvmWrite; split
  · exact State.onPwr_kept _ _
  · exact State.applyNvm_nrgZero_kept _
theorem State.nvmWrite_slot_kept (s : State) (r : CmdRef) : (s.nvmWrite (.slot r)).kept = s.kept := by
  unfold State.nvmWrite; split
  · exact State.onPwr_kept _ _
  · exact State.applyNvm_slot_kept _ _
theorem State.nvmWrite_held_kept (s : State) (w : NvmWrite) (h : s.pwr.brace = true) : (s.nvmWrite w).kept = s.kept := by
  unfold State.nvmWrite; rw [if_pos h]; exact State.onPwr_kept _ _
theorem State.checkSlot_kept (s : State) (n : Nat) : (State.checkSlot s n).kept = s.kept := by
  unfold State.checkSlot; simp only [↓State.onSec_kept, ↓State.inc_kept, ↓State.event_kept, ↓foldl_kept, ↓foldl1_kept, ↓onNvm_keeps, ↓mk_kept, ↓ite_kept, ↓fst_ite_kept, ↓snd_ite_kept, ite_self, implies_true]
theorem State.heldKey_kept (s : State) (purpose : Nat) (ctx : List Byte) (slot : Option Nat) : (State.heldKey s purpose ctx slot).1.kept = s.kept := by
  unfold State.heldKey
  repeat' first
    | (simp only [↓State.onSec_kept, ↓foldl_kept, ↓foldl1_kept, ↓onNvm_keeps, ↓mk_kept, ↓ite_kept, ↓fst_ite_kept, ↓snd_ite_kept, ite_self, implies_true]; done)
    | split
theorem State.deriveKey_kept (s : State) (purpose : Nat) (ctx : List Byte) (slot : Option Nat) (ko : List Byte) : (State.deriveKey s purpose ctx slot ko).kept = s.kept := by
  unfold State.deriveKey; simp only [↓State.onSec_kept, ↓State.inc_kept, ↓State.freeBytes_kept, ↓foldl_kept, ↓foldl1_kept, ↓onNvm_keeps, ↓mk_kept, ↓ite_kept, ↓fst_ite_kept, ↓snd_ite_kept, ite_self, implies_true]
theorem State.loadWrapKey_kept (s : State) (n : Nat) : (State.loadWrapKey s n).kept = s.kept := by
  unfold State.loadWrapKey
  repeat' first
    | split
    | (rename_i h; have h' := congrArg (fun p => p.1.kept) h; simp only [↓State.heldKey_kept, ↓State.deriveKey_kept, ↓foldl_kept, ↓foldl1_kept, ↓onNvm_keeps, ↓mk_kept, ↓ite_kept, ↓fst_ite_kept, ↓snd_ite_kept, ite_self, implies_true] at h'; simp only [↓State.heldKey_kept, ↓State.deriveKey_kept, ↓foldl_kept, ↓foldl1_kept, ↓onNvm_keeps, ↓mk_kept, ↓ite_kept, ↓fst_ite_kept, ↓snd_ite_kept, ite_self, implies_true, ← h']; done)
theorem State.unwrapSlot_kept (s : State) (n : Nat) : (State.unwrapSlot s n).kept = s.kept := by
  unfold State.unwrapSlot; simp only [↓State.inc_kept, ↓State.checkSlot_kept, ↓State.loadWrapKey_kept, ↓foldl_kept, ↓foldl1_kept, ↓onNvm_keeps, ↓mk_kept, ↓ite_kept, ↓fst_ite_kept, ↓snd_ite_kept, ite_self, implies_true]
theorem State.checkSlots_kept (s : State) : (State.checkSlots s).kept = s.kept := by
  unfold State.checkSlots; simp only [↓State.unwrapSlot_kept, ↓foldl_kept, ↓foldl1_kept, ↓onNvm_keeps, ↓mk_kept, ↓ite_kept, ↓fst_ite_kept, ↓snd_ite_kept, ite_self, implies_true]
theorem State.unwrapFirst_kept (s : State) (n : Nat) : (State.unwrapFirst s n).kept = s.kept := by
  unfold State.unwrapFirst; simp only [↓State.onSec_kept, ↓State.unwrapSlot_kept, ↓foldl_kept, ↓foldl1_kept, ↓onNvm_keeps, ↓mk_kept, ↓ite_kept, ↓fst_ite_kept, ↓snd_ite_kept, ite_self, implies_true]
theorem State.unwrapBefore_kept (s : State) (slot : Option Nat) : (State.unwrapBefore s slot).kept = s.kept := by
  unfold State.unwrapBefore; split <;> simp only [↓State.unwrapFirst_kept, ↓foldl_kept, ↓foldl1_kept, ↓onNvm_keeps, ↓mk_kept, ↓ite_kept, ↓fst_ite_kept, ↓snd_ite_kept, ite_self, implies_true]
theorem State.loadKey_kept (s : State) (purpose : Nat) (ctx : List Byte) : (State.loadKey s purpose ctx).1.kept = s.kept := by
  unfold State.loadKey
  repeat' first
    | split
    | (rename_i h; have h' := congrArg (fun p => p.1.kept) h; simp only [↓State.heldKey_kept, ↓State.deriveKey_kept, ↓State.unwrapBefore_kept, ↓foldl_kept, ↓foldl1_kept, ↓onNvm_keeps, ↓mk_kept, ↓ite_kept, ↓fst_ite_kept, ↓snd_ite_kept, ite_self, implies_true] at h'; simp only [↓State.heldKey_kept, ↓State.deriveKey_kept, ↓State.unwrapBefore_kept, ↓foldl_kept, ↓foldl1_kept, ↓onNvm_keeps, ↓mk_kept, ↓ite_kept, ↓fst_ite_kept, ↓snd_ite_kept, ite_self, implies_true, ← h']; done)
    | (rename_i h _ _; have h' := congrArg (fun p => p.1.kept) h; simp only [↓State.heldKey_kept, ↓State.deriveKey_kept, ↓State.unwrapBefore_kept, ↓foldl_kept, ↓foldl1_kept, ↓onNvm_keeps, ↓mk_kept, ↓ite_kept, ↓fst_ite_kept, ↓snd_ite_kept, ite_self, implies_true] at h'; simp only [↓State.heldKey_kept, ↓State.deriveKey_kept, ↓State.unwrapBefore_kept, ↓foldl_kept, ↓foldl1_kept, ↓onNvm_keeps, ↓mk_kept, ↓ite_kept, ↓fst_ite_kept, ↓snd_ite_kept, ite_self, implies_true, ← h']; done)
    | (rename_i h _ _ _; have h' := congrArg (fun p => p.1.kept) h; simp only [↓State.heldKey_kept, ↓State.deriveKey_kept, ↓State.unwrapBefore_kept, ↓foldl_kept, ↓foldl1_kept, ↓onNvm_keeps, ↓mk_kept, ↓ite_kept, ↓fst_ite_kept, ↓snd_ite_kept, ite_self, implies_true] at h'; simp only [↓State.heldKey_kept, ↓State.deriveKey_kept, ↓State.unwrapBefore_kept, ↓foldl_kept, ↓foldl1_kept, ↓onNvm_keeps, ↓mk_kept, ↓ite_kept, ↓fst_ite_kept, ↓snd_ite_kept, ite_self, implies_true, ← h']; done)
    | dsimp only
theorem State.clearKeys_kept (s : State) : (State.clearKeys s).kept = s.kept := by
  unfold State.clearKeys
  repeat' first
    | (simp only [↓State.onSec_kept, ↓State.onArc_kept, ↓State.inc_kept, ↓State.finish_kept, ↓foldl_kept, ↓foldl1_kept, ↓onNvm_keeps, ↓mk_kept, ↓ite_kept, ↓fst_ite_kept, ↓snd_ite_kept, ite_self, implies_true]; done)
    | split
    | (refine (foldl_kept _ (fun x a => ?_) _ _).trans ?_)
theorem State.clearSlotKeys_kept (s : State) (n : Nat) : (State.clearSlotKeys s n).kept = s.kept := by
  unfold State.clearSlotKeys; simp only [↓State.onSec_kept, ↓foldl_kept, ↓foldl1_kept, ↓onNvm_keeps, ↓mk_kept, ↓ite_kept, ↓fst_ite_kept, ↓snd_ite_kept, ite_self, implies_true]
theorem State.frameKey_kept (s : State) (hello : Bool) : (State.frameKey s hello).1.kept = s.kept := by
  unfold State.frameKey; simp only [↓State.loadKey_kept, ↓foldl_kept, ↓foldl1_kept, ↓onNvm_keeps, ↓mk_kept, ↓ite_kept, ↓fst_ite_kept, ↓snd_ite_kept, ite_self, implies_true]
theorem State.frameJob_kept (s : State) (seq : Word) (b : LinkBody) : (State.frameJob s seq b).kept = s.kept := by
  unfold State.frameJob
  repeat' first
    | split
    | (rename_i h; have h' := congrArg (fun p => p.1.kept) h; simp only [↓State.onGzl_kept, ↓State.inc_kept, ↓State.frameKey_kept, ↓foldl_kept, ↓foldl1_kept, ↓onNvm_keeps, ↓mk_kept, ↓ite_kept, ↓fst_ite_kept, ↓snd_ite_kept, ite_self, implies_true] at h'; simp only [↓State.onGzl_kept, ↓State.inc_kept, ↓State.frameKey_kept, ↓foldl_kept, ↓foldl1_kept, ↓onNvm_keeps, ↓mk_kept, ↓ite_kept, ↓fst_ite_kept, ↓snd_ite_kept, ite_self, implies_true, ← h']; done)
    | (rename_i h _; have h' := congrArg (fun p => p.1.kept) h; simp only [↓State.onGzl_kept, ↓State.inc_kept, ↓State.frameKey_kept, ↓foldl_kept, ↓foldl1_kept, ↓onNvm_keeps, ↓mk_kept, ↓ite_kept, ↓fst_ite_kept, ↓snd_ite_kept, ite_self, implies_true] at h'; simp only [↓State.onGzl_kept, ↓State.inc_kept, ↓State.frameKey_kept, ↓foldl_kept, ↓foldl1_kept, ↓onNvm_keeps, ↓mk_kept, ↓ite_kept, ↓fst_ite_kept, ↓snd_ite_kept, ite_self, implies_true, ← h']; done)
theorem State.linkTx_kept (s : State) (fs : List (Word × LinkBody)) : (State.linkTx s fs).kept = s.kept := by
  unfold State.linkTx; simp only [↓State.onSec_kept, ↓foldl_kept, ↓foldl1_kept, ↓onNvm_keeps, ↓mk_kept, ↓ite_kept, ↓fst_ite_kept, ↓snd_ite_kept, ite_self, implies_true]
theorem State.pump_kept (n : Nat) (s : State) : (State.pump n s).kept = s.kept := by
  induction n generalizing s with
  | zero => rfl
  | succ n ih =>
    unfold State.pump
    split
    · rfl
    · split
      · rfl
      · rw [ih, State.linkTx_kept, State.onGzl_kept]
theorem State.sendSeq_kept (s : State) (b : LinkBody) : (State.sendSeq s b).kept = s.kept := by
  unfold State.sendSeq; simp only [↓State.onGzl_kept, ↓State.pump_kept, ↓foldl_kept, ↓foldl1_kept, ↓onNvm_keeps, ↓mk_kept, ↓ite_kept, ↓fst_ite_kept, ↓snd_ite_kept, ite_self, implies_true]
theorem State.sendControl_kept (s : State) (b : LinkBody) : (State.sendControl s b).kept = s.kept := by
  unfold State.sendControl; simp only [↓State.linkTx_kept, ↓foldl_kept, ↓foldl1_kept, ↓onNvm_keeps, ↓mk_kept, ↓ite_kept, ↓fst_ite_kept, ↓snd_ite_kept, ite_self, implies_true]
theorem State.startHello_kept (s : State) : (State.startHello s).kept = s.kept := by
  unfold State.startHello; simp only [↓State.onGzl_kept, ↓State.nvmWrite_ticket_kept, ↓State.nvmWrite_ticket_kept, ↓State.nvmWrite_session_kept, ↓State.nvmWrite_tickId_kept, ↓State.nvmWrite_bank_kept, ↓State.nvmWrite_nrgZero_kept, ↓foldl_kept, ↓foldl1_kept, ↓onNvm_keeps, ↓mk_kept, ↓ite_kept, ↓fst_ite_kept, ↓snd_ite_kept, ite_self, implies_true]
theorem State.sessionEnds_kept (s : State) (cause : Nat) : (State.sessionEnds s cause).kept = s.kept := by
  unfold State.sessionEnds; simp only [↓State.onSec_kept, ↓State.onGzl_kept, ↓State.inc_kept, ↓State.setBits_kept, ↓State.event_kept, ↓foldl_kept, ↓foldl1_kept, ↓onNvm_keeps, ↓mk_kept, ↓ite_kept, ↓fst_ite_kept, ↓snd_ite_kept, ite_self, implies_true]
theorem State.sendRegion_kept (s : State) (region : Nat) (words : List Word) : (State.sendRegion s region words).kept = s.kept := by
  unfold State.sendRegion; split <;> simp only [↓State.onGzl_kept, ↓State.sendSeq_kept, ↓foldl_kept, ↓foldl1_kept, ↓onNvm_keeps, ↓mk_kept, ↓ite_kept, ↓fst_ite_kept, ↓snd_ite_kept, ite_self, implies_true]
theorem State.skipRegion_kept (s : State) : (State.skipRegion s).kept = s.kept := by
  unfold State.skipRegion; simp only [↓State.onGzl_kept, ↓foldl_kept, ↓foldl1_kept, ↓onNvm_keeps, ↓mk_kept, ↓ite_kept, ↓fst_ite_kept, ↓snd_ite_kept, ite_self, implies_true]
theorem State.sendTickEnd_kept (s : State) (p : Proc) : (State.sendTickEnd s p).kept = s.kept := by
  unfold State.sendTickEnd; simp only [↓State.onGzl_kept, ↓State.complete_kept, ↓State.sendSeq_kept, ↓foldl_kept, ↓foldl1_kept, ↓onNvm_keeps, ↓mk_kept, ↓ite_kept, ↓fst_ite_kept, ↓snd_ite_kept, ite_self, implies_true]
theorem State.onPort_kept (s : State) (n : Nat) (f : Port → Port) : (State.onPort s n f).kept = s.kept := by
  unfold State.onPort; simp only [↓State.onPrt_kept, ↓foldl_kept, ↓foldl1_kept, ↓onNvm_keeps, ↓mk_kept, ↓ite_kept, ↓fst_ite_kept, ↓snd_ite_kept, ite_self, implies_true]
theorem State.enqueue_kept (s : State) (n : Nat) (x : TxItem) : (State.enqueue s n x).kept = s.kept := by
  unfold State.enqueue; simp only [↓State.inc_kept, ↓State.onPort_kept, ↓foldl_kept, ↓foldl1_kept, ↓onNvm_keeps, ↓mk_kept, ↓ite_kept, ↓fst_ite_kept, ↓snd_ite_kept, ite_self, implies_true]
theorem State.dropQueue_kept (s : State) (n : Nat) : (State.dropQueue s n).kept = s.kept := by
  unfold State.dropQueue; simp only [↓State.add_kept, ↓State.onPort_kept, ↓foldl_kept, ↓foldl1_kept, ↓onNvm_keeps, ↓mk_kept, ↓ite_kept, ↓fst_ite_kept, ↓snd_ite_kept, ite_self, implies_true]
theorem State.send_kept (s : State) (n : Nat) (x : TxItem) : (State.send s n x).kept = s.kept := by
  unfold State.send; simp only [↓State.onPrt_kept, ↓State.enqueue_kept, ↓foldl_kept, ↓foldl1_kept, ↓onNvm_keeps, ↓mk_kept, ↓ite_kept, ↓fst_ite_kept, ↓snd_ite_kept, ite_self, implies_true]
theorem State.purgeMuted_kept (s : State) (n : Nat) : (State.purgeMuted s n).kept = s.kept := by
  unfold State.purgeMuted; simp only [↓State.add_kept, ↓State.onPort_kept, ↓foldl_kept, ↓foldl1_kept, ↓onNvm_keeps, ↓mk_kept, ↓ite_kept, ↓fst_ite_kept, ↓snd_ite_kept, ite_self, implies_true]
theorem State.abortFrame_kept (s : State) (n : Nat) : (State.abortFrame s n).kept = s.kept := by
  unfold State.abortFrame; simp only [↓State.add_kept, ↓State.inc_kept, ↓State.onPort_kept, ↓foldl_kept, ↓foldl1_kept, ↓onNvm_keeps, ↓mk_kept, ↓ite_kept, ↓fst_ite_kept, ↓snd_ite_kept, ite_self, implies_true]
theorem State.portDown_kept (s : State) (n : Nat) : (State.portDown s n).kept = s.kept := by
  unfold State.portDown; simp only [↓State.onPort_kept, ↓State.dropQueue_kept, ↓State.abortFrame_kept, ↓foldl_kept, ↓foldl1_kept, ↓onNvm_keeps, ↓mk_kept, ↓ite_kept, ↓fst_ite_kept, ↓snd_ite_kept, ite_self, implies_true]
theorem State.linkLost_kept (s : State) (n : Nat) : (State.linkLost s n).kept = s.kept := by
  unfold State.linkLost; simp only [↓State.inc_kept, ↓State.portDown_kept, ↓foldl_kept, ↓foldl1_kept, ↓onNvm_keeps, ↓mk_kept, ↓ite_kept, ↓fst_ite_kept, ↓snd_ite_kept, ite_self, implies_true]
theorem State.disablePort_kept (s : State) (n : Nat) (d : Bool) : (State.disablePort s n d).kept = s.kept := by
  unfold State.disablePort; simp only [↓State.onPort_kept, ↓State.portDown_kept, ↓foldl_kept, ↓foldl1_kept, ↓onNvm_keeps, ↓mk_kept, ↓ite_kept, ↓fst_ite_kept, ↓snd_ite_kept, ite_self, implies_true]
theorem State.ddEnter_kept (s : State) (source : BitVec 48) (seq : Nat) (dir : BitVec 2) : (State.ddEnter s source seq dir).1.kept = s.kept := by
  unfold State.ddEnter
  repeat' first
    | (simp only [↓State.onPrt_kept, ↓State.inc_kept, ↓foldl_kept, ↓foldl1_kept, ↓onNvm_keeps, ↓mk_kept, ↓ite_kept, ↓fst_ite_kept, ↓snd_ite_kept, ite_self, implies_true]; done)
    | split
    | dsimp only
theorem State.reinitGroup_kept (s : State) (g : Nat) (cause : Nat) : (State.reinitGroup s g cause).kept = s.kept := by
  unfold State.reinitGroup; simp only [↓State.onMod_kept, ↓State.setReg_kept, ↓State.inc_kept, ↓foldl_kept, ↓foldl1_kept, ↓onNvm_keeps, ↓mk_kept, ↓ite_kept, ↓fst_ite_kept, ↓snd_ite_kept, ite_self, implies_true]
theorem State.reinitAll_kept (s : State) (cause : Nat) : (State.reinitAll s cause).kept = s.kept := by
  unfold State.reinitAll; simp only [↓State.reinitGroup_kept, ↓foldl_kept, ↓foldl1_kept, ↓onNvm_keeps, ↓mk_kept, ↓ite_kept, ↓fst_ite_kept, ↓snd_ite_kept, ite_self, implies_true]
theorem State.modSwitch_kept (s : State) (old : Img) (first : Bool) : (State.modSwitch s old first).kept = s.kept := by
  unfold State.modSwitch; simp only [↓State.onMod_kept, ↓State.reinitGroup_kept, ↓foldl_kept, ↓foldl1_kept, ↓onNvm_keeps, ↓mk_kept, ↓ite_kept, ↓fst_ite_kept, ↓snd_ite_kept, ite_self, implies_true]
theorem State.modError_kept (s : State) (k : ErrKind) (g : Nat) (slot : Bool) : (State.modError s k g slot).kept = s.kept := by
  unfold State.modError; split <;> simp only [↓State.onMod_kept, ↓State.setReg_kept, ↓State.inc_kept, ↓State.reinitGroup_kept, ↓foldl_kept, ↓foldl1_kept, ↓onNvm_keeps, ↓mk_kept, ↓ite_kept, ↓fst_ite_kept, ↓snd_ite_kept, ite_self, implies_true]
theorem State.countMod_kept (s : State) (g : Nat) (r : ModResult) : (State.countMod s g r).kept = s.kept := by
  unfold State.countMod
  repeat' first
    | (simp only [↓State.setReg_kept, ↓State.add_kept, ↓State.inc_kept, ↓foldl_kept, ↓foldl1_kept, ↓onNvm_keeps, ↓mk_kept, ↓ite_kept, ↓fst_ite_kept, ↓snd_ite_kept, ite_self, implies_true]; done)
    | split
theorem State.processFeed_kept (s : State) (feed : ModFeed) (cut : Bool) : (State.processFeed s feed cut).1.kept = s.kept := by
  unfold State.processFeed
  split
  · rfl
  · extract_lets a g x slot cur r
    have hw := State.freeWords_kept s 1
    generalize s.freeWords 1 = q at hw
    rcases q with ⟨ws, t⟩
    clear_value r
    cases modeAge _ r.group with
    | some n => exact (State.countMod_kept ..).trans (State.onMod_kept ..)
    | none => exact ((State.countMod_kept ..).trans (State.onMod_kept ..)).trans hw
theorem State.modBusy_kept (s : State) (p : Nat) (n : Nat) : (State.modBusy s p n).kept = s.kept := by
  unfold State.modBusy; simp only [↓State.onMod_kept, ↓State.peak_kept, ↓foldl_kept, ↓foldl1_kept, ↓onNvm_keeps, ↓mk_kept, ↓ite_kept, ↓fst_ite_kept, ↓snd_ite_kept, ite_self, implies_true]
theorem State.modHandOver_kept (s : State) (g : Nat) (words : List Word) (flags : BitVec 2) : (State.modHandOver s g words flags).kept = s.kept := by
  unfold State.modHandOver; simp only [↓State.onMod_kept, ↓foldl_kept, ↓foldl1_kept, ↓onNvm_keeps, ↓mk_kept, ↓ite_kept, ↓fst_ite_kept, ↓snd_ite_kept, ite_self, implies_true]
theorem State.modOverrun_kept (s : State) (variant : Nat) : (State.modOverrun s variant).kept = s.kept := by
  unfold State.modOverrun; simp only [↓State.onMod_kept, ↓State.add_kept, ↓State.processFeed_kept, ↓foldl_kept, ↓foldl1_kept, ↓onNvm_keeps, ↓mk_kept, ↓ite_kept, ↓fst_ite_kept, ↓snd_ite_kept, ite_self, implies_true]
theorem State.modBegin_kept (s : State) : (State.modBegin s).kept = s.kept := by
  unfold State.modBegin; simp only [↓State.onMod_kept, ↓foldl_kept, ↓foldl1_kept, ↓onNvm_keeps, ↓mk_kept, ↓ite_kept, ↓fst_ite_kept, ↓snd_ite_kept, ite_self, implies_true]
theorem State.onCol_kept (s : State) (tick : Nat) (f : Column → Column) : (State.onCol s tick f).kept = s.kept := by
  unfold State.onCol; simp only [↓State.onBsn_kept, ↓foldl_kept, ↓foldl1_kept, ↓onNvm_keeps, ↓mk_kept, ↓ite_kept, ↓fst_ite_kept, ↓snd_ite_kept, ite_self, implies_true]
theorem State.openColumn_kept (s : State) : (State.openColumn s).kept = s.kept := by
  unfold State.openColumn; simp only [↓State.onTck_kept, ↓State.onBsn_kept, ↓foldl_kept, ↓foldl1_kept, ↓onNvm_keeps, ↓mk_kept, ↓ite_kept, ↓fst_ite_kept, ↓snd_ite_kept, ite_self, implies_true]
theorem execOpen_kept (s : State) : (execOpen s).kept = s.kept := by
  unfold execOpen; simp only [↓State.runTo_kept, ↓State.openColumn_kept, ↓foldl_kept, ↓foldl1_kept, ↓onNvm_keeps, ↓mk_kept, ↓ite_kept, ↓fst_ite_kept, ↓snd_ite_kept, ite_self, implies_true]
theorem State.logCell_kept (s : State) (slot : Nat) (f : Nat) (u : Nat) (tick : Word) : (State.logCell s slot f u tick).kept = s.kept := by
  unfold State.logCell; simp only [↓State.setReg_kept, ↓State.inc_kept, ↓foldl_kept, ↓foldl1_kept, ↓onNvm_keeps, ↓mk_kept, ↓ite_kept, ↓fst_ite_kept, ↓snd_ite_kept, ite_self, implies_true]
theorem State.cellError_kept (s : State) (k : ErrKind) (slot : Nat) (f : Nat) (u : Nat) : (State.cellError s k slot f u).kept = s.kept := by
  unfold State.cellError
  repeat' first
    | (simp only [↓State.inc_kept, ↓State.freeWords_kept, ↓State.onCol_kept, ↓State.logCell_kept, ↓foldl_kept, ↓foldl1_kept, ↓onNvm_keeps, ↓mk_kept, ↓ite_kept, ↓fst_ite_kept, ↓snd_ite_kept, ite_self, implies_true]; done)
    | split
    | (rename_i h _ _; have h' := congrArg (fun p => p.2.kept) h; simp only [↓State.inc_kept, ↓State.freeWords_kept, ↓State.onCol_kept, ↓State.logCell_kept, ↓foldl_kept, ↓foldl1_kept, ↓onNvm_keeps, ↓mk_kept, ↓ite_kept, ↓fst_ite_kept, ↓snd_ite_kept, ite_self, implies_true] at h'; simp only [↓State.inc_kept, ↓State.freeWords_kept, ↓State.onCol_kept, ↓State.logCell_kept, ↓foldl_kept, ↓foldl1_kept, ↓onNvm_keeps, ↓mk_kept, ↓ite_kept, ↓fst_ite_kept, ↓snd_ite_kept, ite_self, implies_true, ← h']; done)
    | (rename_i h _ _ _; have h' := congrArg (fun p => p.2.kept) h; simp only [↓State.inc_kept, ↓State.freeWords_kept, ↓State.onCol_kept, ↓State.logCell_kept, ↓foldl_kept, ↓foldl1_kept, ↓onNvm_keeps, ↓mk_kept, ↓ite_kept, ↓fst_ite_kept, ↓snd_ite_kept, ite_self, implies_true] at h'; simp only [↓State.inc_kept, ↓State.freeWords_kept, ↓State.onCol_kept, ↓State.logCell_kept, ↓foldl_kept, ↓foldl1_kept, ↓onNvm_keeps, ↓mk_kept, ↓ite_kept, ↓fst_ite_kept, ↓snd_ite_kept, ite_self, implies_true, ← h']; done)
theorem State.streamError_kept (s : State) (k : ErrKind) (f : Nat) (scale : Bool) : (State.streamError s k f scale).kept = s.kept := by
  unfold State.streamError; split <;> simp only [↓State.onBsn_kept, ↓State.inc_kept, ↓foldl_kept, ↓foldl1_kept, ↓onNvm_keeps, ↓mk_kept, ↓ite_kept, ↓fst_ite_kept, ↓snd_ite_kept, ite_self, implies_true]
theorem State.runError_kept (s : State) (k : ErrKind) (f : Nat) : (State.runError s k f).kept = s.kept := by
  unfold State.runError; split <;> simp only [↓State.onBsn_kept, ↓State.inc_kept, ↓foldl_kept, ↓foldl1_kept, ↓onNvm_keeps, ↓mk_kept, ↓ite_kept, ↓fst_ite_kept, ↓snd_ite_kept, ite_self, implies_true]
theorem State.placeBlock_kept (s : State) (b : Block) (gap : Bool) (poor : Bool) : (State.placeBlock s b gap poor).1.kept = s.kept := by
  unfold State.placeBlock; split <;> simp only [↓State.onBsn_kept, ↓State.inc_kept, ↓State.onCol_kept, ↓foldl_kept, ↓foldl1_kept, ↓onNvm_keeps, ↓mk_kept, ↓ite_kept, ↓fst_ite_kept, ↓snd_ite_kept, ite_self, implies_true]
theorem State.windowed_kept (s : State) (c : Column) : (State.windowed s c).kept = s.kept := by
  unfold State.windowed; simp only [↓State.onBsn_kept, ↓foldl_kept, ↓foldl1_kept, ↓onNvm_keeps, ↓mk_kept, ↓ite_kept, ↓fst_ite_kept, ↓snd_ite_kept, ite_self, implies_true]
theorem State.withdraw_kept (s : State) (which : Column → Bool) : (State.withdraw s which).kept = s.kept := by
  unfold State.withdraw; simp only [↓State.onBsn_kept, ↓State.add_kept, ↓foldl_kept, ↓foldl1_kept, ↓onNvm_keeps, ↓mk_kept, ↓ite_kept, ↓fst_ite_kept, ↓snd_ite_kept, ite_self, implies_true]
theorem State.flush_kept (s : State) : (State.flush s).1.kept = s.kept := by
  unfold State.flush; simp only [↓State.onBsn_kept, ↓State.add_kept, ↓State.windowed_kept, ↓foldl_kept, ↓foldl1_kept, ↓onNvm_keeps, ↓mk_kept, ↓ite_kept, ↓fst_ite_kept, ↓snd_ite_kept, ite_self, implies_true]
theorem State.switchCells_kept (s : State) (changed : List Nat) : (State.switchCells s changed).kept = s.kept := by
  unfold State.switchCells; simp only [↓State.onBsn_kept, ↓State.add_kept, ↓foldl_kept, ↓foldl1_kept, ↓onNvm_keeps, ↓mk_kept, ↓ite_kept, ↓fst_ite_kept, ↓snd_ite_kept, ite_self, implies_true]
theorem State.reinitCells_kept (s : State) : (State.reinitCells s).kept = s.kept := by
  unfold State.reinitCells; simp only [↓State.onBsn_kept, ↓foldl_kept, ↓foldl1_kept, ↓onNvm_keeps, ↓mk_kept, ↓ite_kept, ↓fst_ite_kept, ↓snd_ite_kept, ite_self, implies_true]
theorem State.countPass_kept (s : State) (r : TopResult) (passNs : Nat) : (State.countPass s r passNs).kept = s.kept := by
  unfold State.countPass; simp only [↓State.setReg_kept, ↓State.add_kept, ↓State.inc_kept, ↓State.peak_kept, ↓foldl_kept, ↓foldl1_kept, ↓onNvm_keeps, ↓mk_kept, ↓ite_kept, ↓fst_ite_kept, ↓snd_ite_kept, ite_self, implies_true]
theorem State.topHandOver_kept (s : State) (block : Nat) (words : List Word) (flags : BitVec 2) : (State.topHandOver s block words flags).kept = s.kept := by
  unfold State.topHandOver; simp only [↓State.onTop_kept, ↓foldl_kept, ↓foldl1_kept, ↓onNvm_keeps, ↓mk_kept, ↓ite_kept, ↓fst_ite_kept, ↓snd_ite_kept, ite_self, implies_true]
theorem State.topBegin_kept (s : State) : (State.topBegin s).kept = s.kept := by
  unfold State.topBegin; simp only [↓State.onTop_kept, ↓foldl_kept, ↓foldl1_kept, ↓onNvm_keeps, ↓mk_kept, ↓ite_kept, ↓fst_ite_kept, ↓snd_ite_kept, ite_self, implies_true]
theorem State.topSwitch_kept (s : State) (old : Img) : (State.topSwitch s old).kept = s.kept := by
  unfold State.topSwitch; simp only [↓State.onTop_kept, ↓foldl_kept, ↓foldl1_kept, ↓onNvm_keeps, ↓mk_kept, ↓ite_kept, ↓fst_ite_kept, ↓snd_ite_kept, ite_self, implies_true]
theorem State.topError_kept (s : State) (k : ErrKind) (area : Nat) (index : Nat) : (State.topError s k area index).kept = s.kept := by
  unfold State.topError; split <;> simp only [↓State.onTop_kept, ↓State.setReg_kept, ↓State.inc_kept, ↓foldl_kept, ↓foldl1_kept, ↓onNvm_keeps, ↓mk_kept, ↓ite_kept, ↓fst_ite_kept, ↓snd_ite_kept, ite_self, implies_true]
theorem State.goosePort_kept (s : State) (n : Nat) (t : Nat) (bs : List Byte) : (State.goosePort s n t bs).kept = s.kept := by
  unfold State.goosePort; simp only [↓State.onPort_kept, ↓State.enqueue_kept, ↓foldl_kept, ↓foldl1_kept, ↓onNvm_keeps, ↓mk_kept, ↓ite_kept, ↓fst_ite_kept, ↓snd_ite_kept, ite_self, implies_true]
theorem State.gooseSend_kept (s : State) (t : Nat) (bs : List Byte) (replace : Bool) : (State.gooseSend s t bs replace).kept = s.kept := by
  unfold State.gooseSend; simp only [↓State.onPrt_kept, ↓State.enqueue_kept, ↓State.goosePort_kept, ↓foldl_kept, ↓foldl1_kept, ↓onNvm_keeps, ↓mk_kept, ↓ite_kept, ↓fst_ite_kept, ↓snd_ite_kept, ite_self, implies_true]
theorem State.gooseChange_kept (s : State) (t : Nat) : (State.gooseChange s t).kept = s.kept := by
  unfold State.gooseChange; simp only [↓State.onAlm_kept, ↓State.inc_kept, ↓State.gooseSend_kept, ↓foldl_kept, ↓foldl1_kept, ↓onNvm_keeps, ↓mk_kept, ↓ite_kept, ↓fst_ite_kept, ↓snd_ite_kept, ite_self, implies_true]
theorem State.gooseRefresh_kept (s : State) (t : Nat) : (State.gooseRefresh s t).kept = s.kept := by
  unfold State.gooseRefresh; simp only [↓State.gooseChange_kept, ↓foldl_kept, ↓foldl1_kept, ↓onNvm_keeps, ↓mk_kept, ↓ite_kept, ↓fst_ite_kept, ↓snd_ite_kept, ite_self, implies_true]
theorem State.alarmToRing_kept (s : State) (ws : List Word) : (State.alarmToRing s ws).kept = s.kept := by
  unfold State.alarmToRing; simp only [↓State.inc_kept, ↓State.deliverOr_kept, ↓foldl_kept, ↓foldl1_kept, ↓onNvm_keeps, ↓mk_kept, ↓ite_kept, ↓fst_ite_kept, ↓snd_ite_kept, ite_self, implies_true]
theorem State.alarmToPartner_kept (s : State) (ws : List Word) : (State.alarmToPartner s ws).kept = s.kept := by
  unfold State.alarmToPartner; simp only [↓State.sendSeq_kept, ↓foldl_kept, ↓foldl1_kept, ↓onNvm_keeps, ↓mk_kept, ↓ite_kept, ↓fst_ite_kept, ↓snd_ite_kept, ite_self, implies_true]
theorem State.formRecord_kept (s : State) (a : Img) (c : AlarmColumn) (tr : Nat) (r : Nat) (unc : Bool) (value : Word) (subject : Word) (templates : Bool) : (State.formRecord s a c tr r unc value subject templates).kept = s.kept := by
  unfold State.formRecord; split <;> simp only [↓State.onAlm_kept, ↓State.inc_kept, ↓State.event_kept, ↓State.gooseRefresh_kept, ↓State.alarmToRing_kept, ↓State.alarmToPartner_kept, ↓foldl_kept, ↓foldl1_kept, ↓onNvm_keeps, ↓mk_kept, ↓ite_kept, ↓fst_ite_kept, ↓snd_ite_kept, ite_self, implies_true]
theorem State.formGlobal_kept (s : State) (tick : Nat) (closeAt : Nat) (entering : Bool) : (State.formGlobal s tick closeAt entering).kept = s.kept := by
  unfold State.formGlobal; simp only [↓State.onAlm_kept, ↓State.inc_kept, ↓State.alarmToRing_kept, ↓State.alarmToPartner_kept, ↓foldl_kept, ↓foldl1_kept, ↓onNvm_keeps, ↓mk_kept, ↓ite_kept, ↓fst_ite_kept, ↓snd_ite_kept, ite_self, implies_true]
theorem State.evaluate_kept (s : State) (e : AlarmEval) : (State.evaluate s e).kept = s.kept := by
  unfold State.evaluate; simp only [↓State.onAlm_kept, ↓State.inc_kept, ↓State.formRecord_kept, ↓foldl_kept, ↓foldl1_kept, ↓onNvm_keeps, ↓mk_kept, ↓ite_kept, ↓fst_ite_kept, ↓snd_ite_kept, ite_self, implies_true]
theorem State.almHandOver_kept (s : State) (e : AlarmEval) : (State.almHandOver s e).kept = s.kept := by
  unfold State.almHandOver; simp only [↓State.onAlm_kept, ↓foldl_kept, ↓foldl1_kept, ↓onNvm_keeps, ↓mk_kept, ↓ite_kept, ↓fst_ite_kept, ↓snd_ite_kept, ite_self, implies_true]
theorem State.evaluateNext_kept (s : State) : (State.evaluateNext s).kept = s.kept := by
  unfold State.evaluateNext; split <;> simp only [↓State.onAlm_kept, ↓State.evaluate_kept, ↓foldl_kept, ↓foldl1_kept, ↓onNvm_keeps, ↓mk_kept, ↓ite_kept, ↓fst_ite_kept, ↓snd_ite_kept, ite_self, implies_true]
theorem State.evaluateAll_kept (n : Nat) (s : State) : (State.evaluateAll n s).kept = s.kept := by
  induction n generalizing s with
  | zero => rfl
  | succ n ih => unfold State.evaluateAll; rw [ih, State.evaluateNext_kept]
theorem State.suspendRules_kept (s : State) (c : AlarmColumn) : (State.suspendRules s c).kept = s.kept := by
  unfold State.suspendRules; simp only [↓State.onAlm_kept, ↓State.formRecord_kept, ↓foldl_kept, ↓foldl1_kept, ↓onNvm_keeps, ↓mk_kept, ↓ite_kept, ↓fst_ite_kept, ↓snd_ite_kept, ite_self, implies_true]
theorem State.announceTemplates_kept (s : State) : (State.announceTemplates s).kept = s.kept := by
  unfold State.announceTemplates; simp only [↓State.onAlm_kept, ↓State.gooseChange_kept, ↓foldl_kept, ↓foldl1_kept, ↓onNvm_keeps, ↓mk_kept, ↓ite_kept, ↓fst_ite_kept, ↓snd_ite_kept, ite_self, implies_true]
theorem State.alarmClose_kept (s : State) (c : AlarmColumn) : (State.alarmClose s c).kept = s.kept := by
  unfold State.alarmClose; simp only [↓State.suspendRules_kept, ↓State.announceTemplates_kept, ↓foldl_kept, ↓foldl1_kept, ↓onNvm_keeps, ↓mk_kept, ↓ite_kept, ↓fst_ite_kept, ↓snd_ite_kept, ite_self, implies_true]
theorem State.alarmSwitch_kept (s : State) (old : Img) (c : AlarmColumn) : (State.alarmSwitch s old c).kept = s.kept := by
  unfold State.alarmSwitch; simp only [↓State.onAlm_kept, ↓State.gooseRefresh_kept, ↓State.formRecord_kept, ↓foldl_kept, ↓foldl1_kept, ↓onNvm_keeps, ↓mk_kept, ↓ite_kept, ↓fst_ite_kept, ↓snd_ite_kept, ite_self, implies_true]
theorem State.alarmFail_kept (s : State) (tick : Nat) (closeAt : Nat) : (State.alarmFail s tick closeAt).kept = s.kept := by
  unfold State.alarmFail; simp only [↓State.onAlm_kept, ↓State.gooseChange_kept, ↓State.formGlobal_kept, ↓foldl_kept, ↓foldl1_kept, ↓onNvm_keeps, ↓mk_kept, ↓ite_kept, ↓fst_ite_kept, ↓snd_ite_kept, ite_self, implies_true]
theorem State.alarmFailEnds_kept (s : State) (tick : Nat) (closeAt : Nat) : (State.alarmFailEnds s tick closeAt).kept = s.kept := by
  unfold State.alarmFailEnds; simp only [↓State.onAlm_kept, ↓State.gooseChange_kept, ↓State.formGlobal_kept, ↓foldl_kept, ↓foldl1_kept, ↓onNvm_keeps, ↓mk_kept, ↓ite_kept, ↓fst_ite_kept, ↓snd_ite_kept, ite_self, implies_true]
theorem State.almError_kept (s : State) (k : ErrKind) (template : Bool) (i : Nat) : (State.almError s k template i).kept = s.kept := by
  unfold State.almError; split <;> simp only [↓State.onAlm_kept, ↓State.setReg_kept, ↓State.inc_kept, ↓State.formRecord_kept, ↓foldl_kept, ↓foldl1_kept, ↓onNvm_keeps, ↓mk_kept, ↓ite_kept, ↓fst_ite_kept, ↓snd_ite_kept, ite_self, implies_true]
theorem State.countPlan_kept (s : State) (p : FillPlan) : (State.countPlan s p).kept = s.kept := by
  unfold State.countPlan
  repeat' first
    | (simp only [↓State.inc_kept, ↓foldl_kept, ↓foldl1_kept, ↓onNvm_keeps, ↓mk_kept, ↓ite_kept, ↓fst_ite_kept, ↓snd_ite_kept, ite_self, implies_true]; done)
    | split
    | (refine (foldl_kept _ (fun x a => ?_) _ _).trans ?_)
theorem State.closeCells_kept (s : State) (c : Column) (fill : Bool) (mark : Column → Column) : (State.closeCells s c fill mark).kept = s.kept := by
  unfold State.closeCells; simp only [↓State.onBsn_kept, ↓State.run_kept, ↓State.onCol_kept, ↓State.countPlan_kept, ↓foldl_kept, ↓foldl1_kept, ↓onNvm_keeps, ↓mk_kept, ↓ite_kept, ↓fst_ite_kept, ↓snd_ite_kept, ite_self, implies_true]
theorem State.prdError_kept (s : State) (k : ErrKind) (f : Nat) : (State.prdError s k f).kept = s.kept := by
  unfold State.prdError; split <;> simp only [↓State.setReg_kept, ↓State.inc_kept, ↓foldl_kept, ↓foldl1_kept, ↓onNvm_keeps, ↓mk_kept, ↓ite_kept, ↓fst_ite_kept, ↓snd_ite_kept, ite_self, implies_true]
theorem State.arcDeliver_kept (s : State) (c : Column) : (State.arcDeliver s c).kept = s.kept := by
  unfold State.arcDeliver; simp only [↓State.onArc_kept, ↓foldl_kept, ↓foldl1_kept, ↓onNvm_keeps, ↓mk_kept, ↓ite_kept, ↓fst_ite_kept, ↓snd_ite_kept, ite_self, implies_true]
theorem State.endBlock_kept (s : State) (b : ArcBlock) : (State.endBlock s b).kept = s.kept := by
  unfold State.endBlock; simp only [↓State.onSec_kept, ↓State.onArc_kept, ↓foldl_kept, ↓foldl1_kept, ↓onNvm_keeps, ↓mk_kept, ↓ite_kept, ↓fst_ite_kept, ↓snd_ite_kept, ite_self, implies_true]
theorem State.endOpen_kept (s : State) (g : Nat) : (State.endOpen s g).kept = s.kept := by
  unfold State.endOpen; split <;> simp only [↓State.onArc_kept, ↓State.endBlock_kept, ↓foldl_kept, ↓foldl1_kept, ↓onNvm_keeps, ↓mk_kept, ↓ite_kept, ↓fst_ite_kept, ↓snd_ite_kept, ite_self, implies_true]
theorem State.endSide_kept (s : State) : (State.endSide s).kept = s.kept := by
  unfold State.endSide; simp only [↓State.onArc_kept, ↓State.endBlock_kept, ↓foldl_kept, ↓foldl1_kept, ↓onNvm_keeps, ↓mk_kept, ↓ite_kept, ↓fst_ite_kept, ↓snd_ite_kept, ite_self, implies_true]
theorem State.lateBlock_kept (s : State) (f : Nat) (tick : Nat) (cells : List (Nat × Cell)) : (State.lateBlock s f tick cells).kept = s.kept := by
  unfold State.lateBlock; simp only [↓State.onArc_kept, ↓State.endSide_kept, ↓foldl_kept, ↓foldl1_kept, ↓onNvm_keeps, ↓mk_kept, ↓ite_kept, ↓fst_ite_kept, ↓snd_ite_kept, ite_self, implies_true]
theorem State.arcTake_kept (s : State) (c : Column) (dir : Byte) (g : Nat) : (State.arcTake s c dir g).kept = s.kept := by
  unfold State.arcTake; simp only [↓State.onArc_kept, ↓State.endOpen_kept, ↓foldl_kept, ↓foldl1_kept, ↓onNvm_keeps, ↓mk_kept, ↓ite_kept, ↓fst_ite_kept, ↓snd_ite_kept, ite_self, implies_true]
theorem State.arcError_kept (s : State) (k : ErrKind) (g : Nat) : (State.arcError s k g).kept = s.kept := by
  unfold State.arcError; split <;> simp only [↓State.onArc_kept, ↓State.inc_kept, ↓foldl_kept, ↓foldl1_kept, ↓onNvm_keeps, ↓mk_kept, ↓ite_kept, ↓fst_ite_kept, ↓snd_ite_kept, ite_self, implies_true]
theorem State.sealSegment_kept (s : State) (id : Nat) : (State.sealSegment s id).kept = s.kept := by
  unfold State.sealSegment
  repeat' first
    | with_reducible rfl
    | split
    | (rename_i h; have h' := congrArg (fun p => p.1.kept) h; simp only [↓State.onSec_kept, ↓State.onArc_kept, ↓State.inc_kept, ↓State.loadKey_kept, ↓foldl_kept, ↓foldl1_kept, ↓onNvm_keeps, ↓mk_kept, ↓ite_kept, ↓fst_ite_kept, ↓snd_ite_kept, ite_self, implies_true] at h'; simp only [↓State.onSec_kept, ↓State.onArc_kept, ↓State.inc_kept, ↓State.loadKey_kept, ↓foldl_kept, ↓foldl1_kept, ↓onNvm_keeps, ↓mk_kept, ↓ite_kept, ↓fst_ite_kept, ↓snd_ite_kept, ite_self, implies_true, ← h']; done)
    | (rename_i h _ _; have h' := congrArg (fun p => p.1.kept) h; simp only [↓State.onSec_kept, ↓State.onArc_kept, ↓State.inc_kept, ↓State.loadKey_kept, ↓foldl_kept, ↓foldl1_kept, ↓onNvm_keeps, ↓mk_kept, ↓ite_kept, ↓fst_ite_kept, ↓snd_ite_kept, ite_self, implies_true] at h'; simp only [↓State.onSec_kept, ↓State.onArc_kept, ↓State.inc_kept, ↓State.loadKey_kept, ↓foldl_kept, ↓foldl1_kept, ↓onNvm_keeps, ↓mk_kept, ↓ite_kept, ↓fst_ite_kept, ↓snd_ite_kept, ite_self, implies_true, ← h']; done)
    | (rename_i h _ _ _ _; have h' := congrArg (fun p => p.1.kept) h; simp only [↓State.onSec_kept, ↓State.onArc_kept, ↓State.inc_kept, ↓State.loadKey_kept, ↓foldl_kept, ↓foldl1_kept, ↓onNvm_keeps, ↓mk_kept, ↓ite_kept, ↓fst_ite_kept, ↓snd_ite_kept, ite_self, implies_true] at h'; simp only [↓State.onSec_kept, ↓State.onArc_kept, ↓State.inc_kept, ↓State.loadKey_kept, ↓foldl_kept, ↓foldl1_kept, ↓onNvm_keeps, ↓mk_kept, ↓ite_kept, ↓fst_ite_kept, ↓snd_ite_kept, ite_self, implies_true, ← h']; done)
theorem State.replaySegment_kept (s : State) (r : ArcReplay) : (State.replaySegment s r).kept = s.kept := by
  unfold State.replaySegment
  repeat' first
    | split
    | (rename_i h; have h' := congrArg (fun p => p.1.kept) h; simp only [↓State.onSec_kept, ↓State.onArc_kept, ↓State.inc_kept, ↓State.loadKey_kept, ↓foldl_kept, ↓foldl1_kept, ↓onNvm_keeps, ↓mk_kept, ↓ite_kept, ↓fst_ite_kept, ↓snd_ite_kept, ite_self, implies_true] at h'; simp only [↓State.onSec_kept, ↓State.onArc_kept, ↓State.inc_kept, ↓State.loadKey_kept, ↓foldl_kept, ↓foldl1_kept, ↓onNvm_keeps, ↓mk_kept, ↓ite_kept, ↓fst_ite_kept, ↓snd_ite_kept, ite_self, implies_true, ← h']; done)
theorem State.segmentJob_kept (s : State) (id : Nat) : (State.segmentJob s id).kept = s.kept := by
  unfold State.segmentJob; split <;> simp only [↓State.sealSegment_kept, ↓State.replaySegment_kept, ↓foldl_kept, ↓foldl1_kept, ↓onNvm_keeps, ↓mk_kept, ↓ite_kept, ↓fst_ite_kept, ↓snd_ite_kept, ite_self, implies_true]
theorem State.regionWrite_kept (s : State) (bs : List Byte) : (State.regionWrite s bs).kept = s.kept := by
  unfold State.regionWrite; simp only [↓State.onArc_kept, ↓State.add_kept, ↓State.inc_kept, ↓foldl_kept, ↓foldl1_kept, ↓onNvm_keeps, ↓mk_kept, ↓ite_kept, ↓fst_ite_kept, ↓snd_ite_kept, ite_self, implies_true]
theorem State.arcPlace_kept (s : State) (type : Nat) (bs : List Byte) : (State.arcPlace s type bs).kept = s.kept := by
  unfold State.arcPlace; simp only [↓State.deliverOr_kept, ↓State.regionWrite_kept, ↓foldl_kept, ↓foldl1_kept, ↓onNvm_keeps, ↓mk_kept, ↓ite_kept, ↓fst_ite_kept, ↓snd_ite_kept, ite_self, implies_true]
theorem State.arcFinish_kept (s : State) (b : ArcBlock) (bs : List Byte) : (State.arcFinish s b bs).kept = s.kept := by
  unfold State.arcFinish; simp only [↓State.add_kept, ↓State.inc_kept, ↓State.arcPlace_kept, ↓foldl_kept, ↓foldl1_kept, ↓onNvm_keeps, ↓mk_kept, ↓ite_kept, ↓fst_ite_kept, ↓snd_ite_kept, ite_self, implies_true]
theorem State.startReplay_kept (s : State) (c : CmdRef) (ring : Nat) (bs : List Byte) (range : Option (Nat × Nat)) : (State.startReplay s c ring bs range).kept = s.kept := by
  unfold State.startReplay; simp only [↓State.onSec_kept, ↓State.onArc_kept, ↓foldl_kept, ↓foldl1_kept, ↓onNvm_keeps, ↓mk_kept, ↓ite_kept, ↓fst_ite_kept, ↓snd_ite_kept, ite_self, implies_true]
theorem State.endReplay_kept (s : State) (r : ArcReplay) (status : Nat) (type : Nat) : (State.endReplay s r status type).kept = s.kept := by
  unfold State.endReplay; simp only [↓State.onArc_kept, ↓State.inc_kept, ↓State.finish_kept, ↓foldl_kept, ↓foldl1_kept, ↓onNvm_keeps, ↓mk_kept, ↓ite_kept, ↓fst_ite_kept, ↓snd_ite_kept, ite_self, implies_true]
theorem State.replayRefs_kept (s : State) (bs : List Byte) : (State.replayRefs s bs).2.kept = s.kept := by
  unfold State.replayRefs
  repeat' first
    | split
    | (rename_i h _ _; have h' := congrArg (fun p => p.2.kept) h; simp only [↓State.freeWords_kept, ↓foldl_kept, ↓foldl1_kept, ↓onNvm_keeps, ↓mk_kept, ↓ite_kept, ↓fst_ite_kept, ↓snd_ite_kept, ite_self, implies_true] at h'; simp only [↓State.freeWords_kept, ↓foldl_kept, ↓foldl1_kept, ↓onNvm_keeps, ↓mk_kept, ↓ite_kept, ↓fst_ite_kept, ↓snd_ite_kept, ite_self, implies_true, ← h']; done)
    | dsimp only
theorem State.decodeReplay_kept (s : State) (r : ArcReplay) : (State.decodeReplay s r).2.kept = s.kept := by
  unfold State.decodeReplay; simp only [↓State.replayRefs_kept, ↓foldl_kept, ↓foldl1_kept, ↓onNvm_keeps, ↓mk_kept, ↓ite_kept, ↓fst_ite_kept, ↓snd_ite_kept, ite_self, implies_true]
theorem State.onCh_kept (s : State) (c : Nat) (f : LmuCh → LmuCh) : (State.onCh s c f).kept = s.kept := by
  unfold State.onCh; simp only [↓State.onLmu_kept, ↓foldl_kept, ↓foldl1_kept, ↓onNvm_keeps, ↓mk_kept, ↓ite_kept, ↓fst_ite_kept, ↓snd_ite_kept, ite_self, implies_true]
theorem State.endFade_kept (s : State) (f : LmuFade) : (State.endFade s f).kept = s.kept := by
  unfold State.endFade; simp only [↓State.onLmu_kept, ↓State.inc_kept, ↓State.finish_kept, ↓foldl_kept, ↓foldl1_kept, ↓onNvm_keeps, ↓mk_kept, ↓ite_kept, ↓fst_ite_kept, ↓snd_ite_kept, ite_self, implies_true]
theorem State.endFades_kept (s : State) : (State.endFades s).kept = s.kept := by
  unfold State.endFades; simp only [↓State.endFade_kept, ↓foldl_kept, ↓foldl1_kept, ↓onNvm_keeps, ↓mk_kept, ↓ite_kept, ↓fst_ite_kept, ↓snd_ite_kept, ite_self, implies_true]
theorem State.dropFade_kept (s : State) (c : Nat) : (State.dropFade s c).kept = s.kept := by
  unfold State.dropFade; simp only [↓State.onLmu_kept, ↓State.endFades_kept, ↓foldl_kept, ↓foldl1_kept, ↓onNvm_keeps, ↓mk_kept, ↓ite_kept, ↓fst_ite_kept, ↓snd_ite_kept, ite_self, implies_true]
theorem State.changeChannel_kept (s : State) (c : Nat) (ctl : Word) (fresh : Option (Word × List Word)) (restart : Bool) : (State.changeChannel s c ctl fresh restart).kept = s.kept := by
  unfold State.changeChannel; simp only [↓State.onCh_kept, ↓foldl_kept, ↓foldl1_kept, ↓onNvm_keeps, ↓mk_kept, ↓ite_kept, ↓fst_ite_kept, ↓snd_ite_kept, ite_self, implies_true]
theorem State.writeChannel_kept (s : State) (c : Nat) (v : Word) : (State.writeChannel s c v).kept = s.kept := by
  unfold State.writeChannel; simp only [↓State.setReg_kept, ↓State.dropFade_kept, ↓State.changeChannel_kept, ↓foldl_kept, ↓foldl1_kept, ↓onNvm_keeps, ↓mk_kept, ↓ite_kept, ↓fst_ite_kept, ↓snd_ite_kept, ite_self, implies_true]
theorem execChannelEnable_kept (c : Fin 24) (value : Word) (s : State) : ∃ s', execChannelEnable c value s = .next s' ∧ s'.kept = s.kept := by
  unfold execChannelEnable; split <;> exact ⟨_, rfl, by simp only [↓State.writeChannel_kept, ↓foldl_kept, ↓foldl1_kept, ↓onNvm_keeps, ↓mk_kept, ↓ite_kept, ↓fst_ite_kept, ↓snd_ite_kept, ite_self, implies_true]⟩
theorem execLmuXfade_kept (h : CmdHdr) (w1 : Word) (addr : BitVec 64) (w4 w5 w6 : Word) (buf : List Byte) (s : State) : ∃ s', execLmuXfade h w1 addr w4 w5 w6 buf s = .next s' ∧ s'.kept = s.kept := by
  refine ⟨_, rfl, State.command_kept _ _ _ _ (fun c x => ?_)⟩
  dsimp only
  repeat' first
    | exact State.dmaError_kept ..
    | split
theorem State.channelLabel_kept (s : State) (label : Nat) (bits : List (List Bool)) (c : Nat) : (State.channelLabel s label bits c).1.kept = s.kept := by
  unfold State.channelLabel; simp only [↓State.add_kept, ↓State.setBits_kept, ↓State.onCh_kept, ↓foldl_kept, ↓foldl1_kept, ↓onNvm_keeps, ↓mk_kept, ↓ite_kept, ↓fst_ite_kept, ↓snd_ite_kept, ite_self, implies_true]
theorem State.fadeEnds_kept (s : State) (label : Nat) : (State.fadeEnds s label).kept = s.kept := by
  unfold State.fadeEnds; simp only [↓State.onLmu_kept, ↓State.endFades_kept, ↓foldl_kept, ↓foldl1_kept, ↓onNvm_keeps, ↓mk_kept, ↓ite_kept, ↓fst_ite_kept, ↓snd_ite_kept, ite_self, implies_true]
theorem State.lmuAdvance_kept (s : State) (label : Nat) (bits : List (List Bool)) : (State.lmuAdvance s label bits).1.kept = s.kept := by
  unfold State.lmuAdvance; simp only [↓State.onLmu_kept, ↓State.channelLabel_kept, ↓State.fadeEnds_kept, ↓foldl_kept, ↓foldl1_kept, ↓onNvm_keeps, ↓mk_kept, ↓ite_kept, ↓fst_ite_kept, ↓snd_ite_kept, ite_self, implies_true]
theorem State.lmuRephase_kept (s : State) : (State.lmuRephase s).kept = s.kept := by
  unfold State.lmuRephase; simp only [↓State.onLmu_kept, ↓State.inc_kept, ↓State.onCh_kept, ↓State.dropFade_kept, ↓foldl_kept, ↓foldl1_kept, ↓onNvm_keeps, ↓mk_kept, ↓ite_kept, ↓fst_ite_kept, ↓snd_ite_kept, ite_self, implies_true]
theorem State.lmuStart_kept (s : State) : (State.lmuStart s).kept = s.kept := by
  unfold State.lmuStart; simp only [↓State.onLmu_kept, ↓foldl_kept, ↓foldl1_kept, ↓onNvm_keeps, ↓mk_kept, ↓ite_kept, ↓fst_ite_kept, ↓snd_ite_kept, ite_self, implies_true]
theorem State.placeLocal_kept (s : State) (p : Nat) (sec : Nat) (ns : Nat) (words : List Word) (stat : BitVec 16) (poor : Bool) : (State.placeLocal s p sec ns words stat poor).1.kept = s.kept := by
  unfold State.placeLocal
  repeat' first
    | split
    | (rename_i h; have h' := congrArg (fun p => p.1.kept) h; simp only [↓State.placeBlock_kept, ↓foldl_kept, ↓foldl1_kept, ↓onNvm_keeps, ↓mk_kept, ↓ite_kept, ↓fst_ite_kept, ↓snd_ite_kept, ite_self, implies_true] at h'; simp only [↓State.placeBlock_kept, ↓foldl_kept, ↓foldl1_kept, ↓onNvm_keeps, ↓mk_kept, ↓ite_kept, ↓fst_ite_kept, ↓snd_ite_kept, ite_self, implies_true, ← h']; done)
    | dsimp only
theorem State.localEstimate_kept (s : State) (p : Nat) (late : State → Nat → Nat → List (Nat × Cell) → State) (hlate : ∀ a0 a1 a2 a3, State.kept (late a0 a1 a2 a3) = State.kept a0) : (State.localEstimate s p late).kept = s.kept := by
  unfold State.localEstimate
  repeat' first
    | (simp only [hlate, ↓State.onLmu_kept, ↓State.inc_kept, ↓State.placeLocal_kept, ↓foldl_kept, ↓foldl1_kept, ↓onNvm_keeps, ↓mk_kept, ↓ite_kept, ↓fst_ite_kept, ↓snd_ite_kept, ite_self, implies_true]; done)
    | split
    | (rename_i h; have h' := congrArg (fun p => p.1.kept) h; simp only [hlate, ↓State.onLmu_kept, ↓State.inc_kept, ↓State.placeLocal_kept, ↓foldl_kept, ↓foldl1_kept, ↓onNvm_keeps, ↓mk_kept, ↓ite_kept, ↓fst_ite_kept, ↓snd_ite_kept, ite_self, implies_true] at h'; simp only [hlate, ↓State.onLmu_kept, ↓State.inc_kept, ↓State.placeLocal_kept, ↓foldl_kept, ↓foldl1_kept, ↓onNvm_keeps, ↓mk_kept, ↓ite_kept, ↓fst_ite_kept, ↓snd_ite_kept, ite_self, implies_true, ← h']; done)
    | dsimp only
theorem State.owesEstimates_kept (s : State) (sec : Nat) (i : Nat) : (State.owesEstimates s sec i).kept = s.kept := by
  unfold State.owesEstimates; simp only [↓State.onLmu_kept, ↓foldl_kept, ↓foldl1_kept, ↓onNvm_keeps, ↓mk_kept, ↓ite_kept, ↓fst_ite_kept, ↓snd_ite_kept, ite_self, implies_true]
theorem State.onPt_kept (s : State) (p : Nat) (f : NrgPoint → NrgPoint) : (State.onPt s p f).kept = s.kept := by
  unfold State.onPt; simp only [↓State.onNrg_kept, ↓foldl_kept, ↓foldl1_kept, ↓onNvm_keeps, ↓mk_kept, ↓ite_kept, ↓fst_ite_kept, ↓snd_ite_kept, ite_self, implies_true]
theorem State.correctPoint_kept (s : State) (p : Nat) (vrms : List Word) (irms : List Word) : (State.correctPoint s p vrms irms).kept = s.kept := by
  unfold State.correctPoint; simp only [↓State.onPt_kept, ↓foldl_kept, ↓foldl1_kept, ↓onNvm_keeps, ↓mk_kept, ↓ite_kept, ↓fst_ite_kept, ↓snd_ite_kept, ite_self, implies_true]
theorem State.startPoint_kept (s : State) (p : Nat) : (State.startPoint s p).kept = s.kept := by
  unfold State.startPoint; simp only [↓State.onPt_kept, ↓State.correctPoint_kept, ↓foldl_kept, ↓foldl1_kept, ↓onNvm_keeps, ↓mk_kept, ↓ite_kept, ↓fst_ite_kept, ↓snd_ite_kept, ite_self, implies_true]
theorem State.writePoint_kept (s : State) (p : Nat) (v : Word) : (State.writePoint s p v).kept = s.kept := by
  unfold State.writePoint; simp only [↓State.setReg_kept, ↓State.onPt_kept, ↓State.startPoint_kept, ↓foldl_kept, ↓foldl1_kept, ↓onNvm_keeps, ↓mk_kept, ↓ite_kept, ↓fst_ite_kept, ↓snd_ite_kept, ite_self, implies_true]
theorem State.nrgRecordAt_kept (s : State) (code : Nat) (cls : Nat) (source : Nat) (t : Nat) (own : Option EventTime) (value : Word) (count : Nat) : (State.nrgRecordAt s code cls source t own value count).kept = s.kept := by
  unfold State.nrgRecordAt; simp only [↓State.event_kept, ↓State.deliverOr_kept, ↓foldl_kept, ↓foldl1_kept, ↓onNvm_keeps, ↓mk_kept, ↓ite_kept, ↓fst_ite_kept, ↓snd_ite_kept, ite_self, implies_true]
theorem State.nrgRecord_kept (s : State) (code : Nat) (cls : Nat) (source : Nat) (label : Nat) (value : Word) (count : Nat) : (State.nrgRecord s code cls source label value count).kept = s.kept := by
  unfold State.nrgRecord; simp only [↓State.nrgRecordAt_kept, ↓foldl_kept, ↓foldl1_kept, ↓onNvm_keeps, ↓mk_kept, ↓ite_kept, ↓fst_ite_kept, ↓snd_ite_kept, ite_self, implies_true]
theorem State.accAdd_kept (s : State) (p : Nat) (a : Nat) (x : Word) : (State.accAdd s p a x).kept = s.kept := by
  unfold State.accAdd; simp only [↓State.freeWord_kept, ↓State.onPt_kept, ↓foldl_kept, ↓foldl1_kept, ↓onNvm_keeps, ↓mk_kept, ↓ite_kept, ↓fst_ite_kept, ↓snd_ite_kept, ite_self, implies_true]
theorem State.accPower_kept (s : State) (p : Nat) (ph : Nat) (pw : Word) (qw : Word) (sw : Word) : (State.accPower s p ph pw qw sw).kept = s.kept := by
  unfold State.accPower; simp only [↓State.accAdd_kept, ↓foldl_kept, ↓foldl1_kept, ↓onNvm_keeps, ↓mk_kept, ↓ite_kept, ↓fst_ite_kept, ↓snd_ite_kept, ite_self, implies_true]
theorem State.meterLabel_kept (s : State) (p : Nat) (label : Nat) (row : List LmuSample) : (State.meterLabel s p label row).kept = s.kept := by
  unfold State.meterLabel; simp only [↓State.onPt_kept, ↓State.accPower_kept, ↓foldl_kept, ↓foldl1_kept, ↓onNvm_keeps, ↓mk_kept, ↓ite_kept, ↓fst_ite_kept, ↓snd_ite_kept, ite_self, implies_true]
theorem State.latchPoint_kept (s : State) (p : Nat) (at_ : Nat × Nat) : (State.latchPoint s p at_).kept = s.kept := by
  unfold State.latchPoint; simp only [↓State.setReg_kept, ↓State.setBits_kept, ↓State.nvmWrite_ticket_kept, ↓State.onPt_kept, ↓State.nvmWrite_ticket_kept, ↓State.nvmWrite_session_kept, ↓State.nvmWrite_tickId_kept, ↓State.nvmWrite_bank_kept, ↓State.nvmWrite_nrgZero_kept, ↓foldl_kept, ↓foldl1_kept, ↓onNvm_keeps, ↓mk_kept, ↓ite_kept, ↓fst_ite_kept, ↓snd_ite_kept, ite_self, implies_true]
theorem State.endCycle_kept (s : State) (p : Nat) (at_ : Nat × Nat) (timed : Bool) (len : Option Word) : (State.endCycle s p at_ timed len).kept = s.kept := by
  unfold State.endCycle; split <;> simp only [↓State.setReg_kept, ↓State.onPt_kept, ↓State.correctPoint_kept, ↓State.latchPoint_kept, ↓foldl_kept, ↓foldl1_kept, ↓onNvm_keeps, ↓mk_kept, ↓ite_kept, ↓fst_ite_kept, ↓snd_ite_kept, ite_self, implies_true]
theorem State.cycleSearch_kept (s : State) (p : Nat) (label : Nat) (row : List LmuSample) : (State.cycleSearch s p label row).kept = s.kept := by
  unfold State.cycleSearch; simp only [↓State.onPt_kept, ↓State.endCycle_kept, ↓foldl_kept, ↓foldl1_kept, ↓onNvm_keeps, ↓mk_kept, ↓ite_kept, ↓fst_ite_kept, ↓snd_ite_kept, ite_self, implies_true]
theorem State.restorePoint_kept (s : State) (p : Nat) : (State.restorePoint s p).kept = s.kept := by
  unfold State.restorePoint; split <;> simp only [↓State.setReg_kept, ↓State.onPt_kept, ↓State.nrgRecordAt_kept, ↓foldl_kept, ↓foldl1_kept, ↓onNvm_keeps, ↓mk_kept, ↓ite_kept, ↓fst_ite_kept, ↓snd_ite_kept, ite_self, implies_true]
theorem State.restorePoints_kept (s : State) : (State.restorePoints s).kept = s.kept := by
  unfold State.restorePoints; simp only [↓State.restorePoint_kept, ↓foldl_kept, ↓foldl1_kept, ↓onNvm_keeps, ↓mk_kept, ↓ite_kept, ↓fst_ite_kept, ↓snd_ite_kept, ite_self, implies_true]
theorem State.nrgBrace_kept (s : State) : (State.nrgBrace s).kept = s.kept := by
  unfold State.nrgBrace; simp only [↓State.setReg_kept, ↓State.applyNvm_ticket_kept, ↓State.onPt_kept, ↓State.applyNvm_ticket_kept, ↓State.applyNvm_session_kept, ↓State.applyNvm_tickId_kept, ↓State.applyNvm_bank_kept, ↓State.applyNvm_nrgZero_kept, ↓foldl_kept, ↓foldl1_kept, ↓onNvm_keeps, ↓mk_kept, ↓ite_kept, ↓fst_ite_kept, ↓snd_ite_kept, ite_self, implies_true]
theorem State.ocLabel_kept (s : State) (k : Nat) (label : Nat) (f0 : Nat) (i : Option Word) : (State.ocLabel s k label f0 i).kept = s.kept := by
  unfold State.ocLabel; split <;> simp only [↓State.onNrg_kept, ↓State.setReg_kept, ↓State.peak_kept, ↓State.setBits_kept, ↓State.run_kept, ↓State.nrgRecord_kept, ↓foldl_kept, ↓foldl1_kept, ↓onNvm_keeps, ↓mk_kept, ↓ite_kept, ↓fst_ite_kept, ↓snd_ite_kept, ite_self, implies_true]
theorem State.onPulse_kept (s : State) (n : Nat) (f : NrgPulse → NrgPulse) : (State.onPulse s n f).kept = s.kept := by
  unfold State.onPulse; simp only [↓State.onNrg_kept, ↓foldl_kept, ↓foldl1_kept, ↓onNvm_keeps, ↓mk_kept, ↓ite_kept, ↓fst_ite_kept, ↓snd_ite_kept, ite_self, implies_true]
theorem State.pulseStart_kept (s : State) (n : Nat) : (State.pulseStart s n).kept = s.kept := by
  unfold State.pulseStart; simp only [↓State.onPulse_kept, ↓foldl_kept, ↓foldl1_kept, ↓onNvm_keeps, ↓mk_kept, ↓ite_kept, ↓fst_ite_kept, ↓snd_ite_kept, ite_self, implies_true]
theorem State.owePulse_kept (s : State) (n : Nat) : (State.owePulse s n).kept = s.kept := by
  unfold State.owePulse; simp only [↓State.inc_kept, ↓State.peak_kept, ↓State.nrgRecord_kept, ↓State.onPulse_kept, ↓State.pulseStart_kept, ↓foldl_kept, ↓foldl1_kept, ↓onNvm_keeps, ↓mk_kept, ↓ite_kept, ↓fst_ite_kept, ↓snd_ite_kept, ite_self, implies_true]
theorem State.owePulses_kept (n k : Nat) (s : State) : (State.owePulses n k s).kept = s.kept := by
  induction k generalizing s with
  | zero => rfl
  | succ k ih => unfold State.owePulses; rw [ih, State.owePulse_kept]
theorem State.pulseLabel_kept (s : State) (n : Nat) : (State.pulseLabel s n).kept = s.kept := by
  unfold State.pulseLabel; simp only [↓State.onPulse_kept, ↓State.owePulses_kept, ↓foldl_kept, ↓foldl1_kept, ↓onNvm_keeps, ↓mk_kept, ↓ite_kept, ↓fst_ite_kept, ↓snd_ite_kept, ite_self, implies_true]
theorem State.pulseRef_kept (s : State) (n : Nat) : (State.pulseRef s n).kept = s.kept := by
  unfold State.pulseRef; simp only [↓State.onPulse_kept, ↓foldl_kept, ↓foldl1_kept, ↓onNvm_keeps, ↓mk_kept, ↓ite_kept, ↓fst_ite_kept, ↓snd_ite_kept, ite_self, implies_true]
theorem State.dropBacklog_kept (s : State) (n : Nat) (f : NrgPulse → NrgPulse) : (State.dropBacklog s n f).kept = s.kept := by
  unfold State.dropBacklog; simp only [↓State.peak_kept, ↓State.nrgRecord_kept, ↓State.onPulse_kept, ↓foldl_kept, ↓foldl1_kept, ↓onNvm_keeps, ↓mk_kept, ↓ite_kept, ↓fst_ite_kept, ↓snd_ite_kept, ite_self, implies_true]
theorem State.writePulse_kept (s : State) (n : Nat) (v : Word) : (State.writePulse s n v).kept = s.kept := by
  unfold State.writePulse; simp only [↓State.setReg_kept, ↓State.pulseRef_kept, ↓State.dropBacklog_kept, ↓foldl_kept, ↓foldl1_kept, ↓onNvm_keeps, ↓mk_kept, ↓ite_kept, ↓fst_ite_kept, ↓snd_ite_kept, ite_self, implies_true]
theorem execPulseTimer_kept (n : Fin 8) (s : State) : ∃ s', execPulseTimer n s = .next s' ∧ s'.kept = s.kept := by
  unfold execPulseTimer
  repeat' first
    | split
    | dsimp only
    | (refine ⟨_, rfl, ?_⟩; repeat' first
        | simp only [↓State.peak_kept, ↓State.runToMono_kept, ↓State.nrgRecord_kept, ↓State.onPulse_kept, ↓State.pulseStart_kept, ↓foldl_kept, ↓foldl1_kept, ↓onNvm_keeps, ↓mk_kept, ↓ite_kept, ↓fst_ite_kept, ↓snd_ite_kept, ite_self, implies_true])
theorem State.pulsesMuted_kept (s : State) : (State.pulsesMuted s).kept = s.kept := by
  unfold State.pulsesMuted; simp only [↓State.dropBacklog_kept, ↓foldl_kept, ↓foldl1_kept, ↓onNvm_keeps, ↓mk_kept, ↓ite_kept, ↓fst_ite_kept, ↓snd_ite_kept, ite_self, implies_true]
theorem State.pulsesUnmuted_kept (s : State) : (State.pulsesUnmuted s).kept = s.kept := by
  unfold State.pulsesUnmuted; simp only [↓State.onNrg_kept, ↓State.pulseRef_kept, ↓foldl_kept, ↓foldl1_kept, ↓onNvm_keeps, ↓mk_kept, ↓ite_kept, ↓fst_ite_kept, ↓snd_ite_kept, ite_self, implies_true]
theorem State.nrgGap_kept (s : State) (p : Nat) (label : Nat) : (State.nrgGap s p label).kept = s.kept := by
  unfold State.nrgGap; split <;> simp only [↓State.add_kept, ↓State.onPt_kept, ↓State.nrgRecord_kept, ↓foldl_kept, ↓foldl1_kept, ↓onNvm_keeps, ↓mk_kept, ↓ite_kept, ↓fst_ite_kept, ↓snd_ite_kept, ite_self, implies_true]
theorem State.pointLabel_kept (s : State) (p : Nat) (label : Nat) (row : List LmuSample) : (State.pointLabel s p label row).kept = s.kept := by
  unfold State.pointLabel; simp only [↓State.inc_kept, ↓State.onPt_kept, ↓State.meterLabel_kept, ↓State.cycleSearch_kept, ↓State.ocLabel_kept, ↓State.nrgGap_kept, ↓foldl_kept, ↓foldl1_kept, ↓onNvm_keeps, ↓mk_kept, ↓ite_kept, ↓fst_ite_kept, ↓snd_ite_kept, ite_self, implies_true]
theorem State.nrgLabel_kept (s : State) (label : Nat) (row : List LmuSample) : (State.nrgLabel s label row).kept = s.kept := by
  unfold State.nrgLabel; simp only [↓State.onNrg_kept, ↓State.oneCycle_kept, ↓State.pulseLabel_kept, ↓State.pointLabel_kept, ↓foldl_kept, ↓foldl1_kept, ↓onNvm_keeps, ↓mk_kept, ↓ite_kept, ↓fst_ite_kept, ↓snd_ite_kept, ite_self, implies_true]
theorem State.nrgRephase_kept (s : State) : (State.nrgRephase s).kept = s.kept := by
  unfold State.nrgRephase; simp only [↓State.endCycle_kept, ↓foldl_kept, ↓foldl1_kept, ↓onNvm_keeps, ↓mk_kept, ↓ite_kept, ↓fst_ite_kept, ↓snd_ite_kept, ite_self, implies_true]
theorem execNrgSnapshot_kept (h : CmdHdr) (w1 : Word) (addr : BitVec 64) (len : Word) (s : State) : ∃ s', execNrgSnapshot h w1 addr len s = .next s' ∧ s'.kept = s.kept := by
  unfold execNrgSnapshot; exact ⟨_, rfl, by simp only [↓State.command_kept, ↓State.onPt_kept, ↓foldl_kept, ↓foldl1_kept, ↓onNvm_keeps, ↓mk_kept, ↓ite_kept, ↓fst_ite_kept, ↓snd_ite_kept, ite_self, implies_true]⟩
theorem execPointEnable_kept (p : Fin 4) (value : Word) (s : State) : ∃ s', execPointEnable p value s = .next s' ∧ s'.kept = s.kept := by
  unfold execPointEnable; split <;> exact ⟨_, rfl, by simp only [↓State.writePoint_kept, ↓foldl_kept, ↓foldl1_kept, ↓onNvm_keeps, ↓mk_kept, ↓ite_kept, ↓fst_ite_kept, ↓snd_ite_kept, ite_self, implies_true]⟩
theorem State.nrgError_kept (s : State) (k : ErrKind) (point : Option Nat) : (State.nrgError s k point).kept = s.kept := by
  unfold State.nrgError; split <;> simp only [↓State.inc_kept, ↓State.restorePoint_kept, ↓foldl_kept, ↓foldl1_kept, ↓onNvm_keeps, ↓mk_kept, ↓ite_kept, ↓fst_ite_kept, ↓snd_ite_kept, ite_self, implies_true]
theorem State.adoptNrg_kept (s : State) (ws : List Word) : (State.adoptNrg s ws).kept = s.kept := by
  unfold State.adoptNrg; simp only [↓State.setReg_kept, ↓State.nvmWrite_ticket_kept, ↓State.onPt_kept, ↓State.nvmWrite_ticket_kept, ↓State.nvmWrite_session_kept, ↓State.nvmWrite_tickId_kept, ↓State.nvmWrite_bank_kept, ↓State.nvmWrite_nrgZero_kept, ↓foldl_kept, ↓foldl1_kept, ↓onNvm_keeps, ↓mk_kept, ↓ite_kept, ↓fst_ite_kept, ↓snd_ite_kept, ite_self, implies_true]
theorem State.onUnit_kept (s : State) (u : Nat) (f : CapUnit → CapUnit) : (State.onUnit s u f).kept = s.kept := by
  unfold State.onUnit; simp only [↓State.onCap_kept, ↓foldl_kept, ↓foldl1_kept, ↓onNvm_keeps, ↓mk_kept, ↓ite_kept, ↓fst_ite_kept, ↓snd_ite_kept, ite_self, implies_true]
theorem State.capArm_kept (s : State) (u : Nat) (immediate : Bool) : (State.capArm s u immediate).kept = s.kept := by
  unfold State.capArm; simp only [↓State.freeWord_kept, ↓State.onUnit_kept, ↓foldl_kept, ↓foldl1_kept, ↓onNvm_keeps, ↓mk_kept, ↓ite_kept, ↓fst_ite_kept, ↓snd_ite_kept, ite_self, implies_true]
theorem State.capUnplaced_kept (s : State) (u : Nat) : (State.capUnplaced s u).kept = s.kept := by
  unfold State.capUnplaced; simp only [↓State.freeWords_kept, ↓State.onUnit_kept, ↓foldl_kept, ↓foldl1_kept, ↓onNvm_keeps, ↓mk_kept, ↓ite_kept, ↓fst_ite_kept, ↓snd_ite_kept, ite_self, implies_true]
theorem State.capDone_kept (s0 : State) (u : Nat) : (State.capDone s0 u).kept = s0.kept := by
  unfold State.capDone; simp only [↓State.inc_kept, ↓State.deliverOr_kept, ↓State.onUnit_kept, ↓State.capUnplaced_kept, ↓foldl_kept, ↓foldl1_kept, ↓onNvm_keeps, ↓mk_kept, ↓ite_kept, ↓fst_ite_kept, ↓snd_ite_kept, ite_self, implies_true]
theorem State.capSettle_kept (s : State) (u : Nat) : (State.capSettle s u).kept = s.kept := by
  unfold State.capSettle; simp only [↓State.post_kept, ↓State.onUnit_kept, ↓State.capDone_kept, ↓foldl_kept, ↓foldl1_kept, ↓onNvm_keeps, ↓mk_kept, ↓ite_kept, ↓fst_ite_kept, ↓snd_ite_kept, ite_self, implies_true]
theorem State.capOweFire_kept (s : State) (u : Nat) (due : Nat) (long : Bool) : (State.capOweFire s u due long).kept = s.kept := by
  unfold State.capOweFire; simp only [↓State.onCap_kept, ↓State.inc_kept, ↓State.onUnit_kept, ↓foldl_kept, ↓foldl1_kept, ↓onNvm_keeps, ↓mk_kept, ↓ite_kept, ↓fst_ite_kept, ↓snd_ite_kept, ite_self, implies_true]
theorem State.capTrigger_kept (s : State) (u : Nat) (cause : Nat) (stamp : Nat) : (State.capTrigger s u cause stamp).kept = s.kept := by
  unfold State.capTrigger; simp only [↓State.onUnit_kept, ↓State.capOweFire_kept, ↓foldl_kept, ↓foldl1_kept, ↓onNvm_keeps, ↓mk_kept, ↓ite_kept, ↓fst_ite_kept, ↓snd_ite_kept, ite_self, implies_true]
theorem State.capRow_kept (s : State) (u : Nat) (r : CapRow) (v : Option Word) (quality : Bool) : (State.capRow s u r v quality).kept = s.kept := by
  unfold State.capRow
  repeat' first
    | (simp only [↓State.onUnit_kept, ↓State.capSettle_kept, ↓State.capTrigger_kept, ↓foldl_kept, ↓foldl1_kept, ↓onNvm_keeps, ↓mk_kept, ↓ite_kept, ↓fst_ite_kept, ↓snd_ite_kept, ite_self, implies_true]; done)
    | split
    | dsimp only
theorem State.capWave_kept (s : State) (label : Nat) (row : List LmuSample) (u : Nat) : (State.capWave s label row u).kept = s.kept := by
  unfold State.capWave; simp only [↓State.inc_kept, ↓State.onUnit_kept, ↓State.capRow_kept, ↓foldl_kept, ↓foldl1_kept, ↓onNvm_keeps, ↓mk_kept, ↓ite_kept, ↓fst_ite_kept, ↓snd_ite_kept, ite_self, implies_true]
theorem State.capLabel_kept (s : State) (label : Nat) (row : List LmuSample) : (State.capLabel s label row).kept = s.kept := by
  unfold State.capLabel; simp only [↓State.capWave_kept, ↓foldl_kept, ↓foldl1_kept, ↓onNvm_keeps, ↓mk_kept, ↓ite_kept, ↓fst_ite_kept, ↓snd_ite_kept, ite_self, implies_true]
theorem execLmuLabel_kept (bits : List (List Bool)) (s : State) : ∃ s', execLmuLabel bits s = .next s' ∧ s'.kept = s.kept := by
  unfold execLmuLabel
  split
  · exact ⟨_, rfl, rfl⟩
  · rename_i label _
    split
    · exact ⟨_, rfl, rfl⟩
    · have h := (State.lmuAdvance_kept (s.runTo (label * 78125 + 1100000)) label bits).trans (State.runTo_kept s _)
      generalize (s.runTo (label * 78125 + 1100000)).lmuAdvance label bits = r at h
      rcases r with ⟨s1, row⟩
      exact ⟨_, rfl, (State.capLabel_kept ..).trans ((State.nrgLabel_kept ..).trans h)⟩
theorem execLocalEstimate_kept (p : Fin 4) (s : State) : ∃ s', execLocalEstimate p s = .next s' ∧ s'.kept = s.kept := by
  unfold execLocalEstimate; exact ⟨_, rfl, by simp only [↓State.lateBlock_kept, ↓State.localEstimate_kept, ↓foldl_kept, ↓foldl1_kept, ↓onNvm_keeps, ↓mk_kept, ↓ite_kept, ↓fst_ite_kept, ↓snd_ite_kept, ite_self, implies_true]⟩
theorem State.capCells_kept (s : State) (c : Column) : (State.capCells s c).kept = s.kept := by
  unfold State.capCells; simp only [↓State.capRow_kept, ↓foldl_kept, ↓foldl1_kept, ↓onNvm_keeps, ↓mk_kept, ↓ite_kept, ↓fst_ite_kept, ↓snd_ite_kept, ite_self, implies_true]
theorem State.capDerived_kept (s : State) (c : Column) : (State.capDerived s c).kept = s.kept := by
  unfold State.capDerived; simp only [↓State.onCap_kept, ↓State.capRow_kept, ↓foldl_kept, ↓foldl1_kept, ↓onNvm_keeps, ↓mk_kept, ↓ite_kept, ↓fst_ite_kept, ↓snd_ite_kept, ite_self, implies_true]
theorem State.capSig_kept (s : State) (u : Nat) (elems : List Word) (flags : BitVec 2) : (State.capSig s u elems flags).kept = s.kept := by
  unfold State.capSig; simp only [↓State.onCap_kept, ↓foldl_kept, ↓foldl1_kept, ↓onNvm_keeps, ↓mk_kept, ↓ite_kept, ↓fst_ite_kept, ↓snd_ite_kept, ite_self, implies_true]
theorem State.capError_kept (s : State) (k : ErrKind) (u : Nat) (row : Nat) : (State.capError s k u row).kept = s.kept := by
  unfold State.capError; split <;> simp only [↓State.inc_kept, ↓State.onUnit_kept, ↓foldl_kept, ↓foldl1_kept, ↓onNvm_keeps, ↓mk_kept, ↓ite_kept, ↓fst_ite_kept, ↓snd_ite_kept, ite_self, implies_true]
theorem State.capStep_kept (s : State) : (State.capStep s).kept = s.kept := by
  unfold State.capStep
  repeat' first
    | (simp only [↓State.inc_kept, ↓State.onUnit_kept, ↓State.capDone_kept, ↓foldl_kept, ↓foldl1_kept, ↓onNvm_keeps, ↓mk_kept, ↓ite_kept, ↓fst_ite_kept, ↓snd_ite_kept, ite_self, implies_true]; done)
    | split
    | dsimp only
    | (refine (foldl_kept _ (fun x a => ?_) _ _).trans ?_)
theorem execCapArm_kept (h : CmdHdr) (w1 : Word) (s : State) : ∃ s', execCapArm h w1 s = .next s' ∧ s'.kept = s.kept := by
  unfold execCapArm; split <;> exact ⟨_, rfl, by simp only [↓State.onCap_kept, ↓State.command_kept, ↓State.capArm_kept, ↓foldl_kept, ↓foldl1_kept, ↓onNvm_keeps, ↓mk_kept, ↓ite_kept, ↓fst_ite_kept, ↓snd_ite_kept, ite_self, implies_true]⟩
theorem State.capDisarm_kept (s : State) (u : Nat) : (State.capDisarm s u).kept = s.kept := by
  unfold State.capDisarm; split <;> simp only [↓State.onCap_kept, ↓State.onUnit_kept, ↓State.capDone_kept, ↓foldl_kept, ↓foldl1_kept, ↓onNvm_keeps, ↓mk_kept, ↓ite_kept, ↓fst_ite_kept, ↓snd_ite_kept, ite_self, implies_true]
theorem execCapDisarm_kept (h : CmdHdr) (w1 : Word) (s : State) : ∃ s', execCapDisarm h w1 s = .next s' ∧ s'.kept = s.kept := by
  unfold execCapDisarm; split <;> exact ⟨_, rfl, by simp only [↓State.onCap_kept, ↓State.command_kept, ↓State.capDisarm_kept, ↓foldl_kept, ↓foldl1_kept, ↓onNvm_keeps, ↓mk_kept, ↓ite_kept, ↓fst_ite_kept, ↓snd_ite_kept, ite_self, implies_true]⟩
theorem execCapRead_kept (h : CmdHdr) (w1 : Word) (offset : Word) (length : Word) (addr : BitVec 64) (memErr : Bool) (s : State) : ∃ s', execCapRead h w1 offset length addr memErr s = .next s' ∧ s'.kept = s.kept := by
  unfold execCapRead; split <;> exact ⟨_, rfl, by simp only [↓State.onCap_kept, ↓State.inc_kept, ↓State.command_kept, ↓State.deliverLater_kept, ↓foldl_kept, ↓foldl1_kept, ↓onNvm_keeps, ↓mk_kept, ↓ite_kept, ↓fst_ite_kept, ↓snd_ite_kept, ite_self, implies_true]⟩
theorem State.capRelease_kept (s : State) (c : CmdRef) : (State.capRelease s c).kept = s.kept := by
  unfold State.capRelease; split <;> simp only [↓State.onCap_kept, ↓State.capDisarm_kept, ↓foldl_kept, ↓foldl1_kept, ↓onNvm_keeps, ↓mk_kept, ↓ite_kept, ↓fst_ite_kept, ↓snd_ite_kept, ite_self, implies_true]
theorem execLongCommandComplete_kept (h : CmdHdr) (s : State) : ∃ s', execLongCommandComplete h s = .next s' ∧ s'.kept = s.kept := by
  unfold execLongCommandComplete; split <;> exact ⟨_, rfl, by simp only [↓State.onHif_kept, ↓State.finish_kept, ↓State.capRelease_kept, ↓foldl_kept, ↓foldl1_kept, ↓onNvm_keeps, ↓mk_kept, ↓ite_kept, ↓fst_ite_kept, ↓snd_ite_kept, ite_self, implies_true]⟩
theorem execCapArmEdge_kept (rising : Bool) (s : State) : ∃ s', execCapArmEdge rising s = .next s' ∧ s'.kept = s.kept := by
  unfold execCapArmEdge; split <;> exact ⟨_, rfl, by simp only [↓State.onCap_kept, ↓State.capArm_kept, ↓State.capDisarm_kept, ↓foldl_kept, ↓foldl1_kept, ↓onNvm_keeps, ↓mk_kept, ↓ite_kept, ↓fst_ite_kept, ↓snd_ite_kept, ite_self, implies_true]⟩
theorem execFireDrive_kept (s : State) : ∃ s', execFireDrive s = .next s' ∧ s'.kept = s.kept := by
  unfold execFireDrive
  repeat' first
    | split
    | dsimp only
    | (refine ⟨_, rfl, ?_⟩; repeat' first
        | simp only [↓State.onCap_kept, ↓State.inc_kept, ↓State.runTo_kept, ↓State.onUnit_kept, ↓foldl_kept, ↓foldl1_kept, ↓onNvm_keeps, ↓mk_kept, ↓ite_kept, ↓fst_ite_kept, ↓snd_ite_kept, ite_self, implies_true])
theorem execFireRelease_kept (s : State) : ∃ s', execFireRelease s = .next s' ∧ s'.kept = s.kept := by
  unfold execFireRelease; split <;> exact ⟨_, rfl, by simp only [↓State.onCap_kept, ↓State.runToMono_kept, ↓foldl_kept, ↓foldl1_kept, ↓onNvm_keeps, ↓mk_kept, ↓ite_kept, ↓fst_ite_kept, ↓snd_ite_kept, ite_self, implies_true]⟩
theorem execCapFireEdge_kept (detect : Nat) (s : State) : ∃ s', execCapFireEdge detect s = .next s' ∧ s'.kept = s.kept := by
  unfold execCapFireEdge; split <;> exact ⟨_, rfl, by simp only [↓State.onCap_kept, ↓State.freeWord_kept, ↓foldl_kept, ↓foldl1_kept, ↓onNvm_keeps, ↓mk_kept, ↓ite_kept, ↓fst_ite_kept, ↓snd_ite_kept, ite_self, implies_true]⟩
theorem execFireSample_kept (high : Bool) (s : State) : ∃ s', execFireSample high s = .next s' ∧ s'.kept = s.kept := by
  unfold execFireSample; split <;> exact ⟨_, rfl, by simp only [↓State.onCap_kept, ↓State.runToMono_kept, ↓State.onUnit_kept, ↓State.capSettle_kept, ↓State.capTrigger_kept, ↓foldl_kept, ↓foldl1_kept, ↓onNvm_keeps, ↓mk_kept, ↓ite_kept, ↓fst_ite_kept, ↓snd_ite_kept, ite_self, implies_true]⟩
theorem execCapRefEdge_kept (stamp : Nat) (s : State) : ∃ s', execCapRefEdge stamp s = .next s' ∧ s'.kept = s.kept := by
  unfold execCapRefEdge; split <;> exact ⟨_, rfl, by simp only [↓State.onCap_kept, ↓State.setReg_kept, ↓foldl_kept, ↓foldl1_kept, ↓onNvm_keeps, ↓mk_kept, ↓ite_kept, ↓fst_ite_kept, ↓snd_ite_kept, ite_self, implies_true]⟩
theorem State.capMasterChanged_kept (s : State) (old : Bool) (new : Bool) : (State.capMasterChanged s old new).kept = s.kept := by
  unfold State.capMasterChanged; simp only [↓State.onCap_kept, ↓foldl_kept, ↓foldl1_kept, ↓onNvm_keeps, ↓mk_kept, ↓ite_kept, ↓fst_ite_kept, ↓snd_ite_kept, ite_self, implies_true]
theorem State.onFlume_kept (s : State) (n : Nat) (f : Flume → Flume) : (State.onFlume s n f).kept = s.kept := by
  unfold State.onFlume; simp only [↓State.onHdg_kept, ↓foldl_kept, ↓foldl1_kept, ↓onNvm_keeps, ↓mk_kept, ↓ite_kept, ↓fst_ite_kept, ↓snd_ite_kept, ite_self, implies_true]
theorem State.levelRises_kept (s : State) (n : Nat) (old : Nat) (new : Nat) : (State.levelRises s n old new).kept = s.kept := by
  unfold State.levelRises; simp only [↓State.inc_kept, ↓State.peak_kept, ↓State.setBits_kept, ↓State.event_kept, ↓State.onFlume_kept, ↓foldl_kept, ↓foldl1_kept, ↓onNvm_keeps, ↓mk_kept, ↓ite_kept, ↓fst_ite_kept, ↓snd_ite_kept, ite_self, implies_true]
theorem State.levelFell_kept (s : State) (n : Nat) : (State.levelFell s n).kept = s.kept := by
  unfold State.levelFell; simp only [↓State.onFlume_kept, ↓foldl_kept, ↓foldl1_kept, ↓onNvm_keeps, ↓mk_kept, ↓ite_kept, ↓fst_ite_kept, ↓snd_ite_kept, ite_self, implies_true]
theorem State.incIf_kept (s : State) (good : Bool) (off : Nat) : (State.incIf s good off).kept = s.kept := by
  unfold State.incIf; simp only [↓State.inc_kept, ↓foldl_kept, ↓foldl1_kept, ↓onNvm_keeps, ↓mk_kept, ↓ite_kept, ↓fst_ite_kept, ↓snd_ite_kept, ite_self, implies_true]
theorem State.letIn_kept (s : State) (n : Nat) (size : Nat) : (State.letIn s n size).1.kept = s.kept := by
  unfold State.letIn; simp only [↓State.inc_kept, ↓State.onFlume_kept, ↓foldl_kept, ↓foldl1_kept, ↓onNvm_keeps, ↓mk_kept, ↓ite_kept, ↓fst_ite_kept, ↓snd_ite_kept, ite_self, implies_true]
theorem State.commitPacket_kept (s : State) (n : Nat) (blocks : List Block) : (State.commitPacket s n blocks).kept = s.kept := by
  unfold State.commitPacket; simp only [↓State.inc_kept, ↓State.onFlume_kept, ↓State.levelRises_kept, ↓foldl_kept, ↓foldl1_kept, ↓onNvm_keeps, ↓mk_kept, ↓ite_kept, ↓fst_ite_kept, ↓snd_ite_kept, ite_self, implies_true]
theorem State.rewindPacket_kept (s : State) (n : Nat) (written : Nat) : (State.rewindPacket s n written).kept = s.kept := by
  unfold State.rewindPacket; simp only [↓State.inc_kept, ↓State.levelRises_kept, ↓State.levelFell_kept, ↓foldl_kept, ↓foldl1_kept, ↓onNvm_keeps, ↓mk_kept, ↓ite_kept, ↓fst_ite_kept, ↓snd_ite_kept, ite_self, implies_true]
theorem State.missed_kept (s : State) (good : Bool) (idcode : Nat) (source : Nat) : (State.missed s good idcode source).kept = s.kept := by
  unfold State.missed; simp only [↓State.setReg_kept, ↓State.inc_kept, ↓foldl_kept, ↓foldl1_kept, ↓onNvm_keeps, ↓mk_kept, ↓ite_kept, ↓fst_ite_kept, ↓snd_ite_kept, ite_self, implies_true]
theorem State.hashError_kept (s : State) (k : ErrKind) (q : Nat) : (State.hashError s k q).kept = s.kept := by
  unfold State.hashError; split <;> simp only [↓State.onHdg_kept, ↓State.inc_kept, ↓foldl_kept, ↓foldl1_kept, ↓onNvm_keeps, ↓mk_kept, ↓ite_kept, ↓fst_ite_kept, ↓snd_ite_kept, ite_self, implies_true]
theorem State.hashRead_kept (s : State) (e : MemErr) : (State.hashRead s e).kept = s.kept := by
  unfold State.hashRead; split <;> simp only [↓State.hashError_kept, ↓foldl_kept, ↓foldl1_kept, ↓onNvm_keeps, ↓mk_kept, ↓ite_kept, ↓fst_ite_kept, ↓snd_ite_kept, ite_self, implies_true]
theorem State.headgate_kept (s : State) (payload : List Byte) (stated : Nat) (addr : List Byte) (sport source : Nat) (good udpOk : Bool) (errs : List MemErr) :
    (State.headgate s payload stated addr sport source good udpOk errs).kept = s.kept := by
  unfold State.headgate
  extract_lets bs a idcode key set unreadable s0 framesize check
  have h0 : s0.kept = s.kept := ite_to (foldl_kept _ (fun x e => State.hashRead_kept x e) _ _) rfl
  clear_value s0 unreadable key check
  split
  · exact State.incIf_kept ..
  split
  · exact State.incIf_kept ..
  rw [← h0]
  split
  · exact State.missed_kept ..
  rename_i w _
  split
  · exact State.missed_kept ..
  extract_lets e chain implied n size
  split
  · exact State.incIf_kept ..
  split
  · exact State.incIf_kept ..
  have h1 := State.letIn_kept s0 n size
  generalize s0.letIn n size = r at h1
  rcases r with ⟨s1, _ | _⟩
  · exact h1
  · dsimp only at h1 ⊢
    rw [← h1]
    split
    · exact State.rewindPacket_kept ..
    · split <;> simp only [State.commitPacket_kept, State.inc_kept, State.rewindPacket_kept]
theorem State.inject_kept (s : State) (d : InjDesc) (errs : List MemErr) : (State.inject s d errs).1.kept = s.kept := by
  unfold State.inject; simp only [↓State.inc_kept, ↓State.headgate_kept, ↓foldl_kept, ↓foldl1_kept, ↓onNvm_keeps, ↓mk_kept, ↓ite_kept, ↓fst_ite_kept, ↓snd_ite_kept, ite_self, implies_true]
theorem State.takeItem_kept (s : State) (n : Nat) : (State.takeItem s n).kept = s.kept := by
  unfold State.takeItem; simp only [↓State.onHdg_kept, ↓State.onFlume_kept, ↓State.levelFell_kept, ↓foldl_kept, ↓foldl1_kept, ↓onNvm_keeps, ↓mk_kept, ↓ite_kept, ↓fst_ite_kept, ↓snd_ite_kept, ite_self, implies_true]
theorem State.gateFrom_kept (s : State) (old : State) : (State.gateFrom s old).kept = s.kept := by
  unfold State.gateFrom; simp only [↓State.purgeMuted_kept, ↓State.pulsesMuted_kept, ↓State.pulsesUnmuted_kept, ↓foldl_kept, ↓foldl1_kept, ↓onNvm_keeps, ↓mk_kept, ↓ite_kept, ↓fst_ite_kept, ↓snd_ite_kept, ite_self, implies_true]
theorem State.addCause_kept (s : State) (i : Nat) : (State.addCause s i).kept = s.kept := by
  unfold State.addCause; split <;> simp only [↓State.onTck_kept, ↓State.setBits_kept, ↓foldl_kept, ↓foldl1_kept, ↓onNvm_keeps, ↓mk_kept, ↓ite_kept, ↓fst_ite_kept, ↓snd_ite_kept, ite_self, implies_true]
theorem State.clockCause_kept (s : State) : (State.clockCause s).kept = s.kept := by
  unfold State.clockCause; split <;> simp only [↓State.addCause_kept, ↓foldl_kept, ↓foldl1_kept, ↓onNvm_keeps, ↓mk_kept, ↓ite_kept, ↓fst_ite_kept, ↓snd_ite_kept, ite_self, implies_true]
theorem State.releaseSlots_kept (s : State) : (State.releaseSlots s).kept = s.kept := by
  unfold State.releaseSlots; simp only [↓State.onBsn_kept, ↓State.inc_kept, ↓State.post_kept, ↓foldl_kept, ↓foldl1_kept, ↓onNvm_keeps, ↓mk_kept, ↓ite_kept, ↓fst_ite_kept, ↓snd_ite_kept, ite_self, implies_true]
theorem State.swapSends_kept (s : State) (tick : Nat) : (State.swapSends s tick).kept = s.kept := by
  unfold State.swapSends; simp only [↓State.onGzl_kept, ↓State.sendSeq_kept, ↓State.gateFrom_kept, ↓foldl_kept, ↓foldl1_kept, ↓onNvm_keeps, ↓mk_kept, ↓ite_kept, ↓fst_ite_kept, ↓snd_ite_kept, ite_self, implies_true]
theorem State.countColumn_kept (s : State) (p : Proc) (done : Bool) : (State.countColumn s p done).kept = s.kept := by
  unfold State.countColumn; simp only [↓State.setReg_kept, ↓State.inc_kept, ↓State.onCol_kept, ↓foldl_kept, ↓foldl1_kept, ↓onNvm_keeps, ↓mk_kept, ↓ite_kept, ↓fst_ite_kept, ↓snd_ite_kept, ite_self, implies_true]
theorem State.endCopy_kept (s : State) : (State.endCopy s).kept = s.kept := by
  unfold State.endCopy; split <;> simp only [↓State.onTck_kept, ↓State.slackBegins_kept, ↓State.onCol_kept, ↓State.releaseSlots_kept, ↓State.swapSends_kept, ↓State.countColumn_kept, ↓foldl_kept, ↓foldl1_kept, ↓onNvm_keeps, ↓mk_kept, ↓ite_kept, ↓fst_ite_kept, ↓snd_ite_kept, ite_self, implies_true]
theorem State.skipCopy_kept (s : State) : (State.skipCopy s).kept = s.kept := by
  unfold State.skipCopy; simp only [↓State.inc_kept, ↓State.endCopy_kept, ↓foldl_kept, ↓foldl1_kept, ↓onNvm_keeps, ↓mk_kept, ↓ite_kept, ↓fst_ite_kept, ↓snd_ite_kept, ite_self, implies_true]
theorem State.idleEngines_kept (s : State) : (State.idleEngines s).kept = s.kept := by
  unfold State.idleEngines; simp only [↓State.onDpx_kept, ↓State.onMod_kept, ↓State.onTop_kept, ↓State.onAlm_kept, ↓State.onCap_kept, ↓foldl_kept, ↓foldl1_kept, ↓onNvm_keeps, ↓mk_kept, ↓ite_kept, ↓fst_ite_kept, ↓snd_ite_kept, ite_self, implies_true]
theorem State.abandonColumn_kept (s : State) : (State.abandonColumn s).kept = s.kept := by
  unfold State.abandonColumn; split <;> simp only [↓State.onTck_kept, ↓State.slackBegins_kept, ↓State.onCol_kept, ↓State.releaseSlots_kept, ↓State.countColumn_kept, ↓State.idleEngines_kept, ↓foldl_kept, ↓foldl1_kept, ↓onNvm_keeps, ↓mk_kept, ↓ite_kept, ↓fst_ite_kept, ↓snd_ite_kept, ite_self, implies_true]
theorem State.beginCopy_kept (s : State) : (State.beginCopy s).kept = s.kept := by
  unfold State.beginCopy; split <;> simp only [↓State.sendRegion_kept, ↓State.sendTickEnd_kept, ↓State.endCopy_kept, ↓State.skipCopy_kept, ↓foldl_kept, ↓foldl1_kept, ↓onNvm_keeps, ↓mk_kept, ↓ite_kept, ↓fst_ite_kept, ↓snd_ite_kept, ite_self, implies_true]
theorem State.windowEnds_kept (s : State) (cut : Bool) : (State.windowEnds s cut).kept = s.kept := by
  unfold State.windowEnds
  repeat' first
    | (simp only [↓State.onTck_kept, ↓State.setReg_kept, ↓State.peak_kept, ↓State.skipRegion_kept, ↓State.evaluateAll_kept, ↓State.capDerived_kept, ↓State.beginCopy_kept, ↓foldl_kept, ↓foldl1_kept, ↓onNvm_keeps, ↓mk_kept, ↓ite_kept, ↓fst_ite_kept, ↓snd_ite_kept, ite_self, implies_true]; done)
    | split
    | dsimp only
theorem State.linkDown_kept (s : State) (cause : Nat) : (State.linkDown s cause).kept = s.kept := by
  unfold State.linkDown
  repeat' first
    | (simp only [↓State.startHello_kept, ↓State.sessionEnds_kept, ↓State.skipRegion_kept, ↓State.skipCopy_kept, ↓foldl_kept, ↓foldl1_kept, ↓onNvm_keeps, ↓mk_kept, ↓ite_kept, ↓fst_ite_kept, ↓snd_ite_kept, ite_self, implies_true]; done)
    | split
    | dsimp only
theorem State.abandonCopy_kept (s : State) (p : Proc) : (State.abandonCopy s p).kept = s.kept := by
  unfold State.abandonCopy; simp only [↓State.onGzl_kept, ↓State.skipRegion_kept, ↓State.sendTickEnd_kept, ↓foldl_kept, ↓foldl1_kept, ↓onNvm_keeps, ↓mk_kept, ↓ite_kept, ↓fst_ite_kept, ↓snd_ite_kept, ite_self, implies_true]
theorem execCopyLimit_kept (s : State) : ∃ s', execCopyLimit s = .next s' ∧ s'.kept = s.kept := by
  unfold execCopyLimit
  repeat' first
    | split
    | (refine ⟨_, rfl, ?_⟩; repeat' first
        | simp only [↓State.runTo_kept, ↓State.addCause_kept, ↓State.endCopy_kept, ↓State.abandonCopy_kept, ↓foldl_kept, ↓foldl1_kept, ↓onNvm_keeps, ↓mk_kept, ↓ite_kept, ↓fst_ite_kept, ↓snd_ite_kept, ite_self, implies_true])
theorem State.tickOut_kept (s : State) (closes : Bool) : (State.tickOut s closes).kept = s.kept := by
  unfold State.tickOut; simp only [↓State.onTim_kept, ↓foldl_kept, ↓foldl1_kept, ↓onNvm_keeps, ↓mk_kept, ↓ite_kept, ↓fst_ite_kept, ↓snd_ite_kept, ite_self, implies_true]
theorem State.emitInstant_kept (s : State) : (State.emitInstant s).kept = s.kept := by
  unfold State.emitInstant; simp only [↓State.onTck_kept, ↓State.onCol_kept, ↓State.owesEstimates_kept, ↓State.tickOut_kept, ↓foldl_kept, ↓foldl1_kept, ↓onNvm_keeps, ↓mk_kept, ↓ite_kept, ↓fst_ite_kept, ↓snd_ite_kept, ite_self, implies_true]
theorem execGridInstant_kept (s : State) : ∃ s', execGridInstant s = .next s' ∧ s'.kept = s.kept := by
  unfold execGridInstant; split <;> exact ⟨_, rfl, by simp only [↓State.runTo_kept, ↓State.emitInstant_kept, ↓foldl_kept, ↓foldl1_kept, ↓onNvm_keeps, ↓mk_kept, ↓ite_kept, ↓fst_ite_kept, ↓snd_ite_kept, ite_self, implies_true]⟩
theorem execColumnOpen_kept (s : State) : ∃ s', execColumnOpen s = .next s' ∧ s'.kept = s.kept := by
  unfold execColumnOpen; exact ⟨_, rfl, by simp only [↓execOpen_kept, ↓foldl_kept, ↓foldl1_kept, ↓onNvm_keeps, ↓mk_kept, ↓ite_kept, ↓fst_ite_kept, ↓snd_ite_kept, ite_self, implies_true]⟩
theorem State.pitchEnds_kept (s : State) (r : CmdResult) (switched : Bool) : (State.pitchEnds s r switched).kept = s.kept := by
  unfold State.pitchEnds; split <;> simp only [↓State.onSch_kept, ↓State.finish_kept, ↓foldl_kept, ↓foldl1_kept, ↓onNvm_keeps, ↓mk_kept, ↓ite_kept, ↓fst_ite_kept, ↓snd_ite_kept, ite_self, implies_true]
theorem State.pitchRefused_kept (s : State) (reason : Nat) : (State.pitchRefused s reason).kept = s.kept := by
  unfold State.pitchRefused; simp only [↓State.onSch_kept, ↓State.event_kept, ↓State.pitchEnds_kept, ↓foldl_kept, ↓foldl1_kept, ↓onNvm_keeps, ↓mk_kept, ↓ite_kept, ↓fst_ite_kept, ↓snd_ite_kept, ite_self, implies_true]
theorem State.schedError_kept (s : State) (k : ErrKind) (active : Bool) : (State.schedError s k active).kept = s.kept := by
  unfold State.schedError; split <;> simp only [↓State.onSch_kept, ↓State.inc_kept, ↓State.pitchRefused_kept, ↓foldl_kept, ↓foldl1_kept, ↓onNvm_keeps, ↓mk_kept, ↓ite_kept, ↓fst_ite_kept, ↓snd_ite_kept, ite_self, implies_true]
theorem State.fencePlot_kept (s : State) (p : Nat) (poison : Bool) : (State.fencePlot s p poison).kept = s.kept := by
  unfold State.fencePlot; simp only [↓State.onDpx_kept, ↓foldl_kept, ↓foldl1_kept, ↓onNvm_keeps, ↓mk_kept, ↓ite_kept, ↓fst_ite_kept, ↓snd_ite_kept, ite_self, implies_true]
theorem State.unfencePlot_kept (s : State) (p : Nat) : (State.unfencePlot s p).kept = s.kept := by
  unfold State.unfencePlot; simp only [↓State.onDpx_kept, ↓foldl_kept, ↓foldl1_kept, ↓onNvm_keeps, ↓mk_kept, ↓ite_kept, ↓fst_ite_kept, ↓snd_ite_kept, ite_self, implies_true]
theorem execFencePlot_kept (h : CmdHdr) (plot : Byte) (s : State) : ∃ s', execFencePlot h plot s = .next s' ∧ s'.kept = s.kept := by
  unfold execFencePlot; split <;> exact ⟨_, rfl, by simp only [↓State.command_kept, ↓State.fencePlot_kept, ↓foldl_kept, ↓foldl1_kept, ↓onNvm_keeps, ↓mk_kept, ↓ite_kept, ↓fst_ite_kept, ↓snd_ite_kept, ite_self, implies_true]⟩
theorem execUnfencePlot_kept (h : CmdHdr) (plot : Byte) (s : State) : ∃ s', execUnfencePlot h plot s = .next s' ∧ s'.kept = s.kept := by
  unfold execUnfencePlot; split <;> exact ⟨_, rfl, by simp only [↓State.command_kept, ↓State.unfencePlot_kept, ↓foldl_kept, ↓foldl1_kept, ↓onNvm_keeps, ↓mk_kept, ↓ite_kept, ↓fst_ite_kept, ↓snd_ite_kept, ite_self, implies_true]⟩
theorem State.storeError_kept (s : State) (k : ErrKind) (p : Nat) (addr : Nat) : (State.storeError s k p addr).kept = s.kept := by
  unfold State.storeError; split <;> simp only [↓State.setReg_kept, ↓State.inc_kept, ↓State.fencePlot_kept, ↓foldl_kept, ↓foldl1_kept, ↓onNvm_keeps, ↓mk_kept, ↓ite_kept, ↓fst_ite_kept, ↓snd_ite_kept, ite_self, implies_true]
theorem State.memError_kept (s : State) (e : MemErr) : (State.memError s e).kept = s.kept := by
  unfold State.memError; split <;> simp only [↓State.countErr_kept, ↓State.modError_kept, ↓State.cellError_kept, ↓State.streamError_kept, ↓State.runError_kept, ↓State.topError_kept, ↓State.almError_kept, ↓State.prdError_kept, ↓State.arcError_kept, ↓State.nrgError_kept, ↓State.capError_kept, ↓State.hashError_kept, ↓State.schedError_kept, ↓State.storeError_kept, ↓foldl_kept, ↓foldl1_kept, ↓onNvm_keeps, ↓mk_kept, ↓ite_kept, ↓fst_ite_kept, ↓snd_ite_kept, ite_self, implies_true]
theorem State.memErrors_kept (s : State) (errs : List MemErr) : (State.memErrors s errs).kept = s.kept := by
  unfold State.memErrors; simp only [↓State.memError_kept, ↓foldl_kept, ↓foldl1_kept, ↓onNvm_keeps, ↓mk_kept, ↓ite_kept, ↓fst_ite_kept, ↓snd_ite_kept, ite_self, implies_true]
theorem State.writePacket_kept (s : State) (n : Nat) (image : Nat) (blocks : List Block) (gap : Bool) : (State.writePacket s n image blocks gap).kept = s.kept := by
  unfold State.writePacket
  repeat' first
    | (simp only [↓State.add_kept, ↓State.placeBlock_kept, ↓State.lateBlock_kept, ↓State.onFlume_kept, ↓foldl_kept, ↓foldl1_kept, ↓onNvm_keeps, ↓mk_kept, ↓ite_kept, ↓fst_ite_kept, ↓snd_ite_kept, ite_self, implies_true]; done)
    | split
    | (rename_i h; have h' := congrArg (fun p => p.1.kept) h; simp only [↓State.add_kept, ↓State.placeBlock_kept, ↓State.lateBlock_kept, ↓State.onFlume_kept, ↓foldl_kept, ↓foldl1_kept, ↓onNvm_keeps, ↓mk_kept, ↓ite_kept, ↓fst_ite_kept, ↓snd_ite_kept, ite_self, implies_true] at h'; simp only [↓State.add_kept, ↓State.placeBlock_kept, ↓State.lateBlock_kept, ↓State.onFlume_kept, ↓foldl_kept, ↓foldl1_kept, ↓onNvm_keeps, ↓mk_kept, ↓ite_kept, ↓fst_ite_kept, ↓snd_ite_kept, ite_self, implies_true, ← h']; done)
    | (refine (foldl_kept _ (fun x a => ?_) _ _).trans ?_)
theorem execBasinWrite_kept (errs : List MemErr) (s : State) : ∃ s', execBasinWrite errs s = .next s' ∧ s'.kept = s.kept := by
  unfold execBasinWrite
  repeat' first
    | split
    | dsimp only
    | (refine ⟨_, rfl, ?_⟩; repeat' first
        | simp only [↓State.add_kept, ↓State.onFlume_kept, ↓State.takeItem_kept, ↓State.memErrors_kept, ↓State.writePacket_kept, ↓foldl_kept, ↓foldl1_kept, ↓onNvm_keeps, ↓mk_kept, ↓ite_kept, ↓fst_ite_kept, ↓snd_ite_kept, ite_self, implies_true])
theorem State.onPlot_kept (s : State) (p : Nat) (f : Plot → Plot) : (State.onPlot s p f).kept = s.kept := by
  unfold State.onPlot; simp only [↓State.onDpx_kept, ↓foldl_kept, ↓foldl1_kept, ↓onNvm_keeps, ↓mk_kept, ↓ite_kept, ↓fst_ite_kept, ↓snd_ite_kept, ite_self, implies_true]
theorem State.enterList_kept (s : State) (p : Nat) (l : ReadyList) (o : Nat) : (State.enterList s p l o).kept = s.kept := by
  unfold State.enterList; simp only [↓State.onPlot_kept, ↓foldl_kept, ↓foldl1_kept, ↓onNvm_keeps, ↓mk_kept, ↓ite_kept, ↓fst_ite_kept, ↓snd_ite_kept, ite_self, implies_true]
theorem State.storeWords_kept (s : State) (q : Nat) (addr : Nat) (n : Nat) : (State.storeWords s q addr n).2.kept = s.kept := by
  unfold State.storeWords; simp only [↓State.freeWord_kept, ↓foldl_kept, ↓foldl1_kept, ↓onNvm_keeps, ↓mk_kept, ↓ite_kept, ↓fst_ite_kept, ↓snd_ite_kept, ite_self, implies_true]
theorem State.writeStore_kept (s : State) (q : Nat) (addr : Nat) (ws : List Word) : (State.writeStore s q addr ws).kept = s.kept := by
  unfold State.writeStore; simp only [↓State.onDpx_kept, ↓foldl_kept, ↓foldl1_kept, ↓onNvm_keeps, ↓mk_kept, ↓ite_kept, ↓fst_ite_kept, ↓snd_ite_kept, ite_self, implies_true]
theorem State.fetchArg_kept (s : State) (q : Nat) (o : Nat) (i : Nat) : (State.fetchArg s q o i).2.kept = s.kept := by
  unfold State.fetchArg
  repeat' first
    | (simp only [↓State.storeWords_kept, ↓foldl_kept, ↓foldl1_kept, ↓onNvm_keeps, ↓mk_kept, ↓ite_kept, ↓fst_ite_kept, ↓snd_ite_kept, ite_self, implies_true]; done)
    | split
    | dsimp only
theorem State.fetchArgs_kept (s : State) (q o n i : Nat) : (State.fetchArgs s q o n i).2.kept = s.kept := by
  induction n generalizing s i with
  | zero => rfl
  | succ n ih => unfold State.fetchArgs; dsimp only; rw [ih, State.fetchArg_kept]
theorem State.outRecord_kept (s : State) (o : Nat) (payload : List Word) (flags : BitVec 2) (discarded : Bool) : (State.outRecord s o payload flags discarded).kept = s.kept := by
  unfold State.outRecord
  repeat' first
    | split
    | (rename_i h; have h' := congrArg (fun p => p.1.kept) h; simp only [↓State.inc_kept, ↓State.deliver_kept, ↓foldl_kept, ↓foldl1_kept, ↓onNvm_keeps, ↓mk_kept, ↓ite_kept, ↓fst_ite_kept, ↓snd_ite_kept, ite_self, implies_true] at h'; simp only [↓State.inc_kept, ↓State.deliver_kept, ↓foldl_kept, ↓foldl1_kept, ↓onNvm_keeps, ↓mk_kept, ↓ite_kept, ↓fst_ite_kept, ↓snd_ite_kept, ite_self, implies_true, ← h']; done)
    | dsimp only
theorem State.stateOut_kept (s : State) (region : Nat) : (State.stateOut s region).kept = s.kept := by
  unfold State.stateOut; simp only [↓State.sendRegion_kept, ↓foldl_kept, ↓foldl1_kept, ↓onNvm_keeps, ↓mk_kept, ↓ite_kept, ↓fst_ite_kept, ↓snd_ite_kept, ite_self, implies_true]
theorem State.handOff_kept (s : State) (o : Nat) (args : List (List Word)) (flags : BitVec 2) : (State.handOff s o args flags).kept = s.kept := by
  unfold State.handOff
  repeat' first
    | (simp only [↓State.skipRegion_kept, ↓State.modHandOver_kept, ↓State.topHandOver_kept, ↓State.almHandOver_kept, ↓State.capSig_kept, ↓State.stateOut_kept, ↓foldl_kept, ↓foldl1_kept, ↓onNvm_keeps, ↓mk_kept, ↓ite_kept, ↓fst_ite_kept, ↓snd_ite_kept, ite_self, implies_true]; done)
    | split
    | dsimp only
theorem State.markRetired_kept (s : State) (o : Nat) (flags : BitVec 2) : (State.markRetired s o flags).kept = s.kept := by
  unfold State.markRetired; simp only [↓State.onDpx_kept, ↓foldl_kept, ↓foldl1_kept, ↓onNvm_keeps, ↓mk_kept, ↓ite_kept, ↓fst_ite_kept, ↓snd_ite_kept, ite_self, implies_true]
theorem State.retireFlagged_kept (s : State) (o : Nat) (flags : BitVec 2) (args : List (List Word)) (nan : Nat → Bool) : (State.retireFlagged s o flags args nan).kept = s.kept := by
  unfold State.retireFlagged; simp only [↓State.outRecord_kept, ↓State.handOff_kept, ↓State.markRetired_kept, ↓foldl_kept, ↓foldl1_kept, ↓onNvm_keeps, ↓mk_kept, ↓ite_kept, ↓fst_ite_kept, ↓snd_ite_kept, ite_self, implies_true]
theorem State.releaseOp_kept (s : State) (r : Held) : (State.releaseOp s r).1.kept = s.kept := by
  unfold State.releaseOp; simp only [↓State.onDpx_kept, ↓State.inc_kept, ↓State.addCause_kept, ↓State.enterList_kept, ↓State.fetchArgs_kept, ↓State.outRecord_kept, ↓State.markRetired_kept, ↓State.retireFlagged_kept, ↓foldl_kept, ↓foldl1_kept, ↓onNvm_keeps, ↓mk_kept, ↓ite_kept, ↓fst_ite_kept, ↓snd_ite_kept, ite_self, implies_true]
theorem State.releaseAll_kept (n : Nat) (l : List Held) (s : State) : (State.releaseAll n l s).kept = s.kept := by
  induction n generalizing l s with
  | zero => rfl
  | succ n ih =>
    cases l with
    | nil => rfl
    | cons r rest => unfold State.releaseAll; simp only [ih, State.releaseOp_kept]
theorem State.release_kept (s : State) (ops : List Nat) (src : ReleaseSource) : (State.release s ops src).kept = s.kept := by
  unfold State.release; simp only [↓State.releaseAll_kept, ↓foldl_kept, ↓foldl1_kept, ↓onNvm_keeps, ↓mk_kept, ↓ite_kept, ↓fst_ite_kept, ↓snd_ite_kept, ite_self, implies_true]
theorem State.drainHeld_kept (n : Nat) (s : State) : (State.drainHeld n s).kept = s.kept := by
  induction n generalizing s with
  | zero => rfl
  | succ n ih =>
    unfold State.drainHeld
    split
    · rfl
    · rw [ih, State.enterList_kept, State.onDpx_kept]
theorem State.promote_kept (s : State) (p : Nat) : (State.promote s p).kept = s.kept := by
  unfold State.promote; simp only [↓State.onPlot_kept, ↓foldl_kept, ↓foldl1_kept, ↓onNvm_keeps, ↓mk_kept, ↓ite_kept, ↓fst_ite_kept, ↓snd_ite_kept, ite_self, implies_true]
theorem State.promoteAll_kept (s : State) : (State.promoteAll s).kept = s.kept := by
  unfold State.promoteAll; simp only [↓State.promote_kept, ↓foldl_kept, ↓foldl1_kept, ↓onNvm_keeps, ↓mk_kept, ↓ite_kept, ↓fst_ite_kept, ↓snd_ite_kept, ite_self, implies_true]
theorem State.checkWindow_kept (s : State) : (State.checkWindow s).kept = s.kept := by
  unfold State.checkWindow; split <;> simp only [↓State.windowEnds_kept, ↓foldl_kept, ↓foldl1_kept, ↓onNvm_keeps, ↓mk_kept, ↓ite_kept, ↓fst_ite_kept, ↓snd_ite_kept, ite_self, implies_true]
theorem State.afterRetire_kept (s : State) (o : Nat) (p : Nat) : (State.afterRetire s o p).kept = s.kept := by
  unfold State.afterRetire; simp only [↓State.release_kept, ↓State.drainHeld_kept, ↓State.promoteAll_kept, ↓State.checkWindow_kept, ↓foldl_kept, ↓foldl1_kept, ↓onNvm_keeps, ↓mk_kept, ↓ite_kept, ↓fst_ite_kept, ↓snd_ite_kept, ite_self, implies_true]
theorem State.poisoned_kept (s : State) (o : Nat) (p : Nat) (bad : Nat → Bool) (args : List (List Word)) : (State.poisoned s o p bad args).kept = s.kept := by
  unfold State.poisoned; simp only [↓State.inc_kept, ↓State.retireFlagged_kept, ↓State.afterRetire_kept, ↓foldl_kept, ↓foldl1_kept, ↓onNvm_keeps, ↓mk_kept, ↓ite_kept, ↓fst_ite_kept, ↓snd_ite_kept, ite_self, implies_true]
theorem State.startOn_kept (s : State) (p : Nat) (errs : List MemErr) : (State.startOn s p errs).kept = s.kept := by
  unfold State.startOn
  repeat' first
    | (simp only [↓State.memErrors_kept, ↓State.onPlot_kept, ↓State.fetchArgs_kept, ↓State.promote_kept, ↓State.poisoned_kept, ↓foldl_kept, ↓foldl1_kept, ↓onNvm_keeps, ↓mk_kept, ↓ite_kept, ↓fst_ite_kept, ↓snd_ite_kept, ite_self, implies_true]; done)
    | split
    | dsimp only
theorem execOperationStart_kept (plot : Fin 32) (errs : List MemErr) (s : State) : ∃ s', execOperationStart plot errs s = .next s' ∧ s'.kept = s.kept := by
  unfold execOperationStart
  repeat' first
    | split
    | (refine ⟨_, rfl, ?_⟩; repeat' first
        | simp only [↓State.startOn_kept, ↓foldl_kept, ↓foldl1_kept, ↓onNvm_keeps, ↓mk_kept, ↓ite_kept, ↓fst_ite_kept, ↓snd_ite_kept, ite_self, implies_true])
theorem State.deliverResult_kept (s : State) (o : Nat) (ws : List Word) : (State.deliverResult s o ws).kept = s.kept := by
  unfold State.deliverResult; simp only [↓State.writeStore_kept, ↓foldl_kept, ↓foldl1_kept, ↓onNvm_keeps, ↓mk_kept, ↓ite_kept, ↓fst_ite_kept, ↓snd_ite_kept, ite_self, implies_true]
theorem State.completeOp_kept (s : State) (w : Work) : (State.completeOp s w).kept = s.kept := by
  unfold State.completeOp; simp only [↓State.outRecord_kept, ↓State.handOff_kept, ↓State.deliverResult_kept, ↓foldl_kept, ↓foldl1_kept, ↓onNvm_keeps, ↓mk_kept, ↓ite_kept, ↓fst_ite_kept, ↓snd_ite_kept, ite_self, implies_true]
theorem State.retireOn_kept (s : State) (p : Nat) (w : Work) (errs : List MemErr) : (State.retireOn s p w errs).kept = s.kept := by
  unfold State.retireOn; simp only [↓State.memErrors_kept, ↓State.onPlot_kept, ↓State.markRetired_kept, ↓State.afterRetire_kept, ↓State.poisoned_kept, ↓State.completeOp_kept, ↓foldl_kept, ↓foldl1_kept, ↓onNvm_keeps, ↓mk_kept, ↓ite_kept, ↓fst_ite_kept, ↓snd_ite_kept, ite_self, implies_true]
theorem execOperationRetire_kept (x : RetireIn) (s : State) : ∃ s', execOperationRetire x s = .next s' ∧ s'.kept = s.kept := by
  unfold execOperationRetire
  repeat' first
    | split
    | (refine ⟨_, rfl, ?_⟩; repeat' first
        | simp only [↓State.retireOn_kept, ↓foldl_kept, ↓foldl1_kept, ↓onNvm_keeps, ↓mk_kept, ↓ite_kept, ↓fst_ite_kept, ↓snd_ite_kept, ite_self, implies_true])
theorem State.jobDone_kept (s : State) (e : Nat) (job : Nat) (rec_ : List Word) (flags : BitVec 2) : (State.jobDone s e job rec_ flags).kept = s.kept := by
  unfold State.jobDone; simp only [↓State.onDpx_kept, ↓State.writeStore_kept, ↓foldl_kept, ↓foldl1_kept, ↓onNvm_keeps, ↓mk_kept, ↓ite_kept, ↓fst_ite_kept, ↓snd_ite_kept, ite_self, implies_true]
theorem State.releaseJobs_kept (s : State) (e : Nat) (jobs : List Nat) : (State.releaseJobs s e jobs).kept = s.kept := by
  unfold State.releaseJobs; simp only [↓State.release_kept, ↓State.checkWindow_kept, ↓foldl_kept, ↓foldl1_kept, ↓onNvm_keeps, ↓mk_kept, ↓ite_kept, ↓fst_ite_kept, ↓snd_ite_kept, ite_self, implies_true]
theorem State.completeFeed_kept (s : State) (p : Nat) (feed : ModFeed) : (State.completeFeed s p feed).kept = s.kept := by
  unfold State.completeFeed
  repeat' first
    | (simp only [↓State.onMod_kept, ↓State.processFeed_kept, ↓State.modBusy_kept, ↓State.jobDone_kept, ↓State.releaseJobs_kept, ↓foldl_kept, ↓foldl1_kept, ↓onNvm_keeps, ↓mk_kept, ↓ite_kept, ↓fst_ite_kept, ↓snd_ite_kept, ite_self, implies_true]; done)
    | split
    | dsimp only
theorem execModalFeedProcessed_kept (errs : List MemErr) (s : State) : ∃ s', execModalFeedProcessed errs s = .next s' ∧ s'.kept = s.kept := by
  unfold execModalFeedProcessed
  repeat' first
    | split
    | (refine ⟨_, rfl, ?_⟩; repeat' first
        | simp only [↓State.memErrors_kept, ↓State.completeFeed_kept, ↓foldl_kept, ↓foldl1_kept, ↓onNvm_keeps, ↓mk_kept, ↓ite_kept, ↓fst_ite_kept, ↓snd_ite_kept, ite_self, implies_true])
theorem State.completePass_kept (s : State) (tick : Nat) (passNs : Nat) : (State.completePass s tick passNs).kept = s.kept := by
  unfold State.completePass; simp only [↓State.countPass_kept, ↓State.jobDone_kept, ↓State.releaseJobs_kept, ↓foldl_kept, ↓foldl1_kept, ↓onNvm_keeps, ↓mk_kept, ↓ite_kept, ↓fst_ite_kept, ↓snd_ite_kept, ite_self, implies_true]
theorem execTopologyPass_kept (passNs : Nat) (errs : List MemErr) (s : State) : ∃ s', execTopologyPass passNs errs s = .next s' ∧ s'.kept = s.kept := by
  unfold execTopologyPass
  repeat' first
    | split
    | (refine ⟨_, rfl, ?_⟩; repeat' first
        | simp only [↓State.memErrors_kept, ↓State.completePass_kept, ↓foldl_kept, ↓foldl1_kept, ↓onNvm_keeps, ↓mk_kept, ↓ite_kept, ↓fst_ite_kept, ↓snd_ite_kept, ite_self, implies_true])
theorem State.lastPass_kept (s : State) : (State.lastPass s).kept = s.kept := by
  unfold State.lastPass; split <;> simp only [↓State.freeWord_kept, ↓State.countPass_kept, ↓foldl_kept, ↓foldl1_kept, ↓onNvm_keeps, ↓mk_kept, ↓ite_kept, ↓fst_ite_kept, ↓snd_ite_kept, ite_self, implies_true]
theorem State.overrun_kept (s : State) : (State.overrun s).kept = s.kept := by
  unfold State.overrun; simp only [↓State.onDpx_kept, ↓State.add_kept, ↓State.modOverrun_kept, ↓State.addCause_kept, ↓State.windowEnds_kept, ↓State.outRecord_kept, ↓State.lastPass_kept, ↓foldl_kept, ↓foldl1_kept, ↓onNvm_keeps, ↓mk_kept, ↓ite_kept, ↓fst_ite_kept, ↓snd_ite_kept, ite_self, implies_true]
theorem execOverrunLimit_kept (s : State) : ∃ s', execOverrunLimit s = .next s' ∧ s'.kept = s.kept := by
  unfold execOverrunLimit
  repeat' first
    | split
    | (refine ⟨_, rfl, ?_⟩; repeat' first
        | simp only [↓State.runTo_kept, ↓State.overrun_kept, ↓foldl_kept, ↓foldl1_kept, ↓onNvm_keeps, ↓mk_kept, ↓ite_kept, ↓fst_ite_kept, ↓snd_ite_kept, ite_self, implies_true])
theorem State.beginOps_kept (s : State) (v : Nat) (map : List Nat) : (State.beginOps s v map).kept = s.kept := by
  unfold State.beginOps; simp only [↓State.onDpx_kept, ↓State.release_kept, ↓State.checkWindow_kept, ↓foldl_kept, ↓foldl1_kept, ↓onNvm_keeps, ↓mk_kept, ↓ite_kept, ↓fst_ite_kept, ↓snd_ite_kept, ite_self, implies_true]
theorem State.reselect_kept (s : State) : (State.reselect s).kept = s.kept := by
  unfold State.reselect; simp only [↓State.onTim_kept, ↓foldl_kept, ↓foldl1_kept, ↓onNvm_keeps, ↓mk_kept, ↓ite_kept, ↓fst_ite_kept, ↓snd_ite_kept, ite_self, implies_true]
theorem State.enterBivouac_kept (s : State) : (State.enterBivouac s).kept = s.kept := by
  unfold State.enterBivouac; split <;> simp only [↓State.onTim_kept, ↓State.inc_kept, ↓State.event_kept, ↓foldl_kept, ↓foldl1_kept, ↓onNvm_keeps, ↓mk_kept, ↓ite_kept, ↓fst_ite_kept, ↓snd_ite_kept, ite_self, implies_true]
theorem State.loseSource_kept (s : State) : (State.loseSource s).kept = s.kept := by
  unfold State.loseSource; simp only [↓State.onTim_kept, ↓State.reselect_kept, ↓State.enterBivouac_kept, ↓foldl_kept, ↓foldl1_kept, ↓onNvm_keeps, ↓mk_kept, ↓ite_kept, ↓fst_ite_kept, ↓snd_ite_kept, ite_self, implies_true]
theorem State.runBmca_kept (s : State) : (State.runBmca s).kept = s.kept := by
  unfold State.runBmca; simp only [↓State.reselect_kept, ↓State.loseSource_kept, ↓foldl_kept, ↓foldl1_kept, ↓onNvm_keeps, ↓mk_kept, ↓ite_kept, ↓fst_ite_kept, ↓snd_ite_kept, ite_self, implies_true]
theorem State.takeParentData_kept (s : State) (m : Master) : (State.takeParentData s m).kept = s.kept := by
  unfold State.takeParentData
  repeat' first
    | (simp only [↓State.onTim_kept, ↓State.giveOffset_kept, ↓foldl_kept, ↓foldl1_kept, ↓onNvm_keeps, ↓mk_kept, ↓ite_kept, ↓fst_ite_kept, ↓snd_ite_kept, ite_self, implies_true]; done)
    | split
theorem State.sendPtp_kept (s : State) (n : Nat) (event : Bool) (peer : Bool) (egress : Option Nat) (ingress : Option (Int × Nat)) (msg : List Byte) : (State.sendPtp s n event peer egress ingress msg).kept = s.kept := by
  unfold State.sendPtp; simp only [↓State.onPrt_kept, ↓State.enqueue_kept, ↓foldl_kept, ↓foldl1_kept, ↓onNvm_keeps, ↓mk_kept, ↓ite_kept, ↓fst_ite_kept, ↓snd_ite_kept, ite_self, implies_true]
theorem State.onPtpPort_kept (s : State) (n : Nat) (f : PtpPort → PtpPort) : (State.onPtpPort s n f).kept = s.kept := by
  unfold State.onPtpPort; simp only [↓State.onTim_kept, ↓foldl_kept, ↓foldl1_kept, ↓onNvm_keeps, ↓mk_kept, ↓ite_kept, ↓fst_ite_kept, ↓snd_ite_kept, ite_self, implies_true]
theorem State.takeSeq_kept (s : State) (n : Nat) (kind : Nat) : (State.takeSeq s n kind).2.kept = s.kept := by
  unfold State.takeSeq; simp only [↓State.onPtpPort_kept, ↓foldl_kept, ↓foldl1_kept, ↓onNvm_keeps, ↓mk_kept, ↓ite_kept, ↓fst_ite_kept, ↓snd_ite_kept, ite_self, implies_true]
theorem State.ptpSend_kept (s : State) (n : Nat) (kind : Nat) : (State.ptpSend s n kind).kept = s.kept := by
  unfold State.ptpSend
  repeat' first
    | with_reducible rfl
    | split
    | (rename_i h _; have h' := congrArg (fun p => p.2.kept) h; simp only [↓State.sendPtp_kept, ↓State.takeSeq_kept, ↓foldl_kept, ↓foldl1_kept, ↓onNvm_keeps, ↓mk_kept, ↓ite_kept, ↓fst_ite_kept, ↓snd_ite_kept, ite_self, implies_true] at h'; simp only [↓State.sendPtp_kept, ↓State.takeSeq_kept, ↓foldl_kept, ↓foldl1_kept, ↓onNvm_keeps, ↓mk_kept, ↓ite_kept, ↓fst_ite_kept, ↓snd_ite_kept, ite_self, implies_true, ← h']; done)
    | (rename_i h _ _; have h' := congrArg (fun p => p.2.kept) h; simp only [↓State.sendPtp_kept, ↓State.takeSeq_kept, ↓foldl_kept, ↓foldl1_kept, ↓onNvm_keeps, ↓mk_kept, ↓ite_kept, ↓fst_ite_kept, ↓snd_ite_kept, ite_self, implies_true] at h'; simp only [↓State.sendPtp_kept, ↓State.takeSeq_kept, ↓foldl_kept, ↓foldl1_kept, ↓onNvm_keeps, ↓mk_kept, ↓ite_kept, ↓fst_ite_kept, ↓snd_ite_kept, ite_self, implies_true, ← h']; done)
    | (rename_i h _ _ _ _ _; have h' := congrArg (fun p => p.2.kept) h; simp only [↓State.sendPtp_kept, ↓State.takeSeq_kept, ↓foldl_kept, ↓foldl1_kept, ↓onNvm_keeps, ↓mk_kept, ↓ite_kept, ↓fst_ite_kept, ↓snd_ite_kept, ite_self, implies_true] at h'; simp only [↓State.sendPtp_kept, ↓State.takeSeq_kept, ↓foldl_kept, ↓foldl1_kept, ↓onNvm_keeps, ↓mk_kept, ↓ite_kept, ↓fst_ite_kept, ↓snd_ite_kept, ite_self, implies_true, ← h']; done)
theorem State.ptpLeaves_kept (s : State) (n : Nat) (x : TxItem) (k : Nat) (out : Int) : (State.ptpLeaves s n x k out).2.kept = s.kept := by
  unfold State.ptpLeaves
  repeat' first
    | (simp only [↓State.sendPtp_kept, ↓State.onPtpPort_kept, ↓foldl_kept, ↓foldl1_kept, ↓onNvm_keeps, ↓mk_kept, ↓ite_kept, ↓fst_ite_kept, ↓snd_ite_kept, ite_self, implies_true]; done)
    | split
theorem State.ptpEgress_kept (s : State) (n : Nat) (x : TxItem) : (State.ptpEgress s n x).2.kept = s.kept := by
  unfold State.ptpEgress; split <;> simp only [↓State.ptpLeaves_kept, ↓foldl_kept, ↓foldl1_kept, ↓onNvm_keeps, ↓mk_kept, ↓ite_kept, ↓fst_ite_kept, ↓snd_ite_kept, ite_self, implies_true]
theorem State.hearAnnounce_kept (s : State) (n : Nat) (msg : List Byte) : (State.hearAnnounce s n msg).kept = s.kept := by
  unfold State.hearAnnounce; simp only [↓State.onTim_kept, ↓State.runBmca_kept, ↓State.takeParentData_kept, ↓foldl_kept, ↓foldl1_kept, ↓onNvm_keeps, ↓mk_kept, ↓ite_kept, ↓fst_ite_kept, ↓snd_ite_kept, ite_self, implies_true]
theorem State.syncHeard_kept (s : State) (n : Nat) (log : Int) : (State.syncHeard s n log).kept = s.kept := by
  unfold State.syncHeard; simp only [↓State.onTim_kept, ↓foldl_kept, ↓foldl1_kept, ↓onNvm_keeps, ↓mk_kept, ↓ite_kept, ↓fst_ite_kept, ↓snd_ite_kept, ite_self, implies_true]
theorem State.linkDelay_kept (s : State) (n : Nat) (twice : Int) : (State.linkDelay s n twice).kept = s.kept := by
  unfold State.linkDelay; simp only [↓State.setReg_kept, ↓State.onPtpPort_kept, ↓foldl_kept, ↓foldl1_kept, ↓onNvm_keeps, ↓mk_kept, ↓ite_kept, ↓fst_ite_kept, ↓snd_ite_kept, ite_self, implies_true]
theorem State.ptpMeasured_kept (s : State) (n : Nat) (delta : Int) : (State.ptpMeasured s n delta).kept = s.kept := by
  unfold State.ptpMeasured
  repeat' first
    | (simp only [↓State.onTim_kept, ↓State.onPtpPort_kept, ↓foldl_kept, ↓foldl1_kept, ↓onNvm_keeps, ↓mk_kept, ↓ite_kept, ↓fst_ite_kept, ↓snd_ite_kept, ite_self, implies_true]; done)
    | split
theorem State.ptpReceive_kept (s : State) (n : Nat) (msg : List Byte) (ball : Int) : (State.ptpReceive s n msg ball).kept = s.kept := by
  unfold State.ptpReceive
  repeat' first
    | (simp only [↓State.onTim_kept, ↓State.sendPtp_kept, ↓State.onPtpPort_kept, ↓State.hearAnnounce_kept, ↓State.syncHeard_kept, ↓State.linkDelay_kept, ↓State.ptpMeasured_kept, ↓foldl_kept, ↓foldl1_kept, ↓onNvm_keeps, ↓mk_kept, ↓ite_kept, ↓fst_ite_kept, ↓snd_ite_kept, ite_self, implies_true]; done)
    | split
theorem State.sendStream_kept (s : State) (c : Column) (n : Nat) : (State.sendStream s c n).kept = s.kept := by
  unfold State.sendStream; simp only [↓State.enqueue_kept, ↓State.send_kept, ↓foldl_kept, ↓foldl1_kept, ↓onNvm_keeps, ↓mk_kept, ↓ite_kept, ↓fst_ite_kept, ↓snd_ite_kept, ite_self, implies_true]
theorem State.egress_kept (s : State) (c : Column) : (State.egress s c).kept = s.kept := by
  unfold State.egress; simp only [↓State.sendStream_kept, ↓foldl_kept, ↓foldl1_kept, ↓onNvm_keeps, ↓mk_kept, ↓ite_kept, ↓fst_ite_kept, ↓snd_ite_kept, ite_self, implies_true]
theorem State.select_kept (s : State) (c : Column) (slow : List SlowRecord) (n : Nat) : (State.select s c slow n).kept = s.kept := by
  unfold State.select
  repeat' first
    | split
    | (rename_i h; have h' := congrArg (fun p => p.1.kept) h; simp only [↓State.onBsn_kept, ↓State.inc_kept, ↓State.deliverSlow_kept, ↓foldl_kept, ↓foldl1_kept, ↓onNvm_keeps, ↓mk_kept, ↓ite_kept, ↓fst_ite_kept, ↓snd_ite_kept, ite_self, implies_true] at h'; simp only [↓State.onBsn_kept, ↓State.inc_kept, ↓State.deliverSlow_kept, ↓foldl_kept, ↓foldl1_kept, ↓onNvm_keeps, ↓mk_kept, ↓ite_kept, ↓fst_ite_kept, ↓snd_ite_kept, ite_self, implies_true, ← h']; done)
    | dsimp only
theorem State.columnRecords_kept (s : State) (c : Column) (slow : List SlowRecord) : (State.columnRecords s c slow).kept = s.kept := by
  unfold State.columnRecords; simp only [↓State.select_kept, ↓foldl_kept, ↓foldl1_kept, ↓onNvm_keeps, ↓mk_kept, ↓ite_kept, ↓fst_ite_kept, ↓snd_ite_kept, ite_self, implies_true]
theorem State.holdRecord_kept (s : State) : (State.holdRecord s).kept = s.kept := by
  unfold State.holdRecord; simp only [↓State.event_kept, ↓foldl_kept, ↓foldl1_kept, ↓onNvm_keeps, ↓mk_kept, ↓ite_kept, ↓fst_ite_kept, ↓snd_ite_kept, ite_self, implies_true]
theorem State.stepResolved_kept (s : State) : (State.stepResolved s).kept = s.kept := by
  unfold State.stepResolved; simp only [↓State.onSys_kept, ↓State.holdRecord_kept, ↓foldl_kept, ↓foldl1_kept, ↓onNvm_keeps, ↓mk_kept, ↓ite_kept, ↓fst_ite_kept, ↓snd_ite_kept, ite_self, implies_true]
theorem State.toRole_kept (s : State) (r : Role) : (State.toRole s r).kept = s.kept := by
  unfold State.toRole
  repeat' first
    | (simp only [↓State.onGzl_kept, ↓State.onNrg_kept, ↓State.event_kept, ↓State.abandonColumn_kept, ↓State.stepResolved_kept, ↓foldl_kept, ↓foldl1_kept, ↓onNvm_keeps, ↓mk_kept, ↓ite_kept, ↓fst_ite_kept, ↓snd_ite_kept, ite_self, implies_true]; done)
    | split
theorem State.freshEngines_kept (s : State) : (State.freshEngines s).kept = s.kept := by
  unfold State.freshEngines; simp only [↓State.onTop_kept, ↓State.onAlm_kept, ↓State.reinitAll_kept, ↓foldl_kept, ↓foldl1_kept, ↓onNvm_keeps, ↓mk_kept, ↓ite_kept, ↓fst_ite_kept, ↓snd_ite_kept, ite_self, implies_true]
theorem State.claimRole_kept (s : State) (r : Role) : (State.claimRole s r).kept = s.kept := by
  unfold State.claimRole
  extract_lets e s0 s1 s2
  have h0 : s0.kept = s.kept := by
    unfold s0; split
    · exact State.nvmWrite_held_kept _ _ ‹_›
    · rfl
  clear_value s0
  have h1 : s1.kept = s0.kept := (State.toRole_kept _ _).trans (State.onGzl_kept _ _)
  clear_value s1
  have h2 : s2.kept = s1.kept := ite_to (State.freshEngines_kept _) rfl
  clear_value s2
  rw [State.gateFrom_kept, h2, h1, h0]
theorem State.swapsEnd_kept (s : State) (which : Swap → Bool) (result : Swap → CmdResult) : (State.swapsEnd s which result).kept = s.kept := by
  unfold State.swapsEnd; simp only [↓State.onGzl_kept, ↓State.finish_kept, ↓foldl_kept, ↓foldl1_kept, ↓onNvm_keeps, ↓mk_kept, ↓ite_kept, ↓fst_ite_kept, ↓snd_ite_kept, ite_self, implies_true]
theorem State.swapsFail_kept (s : State) (which : Swap → Bool) : (State.swapsFail s which).kept = s.kept := by
  unfold State.swapsFail; simp only [↓State.swapsEnd_kept, ↓foldl_kept, ↓foldl1_kept, ↓onNvm_keeps, ↓mk_kept, ↓ite_kept, ↓fst_ite_kept, ↓snd_ite_kept, ite_self, implies_true]
theorem State.swapsSucceed_kept (s : State) : (State.swapsSucceed s).kept = s.kept := by
  unfold State.swapsSucceed; simp only [↓State.swapsEnd_kept, ↓foldl_kept, ↓foldl1_kept, ↓onNvm_keeps, ↓mk_kept, ↓ite_kept, ↓fst_ite_kept, ↓snd_ite_kept, ite_self, implies_true]
theorem State.standDown_kept (s : State) (swapOk : Bool) : (State.standDown s swapOk).kept = s.kept := by
  unfold State.standDown; simp only [↓State.gateFrom_kept, ↓State.toRole_kept, ↓State.swapsFail_kept, ↓State.swapsSucceed_kept, ↓foldl_kept, ↓foldl1_kept, ↓onNvm_keeps, ↓mk_kept, ↓ite_kept, ↓fst_ite_kept, ↓snd_ite_kept, ite_self, implies_true]
theorem State.yieldRole_kept (s : State) (swapOk : Bool) : (State.yieldRole s swapOk).kept = s.kept := by
  unfold State.yieldRole; simp only [↓State.inc_kept, ↓State.setBits_kept, ↓State.event_kept, ↓State.standDown_kept, ↓foldl_kept, ↓foldl1_kept, ↓onNvm_keeps, ↓mk_kept, ↓ite_kept, ↓fst_ite_kept, ↓snd_ite_kept, ite_self, implies_true]
theorem State.readPartner_kept (s : State) (r : Role) (e : Word) : (State.readPartner s r e).kept = s.kept := by
  unfold State.readPartner; simp only [↓State.onGzl_kept, ↓State.oneCycle_kept, ↓State.gateFrom_kept, ↓State.standDown_kept, ↓State.yieldRole_kept, ↓foldl_kept, ↓foldl1_kept, ↓onNvm_keeps, ↓mk_kept, ↓ite_kept, ↓fst_ite_kept, ↓snd_ite_kept, ite_self, implies_true]
theorem State.takeOver_kept (s : State) : (State.takeOver s).kept = s.kept := by
  unfold State.takeOver; simp only [↓State.inc_kept, ↓State.claimRole_kept, ↓foldl_kept, ↓foldl1_kept, ↓onNvm_keeps, ↓mk_kept, ↓ite_kept, ↓fst_ite_kept, ↓snd_ite_kept, ite_self, implies_true]
theorem State.resolveRole_kept (s : State) : (State.resolveRole s).kept = s.kept := by
  unfold State.resolveRole; simp only [↓State.claimRole_kept, ↓State.standDown_kept, ↓foldl_kept, ↓foldl1_kept, ↓onNvm_keeps, ↓mk_kept, ↓ite_kept, ↓fst_ite_kept, ↓snd_ite_kept, ite_self, implies_true]
theorem State.guyLine_kept (s : State) (b : Bool) (got : Bool) (other : Bool) : (State.guyLine s b got other).kept = s.kept := by
  unfold State.guyLine; simp only [↓State.onGzl_kept, ↓State.inc_kept, ↓State.setBits_kept, ↓State.event_kept, ↓foldl_kept, ↓foldl1_kept, ↓onNvm_keeps, ↓mk_kept, ↓ite_kept, ↓fst_ite_kept, ↓snd_ite_kept, ite_self, implies_true]
theorem State.intervalEnds_kept (s : State) : (State.intervalEnds s).kept = s.kept := by
  unfold State.intervalEnds; simp only [↓State.onGzl_kept, ↓State.setBits_kept, ↓State.oneCycle_kept, ↓State.event_kept, ↓State.takeOver_kept, ↓State.resolveRole_kept, ↓State.guyLine_kept, ↓foldl_kept, ↓foldl1_kept, ↓onNvm_keeps, ↓mk_kept, ↓ite_kept, ↓fst_ite_kept, ↓snd_ite_kept, ite_self, implies_true]
theorem execGuyLineIntervalEnd_kept (s : State) : ∃ s', execGuyLineIntervalEnd s = .next s' ∧ s'.kept = s.kept := by
  unfold execGuyLineIntervalEnd; split <;> exact ⟨_, rfl, by simp only [↓State.runTo_kept, ↓State.intervalEnds_kept, ↓foldl_kept, ↓foldl1_kept, ↓onNvm_keeps, ↓mk_kept, ↓ite_kept, ↓fst_ite_kept, ↓snd_ite_kept, ite_self, implies_true]⟩
theorem State.roleSet_kept (s : State) (r : Role) : (State.roleSet s r).1.kept = s.kept := by
  unfold State.roleSet
  repeat' first
    | (simp only [↓State.claimRole_kept, ↓State.standDown_kept, ↓foldl_kept, ↓foldl1_kept, ↓onNvm_keeps, ↓mk_kept, ↓ite_kept, ↓fst_ite_kept, ↓snd_ite_kept, ite_self, implies_true]; done)
    | split
theorem execRoleSet_kept (h : CmdHdr) (role : BitVec 2) (s : State) : ∃ s', execRoleSet h role s = .next s' ∧ s'.kept = s.kept := by
  unfold execRoleSet; split <;> exact ⟨_, rfl, by simp only [↓State.command_kept, ↓State.roleSet_kept, ↓foldl_kept, ↓foldl1_kept, ↓onNvm_keeps, ↓mk_kept, ↓ite_kept, ↓fst_ite_kept, ↓snd_ite_kept, ite_self, implies_true]⟩
theorem execRoleSwap_kept (h : CmdHdr) (s : State) : ∃ s', execRoleSwap h s = .next s' ∧ s'.kept = s.kept := by
  unfold execRoleSwap; exact ⟨_, rfl, by simp only [↓State.onGzl_kept, ↓State.command_kept, ↓foldl_kept, ↓foldl1_kept, ↓onNvm_keeps, ↓mk_kept, ↓ite_kept, ↓fst_ite_kept, ↓snd_ite_kept, ite_self, implies_true]⟩
theorem State.swapAtClose_kept (s : State) (tick : Nat) : (State.swapAtClose s tick).kept = s.kept := by
  unfold State.swapAtClose; simp only [↓State.setBits_kept, ↓State.event_kept, ↓State.claimRole_kept, ↓State.swapsFail_kept, ↓foldl_kept, ↓foldl1_kept, ↓onNvm_keeps, ↓mk_kept, ↓ite_kept, ↓fst_ite_kept, ↓snd_ite_kept, ite_self, implies_true]
theorem State.swapTakes_kept (s : State) (tick : Nat) : (State.swapTakes s tick).kept = s.kept := by
  unfold State.swapTakes; simp only [↓State.onGzl_kept, ↓foldl_kept, ↓foldl1_kept, ↓onNvm_keeps, ↓mk_kept, ↓ite_kept, ↓fst_ite_kept, ↓snd_ite_kept, ite_self, implies_true]
theorem State.install_kept (s : State) (tick : Nat) (fallback : Bool) : (State.install s tick fallback).1.kept = s.kept := by
  unfold State.install; simp only [↓State.onTck_kept, ↓State.onSch_kept, ↓State.onGzl_kept, ↓State.setReg_kept, ↓State.inc_kept, ↓State.event_kept, ↓State.pitchEnds_kept, ↓foldl_kept, ↓foldl1_kept, ↓onNvm_keeps, ↓mk_kept, ↓ite_kept, ↓fst_ite_kept, ↓snd_ite_kept, ite_self, implies_true]
theorem State.imageSwitch_kept (s : State) (tick : Nat) : (State.imageSwitch s tick).1.kept = s.kept := by
  unfold State.imageSwitch; simp only [↓State.onSch_kept, ↓State.onGzl_kept, ↓State.install_kept, ↓foldl_kept, ↓foldl1_kept, ↓onNvm_keeps, ↓mk_kept, ↓ite_kept, ↓fst_ite_kept, ↓snd_ite_kept, ite_self, implies_true]
theorem State.setIdle_kept (s : State) (idle : Option Nat) (tick : Nat) : (State.setIdle s idle tick).kept = s.kept := by
  unfold State.setIdle; split <;> simp only [↓State.onTck_kept, ↓State.event_kept, ↓State.alarmFail_kept, ↓State.alarmFailEnds_kept, ↓foldl_kept, ↓foldl1_kept, ↓onNvm_keeps, ↓mk_kept, ↓ite_kept, ↓fst_ite_kept, ↓snd_ite_kept, ite_self, implies_true]
theorem State.applyFences_kept (s : State) : (State.applyFences s).kept = s.kept := by
  unfold State.applyFences; simp only [↓State.onDpx_kept, ↓State.event_kept, ↓foldl_kept, ↓foldl1_kept, ↓onNvm_keeps, ↓mk_kept, ↓ite_kept, ↓fst_ite_kept, ↓snd_ite_kept, ite_self, implies_true]
theorem State.switchTables_kept (s : State) (w : SwitchInfo) : (State.switchTables s w).kept = s.kept := by
  unfold State.switchTables; simp only [↓State.onHdg_kept, ↓State.onBsn_kept, ↓State.onPrd_kept, ↓State.modSwitch_kept, ↓State.switchCells_kept, ↓State.reinitCells_kept, ↓State.topSwitch_kept, ↓State.alarmSwitch_kept, ↓foldl_kept, ↓foldl1_kept, ↓onNvm_keeps, ↓mk_kept, ↓ite_kept, ↓fst_ite_kept, ↓snd_ite_kept, ite_self, implies_true]
theorem State.columnOut_kept (s : State) (tick : Nat) (slow : List SlowRecord) : (State.columnOut s tick slow).kept = s.kept := by
  unfold State.columnOut; split <;> simp only [↓State.arcDeliver_kept, ↓State.egress_kept, ↓State.columnRecords_kept, ↓foldl_kept, ↓foldl1_kept, ↓onNvm_keeps, ↓mk_kept, ↓ite_kept, ↓fst_ite_kept, ↓snd_ite_kept, ite_self, implies_true]
theorem State.columnCells_kept (s : State) (tick : Nat) : (State.columnCells s tick).kept = s.kept := by
  unfold State.columnCells; split <;> simp only [↓State.capCells_kept, ↓foldl_kept, ↓foldl1_kept, ↓onNvm_keeps, ↓mk_kept, ↓ite_kept, ↓fst_ite_kept, ↓snd_ite_kept, ite_self, implies_true]
theorem State.columnWindow_kept (s : State) (c : Column) : (State.columnWindow s c).kept = s.kept := by
  unfold State.columnWindow; simp only [↓State.windowed_kept, ↓State.endSide_kept, ↓foldl_kept, ↓foldl1_kept, ↓onNvm_keeps, ↓mk_kept, ↓ite_kept, ↓fst_ite_kept, ↓snd_ite_kept, ite_self, implies_true]
theorem State.slackEnds_kept (s : State) : (State.slackEnds s).kept = s.kept := by
  unfold State.slackEnds; split <;> simp only [↓State.onTck_kept, ↓State.setReg_kept, ↓foldl_kept, ↓foldl1_kept, ↓onNvm_keeps, ↓mk_kept, ↓ite_kept, ↓fst_ite_kept, ↓snd_ite_kept, ite_self, implies_true]
theorem State.countEarly_kept (s : State) (early : Bool) : (State.countEarly s early).kept = s.kept := by
  unfold State.countEarly; simp only [↓State.onTck_kept, ↓State.inc_kept, ↓foldl_kept, ↓foldl1_kept, ↓onNvm_keeps, ↓mk_kept, ↓ite_kept, ↓fst_ite_kept, ↓snd_ite_kept, ite_self, implies_true]
theorem State.beginColumn_kept (s : State) (c : Column) (v : Nat) : (State.beginColumn s c v).kept = s.kept := by
  unfold State.beginColumn; simp only [↓State.onTck_kept, ↓State.onGzl_kept, ↓State.sendRegion_kept, ↓State.modBegin_kept, ↓State.topBegin_kept, ↓State.alarmClose_kept, ↓State.clockCause_kept, ↓State.beginOps_kept, ↓State.swapTakes_kept, ↓foldl_kept, ↓foldl1_kept, ↓onNvm_keeps, ↓mk_kept, ↓ite_kept, ↓fst_ite_kept, ↓snd_ite_kept, ite_self, implies_true]
theorem State.skipColumn_kept (s : State) (tick : Nat) : (State.skipColumn s tick).kept = s.kept := by
  unfold State.skipColumn
  repeat' first
    | (simp only [↓State.onTck_kept, ↓State.onDpx_kept, ↓State.slackBegins_kept, ↓State.onCol_kept, ↓State.announceTemplates_kept, ↓State.capDerived_kept, ↓State.releaseSlots_kept, ↓foldl_kept, ↓foldl1_kept, ↓onNvm_keeps, ↓mk_kept, ↓ite_kept, ↓fst_ite_kept, ↓snd_ite_kept, ite_self, implies_true]; done)
    | split
    | dsimp only
theorem State.closeColumn_kept (s : State) (c0 : Column) (early : Bool) (errs : List MemErr) (slow : List SlowRecord) : (State.closeColumn s c0 early errs slow).kept = s.kept := by
  unfold State.closeColumn
  repeat' first
    | (simp only [↓State.onTck_kept, ↓State.onDpx_kept, ↓State.oneCycle_kept, ↓State.onCol_kept, ↓State.closeCells_kept, ↓State.tickOut_kept, ↓State.memErrors_kept, ↓State.swapAtClose_kept, ↓State.imageSwitch_kept, ↓State.setIdle_kept, ↓State.applyFences_kept, ↓State.switchTables_kept, ↓State.columnOut_kept, ↓State.columnCells_kept, ↓State.columnWindow_kept, ↓State.slackEnds_kept, ↓State.countEarly_kept, ↓State.beginColumn_kept, ↓State.skipColumn_kept, ↓foldl_kept, ↓foldl1_kept, ↓onNvm_keeps, ↓mk_kept, ↓ite_kept, ↓fst_ite_kept, ↓snd_ite_kept, ite_self, implies_true]; done)
    | (refine State.oneCycle_kept _ _ (fun s => ?_))
    | split
    | dsimp only
theorem execDeadlineClose_kept (found : CloseIn) (s : State) : ∃ s', execDeadlineClose found s = .next s' ∧ s'.kept = s.kept := by
  unfold execDeadlineClose; split <;> exact ⟨_, rfl, by simp only [↓State.runTo_kept, ↓State.closeColumn_kept, ↓foldl_kept, ↓foldl1_kept, ↓onNvm_keeps, ↓mk_kept, ↓ite_kept, ↓fst_ite_kept, ↓snd_ite_kept, ite_self, implies_true]⟩
theorem execEarlyClose_kept (found : CloseIn) (s : State) : ∃ s', execEarlyClose found s = .next s' ∧ s'.kept = s.kept := by
  unfold execEarlyClose
  repeat' first
    | split
    | (refine ⟨_, rfl, ?_⟩; repeat' first
        | simp only [↓State.closeColumn_kept, ↓foldl_kept, ↓foldl1_kept, ↓onNvm_keeps, ↓mk_kept, ↓ite_kept, ↓fst_ite_kept, ↓snd_ite_kept, ite_self, implies_true])
theorem State.pitchTurnedAway_kept (s : State) (reason : Nat) : (State.pitchTurnedAway s reason).1.kept = s.kept := by
  unfold State.pitchTurnedAway; simp only [↓State.onSch_kept, ↓State.pitchRefused_kept, ↓foldl_kept, ↓foldl1_kept, ↓onNvm_keeps, ↓mk_kept, ↓ite_kept, ↓fst_ite_kept, ↓snd_ite_kept, ite_self, implies_true]
theorem execPitch_kept (h : CmdHdr) (offset : Word) (length : Word) (image : List Byte) (s : State) : ∃ s', execPitch h offset length image s = .next s' ∧ s'.kept = s.kept := by
  unfold execPitch; split <;> exact ⟨_, rfl, by simp only [↓State.onSch_kept, ↓State.command_kept, ↓State.pitchTurnedAway_kept, ↓foldl_kept, ↓foldl1_kept, ↓onNvm_keeps, ↓mk_kept, ↓ite_kept, ↓fst_ite_kept, ↓snd_ite_kept, ite_self, implies_true]⟩
theorem execPitchAbort_kept (h : CmdHdr) (s : State) : ∃ s', execPitchAbort h s = .next s' ∧ s'.kept = s.kept := by
  unfold execPitchAbort; exact ⟨_, rfl, by simp only [↓State.command_kept, ↓State.pitchEnds_kept, ↓foldl_kept, ↓foldl1_kept, ↓onNvm_keeps, ↓mk_kept, ↓ite_kept, ↓fst_ite_kept, ↓snd_ite_kept, ite_self, implies_true]⟩
theorem State.openEngines_kept (s : State) : (State.openEngines s).kept = s.kept := by
  unfold State.openEngines; simp only [↓State.onClk_kept, ↓foldl_kept, ↓foldl1_kept, ↓onNvm_keeps, ↓mk_kept, ↓ite_kept, ↓fst_ite_kept, ↓snd_ite_kept, ite_self, implies_true]
theorem State.pitchState_kept (s : State) (p : PitchState) : (State.pitchState s p).kept = s.kept := by
  unfold State.pitchState; simp only [↓State.onSch_kept, ↓foldl_kept, ↓foldl1_kept, ↓onNvm_keeps, ↓mk_kept, ↓ite_kept, ↓fst_ite_kept, ↓snd_ite_kept, ite_self, implies_true]
theorem execLoading_kept (memErr : Bool) (s : State) : ∃ s', execLoading memErr s = .next s' ∧ s'.kept = s.kept := by
  unfold execLoading
  repeat' first
    | split
    | (refine ⟨_, rfl, ?_⟩; repeat' first
        | simp only [↓State.onSch_kept, ↓State.pitchRefused_kept, ↓State.openEngines_kept, ↓State.pitchState_kept, ↓foldl_kept, ↓foldl1_kept, ↓onNvm_keeps, ↓mk_kept, ↓ite_kept, ↓fst_ite_kept, ↓snd_ite_kept, ite_self, implies_true])
theorem State.verified_kept (s : State) (p : Pitch) : (State.verified s p).kept = s.kept := by
  unfold State.verified; split <;> simp only [↓State.pitchRefused_kept, ↓State.pitchState_kept, ↓foldl_kept, ↓foldl1_kept, ↓onNvm_keeps, ↓mk_kept, ↓ite_kept, ↓fst_ite_kept, ↓snd_ite_kept, ite_self, implies_true]
theorem execVerifying_kept (memErr : Bool) (s : State) : ∃ s', execVerifying memErr s = .next s' ∧ s'.kept = s.kept := by
  unfold execVerifying
  repeat' first
    | split
    | (refine ⟨_, rfl, ?_⟩; repeat' first
        | simp only [↓State.schedError_kept, ↓State.verified_kept, ↓foldl_kept, ↓foldl1_kept, ↓onNvm_keeps, ↓mk_kept, ↓ite_kept, ↓fst_ite_kept, ↓snd_ite_kept, ite_self, implies_true])
theorem execTickIdStore_kept (s : State) : ∃ s', execTickIdStore s = .next s' ∧ s'.kept = s.kept := by
  unfold execTickIdStore; split <;> exact ⟨_, rfl, by simp only [↓State.onTck_kept, ↓State.nvmWrite_ticket_kept, ↓State.nvmWrite_ticket_kept, ↓State.nvmWrite_session_kept, ↓State.nvmWrite_tickId_kept, ↓State.nvmWrite_bank_kept, ↓State.nvmWrite_nrgZero_kept, ↓foldl_kept, ↓foldl1_kept, ↓onNvm_keeps, ↓mk_kept, ↓ite_kept, ↓fst_ite_kept, ↓snd_ite_kept, ite_self, implies_true]⟩
theorem State.setLane_kept (s : State) (lane : Nat) (on : Bool) : (State.setLane s lane on).kept = s.kept := by
  unfold State.setLane; simp only [↓State.onGzl_kept, ↓foldl_kept, ↓foldl1_kept, ↓onNvm_keeps, ↓mk_kept, ↓ite_kept, ↓fst_ite_kept, ↓snd_ite_kept, ite_self, implies_true]
theorem execLaneLock_kept (lane : Fin 2) (s : State) : ∃ s', execLaneLock lane s = .next s' ∧ s'.kept = s.kept := by
  unfold execLaneLock; split <;> exact ⟨_, rfl, by simp only [↓State.startHello_kept, ↓State.setLane_kept, ↓foldl_kept, ↓foldl1_kept, ↓onNvm_keeps, ↓mk_kept, ↓ite_kept, ↓fst_ite_kept, ↓snd_ite_kept, ite_self, implies_true]⟩
theorem execLaneLoss_kept (lane : Fin 2) (s : State) : ∃ s', execLaneLoss lane s = .next s' ∧ s'.kept = s.kept := by
  unfold execLaneLoss
  repeat' first
    | split
    | dsimp only
    | (refine ⟨_, rfl, ?_⟩; repeat' first
        | simp only [↓State.run_kept, ↓State.linkDown_kept, ↓State.setLane_kept, ↓foldl_kept, ↓foldl1_kept, ↓onNvm_keeps, ↓mk_kept, ↓ite_kept, ↓fst_ite_kept, ↓snd_ite_kept, ite_self, implies_true])
theorem execLinkSilence_kept (s : State) : ∃ s', execLinkSilence s = .next s' ∧ s'.kept = s.kept := by
  unfold execLinkSilence; split <;> exact ⟨_, rfl, by simp only [↓State.linkDown_kept, ↓foldl_kept, ↓foldl1_kept, ↓onNvm_keeps, ↓mk_kept, ↓ite_kept, ↓fst_ite_kept, ↓snd_ite_kept, ite_self, implies_true]⟩
theorem State.accept_kept (s : State) (ctr : Nat) : (State.accept s ctr).kept = s.kept := by
  unfold State.accept; simp only [↓State.onGzl_kept, ↓foldl_kept, ↓foldl1_kept, ↓onNvm_keeps, ↓mk_kept, ↓ite_kept, ↓fst_ite_kept, ↓snd_ite_kept, ite_self, implies_true]
theorem State.tagFails_kept (s : State) : (State.tagFails s).kept = s.kept := by
  unfold State.tagFails; simp only [↓State.onGzl_kept, ↓State.inc_kept, ↓State.setBits_kept, ↓State.linkDown_kept, ↓foldl_kept, ↓foldl1_kept, ↓onNvm_keeps, ↓mk_kept, ↓ite_kept, ↓fst_ite_kept, ↓snd_ite_kept, ite_self, implies_true]
theorem State.receive_kept (s : State) (hello : Bool) (hdr : LinkHdr) (body : State → State) (hbody : ∀ a0, State.kept (body a0) = State.kept a0) : (State.receive s hello hdr body).kept = s.kept := by
  unfold State.receive
  repeat' first
    | (simp only [hbody, ↓State.inc_kept, ↓State.oneCycle_kept, ↓State.frameKey_kept, ↓State.accept_kept, ↓State.tagFails_kept, ↓foldl_kept, ↓foldl1_kept, ↓onNvm_keeps, ↓mk_kept, ↓ite_kept, ↓fst_ite_kept, ↓snd_ite_kept, ite_self, implies_true]; done)
    | (refine State.oneCycle_kept _ _ (fun s => ?_))
    | split
    | (rename_i h; have h' := congrArg (fun p => p.1.kept) h; simp only [hbody, ↓State.inc_kept, ↓State.oneCycle_kept, ↓State.frameKey_kept, ↓State.accept_kept, ↓State.tagFails_kept, ↓foldl_kept, ↓foldl1_kept, ↓onNvm_keeps, ↓mk_kept, ↓ite_kept, ↓fst_ite_kept, ↓snd_ite_kept, ite_self, implies_true] at h'; simp only [hbody, ↓State.inc_kept, ↓State.oneCycle_kept, ↓State.frameKey_kept, ↓State.accept_kept, ↓State.tagFails_kept, ↓foldl_kept, ↓foldl1_kept, ↓onNvm_keeps, ↓mk_kept, ↓ite_kept, ↓fst_ite_kept, ↓snd_ite_kept, ite_self, implies_true, ← h']; done)
theorem execLinkFrameDiscard_kept (cause : DiscardCause) (s : State) : ∃ s', execLinkFrameDiscard cause s = .next s' ∧ s'.kept = s.kept := by
  have hk (b : Bool) : (s.frameKey b).1.kept = s.kept := State.frameKey_kept s b
  unfold execLinkFrameDiscard
  split
  · exact ⟨_, rfl, rfl⟩
  split
  · exact ⟨_, rfl, State.inc_kept _ _⟩
  all_goals
    split <;> rename_i h <;> refine ⟨_, rfl, ?_⟩ <;> have h' := hk (!s.gzl.linkUp) <;> rw [h] at h' <;>
      simp only [State.onGzl_kept, State.inc_kept, State.tagFails_kept] <;> exact h'
theorem State.ackNow_kept (s : State) : (State.ackNow s).kept = s.kept := by
  unfold State.ackNow; simp only [↓State.onGzl_kept, ↓State.sendControl_kept, ↓foldl_kept, ↓foldl1_kept, ↓onNvm_keeps, ↓mk_kept, ↓ite_kept, ↓fst_ite_kept, ↓snd_ite_kept, ite_self, implies_true]
theorem State.nakNow_kept (s : State) : (State.nakNow s).kept = s.kept := by
  unfold State.nakNow; simp only [↓State.inc_kept, ↓State.sendControl_kept, ↓foldl_kept, ↓foldl1_kept, ↓onNvm_keeps, ↓mk_kept, ↓ite_kept, ↓fst_ite_kept, ↓snd_ite_kept, ite_self, implies_true]
theorem State.sequenced_kept (s : State) (hdr : LinkHdr) (apply : State → State) (happly : ∀ a0, State.kept (apply a0) = State.kept a0) : (State.sequenced s hdr apply).kept = s.kept := by
  unfold State.sequenced; simp only [happly, ↓State.onGzl_kept, ↓State.inc_kept, ↓State.ackNow_kept, ↓State.nakNow_kept, ↓foldl_kept, ↓foldl1_kept, ↓onNvm_keeps, ↓mk_kept, ↓ite_kept, ↓fst_ite_kept, ↓snd_ite_kept, ite_self, implies_true]
theorem State.receiveSeq_kept (s : State) (hdr : LinkHdr) (apply : State → State) (happly : ∀ a0, State.kept (apply a0) = State.kept a0) : (State.receiveSeq s hdr apply).kept = s.kept := by
  unfold State.receiveSeq; simp only [happly, ↓State.receive_kept, ↓State.sequenced_kept, ↓foldl_kept, ↓foldl1_kept, ↓onNvm_keeps, ↓mk_kept, ↓ite_kept, ↓fst_ite_kept, ↓snd_ite_kept, ite_self, implies_true]
theorem execHelloSend_kept (s : State) : ∃ s', execHelloSend s = .next s' ∧ s'.kept = s.kept := by
  unfold execHelloSend; split <;> exact ⟨_, rfl, by simp only [↓State.sendControl_kept, ↓foldl_kept, ↓foldl1_kept, ↓onNvm_keeps, ↓mk_kept, ↓ite_kept, ↓fst_ite_kept, ↓snd_ite_kept, ite_self, implies_true]⟩
theorem State.hello_kept (s : State) (b : HelloBody) : (State.hello s b).kept = s.kept := by
  unfold State.hello; simp only [↓State.onSec_kept, ↓State.onGzl_kept, ↓State.event_kept, ↓State.sendControl_kept, ↓State.readPartner_kept, ↓foldl_kept, ↓foldl1_kept, ↓onNvm_keeps, ↓mk_kept, ↓ite_kept, ↓fst_ite_kept, ↓snd_ite_kept, ite_self, implies_true]
theorem execHelloReceive_kept (hdr : LinkHdr) (b : HelloBody) (s : State) : ∃ s', execHelloReceive hdr b s = .next s' ∧ s'.kept = s.kept := by
  unfold execHelloReceive; split <;> exact ⟨_, rfl, by simp only [↓State.receive_kept, ↓State.hello_kept, ↓foldl_kept, ↓foldl1_kept, ↓onNvm_keeps, ↓mk_kept, ↓ite_kept, ↓fst_ite_kept, ↓snd_ite_kept, ite_self, implies_true]⟩
theorem State.numbering_kept (s : State) (sec : Nat) (index : Nat) (tick : Nat) : (State.numbering s sec index tick).kept = s.kept := by
  unfold State.numbering; simp only [↓State.onTck_kept, ↓State.onGzl_kept, ↓State.inc_kept, ↓State.withdraw_kept, ↓foldl_kept, ↓foldl1_kept, ↓onNvm_keeps, ↓mk_kept, ↓ite_kept, ↓fst_ite_kept, ↓snd_ite_kept, ite_self, implies_true]
theorem State.heartbeat_kept (s : State) (b : HeartbeatBody) : (State.heartbeat s b).kept = s.kept := by
  unfold State.heartbeat
  repeat' first
    | (simp only [↓State.onGzl_kept, ↓State.readPartner_kept, ↓State.numbering_kept, ↓foldl_kept, ↓foldl1_kept, ↓onNvm_keeps, ↓mk_kept, ↓ite_kept, ↓fst_ite_kept, ↓snd_ite_kept, ite_self, implies_true]; done)
    | split
    | dsimp only
theorem execHeartbeatReceive_kept (hdr : LinkHdr) (b : HeartbeatBody) (s : State) : ∃ s', execHeartbeatReceive hdr b s = .next s' ∧ s'.kept = s.kept := by
  unfold execHeartbeatReceive; split <;> exact ⟨_, rfl, by simp only [↓State.receive_kept, ↓State.heartbeat_kept, ↓foldl_kept, ↓foldl1_kept, ↓onNvm_keeps, ↓mk_kept, ↓ite_kept, ↓fst_ite_kept, ↓snd_ite_kept, ite_self, implies_true]⟩
theorem execHeartbeatSend_kept (s : State) : ∃ s', execHeartbeatSend s = .next s' ∧ s'.kept = s.kept := by
  unfold execHeartbeatSend; split <;> exact ⟨_, rfl, by simp only [↓State.onGzl_kept, ↓State.runTo_kept, ↓State.sendControl_kept, ↓State.heartbeat_kept, ↓foldl_kept, ↓foldl1_kept, ↓onNvm_keeps, ↓mk_kept, ↓ite_kept, ↓fst_ite_kept, ↓snd_ite_kept, ite_self, implies_true]⟩
theorem execGuyLineBWord_kept (word : BitVec 64) (s : State) : ∃ s', execGuyLineBWord word s = .next s' ∧ s'.kept = s.kept := by
  unfold execGuyLineBWord
  repeat' first
    | split
    | dsimp only
    | (refine ⟨_, rfl, ?_⟩; repeat' first
        | simp only [↓State.onGzl_kept, ↓State.readPartner_kept, ↓foldl_kept, ↓foldl1_kept, ↓onNvm_keeps, ↓mk_kept, ↓ite_kept, ↓fst_ite_kept, ↓snd_ite_kept, ite_self, implies_true])
theorem State.acked_kept (s : State) (seq : Nat) : (State.acked s seq).kept = s.kept := by
  unfold State.acked
  repeat' first
    | (simp only [↓State.onGzl_kept, ↓State.pump_kept, ↓State.endCopy_kept, ↓foldl_kept, ↓foldl1_kept, ↓onNvm_keeps, ↓mk_kept, ↓ite_kept, ↓fst_ite_kept, ↓snd_ite_kept, ite_self, implies_true]; done)
    | split
    | dsimp only
theorem execAckReceive_kept (hdr : LinkHdr) (s : State) : ∃ s', execAckReceive hdr s = .next s' ∧ s'.kept = s.kept := by
  unfold execAckReceive; split <;> exact ⟨_, rfl, by simp only [↓State.receive_kept, ↓State.acked_kept, ↓foldl_kept, ↓foldl1_kept, ↓onNvm_keeps, ↓mk_kept, ↓ite_kept, ↓fst_ite_kept, ↓snd_ite_kept, ite_self, implies_true]⟩
theorem State.retransmit_kept (s : State) (seq : Nat) : (State.retransmit s seq).kept = s.kept := by
  unfold State.retransmit; simp only [↓State.add_kept, ↓State.linkTx_kept, ↓foldl_kept, ↓foldl1_kept, ↓onNvm_keeps, ↓mk_kept, ↓ite_kept, ↓fst_ite_kept, ↓snd_ite_kept, ite_self, implies_true]
theorem execNakReceive_kept (hdr : LinkHdr) (s : State) : ∃ s', execNakReceive hdr s = .next s' ∧ s'.kept = s.kept := by
  unfold execNakReceive; split <;> exact ⟨_, rfl, by simp only [↓State.receive_kept, ↓State.retransmit_kept, ↓foldl_kept, ↓foldl1_kept, ↓onNvm_keeps, ↓mk_kept, ↓ite_kept, ↓fst_ite_kept, ↓snd_ite_kept, ite_self, implies_true]⟩
theorem execRetransmitTimeout_kept (s : State) : ∃ s', execRetransmitTimeout s = .next s' ∧ s'.kept = s.kept := by
  unfold execRetransmitTimeout; split <;> exact ⟨_, rfl, by simp only [↓State.retransmit_kept, ↓foldl_kept, ↓foldl1_kept, ↓onNvm_keeps, ↓mk_kept, ↓ite_kept, ↓fst_ite_kept, ↓snd_ite_kept, ite_self, implies_true]⟩
theorem execAckSend_kept (s : State) : ∃ s', execAckSend s = .next s' ∧ s'.kept = s.kept := by
  unfold execAckSend; split <;> exact ⟨_, rfl, by simp only [↓State.ackNow_kept, ↓foldl_kept, ↓foldl1_kept, ↓onNvm_keeps, ↓mk_kept, ↓ite_kept, ↓fst_ite_kept, ↓snd_ite_kept, ite_self, implies_true]⟩
theorem execNakRepeat_kept (s : State) : ∃ s', execNakRepeat s = .next s' ∧ s'.kept = s.kept := by
  unfold execNakRepeat; split <;> exact ⟨_, rfl, by simp only [↓State.nakNow_kept, ↓foldl_kept, ↓foldl1_kept, ↓onNvm_keeps, ↓mk_kept, ↓ite_kept, ↓fst_ite_kept, ↓snd_ite_kept, ite_self, implies_true]⟩
theorem State.takeState_kept (s : State) (b : StateBody) (memErr : Bool) : (State.takeState s b memErr).kept = s.kept := by
  unfold State.takeState; simp only [↓State.onGzl_kept, ↓foldl_kept, ↓foldl1_kept, ↓onNvm_keeps, ↓mk_kept, ↓ite_kept, ↓fst_ite_kept, ↓snd_ite_kept, ite_self, implies_true]
theorem execStateReceive_kept (hdr : LinkHdr) (b : StateBody) (memErr : Bool) (s : State) : ∃ s', execStateReceive hdr b memErr s = .next s' ∧ s'.kept = s.kept := by
  unfold execStateReceive; exact ⟨_, rfl, by simp only [↓State.receiveSeq_kept, ↓State.takeState_kept, ↓foldl_kept, ↓foldl1_kept, ↓onNvm_keeps, ↓mk_kept, ↓ite_kept, ↓fst_ite_kept, ↓snd_ite_kept, ite_self, implies_true]⟩
theorem State.commitRegion_kept (s : State) (shift : Int) (region : Nat) (ws : List Word) : (State.commitRegion s shift region ws).kept = s.kept := by
  unfold State.commitRegion; simp only [↓State.onMod_kept, ↓State.onTop_kept, ↓State.onAlm_kept, ↓State.adoptNrg_kept, ↓foldl_kept, ↓foldl1_kept, ↓onNvm_keeps, ↓mk_kept, ↓ite_kept, ↓fst_ite_kept, ↓snd_ite_kept, ite_self, implies_true]
theorem State.commitTick_kept (s : State) (fs : List StateBody) (b : TickEndBody) : (State.commitTick s fs b).kept = s.kept := by
  unfold State.commitTick; simp only [↓State.onGzl_kept, ↓State.commitRegion_kept, ↓foldl_kept, ↓foldl1_kept, ↓onNvm_keeps, ↓mk_kept, ↓ite_kept, ↓fst_ite_kept, ↓snd_ite_kept, ite_self, implies_true]
theorem State.takeTickEnd_kept (s : State) (b : TickEndBody) : (State.takeTickEnd s b).kept = s.kept := by
  unfold State.takeTickEnd
  repeat' first
    | (simp only [↓State.onGzl_kept, ↓State.inc_kept, ↓State.setBits_kept, ↓State.event_kept, ↓State.commitTick_kept, ↓foldl_kept, ↓foldl1_kept, ↓onNvm_keeps, ↓mk_kept, ↓ite_kept, ↓fst_ite_kept, ↓snd_ite_kept, ite_self, implies_true]; done)
    | split
    | dsimp only
theorem execTickEndReceive_kept (hdr : LinkHdr) (b : TickEndBody) (s : State) : ∃ s', execTickEndReceive hdr b s = .next s' ∧ s'.kept = s.kept := by
  unfold execTickEndReceive; exact ⟨_, rfl, by simp only [↓State.receiveSeq_kept, ↓State.takeTickEnd_kept, ↓foldl_kept, ↓foldl1_kept, ↓onNvm_keeps, ↓mk_kept, ↓ite_kept, ↓fst_ite_kept, ↓snd_ite_kept, ite_self, implies_true]⟩
theorem execAlarmReceive_kept (hdr : LinkHdr) (records : List (List Word)) (s : State) : ∃ s', execAlarmReceive hdr records s = .next s' ∧ s'.kept = s.kept := by
  unfold execAlarmReceive; exact ⟨_, rfl, by simp only [↓State.alarmToRing_kept, ↓State.receiveSeq_kept, ↓foldl_kept, ↓foldl1_kept, ↓onNvm_keeps, ↓mk_kept, ↓ite_kept, ↓fst_ite_kept, ↓snd_ite_kept, ite_self, implies_true]⟩
theorem execSwapReceive_kept (hdr : LinkHdr) (_epoch : Word) (tick : BitVec 64) (s : State) : ∃ s', execSwapReceive hdr _epoch tick s = .next s' ∧ s'.kept = s.kept := by
  unfold execSwapReceive; exact ⟨_, rfl, by simp only [↓State.claimRole_kept, ↓State.receiveSeq_kept, ↓foldl_kept, ↓foldl1_kept, ↓onNvm_keeps, ↓mk_kept, ↓ite_kept, ↓fst_ite_kept, ↓snd_ite_kept, ite_self, implies_true]⟩
theorem State.noteTrip_kept (s : State) (x : ClkSrc) : (State.noteTrip s x).kept = s.kept := by
  unfold State.noteTrip; simp only [↓State.onClk_kept, ↓State.setBits_kept, ↓State.rtcMark_kept, ↓State.rtcCounts_kept, ↓foldl_kept, ↓foldl1_kept, ↓onNvm_keeps, ↓mk_kept, ↓ite_kept, ↓fst_ite_kept, ↓snd_ite_kept, ite_self, implies_true]
theorem State.drive_kept (s : State) (d : Nat) (x : ClkSrc) : (State.drive s d x).kept = s.kept := by
  unfold State.drive; simp only [↓State.onClk_kept, ↓foldl_kept, ↓foldl1_kept, ↓onNvm_keeps, ↓mk_kept, ↓ite_kept, ↓fst_ite_kept, ↓snd_ite_kept, ite_self, implies_true]
theorem State.domainLost_kept (s : State) (d : Nat) : (State.domainLost s d).kept = s.kept := by
  unfold State.domainLost; split <;> simp only [↓State.onClk_kept, ↓State.onLmu_kept, ↓State.linkLost_kept, ↓State.clockCause_kept, ↓foldl_kept, ↓foldl1_kept, ↓onNvm_keeps, ↓mk_kept, ↓ite_kept, ↓fst_ite_kept, ↓snd_ite_kept, ite_self, implies_true]
theorem State.faultSwitch_kept (s : State) (d : Nat) (x : ClkSrc) : (State.faultSwitch s d x).kept = s.kept := by
  unfold State.faultSwitch; simp only [↓State.onClk_kept, ↓State.inc_kept, ↓State.setBits_kept, ↓State.event_kept, ↓State.drive_kept, ↓State.domainLost_kept, ↓foldl_kept, ↓foldl1_kept, ↓onNvm_keeps, ↓mk_kept, ↓ite_kept, ↓fst_ite_kept, ↓snd_ite_kept, ite_self, implies_true]
theorem State.faultSwitches_kept (s : State) (gone : List ClkSrc) (l : List Nat) : (State.faultSwitches s gone l).1.kept = s.kept := by
  induction l generalizing s with
  | nil => rfl
  | cons d ds ih =>
    unfold State.faultSwitches
    dsimp only
    split
    · exact ih s
    · split
      · rfl
      · rw [ih, State.faultSwitch_kept]
theorem State.trip_kept (s : State) (x : ClkSrc) : (State.trip s x).1.kept = s.kept := by
  unfold State.trip; simp only [↓State.noteTrip_kept, ↓State.faultSwitches_kept, ↓foldl_kept, ↓foldl1_kept, ↓onNvm_keeps, ↓mk_kept, ↓ite_kept, ↓fst_ite_kept, ↓snd_ite_kept, ite_self, implies_true]
theorem State.qualify_kept (s : State) (x : ClkSrc) : (State.qualify s x).kept = s.kept := by
  unfold State.qualify; simp only [↓State.onClk_kept, ↓State.rtcMark_kept, ↓State.rtcCounts_kept, ↓foldl_kept, ↓foldl1_kept, ↓onNvm_keeps, ↓mk_kept, ↓ite_kept, ↓fst_ite_kept, ↓snd_ite_kept, ite_self, implies_true]
theorem State.domainBack_kept (s : State) (d : Nat) : (State.domainBack s d).kept = s.kept := by
  unfold State.domainBack; simp only [↓State.lmuRephase_kept, ↓State.lmuStart_kept, ↓State.nrgRephase_kept, ↓State.capStep_kept, ↓foldl_kept, ↓foldl1_kept, ↓onNvm_keeps, ↓mk_kept, ↓ite_kept, ↓fst_ite_kept, ↓snd_ite_kept, ite_self, implies_true]
theorem State.returns_kept (s : State) (x : ClkSrc) : (State.returns s x).kept = s.kept := by
  unfold State.returns; simp only [↓State.drive_kept, ↓State.domainBack_kept, ↓foldl_kept, ↓foldl1_kept, ↓onNvm_keeps, ↓mk_kept, ↓ite_kept, ↓fst_ite_kept, ↓snd_ite_kept, ite_self, implies_true]
theorem execClockReturn_kept (s : State) : ∃ s', execClockReturn s = .next s' ∧ s'.kept = s.kept := by
  unfold execClockReturn; split <;> exact ⟨_, rfl, by simp only [↓State.drive_kept, ↓foldl_kept, ↓foldl1_kept, ↓onNvm_keeps, ↓mk_kept, ↓ite_kept, ↓fst_ite_kept, ↓snd_ite_kept, ite_self, implies_true]⟩
theorem State.requestSluice_kept (s : State) (gate : Nat) (open_ : Bool) : (State.requestSluice s gate open_).kept = s.kept := by
  unfold State.requestSluice; simp only [↓State.onClk_kept, ↓State.setReg_kept, ↓foldl_kept, ↓foldl1_kept, ↓onNvm_keeps, ↓mk_kept, ↓ite_kept, ↓fst_ite_kept, ↓snd_ite_kept, ite_self, implies_true]
theorem execSluiceRequest_kept (gate : BitVec 6) (open_ : Bool) (s : State) : ∃ s', execSluiceRequest gate open_ s = .next s' ∧ s'.kept = s.kept := by
  unfold execSluiceRequest; split <;> exact ⟨_, rfl, by simp only [↓State.requestSluice_kept, ↓foldl_kept, ↓foldl1_kept, ↓onNvm_keeps, ↓mk_kept, ↓ite_kept, ↓fst_ite_kept, ↓snd_ite_kept, ite_self, implies_true]⟩
theorem State.setGate_kept (s : State) (g : Nat) (open_ : Bool) : (State.setGate s g open_).kept = s.kept := by
  unfold State.setGate; simp only [↓State.onClk_kept, ↓State.onLmu_kept, ↓foldl_kept, ↓foldl1_kept, ↓onNvm_keeps, ↓mk_kept, ↓ite_kept, ↓fst_ite_kept, ↓snd_ite_kept, ite_self, implies_true]
theorem execSluiceChange_kept (quiescent : Bool) (s : State) : ∃ s', execSluiceChange quiescent s = .next s' ∧ s'.kept = s.kept := by
  unfold execSluiceChange
  repeat' first
    | split
    | (refine ⟨_, rfl, ?_⟩; repeat' first
        | simp only [↓State.onClk_kept, ↓State.setGate_kept, ↓foldl_kept, ↓foldl1_kept, ↓onNvm_keeps, ↓mk_kept, ↓ite_kept, ↓fst_ite_kept, ↓snd_ite_kept, ite_self, implies_true])
theorem execFircCalibration_kept (fircCount : Nat) (sircCount : Nat) (s : State) : ∃ s', execFircCalibration fircCount sircCount s = .next s' ∧ s'.kept = s.kept := by
  unfold execFircCalibration; split <;> exact ⟨_, rfl, by simp only [↓State.onClk_kept, ↓State.setReg_kept, ↓State.inc_kept, ↓State.rtcMark_kept, ↓foldl_kept, ↓foldl1_kept, ↓onNvm_keeps, ↓mk_kept, ↓ite_kept, ↓fst_ite_kept, ↓snd_ite_kept, ite_self, implies_true]⟩
theorem execOffsetTracking_kept (c : Fin 24) (s : State) : ∃ s', execOffsetTracking c s = .next s' ∧ s'.kept = s.kept := by
  unfold execOffsetTracking
  repeat' first
    | split
    | (refine ⟨_, rfl, ?_⟩; repeat' first
        | simp only [↓State.setReg_kept, ↓State.onCh_kept, ↓foldl_kept, ↓foldl1_kept, ↓onNvm_keeps, ↓mk_kept, ↓ite_kept, ↓fst_ite_kept, ↓snd_ite_kept, ite_self, implies_true])
theorem State.disposition_kept (s : State) (n : Nat) (bs : List Byte) (f : RxFrame) (good : Bool) (errs : List MemErr) : (State.disposition s n bs f good errs).kept = s.kept := by
  unfold State.disposition
  repeat' first
    | (simp only [↓State.onPrt_kept, ↓State.inc_kept, ↓State.headgate_kept, ↓State.ptpReceive_kept, ↓foldl_kept, ↓foldl1_kept, ↓onNvm_keeps, ↓mk_kept, ↓ite_kept, ↓fst_ite_kept, ↓snd_ite_kept, ite_self, implies_true]; done)
    | split
    | dsimp only
theorem State.receivePrp_kept (s : State) (n : Nat) (f : RxFrame) (good : Bool) (errs : List MemErr) : (State.receivePrp s n f good errs).kept = s.kept := by
  unfold State.receivePrp; simp only [↓State.inc_kept, ↓State.ddEnter_kept, ↓State.disposition_kept, ↓foldl_kept, ↓foldl1_kept, ↓onNvm_keeps, ↓mk_kept, ↓ite_kept, ↓fst_ite_kept, ↓snd_ite_kept, ite_self, implies_true]
theorem State.forwardHsr_kept (s : State) (n : Nat) (f : RxFrame) (event : Option Nat) : (State.forwardHsr s n f event).kept = s.kept := by
  unfold State.forwardHsr; simp only [↓State.inc_kept, ↓State.enqueue_kept, ↓foldl_kept, ↓foldl1_kept, ↓onNvm_keeps, ↓mk_kept, ↓ite_kept, ↓fst_ite_kept, ↓snd_ite_kept, ite_self, implies_true]
theorem State.receiveHsr_kept (s : State) (n : Nat) (f : RxFrame) (good : Bool) (errs : List MemErr) : (State.receiveHsr s n f good errs).kept = s.kept := by
  unfold State.receiveHsr; simp only [↓State.inc_kept, ↓State.ddEnter_kept, ↓State.disposition_kept, ↓State.forwardHsr_kept, ↓foldl_kept, ↓foldl1_kept, ↓onNvm_keeps, ↓mk_kept, ↓ite_kept, ↓fst_ite_kept, ↓snd_ite_kept, ite_self, implies_true]
theorem State.receiveOn_kept (s : State) (n : Nat) (f : RxFrame) (good : Bool) (errs : List MemErr) : (State.receiveOn s n f good errs).kept = s.kept := by
  unfold State.receiveOn; simp only [↓State.disposition_kept, ↓State.receivePrp_kept, ↓State.receiveHsr_kept, ↓foldl_kept, ↓foldl1_kept, ↓onNvm_keeps, ↓mk_kept, ↓ite_kept, ↓fst_ite_kept, ↓snd_ite_kept, ite_self, implies_true]
theorem State.deriveNow_kept (s : State) (purpose : Nat) (ctx : List Byte) : (State.deriveNow s purpose ctx).1.kept = s.kept := by
  unfold State.deriveNow
  repeat' first
    | split
    | (rename_i h; have h' := congrArg (fun p => p.1.kept) h; simp only [↓State.inc_kept, ↓State.loadKey_kept, ↓foldl_kept, ↓foldl1_kept, ↓onNvm_keeps, ↓mk_kept, ↓ite_kept, ↓fst_ite_kept, ↓snd_ite_kept, ite_self, implies_true] at h'; simp only [↓State.inc_kept, ↓State.loadKey_kept, ↓foldl_kept, ↓foldl1_kept, ↓onNvm_keeps, ↓mk_kept, ↓ite_kept, ↓fst_ite_kept, ↓snd_ite_kept, ite_self, implies_true, ← h']; done)
theorem execKeyDerive_kept (h : CmdHdr) (purpose : Byte) (ctx : Word) (s : State) : ∃ s', execKeyDerive h purpose ctx s = .next s' ∧ s'.kept = s.kept := by
  refine ⟨_, rfl, State.command_kept _ _ _ _ (fun c x => ?_)⟩
  dsimp only
  repeat' first
    | with_reducible rfl
    | exact State.onSec_kept ..
    | exact State.deriveNow_kept ..
    | split
theorem execKeySlotWrite_kept (h : CmdHdr) (w1 : Word) (_addr : BitVec 64) (len : Word) (buf : List Byte) (s : State) : ∃ s', execKeySlotWrite h w1 _addr len buf s = .next s' ∧ s'.kept = s.kept := by
  unfold execKeySlotWrite
  repeat' first
    | (refine ⟨_, rfl, ?_⟩; repeat' first
        | (refine State.command_kept _ _ _ _ (fun c x => ?_))
        | split
        | simp only [↓State.onSec_kept, ↓State.command_kept, ↓State.dmaError_kept, ↓foldl_kept, ↓foldl1_kept, ↓onNvm_keeps, ↓mk_kept, ↓ite_kept, ↓fst_ite_kept, ↓snd_ite_kept, ite_self, implies_true])
theorem State.slotChanged_kept (s : State) (n : Nat) : (State.slotChanged s n).kept = s.kept := by
  unfold State.slotChanged; simp only [↓State.inc_kept, ↓State.oneCycle_kept, ↓State.checkSlot_kept, ↓State.clearSlotKeys_kept, ↓State.linkDown_kept, ↓foldl_kept, ↓foldl1_kept, ↓onNvm_keeps, ↓mk_kept, ↓ite_kept, ↓fst_ite_kept, ↓snd_ite_kept, ite_self, implies_true]
theorem State.staged_kept (s : State) (w : SlotWrite) (t : SlotStage) : (State.staged s w t).kept = s.kept := by
  unfold State.staged; simp only [↓State.onSec_kept, ↓foldl_kept, ↓foldl1_kept, ↓onNvm_keeps, ↓mk_kept, ↓ite_kept, ↓fst_ite_kept, ↓snd_ite_kept, ite_self, implies_true]
theorem State.holdSlot_kept (s : State) (w : SlotWrite) : (State.holdSlot s w).kept = s.kept := by
  unfold State.holdSlot; simp only [↓State.nvmWrite_ticket_kept, ↓State.staged_kept, ↓State.nvmWrite_ticket_kept, ↓State.nvmWrite_session_kept, ↓State.nvmWrite_tickId_kept, ↓State.nvmWrite_bank_kept, ↓State.nvmWrite_nrgZero_kept, ↓State.nvmWrite_slot_kept, ↓foldl_kept, ↓foldl1_kept, ↓onNvm_keeps, ↓mk_kept, ↓ite_kept, ↓fst_ite_kept, ↓snd_ite_kept, ite_self, implies_true]
theorem State.checkJob_kept (s : State) (n : Nat) : (State.checkJob s n).kept = s.kept := by
  unfold State.checkJob
  repeat' first
    | with_reducible rfl
    | split
    | (rename_i h; have h' := congrArg (fun p => p.1.kept) h; simp only [↓State.inc_kept, ↓State.loadKey_kept, ↓State.staged_kept, ↓State.holdSlot_kept, ↓foldl_kept, ↓foldl1_kept, ↓onNvm_keeps, ↓mk_kept, ↓ite_kept, ↓fst_ite_kept, ↓snd_ite_kept, ite_self, implies_true] at h'; simp only [↓State.inc_kept, ↓State.loadKey_kept, ↓State.staged_kept, ↓State.holdSlot_kept, ↓foldl_kept, ↓foldl1_kept, ↓onNvm_keeps, ↓mk_kept, ↓ite_kept, ↓fst_ite_kept, ↓snd_ite_kept, ite_self, implies_true, ← h']; done)
    | (rename_i h _; have h' := congrArg (fun p => p.1.kept) h; simp only [↓State.inc_kept, ↓State.loadKey_kept, ↓State.staged_kept, ↓State.holdSlot_kept, ↓foldl_kept, ↓foldl1_kept, ↓onNvm_keeps, ↓mk_kept, ↓ite_kept, ↓fst_ite_kept, ↓snd_ite_kept, ite_self, implies_true] at h'; simp only [↓State.inc_kept, ↓State.loadKey_kept, ↓State.staged_kept, ↓State.holdSlot_kept, ↓foldl_kept, ↓foldl1_kept, ↓onNvm_keeps, ↓mk_kept, ↓ite_kept, ↓fst_ite_kept, ↓snd_ite_kept, ite_self, implies_true, ← h']; done)
theorem State.remaskCache_kept (s : State) (l : List MaskedKey) : (State.remaskCache s l).2.kept = s.kept := by
  induction l generalizing s with
  | nil => rfl
  | cons k ks ih => unfold State.remaskCache; dsimp only; rw [ih, State.freeBytes_kept]
theorem execKeyMaskRefresh_kept (s : State) : ∃ s', execKeyMaskRefresh s = .next s' ∧ s'.kept = s.kept := by
  unfold execKeyMaskRefresh; split <;> exact ⟨_, rfl, by simp only [↓State.onSec_kept, ↓State.freeBytes_kept, ↓State.remaskCache_kept, ↓foldl_kept, ↓foldl1_kept, ↓onNvm_keeps, ↓mk_kept, ↓ite_kept, ↓fst_ite_kept, ↓snd_ite_kept, ite_self, implies_true]⟩
theorem State.applyTicket_kept (s : State) : (State.applyTicket s).kept = s.kept := by
  unfold State.applyTicket; simp only [↓State.onSec_kept, ↓foldl_kept, ↓foldl1_kept, ↓onNvm_keeps, ↓mk_kept, ↓ite_kept, ↓fst_ite_kept, ↓snd_ite_kept, ite_self, implies_true]
theorem State.cancelTicket_kept (s : State) : (State.cancelTicket s).kept = s.kept := by
  unfold State.cancelTicket; simp only [↓State.nvmWrite_ticket_kept, ↓State.nvmWrite_ticket_kept, ↓State.nvmWrite_session_kept, ↓State.nvmWrite_tickId_kept, ↓State.nvmWrite_bank_kept, ↓State.nvmWrite_nrgZero_kept, ↓foldl_kept, ↓foldl1_kept, ↓onNvm_keeps, ↓mk_kept, ↓ite_kept, ↓fst_ite_kept, ↓snd_ite_kept, ite_self, implies_true]
theorem execTicketVerified_kept (s : State) : ∃ s', execTicketVerified s = .next s' ∧ s'.kept = s.kept := by
  unfold execTicketVerified
  repeat' first
    | split
    | (refine ⟨_, rfl, ?_⟩; repeat' first
        | simp only [↓State.onSec_kept, ↓State.nvmWrite_ticket_kept, ↓State.nvmWrite_ticket_kept, ↓State.nvmWrite_session_kept, ↓State.nvmWrite_tickId_kept, ↓State.nvmWrite_bank_kept, ↓State.nvmWrite_nrgZero_kept, ↓foldl_kept, ↓foldl1_kept, ↓onNvm_keeps, ↓mk_kept, ↓ite_kept, ↓fst_ite_kept, ↓snd_ite_kept, ite_self, implies_true])
theorem State.tamperRecord_kept (s : State) (input : Nat) (when_ : Nat) (t : EventTime) : (State.tamperRecord s input when_ t).kept = s.kept := by
  unfold State.tamperRecord; simp only [↓State.event_kept, ↓foldl_kept, ↓foldl1_kept, ↓onNvm_keeps, ↓mk_kept, ↓ite_kept, ↓fst_ite_kept, ↓snd_ite_kept, ite_self, implies_true]
theorem State.tamperLock_kept (s : State) : (State.tamperLock s).kept = s.kept := by
  unfold State.tamperLock; simp only [↓State.onSec_kept, ↓State.clearKeys_kept, ↓State.linkDown_kept, ↓foldl_kept, ↓foldl1_kept, ↓onNvm_keeps, ↓mk_kept, ↓ite_kept, ↓fst_ite_kept, ↓snd_ite_kept, ite_self, implies_true]
theorem State.tamperEvent_kept (s : State) (inputs : BitVec 2) : (State.tamperEvent s inputs).kept = s.kept := by
  unfold State.tamperEvent; simp only [↓State.onAon_kept, ↓State.onSec_kept, ↓State.tamperRecord_kept, ↓State.tamperLock_kept, ↓foldl_kept, ↓foldl1_kept, ↓onNvm_keeps, ↓mk_kept, ↓ite_kept, ↓fst_ite_kept, ↓snd_ite_kept, ite_self, implies_true]
theorem execTamperSample_kept (open0 : Bool) (open1 : Bool) (s : State) : ∃ s', execTamperSample open0 open1 s = .next s' ∧ s'.kept = s.kept := by
  unfold execTamperSample; exact ⟨_, rfl, by simp only [↓State.onAon_kept, ↓State.tamperEvent_kept, ↓foldl_kept, ↓foldl1_kept, ↓onNvm_keeps, ↓mk_kept, ↓ite_kept, ↓fst_ite_kept, ↓snd_ite_kept, ite_self, implies_true]⟩
theorem State.vbatRead_kept (s : State) (mv : Nat) : (State.vbatRead s mv).kept = s.kept := by
  unfold State.vbatRead; simp only [↓State.onPwr_kept, ↓State.setBits_kept, ↓foldl_kept, ↓foldl1_kept, ↓onNvm_keeps, ↓mk_kept, ↓ite_kept, ↓fst_ite_kept, ↓snd_ite_kept, ite_self, implies_true]
theorem State.beginStep_kept (s : State) (target : Nat) (requested : Bool) : (State.beginStep s target requested).kept = s.kept := by
  unfold State.beginStep; simp only [↓State.onPwr_kept, ↓foldl_kept, ↓foldl1_kept, ↓onNvm_keeps, ↓mk_kept, ↓ite_kept, ↓fst_ite_kept, ↓snd_ite_kept, ite_self, implies_true]
theorem State.armRaised_kept (s : State) : (State.armRaised s).kept = s.kept := by
  unfold State.armRaised; simp only [↓State.pitchState_kept, ↓foldl_kept, ↓foldl1_kept, ↓onNvm_keeps, ↓mk_kept, ↓ite_kept, ↓fst_ite_kept, ↓snd_ite_kept, ite_self, implies_true]
theorem State.completeStep_kept (s : State) (d : DvfsStep) : (State.completeStep s d).kept = s.kept := by
  unfold State.completeStep; simp only [↓State.onPwr_kept, ↓State.inc_kept, ↓State.armRaised_kept, ↓foldl_kept, ↓foldl1_kept, ↓onNvm_keeps, ↓mk_kept, ↓ite_kept, ↓fst_ite_kept, ↓snd_ite_kept, ite_self, implies_true]
theorem State.refuseLevel_kept (s : State) (result : Nat) : (State.refuseLevel s result).kept = s.kept := by
  unfold State.refuseLevel; simp only [↓State.onPwr_kept, ↓State.inc_kept, ↓foldl_kept, ↓foldl1_kept, ↓onNvm_keeps, ↓mk_kept, ↓ite_kept, ↓fst_ite_kept, ↓snd_ite_kept, ite_self, implies_true]
theorem State.takeRequest_kept (s : State) (t : Nat) : (State.takeRequest s t).kept = s.kept := by
  unfold State.takeRequest; simp only [↓State.onPwr_kept, ↓State.beginStep_kept, ↓State.refuseLevel_kept, ↓foldl_kept, ↓foldl1_kept, ↓onNvm_keeps, ↓mk_kept, ↓ite_kept, ↓fst_ite_kept, ↓snd_ite_kept, ite_self, implies_true]
theorem State.dvfsStep_kept (s : State) : (State.dvfsStep s).kept = s.kept := by
  unfold State.dvfsStep
  split
  · split
    · exact State.completeStep_kept _ _
    · rfl
  split
  · split
    · exact State.beginStep_kept _ _ _
    · cases s.requestDue
      · rfl
      · exact State.takeRequest_kept _ _
  split
  · split
    · rfl
    · exact State.takeRequest_kept _ _
  · rfl
theorem execDvfsStep_kept (s : State) : ∃ s', execDvfsStep s = .next s' ∧ s'.kept = s.kept := by
  unfold execDvfsStep; split <;> exact ⟨_, rfl, by simp only [↓State.dvfsStep_kept, ↓foldl_kept, ↓foldl1_kept, ↓onNvm_keeps, ↓mk_kept, ↓ite_kept, ↓fst_ite_kept, ↓snd_ite_kept, ite_self, implies_true]⟩
theorem execVdone_kept (s : State) : ∃ s', execVdone s = .next s' ∧ s'.kept = s.kept := by
  unfold execVdone
  repeat' first
    | split
    | (refine ⟨_, rfl, ?_⟩; repeat' first
        | simp only [↓State.onPwr_kept, ↓State.run_kept, ↓State.completeStep_kept, ↓foldl_kept, ↓foldl1_kept, ↓onNvm_keeps, ↓mk_kept, ↓ite_kept, ↓fst_ite_kept, ↓snd_ite_kept, ite_self, implies_true])
theorem execAvsTimeout_kept (s : State) : ∃ s', execAvsTimeout s = .next s' ∧ s'.kept = s.kept := by
  unfold execAvsTimeout
  repeat' first
    | split
    | (refine ⟨_, rfl, ?_⟩; repeat' first
        | simp only [↓State.onPwr_kept, ↓State.inc_kept, ↓State.setBits_kept, ↓State.runToMono_kept, ↓foldl_kept, ↓foldl1_kept, ↓onNvm_keeps, ↓mk_kept, ↓ite_kept, ↓fst_ite_kept, ↓snd_ite_kept, ite_self, implies_true])
theorem State.requestLevel_kept (s : State) (v : Word) : (State.requestLevel s v).kept = s.kept := by
  unfold State.requestLevel; simp only [↓State.onPwr_kept, ↓State.setReg_kept, ↓foldl_kept, ↓foldl1_kept, ↓onNvm_keeps, ↓mk_kept, ↓ite_kept, ↓fst_ite_kept, ↓snd_ite_kept, ite_self, implies_true]
theorem execTelemCfg_kept (h : CmdHdr) (w1 : Word) (s : State) : ∃ s', execTelemCfg h w1 s = .next s' ∧ s'.kept = s.kept := by
  unfold execTelemCfg; split <;> exact ⟨_, rfl, by simp only [↓State.onPwr_kept, ↓State.command_kept, ↓foldl_kept, ↓foldl1_kept, ↓onNvm_keeps, ↓mk_kept, ↓ite_kept, ↓fst_ite_kept, ↓snd_ite_kept, ite_self, implies_true]⟩
theorem State.thermal_kept (s : State) (temps : List (BitVec 16)) : (State.thermal s temps).kept = s.kept := by
  unfold State.thermal; simp only [↓State.onPwr_kept, ↓State.setBits_kept, ↓foldl_kept, ↓foldl1_kept, ↓onNvm_keeps, ↓mk_kept, ↓ite_kept, ↓fst_ite_kept, ↓snd_ite_kept, ite_self, implies_true]
theorem State.sampleTaken_kept (s : State) (temps : List (BitVec 16)) (vmons : List (BitVec 16)) : (State.sampleTaken s temps vmons).kept = s.kept := by
  unfold State.sampleTaken; simp only [↓State.onPwr_kept, ↓State.setReg_kept, ↓State.thermal_kept, ↓foldl_kept, ↓foldl1_kept, ↓onNvm_keeps, ↓mk_kept, ↓ite_kept, ↓fst_ite_kept, ↓snd_ite_kept, ite_self, implies_true]
theorem execTelemetrySample_kept (temps : List (BitVec 16)) (vmons : List (BitVec 16)) (s : State) : ∃ s', execTelemetrySample temps vmons s = .next s' ∧ s'.kept = s.kept := by
  unfold execTelemetrySample; split <;> exact ⟨_, rfl, by simp only [↓State.onPwr_kept, ↓State.runToMono_kept, ↓State.sampleTaken_kept, ↓foldl_kept, ↓foldl1_kept, ↓onNvm_keeps, ↓mk_kept, ↓ite_kept, ↓fst_ite_kept, ↓snd_ite_kept, ite_self, implies_true]⟩
theorem execTelemetryDelivery_kept (s : State) : ∃ s', execTelemetryDelivery s = .next s' ∧ s'.kept = s.kept := by
  unfold execTelemetryDelivery
  repeat' first
    | split
    | (refine ⟨_, rfl, ?_⟩; repeat' first
        | simp only [↓State.onPwr_kept, ↓State.deliverOr_kept, ↓foldl_kept, ↓foldl1_kept, ↓onNvm_keeps, ↓mk_kept, ↓ite_kept, ↓fst_ite_kept, ↓snd_ite_kept, ite_self, implies_true])
theorem execScrub_kept (lines : Nat) (errs : List MemErr) (s : State) : ∃ s', execScrub lines errs s = .next s' ∧ s'.kept = s.kept := by
  unfold execScrub
  repeat' first
    | split
    | dsimp only
    | (refine ⟨_, rfl, ?_⟩; repeat' first
        | simp only [↓State.onSys_kept, ↓State.setReg_kept, ↓State.inc_kept, ↓State.memErrors_kept, ↓foldl_kept, ↓foldl1_kept, ↓onNvm_keeps, ↓mk_kept, ↓ite_kept, ↓fst_ite_kept, ↓snd_ite_kept, ite_self, implies_true])
theorem execRecorderHousekeeping_kept (upset : List (Nat × List Word)) (s : State) : ∃ s', execRecorderHousekeeping upset s = .next s' ∧ s'.kept = s.kept := by
  unfold execRecorderHousekeeping; split <;> exact ⟨_, rfl, by simp only [↓State.onEvr_kept, ↓State.checkRecords_kept, ↓foldl_kept, ↓foldl1_kept, ↓onNvm_keeps, ↓mk_kept, ↓ite_kept, ↓fst_ite_kept, ↓snd_ite_kept, ite_self, implies_true]⟩
theorem State.requestDormant_kept (s : State) (v : Word) : (State.requestDormant s v).kept = s.kept := by
  unfold State.requestDormant; simp only [↓State.onPwr_kept, ↓foldl_kept, ↓foldl1_kept, ↓onNvm_keeps, ↓mk_kept, ↓ite_kept, ↓fst_ite_kept, ↓snd_ite_kept, ite_self, implies_true]
theorem State.servoUpdate_kept (s : State) (theta : Int) : (State.servoUpdate s theta).kept = s.kept := by
  unfold State.servoUpdate; simp only [↓State.onTim_kept, ↓foldl_kept, ↓foldl1_kept, ↓onNvm_keeps, ↓mk_kept, ↓ite_kept, ↓fst_ite_kept, ↓snd_ite_kept, ite_self, implies_true]
theorem State.servoState_kept (s : State) (theta : Int) : (State.servoState s theta).kept = s.kept := by
  unfold State.servoState; split <;> simp only [↓State.onTim_kept, ↓State.event_kept, ↓foldl_kept, ↓foldl1_kept, ↓onNvm_keeps, ↓mk_kept, ↓ite_kept, ↓fst_ite_kept, ↓snd_ite_kept, ite_self, implies_true]
theorem State.servoError_kept (s : State) : (State.servoError s).kept = s.kept := by
  unfold State.servoError; simp only [↓State.onTim_kept, ↓foldl_kept, ↓foldl1_kept, ↓onNvm_keeps, ↓mk_kept, ↓ite_kept, ↓fst_ite_kept, ↓snd_ite_kept, ite_self, implies_true]
theorem State.measure_kept (s : State) (theta : Int) : (State.measure s theta).kept = s.kept := by
  unfold State.measure; simp only [↓State.onTim_kept, ↓State.servoUpdate_kept, ↓State.servoState_kept, ↓State.servoError_kept, ↓foldl_kept, ↓foldl1_kept, ↓onNvm_keeps, ↓mk_kept, ↓ite_kept, ↓fst_ite_kept, ↓snd_ite_kept, ite_self, implies_true]
theorem State.handOver_kept (s : State) : (State.handOver s).kept = s.kept := by
  unfold State.handOver; split <;> simp only [↓State.onTim_kept, ↓State.measure_kept, ↓foldl_kept, ↓foldl1_kept, ↓onNvm_keeps, ↓mk_kept, ↓ite_kept, ↓fst_ite_kept, ↓snd_ite_kept, ite_self, implies_true]
theorem State.syncMiss_kept (s : State) : (State.syncMiss s).kept = s.kept := by
  unfold State.syncMiss; split <;> simp only [↓State.onTim_kept, ↓State.inc_kept, ↓State.runToMono_kept, ↓State.loseSource_kept, ↓foldl_kept, ↓foldl1_kept, ↓onNvm_keeps, ↓mk_kept, ↓ite_kept, ↓fst_ite_kept, ↓snd_ite_kept, ite_self, implies_true]
theorem State.gnssLost_kept (s : State) : (State.gnssLost s).kept = s.kept := by
  unfold State.gnssLost; simp only [↓State.onTim_kept, ↓State.loseSource_kept, ↓State.runBmca_kept, ↓foldl_kept, ↓foldl1_kept, ↓onNvm_keeps, ↓mk_kept, ↓ite_kept, ↓fst_ite_kept, ↓snd_ite_kept, ite_self, implies_true]
theorem State.todSentence_kept (s : State) (d : TodIn) : (State.todSentence s d).kept = s.kept := by
  unfold State.todSentence
  repeat' first
    | (simp only [↓State.onTim_kept, ↓State.add_kept, ↓State.runBmca_kept, ↓State.gnssLost_kept, ↓foldl_kept, ↓foldl1_kept, ↓onNvm_keeps, ↓mk_kept, ↓ite_kept, ↓fst_ite_kept, ↓snd_ite_kept, ite_self, implies_true]; done)
    | split
theorem State.applyOffset_kept (s : State) (w4 : Word) (sec : Nat) : (State.applyOffset s w4 sec).kept = s.kept := by
  unfold State.applyOffset; split <;> simp only [↓State.onTim_kept, ↓State.giveOffset_kept, ↓foldl_kept, ↓foldl1_kept, ↓onNvm_keeps, ↓mk_kept, ↓ite_kept, ↓fst_ite_kept, ↓snd_ite_kept, ite_self, implies_true]
theorem State.setTime_kept (s : State) (sec ns : Nat) (w4 w5 : Word) : (State.setTime s sec ns w4 w5).1.kept = s.kept := by
  unfold State.setTime
  extract_lets theta s1 s2
  have h : s2.kept = s.kept := 
    ite_to ((State.onTim_kept _ _).trans (State.applyOffset_kept _ _ _)) (State.applyOffset_kept _ _ _)
  clear_value s2 theta
  refine fst_ite_to ((State.onTim_kept _ _).trans h) ?_
  rcases s2.servoP theta with ⟨raw, p⟩
  exact (State.onTim_kept _ _).trans h
theorem State.holdoverNow_kept (s : State) : (State.holdoverNow s).kept = s.kept := by
  unfold State.holdoverNow; simp only [↓State.onTim_kept, ↓foldl_kept, ↓foldl1_kept, ↓onNvm_keeps, ↓mk_kept, ↓ite_kept, ↓fst_ite_kept, ↓snd_ite_kept, ite_self, implies_true]
theorem State.seedTime_kept (s : State) : (State.seedTime s).kept = s.kept := by
  unfold State.seedTime; simp only [↓State.onTim_kept, ↓foldl_kept, ↓foldl1_kept, ↓onNvm_keeps, ↓mk_kept, ↓ite_kept, ↓fst_ite_kept, ↓snd_ite_kept, ite_self, implies_true]
theorem State.idleCycle_kept (s : State) : (State.idleCycle s).kept = s.kept := by
  unfold State.idleCycle; split <;> simp only [↓State.onClk_kept, ↓State.run_kept, ↓foldl_kept, ↓foldl1_kept, ↓onNvm_keeps, ↓mk_kept, ↓ite_kept, ↓fst_ite_kept, ↓snd_ite_kept, ite_self, implies_true]
theorem State.owedTamper_kept (s : State) : (State.owedTamper s).kept = s.kept := by
  unfold State.owedTamper; simp only [↓State.tamperRecord_kept, ↓foldl_kept, ↓foldl1_kept, ↓onNvm_keeps, ↓mk_kept, ↓ite_kept, ↓fst_ite_kept, ↓snd_ite_kept, ite_self, implies_true]
theorem State.tamperCheck_kept (s : State) (b : BootIn) : (State.tamperCheck s b).kept = s.kept := by
  unfold State.tamperCheck; simp only [↓State.onAon_kept, ↓State.onSys_kept, ↓State.tamperRecord_kept, ↓foldl_kept, ↓foldl1_kept, ↓onNvm_keeps, ↓mk_kept, ↓ite_kept, ↓fst_ite_kept, ↓snd_ite_kept, ite_self, implies_true]
theorem State.bootRom_kept (s : State) : (State.bootRom s).kept = s.kept := by
  unfold State.bootRom
  extract_lets s1 s2 s3
  have h1 : s1.kept = s.kept := State.onNvm_kept _ _ rfl rfl rfl
  clear_value s1
  have h2 : s2.kept = s1.kept := (State.restorePoints_kept _).trans (ite_to rfl (State.checkSlots_kept _))
  clear_value s2
  have h3 : s3.kept = s2.kept := rfl
  clear_value s3
  rw [State.event_kept, h3, h2, h1]
theorem State.atStep_kept (s : State) (n : Nat) : (State.atStep s n).kept = s.kept := by
  unfold State.atStep; simp only [↓State.onSys_kept, ↓foldl_kept, ↓foldl1_kept, ↓onNvm_keeps, ↓mk_kept, ↓ite_kept, ↓fst_ite_kept, ↓snd_ite_kept, ite_self, implies_true]
theorem State.moveDomains_kept (s : State) (x : ClkSrc) : (State.moveDomains s x).kept = s.kept := by
  unfold State.moveDomains; simp only [↓State.lmuStart_kept, ↓State.drive_kept, ↓foldl_kept, ↓foldl1_kept, ↓onNvm_keeps, ↓mk_kept, ↓ite_kept, ↓fst_ite_kept, ↓snd_ite_kept, ite_self, implies_true]
theorem State.stepNine_kept (s : State) : (State.stepNine s).kept = s.kept := by
  unfold State.stepNine; simp only [↓State.onSys_kept, ↓State.atStep_kept, ↓foldl_kept, ↓foldl1_kept, ↓onNvm_keeps, ↓mk_kept, ↓ite_kept, ↓fst_ite_kept, ↓snd_ite_kept, ite_self, implies_true]
theorem State.pllsReady_kept (s : State) : (State.pllsReady s).kept = s.kept := by
  unfold State.pllsReady; simp only [↓State.onSys_kept, ↓State.stepNine_kept, ↓foldl_kept, ↓foldl1_kept, ↓onNvm_keeps, ↓mk_kept, ↓ite_kept, ↓fst_ite_kept, ↓snd_ite_kept, ite_self, implies_true]
theorem State.qualifyMove_kept (s : State) (x : ClkSrc) : (State.qualifyMove s x).kept = s.kept := by
  unfold State.qualifyMove; simp only [↓State.qualify_kept, ↓State.moveDomains_kept, ↓foldl_kept, ↓foldl1_kept, ↓onNvm_keeps, ↓mk_kept, ↓ite_kept, ↓fst_ite_kept, ↓snd_ite_kept, ite_self, implies_true]
theorem State.stepEight_kept (s : State) : (State.stepEight s).kept = s.kept := by
  unfold State.stepEight; simp only [↓State.onPwr_kept, ↓State.atStep_kept, ↓State.pllsReady_kept, ↓State.qualifyMove_kept, ↓foldl_kept, ↓foldl1_kept, ↓onNvm_keeps, ↓mk_kept, ↓ite_kept, ↓fst_ite_kept, ↓snd_ite_kept, ite_self, implies_true]
theorem State.stepSeven_kept (s : State) : (State.stepSeven s).kept = s.kept := by
  unfold State.stepSeven; simp only [↓State.qualify_kept, ↓State.atStep_kept, ↓State.stepEight_kept, ↓foldl_kept, ↓foldl1_kept, ↓onNvm_keeps, ↓mk_kept, ↓ite_kept, ↓fst_ite_kept, ↓snd_ite_kept, ite_self, implies_true]
theorem State.firstSources_kept (s : State) (b : BootIn) : (State.firstSources s b).kept = s.kept := by
  unfold State.firstSources; simp only [↓State.onClk_kept, ↓State.faultSwitches_kept, ↓foldl_kept, ↓foldl1_kept, ↓onNvm_keeps, ↓mk_kept, ↓ite_kept, ↓fst_ite_kept, ↓snd_ite_kept, ite_self, implies_true]
theorem State.seedUnlessKept_kept (s : State) : (State.seedUnlessKept s).kept = s.kept := by
  unfold State.seedUnlessKept; simp only [↓State.seedTime_kept, ↓foldl_kept, ↓foldl1_kept, ↓onNvm_keeps, ↓mk_kept, ↓ite_kept, ↓fst_ite_kept, ↓snd_ite_kept, ite_self, implies_true]
theorem State.stepFour_kept (s : State) : (State.stepFour s).kept = s.kept := by
  unfold State.stepFour; simp only [↓State.owedTamper_kept, ↓State.tamperCheck_kept, ↓State.atStep_kept, ↓foldl_kept, ↓foldl1_kept, ↓onNvm_keeps, ↓mk_kept, ↓ite_kept, ↓fst_ite_kept, ↓snd_ite_kept, ite_self, implies_true]
theorem State.batteryBack_kept (s : State) (b : BootIn) : (State.batteryBack s b).kept = s.kept := by
  unfold State.batteryBack; simp only [↓State.onAon_kept, ↓foldl_kept, ↓foldl1_kept, ↓onNvm_keeps, ↓mk_kept, ↓ite_kept, ↓fst_ite_kept, ↓snd_ite_kept, ite_self, implies_true]
theorem State.powerCut_kept (s : State) : (State.powerCut s).kept = s.kept := by
  unfold State.powerCut; simp only [↓State.tearRecord_kept, ↓State.tearBanks_kept, ↓foldl_kept, ↓foldl1_kept, ↓onNvm_keeps, ↓mk_kept, ↓ite_kept, ↓fst_ite_kept, ↓snd_ite_kept, ite_self, implies_true]
theorem execSourceQualified_kept (src : ClkSrc) (s : State) : ∃ s', execSourceQualified src s = .next s' ∧ s'.kept = s.kept := by
  unfold execSourceQualified
  repeat' first
    | split
    | (refine ⟨_, rfl, ?_⟩; repeat' first
        | simp only [↓State.qualify_kept, ↓State.returns_kept, ↓State.moveDomains_kept, ↓State.pllsReady_kept, ↓State.stepEight_kept, ↓foldl_kept, ↓foldl1_kept, ↓onNvm_keeps, ↓mk_kept, ↓ite_kept, ↓fst_ite_kept, ↓snd_ite_kept, ite_self, implies_true])
theorem State.goOn_kept (s : State) : (State.goOn s).kept = s.kept := by
  unfold State.goOn; simp only [↓State.onPrt_kept, ↓State.atStep_kept, ↓foldl_kept, ↓foldl1_kept, ↓onNvm_keeps, ↓mk_kept, ↓ite_kept, ↓fst_ite_kept, ↓snd_ite_kept, ite_self, implies_true]
theorem State.stepThirteen_kept (s : State) : (State.stepThirteen s).kept = s.kept := by
  unfold State.stepThirteen; simp only [↓State.startHello_kept, ↓State.stepResolved_kept, ↓State.claimRole_kept, ↓State.atStep_kept, ↓foldl_kept, ↓foldl1_kept, ↓onNvm_keeps, ↓mk_kept, ↓ite_kept, ↓fst_ite_kept, ↓snd_ite_kept, ite_self, implies_true]
theorem State.acquired_kept (s : State) : (State.acquired s).kept = s.kept := by
  unfold State.acquired; simp only [↓State.stepThirteen_kept, ↓foldl_kept, ↓foldl1_kept, ↓onNvm_keeps, ↓mk_kept, ↓ite_kept, ↓fst_ite_kept, ↓snd_ite_kept, ite_self, implies_true]
theorem State.patched_kept (s : State) (src : Nat) (version : Word) (outcome : Nat) : (State.patched s src version outcome).kept = s.kept := by
  unfold State.patched; simp only [↓State.onSec_kept, ↓State.onSys_kept, ↓State.goOn_kept, ↓State.acquired_kept, ↓foldl_kept, ↓foldl1_kept, ↓onNvm_keeps, ↓mk_kept, ↓ite_kept, ↓fst_ite_kept, ↓snd_ite_kept, ite_self, implies_true]
theorem State.patchChecked_kept (s : State) (p : PatchIn) : (State.patchChecked s p).kept = s.kept := by
  unfold State.patchChecked; simp only [↓State.patched_kept, ↓foldl_kept, ↓foldl1_kept, ↓onNvm_keeps, ↓mk_kept, ↓ite_kept, ↓fst_ite_kept, ↓snd_ite_kept, ite_self, implies_true]
theorem execPatchLoaded_kept (p : PatchIn) (s : State) : ∃ s', execPatchLoaded p s = .next s' ∧ s'.kept = s.kept := by
  unfold execPatchLoaded
  repeat' first
    | split
    | (refine ⟨_, rfl, ?_⟩; repeat' first
        | simp only [↓State.onSys_kept, ↓State.inc_kept, ↓State.atStep_kept, ↓State.patchChecked_kept, ↓foldl_kept, ↓foldl1_kept, ↓onNvm_keeps, ↓mk_kept, ↓ite_kept, ↓fst_ite_kept, ↓snd_ite_kept, ite_self, implies_true])
theorem State.bootCtl_kept (s : State) (v : Word) : (State.bootCtl s v).kept = s.kept := by
  unfold State.bootCtl; simp only [↓State.onSys_kept, ↓State.patched_kept, ↓foldl_kept, ↓foldl1_kept, ↓onNvm_keeps, ↓mk_kept, ↓ite_kept, ↓fst_ite_kept, ↓snd_ite_kept, ite_self, implies_true]
theorem execBootGo_kept (s : State) : ∃ s', execBootGo s = .next s' ∧ s'.kept = s.kept := by
  unfold execBootGo; exact ⟨_, rfl, by simp only [↓State.bootCtl_kept, ↓foldl_kept, ↓foldl1_kept, ↓onNvm_keeps, ↓mk_kept, ↓ite_kept, ↓fst_ite_kept, ↓snd_ite_kept, ite_self, implies_true]⟩
theorem execBootNone_kept (s : State) : ∃ s', execBootNone s = .next s' ∧ s'.kept = s.kept := by
  unfold execBootNone; exact ⟨_, rfl, by simp only [↓State.bootCtl_kept, ↓foldl_kept, ↓foldl1_kept, ↓onNvm_keeps, ↓mk_kept, ↓ite_kept, ↓fst_ite_kept, ↓snd_ite_kept, ite_self, implies_true]⟩
theorem execPatchWaitTimeout_kept (s : State) : ∃ s', execPatchWaitTimeout s = .next s' ∧ s'.kept = s.kept := by
  unfold execPatchWaitTimeout; split <;> exact ⟨_, rfl, by simp only [↓State.runToMono_kept, ↓State.patched_kept, ↓foldl_kept, ↓foldl1_kept, ↓onNvm_keeps, ↓mk_kept, ↓ite_kept, ↓fst_ite_kept, ↓snd_ite_kept, ite_self, implies_true]⟩
theorem State.startWritten_kept (s : State) : (State.startWritten s).kept = s.kept := by
  unfold State.startWritten; simp only [↓State.onSys_kept, ↓State.goOn_kept, ↓State.acquired_kept, ↓foldl_kept, ↓foldl1_kept, ↓onNvm_keeps, ↓mk_kept, ↓ite_kept, ↓fst_ite_kept, ↓snd_ite_kept, ite_self, implies_true]
theorem execStartGo_kept (s : State) : ∃ s', execStartGo s = .next s' ∧ s'.kept = s.kept := by
  unfold execStartGo; exact ⟨_, rfl, by simp only [↓State.startWritten_kept, ↓foldl_kept, ↓foldl1_kept, ↓onNvm_keeps, ↓mk_kept, ↓ite_kept, ↓fst_ite_kept, ↓snd_ite_kept, ite_self, implies_true]⟩
theorem execAcquisitionTimeout_kept (s : State) : ∃ s', execAcquisitionTimeout s = .next s' ∧ s'.kept = s.kept := by
  unfold execAcquisitionTimeout; split <;> exact ⟨_, rfl, by simp only [↓State.runToMono_kept, ↓State.acquired_kept, ↓foldl_kept, ↓foldl1_kept, ↓onNvm_keeps, ↓mk_kept, ↓ite_kept, ↓fst_ite_kept, ↓snd_ite_kept, ite_self, implies_true]⟩
theorem execServoMeasurement_kept (at_ : Nat) (s : State) : ∃ s', execServoMeasurement at_ s = .next s' ∧ s'.kept = s.kept := by
  unfold execServoMeasurement; split <;> exact ⟨_, rfl, by simp only [↓State.runToMono_kept, ↓State.handOver_kept, ↓State.acquired_kept, ↓foldl_kept, ↓foldl1_kept, ↓onNvm_keeps, ↓mk_kept, ↓ite_kept, ↓fst_ite_kept, ↓snd_ite_kept, ite_self, implies_true]⟩
theorem State.keepWake_kept (s : State) (old : State) : (State.keepWake s old).kept = s.kept := by
  unfold State.keepWake; simp only [↓State.setReg_kept, ↓foldl_kept, ↓foldl1_kept, ↓onNvm_keeps, ↓mk_kept, ↓ite_kept, ↓fst_ite_kept, ↓snd_ite_kept, ite_self, implies_true]
theorem State.keepDormant_kept (s : State) (old : State) : (State.keepDormant s old).kept = s.kept := by
  unfold State.keepDormant; simp only [↓State.onClk_kept, ↓State.keepWake_kept, ↓foldl_kept, ↓foldl1_kept, ↓onNvm_keeps, ↓mk_kept, ↓ite_kept, ↓fst_ite_kept, ↓snd_ite_kept, ite_self, implies_true]
theorem execDormantRequest_kept (value : Word) (s : State) : ∃ s', execDormantRequest value s = .next s' ∧ s'.kept = s.kept := by
  unfold execDormantRequest; split <;> exact ⟨_, rfl, by simp only [↓State.requestDormant_kept, ↓foldl_kept, ↓foldl1_kept, ↓onNvm_keeps, ↓mk_kept, ↓ite_kept, ↓fst_ite_kept, ↓snd_ite_kept, ite_self, implies_true]⟩
theorem State.sendPending_kept (s : State) (v : Nat) : (State.sendPending s v).kept = s.kept := by
  unfold State.sendPending; simp only [↓State.onHif_kept, ↓State.inc_kept, ↓foldl_kept, ↓foldl1_kept, ↓onNvm_keeps, ↓mk_kept, ↓ite_kept, ↓fst_ite_kept, ↓snd_ite_kept, ite_self, implies_true]
theorem State.maskVector_kept (s : State) (v : Nat) (masked : Bool) : (State.maskVector s v masked).kept = s.kept := by
  unfold State.maskVector; simp only [↓State.onHif_kept, ↓State.sendPending_kept, ↓foldl_kept, ↓foldl1_kept, ↓onNvm_keeps, ↓mk_kept, ↓ite_kept, ↓fst_ite_kept, ↓snd_ite_kept, ite_self, implies_true]
theorem State.writeMsix_kept (s : State) (i : Nat) (v : Word) : (State.writeMsix s i v).kept = s.kept := by
  unfold State.writeMsix; simp only [↓State.onHif_kept, ↓State.maskVector_kept, ↓foldl_kept, ↓foldl1_kept, ↓onNvm_keeps, ↓mk_kept, ↓ite_kept, ↓fst_ite_kept, ↓snd_ite_kept, ite_self, implies_true]
theorem State.writeConfig_kept (s : State) (off : Nat) (v : Word) : (State.writeConfig s off v).kept = s.kept := by
  unfold State.writeConfig; split <;> simp only [↓State.onHif_kept, ↓State.sendPending_kept, ↓foldl_kept, ↓foldl1_kept, ↓onNvm_keeps, ↓mk_kept, ↓ite_kept, ↓fst_ite_kept, ↓snd_ite_kept, ite_self, implies_true]
theorem State.configWrite_kept (s : State) (off : Nat) (width : Nat) (data : DWord) : (State.configWrite s off width data).kept = s.kept := by
  unfold State.configWrite; simp only [↓State.writeConfig_kept, ↓foldl_kept, ↓foldl1_kept, ↓onNvm_keeps, ↓mk_kept, ↓ite_kept, ↓fst_ite_kept, ↓snd_ite_kept, ite_self, implies_true]
theorem State.setNow_kept (s : State) (theta : Int) : (State.setNow s theta).kept = s.kept := by
  unfold State.setNow; simp only [↓State.onTim_kept, ↓State.setReg_kept, ↓State.inc_kept, ↓foldl_kept, ↓foldl1_kept, ↓onNvm_keeps, ↓mk_kept, ↓ite_kept, ↓fst_ite_kept, ↓snd_ite_kept, ite_self, implies_true]
theorem State.stepRecord_kept (s : State) (old : Nat) (flags : Nat) : (State.stepRecord s old flags).kept = s.kept := by
  unfold State.stepRecord; simp only [↓State.event_kept, ↓foldl_kept, ↓foldl1_kept, ↓onNvm_keeps, ↓mk_kept, ↓ite_kept, ↓fst_ite_kept, ↓snd_ite_kept, ite_self, implies_true]
theorem State.markFlushed_kept (s : State) (tick : Nat) : (State.markFlushed s tick).kept = s.kept := by
  unfold State.markFlushed; simp only [↓State.onCol_kept, ↓foldl_kept, ↓foldl1_kept, ↓onNvm_keeps, ↓mk_kept, ↓ite_kept, ↓fst_ite_kept, ↓snd_ite_kept, ite_self, implies_true]
theorem State.freeSlow_kept (s : State) : (State.freeSlow s).2.kept = s.kept := by
  unfold State.freeSlow
  generalize List.finRange 8 = l
  have h : ∀ r : List SlowRecord × State, (l.foldl (fun (r : List SlowRecord × State) n =>
      let (slow, s1) := r.2.freeBool
      let (w, s2) := s1.freeWord
      (if slow then r.1 ++ [{ sel := n, bytes := w.toNat }] else r.1, s2)) r).2.kept = r.2.kept := by
    induction l with
    | nil => exact fun r => rfl
    | cons n l ih => exact fun r => (ih _).trans ((State.freeWord_kept _).trans (State.freeBool_kept _))
  exact h _
theorem State.flushedOut_kept (s : State) (tick : Nat) : (State.flushedOut s tick).kept = s.kept := by
  unfold State.flushedOut
  repeat' first
    | (simp only [↓State.onTck_kept, ↓State.arcDeliver_kept, ↓State.endSide_kept, ↓State.capCells_kept, ↓State.capDerived_kept, ↓State.columnRecords_kept, ↓State.markFlushed_kept, ↓State.freeSlow_kept, ↓foldl_kept, ↓foldl1_kept, ↓onNvm_keeps, ↓mk_kept, ↓ite_kept, ↓fst_ite_kept, ↓snd_ite_kept, ite_self, implies_true]; done)
    | split
    | dsimp only
theorem State.realign_kept (s : State) : (State.realign s).kept = s.kept := by
  unfold State.realign; simp only [↓State.onTck_kept, ↓State.inc_kept, ↓State.reinitAll_kept, ↓State.withdraw_kept, ↓State.flush_kept, ↓State.releaseSlots_kept, ↓State.flushedOut_kept, ↓foldl_kept, ↓foldl1_kept, ↓onNvm_keeps, ↓mk_kept, ↓ite_kept, ↓fst_ite_kept, ↓snd_ite_kept, ite_self, implies_true]
theorem State.passInstant_kept (s : State) : (State.passInstant s).kept = s.kept := by
  unfold State.passInstant; simp only [↓State.emitInstant_kept, ↓foldl_kept, ↓foldl1_kept, ↓onNvm_keeps, ↓mk_kept, ↓ite_kept, ↓fst_ite_kept, ↓snd_ite_kept, ite_self, implies_true]
theorem State.timeStep_kept (s : State) (theta : Int) (bySet : Bool) : (State.timeStep s theta bySet).kept = s.kept := by
  unfold State.timeStep; simp only [↓State.oneCycle_kept, ↓State.lmuRephase_kept, ↓State.nrgRephase_kept, ↓State.capStep_kept, ↓State.setNow_kept, ↓State.stepRecord_kept, ↓State.realign_kept, ↓State.passInstant_kept, ↓foldl_kept, ↓foldl1_kept, ↓onNvm_keeps, ↓mk_kept, ↓ite_kept, ↓fst_ite_kept, ↓snd_ite_kept, ite_self, implies_true]
theorem execTimeStep_kept (s : State) : ∃ s', execTimeStep s = .next s' ∧ s'.kept = s.kept := by
  unfold execTimeStep
  repeat' first
    | split
    | (refine ⟨_, rfl, ?_⟩; repeat' first
        | simp only [↓State.timeStep_kept, ↓foldl_kept, ↓foldl1_kept, ↓onNvm_keeps, ↓mk_kept, ↓ite_kept, ↓fst_ite_kept, ↓snd_ite_kept, ite_self, implies_true])
theorem State.clearRead_kept (s : State) (off : Nat) : (State.clearRead s off).kept = s.kept := by
  unfold State.clearRead
  repeat' first
    | (simp only [↓State.onPwr_kept, ↓State.setReg_kept, ↓foldl_kept, ↓foldl1_kept, ↓onNvm_keeps, ↓mk_kept, ↓ite_kept, ↓fst_ite_kept, ↓snd_ite_kept, ite_self, implies_true]; done)
    | split
theorem State.readReg_kept (s : State) (off : Nat) : (State.readReg s off).2.kept = s.kept := by
  unfold State.readReg; split <;> simp only [↓State.clearRead_kept, ↓foldl_kept, ↓foldl1_kept, ↓onNvm_keeps, ↓mk_kept, ↓ite_kept, ↓fst_ite_kept, ↓snd_ite_kept, ite_self, implies_true]
theorem State.readWords_kept (s : State) (off n : Nat) : (State.readWords s off n).2.kept = s.kept := by
  induction n generalizing s off with
  | zero => rfl
  | succ n ih => unfold State.readWords; dsimp only; rw [ih, State.readReg_kept]
theorem State.spaceWords_kept (s : State) (space : HostSpace) (first : Nat) (n : Nat) : (State.spaceWords s space first n).2.kept = s.kept := by
  unfold State.spaceWords; split <;> simp only [↓State.readWords_kept, ↓foldl_kept, ↓foldl1_kept, ↓onNvm_keeps, ↓mk_kept, ↓ite_kept, ↓fst_ite_kept, ↓snd_ite_kept, ite_self, implies_true]
theorem State.hostRead_kept (s : State) (space : HostSpace) (off : Nat) (width : Nat) : (State.hostRead s space off width).kept = s.kept := by
  unfold State.hostRead; simp only [↓State.spaceWords_kept, ↓foldl_kept, ↓foldl1_kept, ↓onNvm_keeps, ↓mk_kept, ↓ite_kept, ↓fst_ite_kept, ↓snd_ite_kept, ite_self, implies_true]
theorem execReadClear_kept (a : HostAddr) (width : Nat) (s : State) : ∃ s', execReadClear a width s = .next s' ∧ s'.kept = s.kept := by
  unfold execReadClear; exact ⟨_, rfl, by simp only [↓State.hostRead_kept, ↓foldl_kept, ↓foldl1_kept, ↓onNvm_keeps, ↓mk_kept, ↓ite_kept, ↓fst_ite_kept, ↓snd_ite_kept, ite_self, implies_true]⟩
theorem execLatchedRead_kept (off : BitVec 24) (s : State) : ∃ s', execLatchedRead off s = .next s' ∧ s'.kept = s.kept := by
  unfold execLatchedRead; exact ⟨_, rfl, by simp only [↓State.hostRead_kept, ↓foldl_kept, ↓foldl1_kept, ↓onNvm_keeps, ↓mk_kept, ↓ite_kept, ↓fst_ite_kept, ↓snd_ite_kept, ite_self, implies_true]⟩
theorem execVectorUnmask_kept (v : Fin 128) (s : State) : ∃ s', execVectorUnmask v s = .next s' ∧ s'.kept = s.kept := by
  unfold execVectorUnmask; split <;> exact ⟨_, rfl, by simp only [↓State.maskVector_kept, ↓foldl_kept, ↓foldl1_kept, ↓onNvm_keeps, ↓mk_kept, ↓ite_kept, ↓fst_ite_kept, ↓snd_ite_kept, ite_self, implies_true]⟩
theorem State.store_kept (s : State) (off : Nat) (v : Word) : (State.store s off v).kept = s.kept := by
  unfold State.store; split <;> simp only [↓State.setReg_kept, ↓foldl_kept, ↓foldl1_kept, ↓onNvm_keeps, ↓mk_kept, ↓ite_kept, ↓fst_ite_kept, ↓snd_ite_kept, ite_self, implies_true]
theorem State.startGrid_kept (s : State) : (State.startGrid s).kept = s.kept := by
  unfold State.startGrid; simp only [↓State.onTck_kept, ↓foldl_kept, ↓foldl1_kept, ↓onNvm_keeps, ↓mk_kept, ↓ite_kept, ↓fst_ite_kept, ↓snd_ite_kept, ite_self, implies_true]
theorem State.writeTckCfg_kept (s : State) (v : Word) : (State.writeTckCfg s v).kept = s.kept := by
  unfold State.writeTckCfg; simp only [↓State.setReg_kept, ↓State.startGrid_kept, ↓foldl_kept, ↓foldl1_kept, ↓onNvm_keeps, ↓mk_kept, ↓ite_kept, ↓fst_ite_kept, ↓snd_ite_kept, ite_self, implies_true]
theorem State.overlapRecord_kept (s : State) (r : Nat) : (State.overlapRecord s r).kept = s.kept := by
  unfold State.overlapRecord; simp only [↓State.event_kept, ↓foldl_kept, ↓foldl1_kept, ↓onNvm_keeps, ↓mk_kept, ↓ite_kept, ↓fst_ite_kept, ↓snd_ite_kept, ite_self, implies_true]
theorem State.freshArchive_kept (s : State) : (State.freshArchive s).kept = s.kept := by
  unfold State.freshArchive; simp only [↓State.onArc_kept, ↓foldl_kept, ↓foldl1_kept, ↓onNvm_keeps, ↓mk_kept, ↓ite_kept, ↓fst_ite_kept, ↓snd_ite_kept, ite_self, implies_true]
theorem State.arcEnFollows_kept (s : State) : (State.arcEnFollows s).kept = s.kept := by
  unfold State.arcEnFollows; simp only [↓State.setReg_kept, ↓foldl_kept, ↓foldl1_kept, ↓onNvm_keeps, ↓mk_kept, ↓ite_kept, ↓fst_ite_kept, ↓snd_ite_kept, ite_self, implies_true]
theorem State.writeRegion_kept (s : State) (r : Nat) (v : Word) : (State.writeRegion s r v).kept = s.kept := by
  unfold State.writeRegion; simp only [↓State.onArc_kept, ↓State.setReg_kept, ↓State.store_kept, ↓State.overlapRecord_kept, ↓State.freshArchive_kept, ↓foldl_kept, ↓foldl1_kept, ↓onNvm_keeps, ↓mk_kept, ↓ite_kept, ↓fst_ite_kept, ↓snd_ite_kept, ite_self, implies_true]
theorem State.writeArcCfg_kept (s : State) (v : Word) : (State.writeArcCfg s v).kept = s.kept := by
  unfold State.writeArcCfg; simp only [↓State.store_kept, ↓State.arcEnFollows_kept, ↓foldl_kept, ↓foldl1_kept, ↓onNvm_keeps, ↓mk_kept, ↓ite_kept, ↓fst_ite_kept, ↓snd_ite_kept, ite_self, implies_true]
theorem State.portsAfter_kept (s : State) (old : State) : (State.portsAfter s old).kept = s.kept := by
  unfold State.portsAfter; simp only [↓State.linkLost_kept, ↓foldl_kept, ↓foldl1_kept, ↓onNvm_keeps, ↓mk_kept, ↓ite_kept, ↓fst_ite_kept, ↓snd_ite_kept, ite_self, implies_true]
theorem State.writePrtCfg_kept (s : State) (n : Nat) (v : Word) : (State.writePrtCfg s n v).kept = s.kept := by
  unfold State.writePrtCfg; simp only [↓State.store_kept, ↓State.portsAfter_kept, ↓foldl_kept, ↓foldl1_kept, ↓onNvm_keeps, ↓mk_kept, ↓ite_kept, ↓fst_ite_kept, ↓snd_ite_kept, ite_self, implies_true]
theorem State.writeSelection_kept (s : State) (n : Nat) (v : Word) : (State.writeSelection s n v).kept = s.kept := by
  unfold State.writeSelection; simp only [↓State.store_kept, ↓foldl_kept, ↓foldl1_kept, ↓onNvm_keeps, ↓mk_kept, ↓ite_kept, ↓fst_ite_kept, ↓snd_ite_kept, ite_self, implies_true]
theorem State.writeEstimator_kept (s : State) (p : Nat) (v : Word) : (State.writeEstimator s p v).kept = s.kept := by
  unfold State.writeEstimator; simp only [↓State.onLmu_kept, ↓State.store_kept, ↓foldl_kept, ↓foldl1_kept, ↓onNvm_keeps, ↓mk_kept, ↓ite_kept, ↓fst_ite_kept, ↓snd_ite_kept, ite_self, implies_true]
theorem State.writeCapCfg_kept (s : State) (v : Word) : (State.writeCapCfg s v).kept = s.kept := by
  unfold State.writeCapCfg; simp only [↓State.capMasterChanged_kept, ↓State.store_kept, ↓foldl_kept, ↓foldl1_kept, ↓onNvm_keeps, ↓mk_kept, ↓ite_kept, ↓fst_ite_kept, ↓snd_ite_kept, ite_self, implies_true]
theorem State.writeTim_kept (s : State) (off : Nat) (v : Word) : (State.writeTim s off v).kept = s.kept := by
  unfold State.writeTim; simp only [↓State.runBmca_kept, ↓State.gnssLost_kept, ↓State.store_kept, ↓foldl_kept, ↓foldl1_kept, ↓onNvm_keeps, ↓mk_kept, ↓ite_kept, ↓fst_ite_kept, ↓snd_ite_kept, ite_self, implies_true]
theorem State.writeGzlCfg_kept (s : State) (v : Word) : (State.writeGzlCfg s v).kept = s.kept := by
  unfold State.writeGzlCfg; simp only [↓State.onGzl_kept, ↓State.startHello_kept, ↓State.linkDown_kept, ↓State.store_kept, ↓foldl_kept, ↓foldl1_kept, ↓onNvm_keeps, ↓mk_kept, ↓ite_kept, ↓fst_ite_kept, ↓snd_ite_kept, ite_self, implies_true]
theorem State.writeCeil_kept (s : State) (v : Word) : (State.writeCeil s v).kept = s.kept := by
  unfold State.writeCeil; simp only [↓State.store_kept, ↓foldl_kept, ↓foldl1_kept, ↓onNvm_keeps, ↓mk_kept, ↓ite_kept, ↓fst_ite_kept, ↓snd_ite_kept, ite_self, implies_true]
theorem State.writeLcCtl_kept (s : State) (v : Word) : (State.writeLcCtl s v).kept = s.kept := by
  unfold State.writeLcCtl; simp only [↓State.applyTicket_kept, ↓State.cancelTicket_kept, ↓foldl_kept, ↓foldl1_kept, ↓onNvm_keeps, ↓mk_kept, ↓ite_kept, ↓fst_ite_kept, ↓snd_ite_kept, ite_self, implies_true]
theorem State.writeTck_kept (s : State) (off : Nat) (v : Word) : (State.writeTck s off v).kept = s.kept := by
  unfold State.writeTck; simp only [↓State.store_kept, ↓State.writeTckCfg_kept, ↓foldl_kept, ↓foldl1_kept, ↓onNvm_keeps, ↓mk_kept, ↓ite_kept, ↓fst_ite_kept, ↓snd_ite_kept, ite_self, implies_true]
theorem State.writePrt_kept (s : State) (off : Nat) (v : Word) : (State.writePrt s off v).kept = s.kept := by
  unfold State.writePrt; split <;> simp only [↓State.disablePort_kept, ↓State.store_kept, ↓State.portsAfter_kept, ↓State.writePrtCfg_kept, ↓foldl_kept, ↓foldl1_kept, ↓onNvm_keeps, ↓mk_kept, ↓ite_kept, ↓fst_ite_kept, ↓snd_ite_kept, ite_self, implies_true]
theorem State.writeLmu_kept (s : State) (off : Nat) (v : Word) : (State.writeLmu s off v).kept = s.kept := by
  unfold State.writeLmu; split <;> simp only [↓State.onLmu_kept, ↓State.writeChannel_kept, ↓State.store_kept, ↓State.writeEstimator_kept, ↓foldl_kept, ↓foldl1_kept, ↓onNvm_keeps, ↓mk_kept, ↓ite_kept, ↓fst_ite_kept, ↓snd_ite_kept, ite_self, implies_true]
theorem State.writeNrg_kept (s : State) (off : Nat) (v : Word) : (State.writeNrg s off v).kept = s.kept := by
  unfold State.writeNrg; split <;> simp only [↓State.writePoint_kept, ↓State.writePulse_kept, ↓State.store_kept, ↓foldl_kept, ↓foldl1_kept, ↓onNvm_keeps, ↓mk_kept, ↓ite_kept, ↓fst_ite_kept, ↓snd_ite_kept, ite_self, implies_true]
theorem State.writeCap_kept (s : State) (off : Nat) (v : Word) : (State.writeCap s off v).kept = s.kept := by
  unfold State.writeCap; split <;> simp only [↓State.store_kept, ↓State.writeRegion_kept, ↓State.writeCapCfg_kept, ↓foldl_kept, ↓foldl1_kept, ↓onNvm_keeps, ↓mk_kept, ↓ite_kept, ↓fst_ite_kept, ↓snd_ite_kept, ite_self, implies_true]
theorem State.writeHif_kept (s : State) (off : Nat) (v : Word) : (State.writeHif s off v).kept = s.kept := by
  unfold State.writeHif; split <;> simp only [↓State.checkFire_kept, ↓State.enableRing_kept, ↓State.disableRing_kept, ↓State.store_kept, ↓foldl_kept, ↓foldl1_kept, ↓onNvm_keeps, ↓mk_kept, ↓ite_kept, ↓fst_ite_kept, ↓snd_ite_kept, ite_self, implies_true]
theorem State.writePwr_kept (s : State) (off : Nat) (v : Word) : (State.writePwr s off v).kept = s.kept := by
  unfold State.writePwr; simp only [↓State.requestLevel_kept, ↓State.requestDormant_kept, ↓State.store_kept, ↓State.writeCeil_kept, ↓foldl_kept, ↓foldl1_kept, ↓onNvm_keeps, ↓mk_kept, ↓ite_kept, ↓fst_ite_kept, ↓snd_ite_kept, ite_self, implies_true]
theorem State.writeBar2_kept (s : State) (off : Nat) (v : Word) : (State.writeBar2 s off v).kept = s.kept := by
  unfold State.writeBar2; simp only [↓State.hostIdxWord_kept, ↓State.writeMsix_kept, ↓foldl_kept, ↓foldl1_kept, ↓onNvm_keeps, ↓mk_kept, ↓ite_kept, ↓fst_ite_kept, ↓snd_ite_kept, ite_self, implies_true]
theorem map_modifyAt_of_eq {α β : Type} (g : α → β) (f : α → α) (h : ∀ a, g (f a) = g a) (l : List α) (n : Nat) : (modifyAt l n f).map g = l.map g := by
  induction l generalizing n with
  | nil => rfl
  | cons a l ih => cases n <;> simp [modifyAt, h, ih]
/-- The kept part with the seal set if `b`. -/
def State.keptAs (s : State) (b : Bool) : List Instr × Bool × Fuses × List KeySlot × Word :=
  (s.pending, s.isSealed || b, s.nvm.fuses, s.nvm.slots, s.nvm.epoch)
theorem kept_iff {s t : State} : t.kept = s.kept ↔ t.pending = s.pending ∧ t.isSealed = s.isSealed ∧ t.nvm.fuses = s.nvm.fuses ∧
    t.nvm.slots = s.nvm.slots ∧ t.nvm.epoch = s.nvm.epoch := by simp [State.kept, Prod.ext_iff]
/-- `s` with its seal at most added. -/
def Seals (s t : State) : Prop := ∃ b, t.kept = s.keptAs b
theorem Seals.of_kept {s t : State} (h : t.kept = s.kept) : Seals s t := ⟨false, by rw [h, State.keptAs, Bool.or_false]; rfl⟩
theorem Seals.trans {s t u : State} (h : Seals s t) (g : Seals t u) : Seals s u := by
  obtain ⟨b, h⟩ := h; obtain ⟨c, g⟩ := g
  refine ⟨b || c, ?_⟩
  simp only [State.kept, State.keptAs, Prod.mk.injEq] at *
  simp [g, h, Bool.or_assoc]
theorem State.writeSys_seals (s : State) (off : Nat) (v : Word) : Seals s (s.writeSys off v) := by
  unfold State.writeSys
  split
  · split
    · exact ⟨true, by simp [State.kept, State.keptAs]⟩
    · exact .of_kept rfl
  · refine .of_kept ?_
    split
    · split
      · exact State.startWritten_kept _
      · rfl
    · split
      · exact State.bootCtl_kept _ _
      · exact State.store_kept _ _ _
theorem State.actWrite_seals (s : State) (off : Nat) (v : Word) : Seals s (s.actWrite off v) := by
  unfold State.actWrite
  split
  · exact State.writeSys_seals _ _ _
  all_goals refine .of_kept ?_
  all_goals repeat' first
    | (simp only [State.writeTck_kept, State.writeRegion_kept, State.store_kept, State.writePrt_kept, State.arcEnFollows_kept, State.writeSelection_kept, State.writeArcCfg_kept,
        State.writeLmu_kept, State.writeNrg_kept, State.writeCap_kept, State.writeTim_kept, State.acquired_kept, State.writeHif_kept, State.writeGzlCfg_kept,
        State.writeLcCtl_kept, State.requestSluice_kept, State.writePwr_kept]; done)
    | split
theorem State.writeReg_seals (s : State) (off : Nat) (v : Word) : Seals s (s.writeReg off v) := by
  unfold State.writeReg
  repeat' first
    | exact .of_kept rfl
    | exact State.actWrite_seals ..
    | exact .of_kept (State.inc_kept ..)
    | split
theorem State.hostWrite_seals (s : State) (off : Nat) (v : Word) : Seals s (s.hostWrite off v) := by
  unfold State.hostWrite
  split
  · exact State.writeReg_seals _ _ _
  · exact .of_kept rfl
theorem State.writeSpace_seals (s : State) (space : HostSpace) (off : Nat) (v : Word) : Seals s (s.writeSpace space off v) := by
  unfold State.writeSpace
  split
  · exact State.writeReg_seals _ _ _
  · exact .of_kept (State.writeBar2_kept _ _ _)
theorem State.barWrite_seals (s : State) (space : HostSpace) (off width : Nat) (data : DWord) : Seals s (s.barWrite space off width data) := by
  unfold State.barWrite
  split
  · exact .of_kept rfl
  split
  · exact .of_kept (State.configWrite_kept _ _ _ _)
  split
  · exact State.writeSpace_seals _ _ _ _
  split
  · exact (State.writeSpace_seals _ _ _ _).trans (State.writeSpace_seals _ _ _ _)
  · exact .of_kept (State.inc_kept ..)
/-- The slot commands: only the stored key slots change. -/
def Slots (s t : State) : Prop := t.pending = s.pending ∧ t.isSealed = s.isSealed ∧ t.nvm.fuses = s.nvm.fuses ∧ t.nvm.epoch = s.nvm.epoch
theorem Slots.of_kept {s t : State} (h : t.kept = s.kept) : Slots s t := by obtain ⟨a, b, c, d, e⟩ := kept_iff.1 h; exact ⟨a, b, c, e⟩
theorem Slots.trans {s t u : State} (h : Slots s t) (g : Slots t u) : Slots s u :=
  ⟨g.1.trans h.1, g.2.1.trans h.2.1, g.2.2.1.trans h.2.2.1, g.2.2.2.trans h.2.2.2⟩
theorem State.setSlot_slots (s : State) (n : Nat) (k : KeySlot) : Slots s (s.setSlot n k) := ⟨rfl, rfl, rfl, rfl⟩
theorem State.clearSlot_slots (s : State) (n : Nat) : Slots s (s.clearSlot n) :=
  (State.setSlot_slots s n _).trans (.of_kept (State.slotChanged_kept _ _))
theorem State.commitSlot_slots (s : State) (n : Nat) : Slots s (s.commitSlot n) :=
  (State.setSlot_slots s n _).trans (.of_kept (State.slotChanged_kept _ _))
theorem State.endSlotWrite_slots (s : State) (w : SlotWrite) : Slots s (s.endSlotWrite w) := by
  unfold State.endSlotWrite
  extract_lets s1
  have h1 : Slots s s1 := .of_kept (State.onSec_kept _ _)
  clear_value s1
  refine (h1.trans ?_).trans (.of_kept (State.finish_kept _ _ _))
  split
  · exact State.commitSlot_slots _ _
  · exact State.clearSlot_slots _ _
theorem execSlotCommit_slots (s : State) : ∃ t, execSlotCommit s = .next t ∧ Slots s t := by
  unfold execSlotCommit
  cases s.nextCommit with
  | none => exact ⟨_, rfl, .of_kept rfl⟩
  | some w =>
    dsimp only
    split
    · exact ⟨_, rfl, .of_kept rfl⟩
    · refine ⟨_, rfl, ?_⟩
      split
      · exact .of_kept (State.holdSlot_kept _ _)
      · exact State.endSlotWrite_slots _ _
/-- What any NVM write leaves: the queue, the seal and the fuses. -/
def Stays (s t : State) : Prop := t.pending = s.pending ∧ t.isSealed = s.isSealed ∧ t.nvm.fuses = s.nvm.fuses
theorem Stays.trans {s t u : State} (h : Stays s t) (g : Stays t u) : Stays s u := ⟨g.1.trans h.1, g.2.1.trans h.2.1, g.2.2.trans h.2.2⟩
theorem Slots.stays {s t : State} (h : Slots s t) : Stays s t := ⟨h.1, h.2.1, h.2.2.1⟩
theorem Stays.of_kept {s t : State} (h : t.kept = s.kept) : Stays s t := (Slots.of_kept h).stays
/-- The write of a claim's epoch: only the stored epoch changes. -/
theorem State.claimWritten_stays (s : State) : Stays s s.claimWritten ∧ s.claimWritten.nvm.slots = s.nvm.slots := by
  unfold State.claimWritten
  split
  · exact ⟨.of_kept rfl, rfl⟩
  · rename_i c _
    obtain ⟨a, b, c, d, _⟩ := kept_iff.1 (State.gateFrom_kept ((s.onNvm fun n => { n with epoch := c.epoch }).onGzl fun g => { g with claim := none, claimEpoch := some c.epoch }) s)
    exact ⟨⟨a, b, c⟩, d⟩
theorem execEpochWriteComplete_stays (s : State) : ∃ t, execEpochWriteComplete s = .next t ∧ Stays s t ∧ t.nvm.slots = s.nvm.slots := by
  unfold execEpochWriteComplete
  refine ⟨_, rfl, ?_⟩
  split
  · exact s.claimWritten_stays
  · exact ⟨.of_kept rfl, rfl⟩
/-- The wrap of a slot: only stored copies change, no marker. -/
def Copies (s t : State) : Prop := Slots s t ∧ t.nvm.slots.map KeySlot.marker = s.nvm.slots.map KeySlot.marker
theorem Copies.of_kept {s t : State} (h : t.kept = s.kept) : Copies s t := ⟨.of_kept h, by rw [(kept_iff.1 h).2.2.2.1]⟩
theorem Copies.trans {s t u : State} (h : Copies s t) (g : Copies t u) : Copies s u := ⟨h.1.trans g.1, g.2.trans h.2⟩
theorem State.writeCopy_copies (s : State) (n copy : Nat) (bytes : List Byte) : Copies s (s.writeCopy n copy bytes) := by
  refine ⟨⟨rfl, rfl, rfl, rfl⟩, ?_⟩
  simp only [State.writeCopy, State.onNvm]
  exact map_modifyAt_of_eq KeySlot.marker _ (fun k => by split <;> rfl) _ _
theorem State.applyNvm_copies (s : State) (w : NvmWrite) (hw : ∀ e, w ≠ .epoch e) : Copies s (s.applyNvm w) := by
  cases w
  case copy n c b => exact State.writeCopy_copies s n c b
  case epoch e => exact absurd rfl (hw e)
  all_goals refine .of_kept ?_
  · exact State.applyNvm_ticket_kept _ _
  · exact State.applyNvm_session_kept _ _
  · exact State.applyNvm_tickId_kept _ _
  · exact State.applyNvm_bank_kept _ _ _
  · exact State.applyNvm_nrgZero_kept _
  · exact State.applyNvm_slot_kept _ _
theorem State.nvmWrite_copies (s : State) (w : NvmWrite) (hw : ∀ e, w ≠ .epoch e) : Copies s (s.nvmWrite w) := by
  unfold State.nvmWrite
  split
  · exact .of_kept (State.onPwr_kept _ _)
  · exact State.applyNvm_copies _ _ hw
theorem State.applyNvm_stays (s : State) (w : NvmWrite) : Stays s (s.applyNvm w) := by
  cases w
  case epoch e => exact ⟨rfl, rfl, rfl⟩
  all_goals exact (State.applyNvm_copies s _ (fun _ h => NvmWrite.noConfusion h)).1.stays
/-- A held write that is released changes nothing but what is stored. -/
theorem State.releaseWrite_stays (s : State) (w : NvmWrite) : Stays s (s.releaseWrite w) := by
  unfold State.releaseWrite
  split
  · split
    · exact s.claimWritten_stays.1
    · exact State.applyNvm_stays _ _
  · rename_i ref
    cases s.sec.writes.find? (fun x => decide (x.ref = ref)) with
    | none => exact .of_kept rfl
    | some w => exact (State.endSlotWrite_slots s w).stays
  · exact State.applyNvm_stays _ _
theorem State.leaveBrace_stays (s : State) : Stays s s.leaveBrace := by
  unfold State.leaveBrace
  extract_lets us s1 s2 s3
  have h1 : Stays s s1 := .of_kept (State.event_kept ..)
  clear_value s1
  have h2 : Stays s s2 := h1.trans (.of_kept ((State.onEvr_kept _ _).trans ((State.peak_kept _ _ _).trans (State.setReg_kept _ _ _))))
  clear_value s2
  have h3 : Stays s s3 := h2.trans (.of_kept (State.onPwr_kept _ _))
  clear_value s3
  generalize s.pwr.held = l
  induction l generalizing s3 with
  | nil => exact h3
  | cons w l ih => exact ih _ (h3.trans (State.releaseWrite_stays _ _))
theorem execBraceEnd_stays (s : State) : ∃ t, execBraceEnd s = .next t ∧ Stays s t := by
  unfold execBraceEnd
  split
  · exact ⟨_, rfl, .of_kept rfl⟩
  · split
    · exact ⟨_, rfl, (Stays.of_kept (State.runToMono_kept _ _)).trans (State.leaveBrace_stays _)⟩
    · exact ⟨_, rfl, .of_kept rfl⟩
/-- The writes in progress complete, and what the commit stores (R522): only what is stored changes. -/
theorem State.powerCommit_stays (s : State) : Stays s s.powerCommit := by
  unfold State.powerCommit
  extract_lets s1
  have h1 : Stays s s1 := by
    refine Stays.trans (t := s.finishWrites) ?_ (.of_kept ((State.nrgBrace_kept _).trans (State.evrBrace_kept _)))
    unfold State.finishWrites
    extract_lets s2
    have h2 : Stays s s2 := by
      unfold s2; split
      · exact s.claimWritten_stays.1
      · exact .of_kept rfl
    clear_value s2
    split
    · exact h2.trans (State.endSlotWrite_slots _ _).stays
    · exact h2
  clear_value s1
  split
  · exact h1.trans (State.applyNvm_stays _ _)
  · exact h1
theorem execBrace_stays (s : State) : ∃ t, execBrace s = .next t ∧ Stays s t := by
  unfold execBrace
  split
  · exact ⟨_, rfl, .of_kept rfl⟩
  split
  · exact ⟨_, rfl, .of_kept (State.onPwr_kept _ _)⟩
  · exact ⟨_, rfl, s.powerCommit_stays.trans (.of_kept ((State.setBits_kept _ _ _).trans ((State.inc_kept _ _).trans (State.onPwr_kept _ _))))⟩
theorem execPwrSenseChange_stays (p : SupplyIn) (s : State) : ∃ t, execPwrSenseChange p s = .next t ∧ Stays s t := by
  unfold execPwrSenseChange
  split
  · exact ⟨_, rfl, .of_kept rfl⟩
  extract_lets s1
  have h1 : Stays s s1 := .of_kept ((State.onPwr_kept _ _).trans (by cases p.vbatMv; · rfl
                                                                     · exact State.vbatRead_kept _ _))
  clear_value s1
  split
  · obtain ⟨t, h2, h3⟩ := execBrace_stays s1
    exact ⟨t, h2, h1.trans h3⟩
  split
  · exact ⟨_, rfl, h1⟩
  split
  · exact ⟨_, rfl, h1.trans (.of_kept (State.onPwr_kept _ _))⟩
  · exact ⟨_, rfl, h1.trans (.of_kept (State.onPwr_kept _ _))⟩
theorem State.wrapJob_copies (s : State) (n : Nat) : Copies s (s.wrapJob n) := by
  unfold State.wrapJob
  split
  · extract_lets c
    have h := State.loadKey_kept s purposeWrap [BitVec.ofNat 8 n]
    split <;> rename_i h1 <;> rw [h1] at h
    · exact .of_kept h
    · exact ((Copies.of_kept h).trans ((Copies.of_kept (State.inc_kept _ _)).trans (State.nvmWrite_copies _ _ (fun _ h => NvmWrite.noConfusion h)))).trans
        (.of_kept ((State.onSec_kept _ _).trans (State.staged_kept _ _ _)))
  · exact .of_kept rfl
theorem execKeyJob_copies (s : State) : ∃ t, execKeyJob s = .next t ∧ Copies s t := by
  unfold execKeyJob
  cases s.nextJob with
  | none => exact ⟨_, rfl, .of_kept rfl⟩
  | some j =>
    dsimp only
    split
    · exact ⟨_, rfl, .of_kept rfl⟩
    · have h1 : Copies s (s.onSec fun x => { x with jobs := x.jobs.erase j }) := .of_kept (State.onSec_kept _ _)
      generalize (s.onSec fun x => { x with jobs := x.jobs.erase j }) = s1 at h1
      cases j
      · exact ⟨_, rfl, h1.trans (.of_kept (State.frameJob_kept _ _ _))⟩
      · exact ⟨_, rfl, h1.trans (.of_kept (State.segmentJob_kept _ _))⟩
      · exact ⟨_, rfl, h1.trans (State.wrapJob_copies _ _)⟩
      · exact ⟨_, rfl, h1.trans (.of_kept (State.checkJob_kept _ _))⟩
      · exact ⟨_, rfl, h1.trans (.of_kept ((State.finish_kept _ _ _).trans (State.deriveNow_kept _ _ _)))⟩
theorem State.command_slots (s : State) (h : CmdHdr) (tamperOk : Bool) (body : CmdRef → State → State × CmdEnd)
    (hbody : ∀ c x, Slots x (body c x).1) : Slots s (State.command s h tamperOk body) := by
  unfold State.command
  split
  · exact .of_kept rfl
  · extract_lets c n r s1
    have h1 : Slots s s1 := .of_kept (State.setRing_kept _ _ _)
    clear_value s1
    split
    · exact h1.trans (.of_kept (State.complete_kept _ _ _))
    · have h2 := h1.trans (hbody c s1)
      generalize body c s1 = q at h2
      rcases q with ⟨s2, r | _ | _⟩
      · exact h2.trans (.of_kept (State.complete_kept _ _ _))
      · dsimp only
        split
        · exact .of_kept rfl
        · exact h2.trans (.of_kept (State.onHif_kept _ _))
      · exact h2.trans (.of_kept (State.onHif_kept _ _))
theorem execKeySlotClear_slots (h : CmdHdr) (w1 : Word) (s : State) : ∃ t, execKeySlotClear h w1 s = .next t ∧ Slots s t := by
  unfold execKeySlotClear
  refine ⟨_, rfl, State.command_slots _ _ _ _ fun c x => ?_⟩
  dsimp only
  split
  · exact .of_kept rfl
  split
  · exact .of_kept ((State.nvmWrite_slot_kept _ _).trans (State.onSec_kept _ _))
  split
  · exact .of_kept (State.onSec_kept _ _)
  · exact State.clearSlot_slots _ _
theorem Fuses.le_refl (f : Fuses) : f.le f := ⟨BitVec.and_self, BitVec.and_self⟩
theorem Fuses.le_trans {f g h : Fuses} (a : f.le g) (b : g.le h) : f.le h := by
  obtain ⟨a1, a2⟩ := a; obtain ⟨b1, b2⟩ := b
  constructor
  · rw [← a1, BitVec.and_assoc, b1]
  · rw [← a2, BitVec.and_assoc, b2]
/-- A start-up: fuses only gain bits, the slots stay or are wiped. -/
def Starts (s t : State) : Prop := t.pending = s.pending ∧ s.nvm.fuses.le t.nvm.fuses ∧
  (t.nvm.slots = s.nvm.slots ∨ t.nvm.slots = List.replicate 16 KeySlot.empty) ∧ t.nvm.epoch = s.nvm.epoch
theorem Starts.of_kept {s t : State} (h : t.kept = s.kept) : Starts s t := by
  obtain ⟨a, b, c, d, e⟩ := kept_iff.1 h; exact ⟨a, c ▸ Fuses.le_refl _, .inl d, e⟩
theorem Starts.trans {s t u : State} (h : Starts s t) (g : Starts t u) : Starts s u :=
  ⟨g.1.trans h.1, Fuses.le_trans h.2.1 g.2.1, g.2.2.1.elim (fun e => e ▸ h.2.2.1) .inr, g.2.2.2.trans h.2.2.2⟩
theorem State.wiped_starts (s : State) : Starts s s.wiped := ⟨rfl, Fuses.le_refl _, .inl rfl, rfl⟩
theorem State.onNvmWipe_starts (s : State) : Starts s (s.onNvm Nvm.wipe) := by
  refine ⟨rfl, ⟨BitVec.and_self, ?_⟩, .inr rfl, rfl⟩
  simp only [State.onNvm, Nvm.wipe]
  ext i; simp; exact .inl
theorem State.carry_starts (s : State) : Starts s (s.onNvm Nvm.carryTicket) := by
  refine ⟨rfl, ?_, .inl ?_, ?_⟩
  all_goals simp only [State.onNvm, Nvm.carryTicket]
  all_goals cases s.nvm.ticket with
    | none => first | exact Fuses.le_refl _ | rfl
    | some t => first | rfl | (refine ⟨?_, BitVec.and_self⟩; dsimp only; ext i; simp; exact .inl)
theorem State.lifecycleWipe_starts (s : State) : Starts s s.lifecycleWipe := by
  unfold State.lifecycleWipe
  split
  · exact s.onNvmWipe_starts.trans (.of_kept (State.event_kept ..))
  · exact .of_kept rfl
theorem State.resetBy_starts (s : State) (cause wake : Nat) : Starts s (s.resetBy cause wake) :=
  s.wiped_starts.trans (.of_kept (State.onAon_kept _ _))
theorem State.enterHold_starts (s : State) (d : Nat) (x : ClkSrc) (sirc : Bool) : Starts s (s.enterHold d x sirc) := by
  unfold State.enterHold
  exact (s.resetBy_starts 4 0).trans (.of_kept ((State.onClk_kept _ _).trans (State.onAon_kept _ _)))
/-- Each step of the start-up sequence (R536). -/
theorem State.stepTwo_starts (s : State) : Starts s s.stepTwo := by
  unfold State.stepTwo
  extract_lets b s1
  split
  · exact s.enterHold_starts _ _ _
  · have h1 : Starts s s1 := .of_kept ((State.atStep_kept _ _).trans ((State.onPwr_kept _ _).trans (State.firstSources_kept _ _)))
    clear_value s1
    exact h1.trans (.of_kept (ite_to rfl (State.setBits_kept _ _ _)))
theorem State.stepThree_starts (s : State) : Starts s s.stepThree := by
  unfold State.stepThree
  refine Starts.trans ?_ (.of_kept (State.atStep_kept _ _))
  split
  · exact .of_kept ((State.onSec_kept _ _).trans (State.onSys_kept _ _))
  · exact s.carry_starts
theorem State.stepFive_starts (s : State) : Starts s s.stepFive := by
  unfold State.stepFive
  split
  · exact .of_kept rfl
  · exact (Starts.of_kept (State.seedUnlessKept_kept _)).trans ((State.lifecycleWipe_starts _).trans (.of_kept (State.atStep_kept _ _)))
theorem State.bootStep_starts (s : State) : Starts s s.bootStep := by
  unfold State.bootStep
  split
  · exact .of_kept (State.atStep_kept _ _)
  · exact s.stepTwo_starts
  · exact s.stepThree_starts
  · exact .of_kept (State.stepFour_kept _)
  · exact s.stepFive_starts
  · exact .of_kept ((State.stepSeven_kept _).trans (State.bootRom_kept _))
  · exact .of_kept rfl
theorem State.bootOn_starts (n : Nat) (s : State) : Starts s (s.bootOn n) := by
  induction n generalizing s with
  | zero => exact .of_kept rfl
  | succ n ih =>
    unfold State.bootOn
    extract_lets t
    have h : Starts s t := s.bootStep_starts
    clear_value t
    split
    · exact h
    · exact h.trans (ih t)
theorem State.startUp_starts (s : State) (b : BootIn) : Starts s (s.startUp b) :=
  (Starts.of_kept (State.onSys_kept _ _)).trans (State.bootOn_starts _ _)
/-- What the device does by itself (R536). -/
theorem State.idle_starts (s : State) : Starts s s.idle := by
  unfold State.idle
  split
  · split
    · exact .of_kept (State.idleCycle_kept _)
    · exact State.bootOn_starts _ _
  · split
    · exact .of_kept (State.patchChecked_kept _ _)
    · exact .of_kept (State.idleCycle_kept _)
theorem execPowerOn_starts (b : BootIn) (s : State) : ∃ t, execPowerOn b s = .next t ∧ Starts s t := by
  unfold execPowerOn
  extract_lets low s1 s2
  have h : Starts s s1 := (Starts.of_kept ((State.batteryBack_kept _ _).trans (State.powerCut_kept s))).trans (State.resetBy_starts _ _ _)
  clear_value s1
  split
  · exact ⟨_, rfl, h.trans (.of_kept (State.onPwr_kept _ _))⟩
  · exact ⟨_, rfl, h.trans ((State.startUp_starts _ _).trans (.of_kept (ite_to (State.setBits_kept _ _ _) rfl)))⟩
theorem execPinReset_starts (b : BootIn) (s : State) : ∃ t, execPinReset b s = .next t ∧ Starts s t := by
  unfold execPinReset
  split
  · exact ⟨_, rfl, .of_kept rfl⟩
  · exact ⟨_, rfl, (State.resetBy_starts _ _ _).trans (State.startUp_starts _ _)⟩
theorem execBrownout_starts (b : BootIn) (s : State) : ∃ t, execBrownout b s = .next t ∧ Starts s t := by
  unfold execBrownout
  split
  · exact ⟨_, rfl, .of_kept rfl⟩
  · exact ⟨_, rfl, (Starts.of_kept (State.powerCut_kept s)).trans ((State.resetBy_starts _ _ _).trans (State.startUp_starts _ _))⟩
theorem State.keepDormant_kept' (s old : State) : (s.keepDormant old).kept = s.kept := State.keepDormant_kept s old
theorem execDormantWake_starts (sources : BitVec 5) (b : BootIn) (s : State) : ∃ t, execDormantWake sources b s = .next t ∧ Starts s t := by
  unfold execDormantWake
  extract_lets fired s1
  split
  · exact ⟨_, rfl, .of_kept rfl⟩
  · refine ⟨_, rfl, ?_⟩
    have h : Starts s (if fired.getLsbD 1 = true then s.runTo (s.pwr.wakeAt.getD 0) else s) := .of_kept (ite_to (State.runTo_kept _ _) rfl)
    exact h.trans ((State.resetBy_starts _ _ _).trans ((Starts.of_kept (State.keepDormant_kept _ _)).trans (State.startUp_starts _ _)))
/-- Dormant mode completes the writes in progress; the fuses and the queue stay. -/
theorem State.enterDormant_stays (s : State) : s.enterDormant.pending = s.pending ∧ s.enterDormant.nvm.fuses = s.nvm.fuses := by
  unfold State.enterDormant
  extract_lets s1 s2
  have h1 : Stays s s1 := s.powerCommit_stays
  have h2 : Stays s s2 := h1.trans ⟨rfl, rfl, rfl⟩
  clear_value s2
  obtain ⟨a, b, c, _⟩ := kept_iff.1 ((State.onPwr_kept (s2.wiped.keepDormant s2) _).trans (State.keepDormant_kept s2.wiped s2))
  exact ⟨a.trans h2.1, c.trans h2.2.2⟩
theorem execDormantEntry_stays (s : State) : ∃ t, execDormantEntry s = .next t ∧ t.pending = s.pending ∧ t.nvm.fuses = s.nvm.fuses := by
  unfold execDormantEntry
  split
  · exact ⟨_, rfl, rfl, rfl⟩
  split
  · exact ⟨_, rfl, rfl, rfl⟩
  split
  · exact ⟨_, rfl, State.enterDormant_stays _⟩
  · exact ⟨_, rfl, rfl, rfl⟩
theorem execVbatLoss_starts (s : State) : ∃ t, execVbatLoss s = .next t ∧ Starts s t := by
  have h := (State.freeWords_kept s.powerCut 6).trans (State.powerCut_kept s)
  unfold execVbatLoss
  generalize s.powerCut.freeWords 6 = r at h
  rcases r with ⟨ws, s1⟩
  exact ⟨_, rfl, (Starts.of_kept h).trans (s1.wiped_starts.trans (.of_kept ((State.onPwr_kept _ _).trans (State.onAon_kept _ _))))⟩
theorem execMonitorTrip_starts (src : ClkSrc) (s : State) : ∃ t, execMonitorTrip src s = .next t ∧ Starts s t := by
  have h := State.trip_kept s src
  unfold execMonitorTrip
  split
  · exact ⟨_, rfl, .of_kept rfl⟩
  · generalize s.trip src = r at h
    rcases r with ⟨s1, _ | ⟨d, x⟩⟩
    · exact ⟨_, rfl, .of_kept h⟩
    · exact ⟨_, rfl, (Starts.of_kept h).trans (State.enterHold_starts _ _ _ _)⟩
theorem execHoldAttempt_starts (ok : Bool) (b : BootIn) (s : State) : ∃ t, execHoldAttempt ok b s = .next t ∧ Starts s t := by
  unfold execHoldAttempt
  extract_lets n s1
  split
  · exact ⟨_, rfl, .of_kept rfl⟩
  · have h1 : Starts s s1 := .of_kept ((State.onAon_kept _ _).trans (State.runToMono_kept _ _))
    clear_value s1
    split
    · exact ⟨_, rfl, h1.trans (s1.wiped_starts.trans ((Starts.of_kept (State.onAon_kept _ _)).trans (State.startUp_starts _ _)))⟩
    split
    · exact ⟨_, rfl, h1.trans (.of_kept (State.onAon_kept _ _))⟩
    · exact ⟨_, rfl, h1⟩
end Sys2Proof.Machine
end

