-- ==== Sys2Proof/Laws/State.lean ====
section
/-! SUPPORT. What each update of the state leaves and makes of each of its fields: one lemma per field. -/
namespace Sys2Proof.Machine
namespace State

variable (s : State)

/-! ### onHif -/
@[simp] theorem onHif_pending (f : Hif → Hif) : (s.onHif f).pending = s.pending := rfl
@[simp] theorem onHif_regs (f : Hif → Hif) : (s.onHif f).regs = s.regs := rfl
@[simp] theorem onHif_isSealed (f : Hif → Hif) : (s.onHif f).isSealed = s.isSealed := rfl
@[simp] theorem onHif_latched (f : Hif → Hif) : (s.onHif f).latched = s.latched := rfl
@[simp] theorem onHif_readData (f : Hif → Hif) : (s.onHif f).readData = s.readData := rfl
@[simp] theorem onHif_free (f : Hif → Hif) : (s.onHif f).free = s.free := rfl
@[simp] theorem onHif_hif (f : Hif → Hif) : (s.onHif f).hif = f s.hif := rfl
@[simp] theorem onHif_evr (f : Hif → Hif) : (s.onHif f).evr = s.evr := rfl
@[simp] theorem onHif_tim (f : Hif → Hif) : (s.onHif f).tim = s.tim := rfl
@[simp] theorem onHif_tck (f : Hif → Hif) : (s.onHif f).tck = s.tck := rfl
@[simp] theorem onHif_sch (f : Hif → Hif) : (s.onHif f).sch = s.sch := rfl
@[simp] theorem onHif_nvm (f : Hif → Hif) : (s.onHif f).nvm = s.nvm := rfl
@[simp] theorem onHif_aon (f : Hif → Hif) : (s.onHif f).aon = s.aon := rfl
@[simp] theorem onHif_sec (f : Hif → Hif) : (s.onHif f).sec = s.sec := rfl
@[simp] theorem onHif_clk (f : Hif → Hif) : (s.onHif f).clk = s.clk := rfl
@[simp] theorem onHif_pwr (f : Hif → Hif) : (s.onHif f).pwr = s.pwr := rfl
@[simp] theorem onHif_sys (f : Hif → Hif) : (s.onHif f).sys = s.sys := rfl
@[simp] theorem onHif_gzl (f : Hif → Hif) : (s.onHif f).gzl = s.gzl := rfl
@[simp] theorem onHif_prt (f : Hif → Hif) : (s.onHif f).prt = s.prt := rfl
@[simp] theorem onHif_hdg (f : Hif → Hif) : (s.onHif f).hdg = s.hdg := rfl
@[simp] theorem onHif_bsn (f : Hif → Hif) : (s.onHif f).bsn = s.bsn := rfl
@[simp] theorem onHif_mod (f : Hif → Hif) : (s.onHif f).mod = s.mod := rfl
@[simp] theorem onHif_top (f : Hif → Hif) : (s.onHif f).top = s.top := rfl
@[simp] theorem onHif_alm (f : Hif → Hif) : (s.onHif f).alm = s.alm := rfl
@[simp] theorem onHif_prd (f : Hif → Hif) : (s.onHif f).prd = s.prd := rfl
@[simp] theorem onHif_arc (f : Hif → Hif) : (s.onHif f).arc = s.arc := rfl
@[simp] theorem onHif_lmu (f : Hif → Hif) : (s.onHif f).lmu = s.lmu := rfl
@[simp] theorem onHif_nrg (f : Hif → Hif) : (s.onHif f).nrg = s.nrg := rfl
@[simp] theorem onHif_cap (f : Hif → Hif) : (s.onHif f).cap = s.cap := rfl
@[simp] theorem onHif_dpx (f : Hif → Hif) : (s.onHif f).dpx = s.dpx := rfl
@[simp] theorem onHif_jtag (f : Hif → Hif) : (s.onHif f).jtag = s.jtag := rfl

/-! ### onEvr -/
@[simp] theorem onEvr_pending (f : Evr → Evr) : (s.onEvr f).pending = s.pending := rfl
@[simp] theorem onEvr_regs (f : Evr → Evr) : (s.onEvr f).regs = s.regs := rfl
@[simp] theorem onEvr_isSealed (f : Evr → Evr) : (s.onEvr f).isSealed = s.isSealed := rfl
@[simp] theorem onEvr_latched (f : Evr → Evr) : (s.onEvr f).latched = s.latched := rfl
@[simp] theorem onEvr_readData (f : Evr → Evr) : (s.onEvr f).readData = s.readData := rfl
@[simp] theorem onEvr_free (f : Evr → Evr) : (s.onEvr f).free = s.free := rfl
@[simp] theorem onEvr_hif (f : Evr → Evr) : (s.onEvr f).hif = s.hif := rfl
@[simp] theorem onEvr_evr (f : Evr → Evr) : (s.onEvr f).evr = f s.evr := rfl
@[simp] theorem onEvr_tim (f : Evr → Evr) : (s.onEvr f).tim = s.tim := rfl
@[simp] theorem onEvr_tck (f : Evr → Evr) : (s.onEvr f).tck = s.tck := rfl
@[simp] theorem onEvr_sch (f : Evr → Evr) : (s.onEvr f).sch = s.sch := rfl
@[simp] theorem onEvr_nvm (f : Evr → Evr) : (s.onEvr f).nvm = s.nvm := rfl
@[simp] theorem onEvr_aon (f : Evr → Evr) : (s.onEvr f).aon = s.aon := rfl
@[simp] theorem onEvr_sec (f : Evr → Evr) : (s.onEvr f).sec = s.sec := rfl
@[simp] theorem onEvr_clk (f : Evr → Evr) : (s.onEvr f).clk = s.clk := rfl
@[simp] theorem onEvr_pwr (f : Evr → Evr) : (s.onEvr f).pwr = s.pwr := rfl
@[simp] theorem onEvr_sys (f : Evr → Evr) : (s.onEvr f).sys = s.sys := rfl
@[simp] theorem onEvr_gzl (f : Evr → Evr) : (s.onEvr f).gzl = s.gzl := rfl
@[simp] theorem onEvr_prt (f : Evr → Evr) : (s.onEvr f).prt = s.prt := rfl
@[simp] theorem onEvr_hdg (f : Evr → Evr) : (s.onEvr f).hdg = s.hdg := rfl
@[simp] theorem onEvr_bsn (f : Evr → Evr) : (s.onEvr f).bsn = s.bsn := rfl
@[simp] theorem onEvr_mod (f : Evr → Evr) : (s.onEvr f).mod = s.mod := rfl
@[simp] theorem onEvr_top (f : Evr → Evr) : (s.onEvr f).top = s.top := rfl
@[simp] theorem onEvr_alm (f : Evr → Evr) : (s.onEvr f).alm = s.alm := rfl
@[simp] theorem onEvr_prd (f : Evr → Evr) : (s.onEvr f).prd = s.prd := rfl
@[simp] theorem onEvr_arc (f : Evr → Evr) : (s.onEvr f).arc = s.arc := rfl
@[simp] theorem onEvr_lmu (f : Evr → Evr) : (s.onEvr f).lmu = s.lmu := rfl
@[simp] theorem onEvr_nrg (f : Evr → Evr) : (s.onEvr f).nrg = s.nrg := rfl
@[simp] theorem onEvr_cap (f : Evr → Evr) : (s.onEvr f).cap = s.cap := rfl
@[simp] theorem onEvr_dpx (f : Evr → Evr) : (s.onEvr f).dpx = s.dpx := rfl
@[simp] theorem onEvr_jtag (f : Evr → Evr) : (s.onEvr f).jtag = s.jtag := rfl

/-! ### onTim -/
@[simp] theorem onTim_pending (f : Tim → Tim) : (s.onTim f).pending = s.pending := rfl
@[simp] theorem onTim_regs (f : Tim → Tim) : (s.onTim f).regs = s.regs := rfl
@[simp] theorem onTim_isSealed (f : Tim → Tim) : (s.onTim f).isSealed = s.isSealed := rfl
@[simp] theorem onTim_latched (f : Tim → Tim) : (s.onTim f).latched = s.latched := rfl
@[simp] theorem onTim_readData (f : Tim → Tim) : (s.onTim f).readData = s.readData := rfl
@[simp] theorem onTim_free (f : Tim → Tim) : (s.onTim f).free = s.free := rfl
@[simp] theorem onTim_hif (f : Tim → Tim) : (s.onTim f).hif = s.hif := rfl
@[simp] theorem onTim_evr (f : Tim → Tim) : (s.onTim f).evr = s.evr := rfl
@[simp] theorem onTim_tim (f : Tim → Tim) : (s.onTim f).tim = f s.tim := rfl
@[simp] theorem onTim_tck (f : Tim → Tim) : (s.onTim f).tck = s.tck := rfl
@[simp] theorem onTim_sch (f : Tim → Tim) : (s.onTim f).sch = s.sch := rfl
@[simp] theorem onTim_nvm (f : Tim → Tim) : (s.onTim f).nvm = s.nvm := rfl
@[simp] theorem onTim_aon (f : Tim → Tim) : (s.onTim f).aon = s.aon := rfl
@[simp] theorem onTim_sec (f : Tim → Tim) : (s.onTim f).sec = s.sec := rfl
@[simp] theorem onTim_clk (f : Tim → Tim) : (s.onTim f).clk = s.clk := rfl
@[simp] theorem onTim_pwr (f : Tim → Tim) : (s.onTim f).pwr = s.pwr := rfl
@[simp] theorem onTim_sys (f : Tim → Tim) : (s.onTim f).sys = s.sys := rfl
@[simp] theorem onTim_gzl (f : Tim → Tim) : (s.onTim f).gzl = s.gzl := rfl
@[simp] theorem onTim_prt (f : Tim → Tim) : (s.onTim f).prt = s.prt := rfl
@[simp] theorem onTim_hdg (f : Tim → Tim) : (s.onTim f).hdg = s.hdg := rfl
@[simp] theorem onTim_bsn (f : Tim → Tim) : (s.onTim f).bsn = s.bsn := rfl
@[simp] theorem onTim_mod (f : Tim → Tim) : (s.onTim f).mod = s.mod := rfl
@[simp] theorem onTim_top (f : Tim → Tim) : (s.onTim f).top = s.top := rfl
@[simp] theorem onTim_alm (f : Tim → Tim) : (s.onTim f).alm = s.alm := rfl
@[simp] theorem onTim_prd (f : Tim → Tim) : (s.onTim f).prd = s.prd := rfl
@[simp] theorem onTim_arc (f : Tim → Tim) : (s.onTim f).arc = s.arc := rfl
@[simp] theorem onTim_lmu (f : Tim → Tim) : (s.onTim f).lmu = s.lmu := rfl
@[simp] theorem onTim_nrg (f : Tim → Tim) : (s.onTim f).nrg = s.nrg := rfl
@[simp] theorem onTim_cap (f : Tim → Tim) : (s.onTim f).cap = s.cap := rfl
@[simp] theorem onTim_dpx (f : Tim → Tim) : (s.onTim f).dpx = s.dpx := rfl
@[simp] theorem onTim_jtag (f : Tim → Tim) : (s.onTim f).jtag = s.jtag := rfl

/-! ### onTck -/
@[simp] theorem onTck_pending (f : Tck → Tck) : (s.onTck f).pending = s.pending := rfl
@[simp] theorem onTck_regs (f : Tck → Tck) : (s.onTck f).regs = s.regs := rfl
@[simp] theorem onTck_isSealed (f : Tck → Tck) : (s.onTck f).isSealed = s.isSealed := rfl
@[simp] theorem onTck_latched (f : Tck → Tck) : (s.onTck f).latched = s.latched := rfl
@[simp] theorem onTck_readData (f : Tck → Tck) : (s.onTck f).readData = s.readData := rfl
@[simp] theorem onTck_free (f : Tck → Tck) : (s.onTck f).free = s.free := rfl
@[simp] theorem onTck_hif (f : Tck → Tck) : (s.onTck f).hif = s.hif := rfl
@[simp] theorem onTck_evr (f : Tck → Tck) : (s.onTck f).evr = s.evr := rfl
@[simp] theorem onTck_tim (f : Tck → Tck) : (s.onTck f).tim = s.tim := rfl
@[simp] theorem onTck_tck (f : Tck → Tck) : (s.onTck f).tck = f s.tck := rfl
@[simp] theorem onTck_sch (f : Tck → Tck) : (s.onTck f).sch = s.sch := rfl
@[simp] theorem onTck_nvm (f : Tck → Tck) : (s.onTck f).nvm = s.nvm := rfl
@[simp] theorem onTck_aon (f : Tck → Tck) : (s.onTck f).aon = s.aon := rfl
@[simp] theorem onTck_sec (f : Tck → Tck) : (s.onTck f).sec = s.sec := rfl
@[simp] theorem onTck_clk (f : Tck → Tck) : (s.onTck f).clk = s.clk := rfl
@[simp] theorem onTck_pwr (f : Tck → Tck) : (s.onTck f).pwr = s.pwr := rfl
@[simp] theorem onTck_sys (f : Tck → Tck) : (s.onTck f).sys = s.sys := rfl
@[simp] theorem onTck_gzl (f : Tck → Tck) : (s.onTck f).gzl = s.gzl := rfl
@[simp] theorem onTck_prt (f : Tck → Tck) : (s.onTck f).prt = s.prt := rfl
@[simp] theorem onTck_hdg (f : Tck → Tck) : (s.onTck f).hdg = s.hdg := rfl
@[simp] theorem onTck_bsn (f : Tck → Tck) : (s.onTck f).bsn = s.bsn := rfl
@[simp] theorem onTck_mod (f : Tck → Tck) : (s.onTck f).mod = s.mod := rfl
@[simp] theorem onTck_top (f : Tck → Tck) : (s.onTck f).top = s.top := rfl
@[simp] theorem onTck_alm (f : Tck → Tck) : (s.onTck f).alm = s.alm := rfl
@[simp] theorem onTck_prd (f : Tck → Tck) : (s.onTck f).prd = s.prd := rfl
@[simp] theorem onTck_arc (f : Tck → Tck) : (s.onTck f).arc = s.arc := rfl
@[simp] theorem onTck_lmu (f : Tck → Tck) : (s.onTck f).lmu = s.lmu := rfl
@[simp] theorem onTck_nrg (f : Tck → Tck) : (s.onTck f).nrg = s.nrg := rfl
@[simp] theorem onTck_cap (f : Tck → Tck) : (s.onTck f).cap = s.cap := rfl
@[simp] theorem onTck_dpx (f : Tck → Tck) : (s.onTck f).dpx = s.dpx := rfl
@[simp] theorem onTck_jtag (f : Tck → Tck) : (s.onTck f).jtag = s.jtag := rfl

/-! ### onSch -/
@[simp] theorem onSch_pending (f : Sch → Sch) : (s.onSch f).pending = s.pending := rfl
@[simp] theorem onSch_regs (f : Sch → Sch) : (s.onSch f).regs = s.regs := rfl
@[simp] theorem onSch_isSealed (f : Sch → Sch) : (s.onSch f).isSealed = s.isSealed := rfl
@[simp] theorem onSch_latched (f : Sch → Sch) : (s.onSch f).latched = s.latched := rfl
@[simp] theorem onSch_readData (f : Sch → Sch) : (s.onSch f).readData = s.readData := rfl
@[simp] theorem onSch_free (f : Sch → Sch) : (s.onSch f).free = s.free := rfl
@[simp] theorem onSch_hif (f : Sch → Sch) : (s.onSch f).hif = s.hif := rfl
@[simp] theorem onSch_evr (f : Sch → Sch) : (s.onSch f).evr = s.evr := rfl
@[simp] theorem onSch_tim (f : Sch → Sch) : (s.onSch f).tim = s.tim := rfl
@[simp] theorem onSch_tck (f : Sch → Sch) : (s.onSch f).tck = s.tck := rfl
@[simp] theorem onSch_sch (f : Sch → Sch) : (s.onSch f).sch = f s.sch := rfl
@[simp] theorem onSch_nvm (f : Sch → Sch) : (s.onSch f).nvm = s.nvm := rfl
@[simp] theorem onSch_aon (f : Sch → Sch) : (s.onSch f).aon = s.aon := rfl
@[simp] theorem onSch_sec (f : Sch → Sch) : (s.onSch f).sec = s.sec := rfl
@[simp] theorem onSch_clk (f : Sch → Sch) : (s.onSch f).clk = s.clk := rfl
@[simp] theorem onSch_pwr (f : Sch → Sch) : (s.onSch f).pwr = s.pwr := rfl
@[simp] theorem onSch_sys (f : Sch → Sch) : (s.onSch f).sys = s.sys := rfl
@[simp] theorem onSch_gzl (f : Sch → Sch) : (s.onSch f).gzl = s.gzl := rfl
@[simp] theorem onSch_prt (f : Sch → Sch) : (s.onSch f).prt = s.prt := rfl
@[simp] theorem onSch_hdg (f : Sch → Sch) : (s.onSch f).hdg = s.hdg := rfl
@[simp] theorem onSch_bsn (f : Sch → Sch) : (s.onSch f).bsn = s.bsn := rfl
@[simp] theorem onSch_mod (f : Sch → Sch) : (s.onSch f).mod = s.mod := rfl
@[simp] theorem onSch_top (f : Sch → Sch) : (s.onSch f).top = s.top := rfl
@[simp] theorem onSch_alm (f : Sch → Sch) : (s.onSch f).alm = s.alm := rfl
@[simp] theorem onSch_prd (f : Sch → Sch) : (s.onSch f).prd = s.prd := rfl
@[simp] theorem onSch_arc (f : Sch → Sch) : (s.onSch f).arc = s.arc := rfl
@[simp] theorem onSch_lmu (f : Sch → Sch) : (s.onSch f).lmu = s.lmu := rfl
@[simp] theorem onSch_nrg (f : Sch → Sch) : (s.onSch f).nrg = s.nrg := rfl
@[simp] theorem onSch_cap (f : Sch → Sch) : (s.onSch f).cap = s.cap := rfl
@[simp] theorem onSch_dpx (f : Sch → Sch) : (s.onSch f).dpx = s.dpx := rfl
@[simp] theorem onSch_jtag (f : Sch → Sch) : (s.onSch f).jtag = s.jtag := rfl

/-! ### onNvm -/
@[simp] theorem onNvm_pending (f : Nvm → Nvm) : (s.onNvm f).pending = s.pending := rfl
@[simp] theorem onNvm_regs (f : Nvm → Nvm) : (s.onNvm f).regs = s.regs := rfl
@[simp] theorem onNvm_isSealed (f : Nvm → Nvm) : (s.onNvm f).isSealed = s.isSealed := rfl
@[simp] theorem onNvm_latched (f : Nvm → Nvm) : (s.onNvm f).latched = s.latched := rfl
@[simp] theorem onNvm_readData (f : Nvm → Nvm) : (s.onNvm f).readData = s.readData := rfl
@[simp] theorem onNvm_free (f : Nvm → Nvm) : (s.onNvm f).free = s.free := rfl
@[simp] theorem onNvm_hif (f : Nvm → Nvm) : (s.onNvm f).hif = s.hif := rfl
@[simp] theorem onNvm_evr (f : Nvm → Nvm) : (s.onNvm f).evr = s.evr := rfl
@[simp] theorem onNvm_tim (f : Nvm → Nvm) : (s.onNvm f).tim = s.tim := rfl
@[simp] theorem onNvm_tck (f : Nvm → Nvm) : (s.onNvm f).tck = s.tck := rfl
@[simp] theorem onNvm_sch (f : Nvm → Nvm) : (s.onNvm f).sch = s.sch := rfl
@[simp] theorem onNvm_nvm (f : Nvm → Nvm) : (s.onNvm f).nvm = f s.nvm := rfl
@[simp] theorem onNvm_aon (f : Nvm → Nvm) : (s.onNvm f).aon = s.aon := rfl
@[simp] theorem onNvm_sec (f : Nvm → Nvm) : (s.onNvm f).sec = s.sec := rfl
@[simp] theorem onNvm_clk (f : Nvm → Nvm) : (s.onNvm f).clk = s.clk := rfl
@[simp] theorem onNvm_pwr (f : Nvm → Nvm) : (s.onNvm f).pwr = s.pwr := rfl
@[simp] theorem onNvm_sys (f : Nvm → Nvm) : (s.onNvm f).sys = s.sys := rfl
@[simp] theorem onNvm_gzl (f : Nvm → Nvm) : (s.onNvm f).gzl = s.gzl := rfl
@[simp] theorem onNvm_prt (f : Nvm → Nvm) : (s.onNvm f).prt = s.prt := rfl
@[simp] theorem onNvm_hdg (f : Nvm → Nvm) : (s.onNvm f).hdg = s.hdg := rfl
@[simp] theorem onNvm_bsn (f : Nvm → Nvm) : (s.onNvm f).bsn = s.bsn := rfl
@[simp] theorem onNvm_mod (f : Nvm → Nvm) : (s.onNvm f).mod = s.mod := rfl
@[simp] theorem onNvm_top (f : Nvm → Nvm) : (s.onNvm f).top = s.top := rfl
@[simp] theorem onNvm_alm (f : Nvm → Nvm) : (s.onNvm f).alm = s.alm := rfl
@[simp] theorem onNvm_prd (f : Nvm → Nvm) : (s.onNvm f).prd = s.prd := rfl
@[simp] theorem onNvm_arc (f : Nvm → Nvm) : (s.onNvm f).arc = s.arc := rfl
@[simp] theorem onNvm_lmu (f : Nvm → Nvm) : (s.onNvm f).lmu = s.lmu := rfl
@[simp] theorem onNvm_nrg (f : Nvm → Nvm) : (s.onNvm f).nrg = s.nrg := rfl
@[simp] theorem onNvm_cap (f : Nvm → Nvm) : (s.onNvm f).cap = s.cap := rfl
@[simp] theorem onNvm_dpx (f : Nvm → Nvm) : (s.onNvm f).dpx = s.dpx := rfl
@[simp] theorem onNvm_jtag (f : Nvm → Nvm) : (s.onNvm f).jtag = s.jtag := rfl

/-! ### onAon -/
@[simp] theorem onAon_pending (f : Aon → Aon) : (s.onAon f).pending = s.pending := rfl
@[simp] theorem onAon_regs (f : Aon → Aon) : (s.onAon f).regs = s.regs := rfl
@[simp] theorem onAon_isSealed (f : Aon → Aon) : (s.onAon f).isSealed = s.isSealed := rfl
@[simp] theorem onAon_latched (f : Aon → Aon) : (s.onAon f).latched = s.latched := rfl
@[simp] theorem onAon_readData (f : Aon → Aon) : (s.onAon f).readData = s.readData := rfl
@[simp] theorem onAon_free (f : Aon → Aon) : (s.onAon f).free = s.free := rfl
@[simp] theorem onAon_hif (f : Aon → Aon) : (s.onAon f).hif = s.hif := rfl
@[simp] theorem onAon_evr (f : Aon → Aon) : (s.onAon f).evr = s.evr := rfl
@[simp] theorem onAon_tim (f : Aon → Aon) : (s.onAon f).tim = s.tim := rfl
@[simp] theorem onAon_tck (f : Aon → Aon) : (s.onAon f).tck = s.tck := rfl
@[simp] theorem onAon_sch (f : Aon → Aon) : (s.onAon f).sch = s.sch := rfl
@[simp] theorem onAon_nvm (f : Aon → Aon) : (s.onAon f).nvm = s.nvm := rfl
@[simp] theorem onAon_aon (f : Aon → Aon) : (s.onAon f).aon = f s.aon := rfl
@[simp] theorem onAon_sec (f : Aon → Aon) : (s.onAon f).sec = s.sec := rfl
@[simp] theorem onAon_clk (f : Aon → Aon) : (s.onAon f).clk = s.clk := rfl
@[simp] theorem onAon_pwr (f : Aon → Aon) : (s.onAon f).pwr = s.pwr := rfl
@[simp] theorem onAon_sys (f : Aon → Aon) : (s.onAon f).sys = s.sys := rfl
@[simp] theorem onAon_gzl (f : Aon → Aon) : (s.onAon f).gzl = s.gzl := rfl
@[simp] theorem onAon_prt (f : Aon → Aon) : (s.onAon f).prt = s.prt := rfl
@[simp] theorem onAon_hdg (f : Aon → Aon) : (s.onAon f).hdg = s.hdg := rfl
@[simp] theorem onAon_bsn (f : Aon → Aon) : (s.onAon f).bsn = s.bsn := rfl
@[simp] theorem onAon_mod (f : Aon → Aon) : (s.onAon f).mod = s.mod := rfl
@[simp] theorem onAon_top (f : Aon → Aon) : (s.onAon f).top = s.top := rfl
@[simp] theorem onAon_alm (f : Aon → Aon) : (s.onAon f).alm = s.alm := rfl
@[simp] theorem onAon_prd (f : Aon → Aon) : (s.onAon f).prd = s.prd := rfl
@[simp] theorem onAon_arc (f : Aon → Aon) : (s.onAon f).arc = s.arc := rfl
@[simp] theorem onAon_lmu (f : Aon → Aon) : (s.onAon f).lmu = s.lmu := rfl
@[simp] theorem onAon_nrg (f : Aon → Aon) : (s.onAon f).nrg = s.nrg := rfl
@[simp] theorem onAon_cap (f : Aon → Aon) : (s.onAon f).cap = s.cap := rfl
@[simp] theorem onAon_dpx (f : Aon → Aon) : (s.onAon f).dpx = s.dpx := rfl
@[simp] theorem onAon_jtag (f : Aon → Aon) : (s.onAon f).jtag = s.jtag := rfl

/-! ### onSec -/
@[simp] theorem onSec_pending (f : Sec → Sec) : (s.onSec f).pending = s.pending := rfl
@[simp] theorem onSec_regs (f : Sec → Sec) : (s.onSec f).regs = s.regs := rfl
@[simp] theorem onSec_isSealed (f : Sec → Sec) : (s.onSec f).isSealed = s.isSealed := rfl
@[simp] theorem onSec_latched (f : Sec → Sec) : (s.onSec f).latched = s.latched := rfl
@[simp] theorem onSec_readData (f : Sec → Sec) : (s.onSec f).readData = s.readData := rfl
@[simp] theorem onSec_free (f : Sec → Sec) : (s.onSec f).free = s.free := rfl
@[simp] theorem onSec_hif (f : Sec → Sec) : (s.onSec f).hif = s.hif := rfl
@[simp] theorem onSec_evr (f : Sec → Sec) : (s.onSec f).evr = s.evr := rfl
@[simp] theorem onSec_tim (f : Sec → Sec) : (s.onSec f).tim = s.tim := rfl
@[simp] theorem onSec_tck (f : Sec → Sec) : (s.onSec f).tck = s.tck := rfl
@[simp] theorem onSec_sch (f : Sec → Sec) : (s.onSec f).sch = s.sch := rfl
@[simp] theorem onSec_nvm (f : Sec → Sec) : (s.onSec f).nvm = s.nvm := rfl
@[simp] theorem onSec_aon (f : Sec → Sec) : (s.onSec f).aon = s.aon := rfl
@[simp] theorem onSec_sec (f : Sec → Sec) : (s.onSec f).sec = f s.sec := rfl
@[simp] theorem onSec_clk (f : Sec → Sec) : (s.onSec f).clk = s.clk := rfl
@[simp] theorem onSec_pwr (f : Sec → Sec) : (s.onSec f).pwr = s.pwr := rfl
@[simp] theorem onSec_sys (f : Sec → Sec) : (s.onSec f).sys = s.sys := rfl
@[simp] theorem onSec_gzl (f : Sec → Sec) : (s.onSec f).gzl = s.gzl := rfl
@[simp] theorem onSec_prt (f : Sec → Sec) : (s.onSec f).prt = s.prt := rfl
@[simp] theorem onSec_hdg (f : Sec → Sec) : (s.onSec f).hdg = s.hdg := rfl
@[simp] theorem onSec_bsn (f : Sec → Sec) : (s.onSec f).bsn = s.bsn := rfl
@[simp] theorem onSec_mod (f : Sec → Sec) : (s.onSec f).mod = s.mod := rfl
@[simp] theorem onSec_top (f : Sec → Sec) : (s.onSec f).top = s.top := rfl
@[simp] theorem onSec_alm (f : Sec → Sec) : (s.onSec f).alm = s.alm := rfl
@[simp] theorem onSec_prd (f : Sec → Sec) : (s.onSec f).prd = s.prd := rfl
@[simp] theorem onSec_arc (f : Sec → Sec) : (s.onSec f).arc = s.arc := rfl
@[simp] theorem onSec_lmu (f : Sec → Sec) : (s.onSec f).lmu = s.lmu := rfl
@[simp] theorem onSec_nrg (f : Sec → Sec) : (s.onSec f).nrg = s.nrg := rfl
@[simp] theorem onSec_cap (f : Sec → Sec) : (s.onSec f).cap = s.cap := rfl
@[simp] theorem onSec_dpx (f : Sec → Sec) : (s.onSec f).dpx = s.dpx := rfl
@[simp] theorem onSec_jtag (f : Sec → Sec) : (s.onSec f).jtag = s.jtag := rfl

/-! ### onClk -/
@[simp] theorem onClk_pending (f : Clk → Clk) : (s.onClk f).pending = s.pending := rfl
@[simp] theorem onClk_regs (f : Clk → Clk) : (s.onClk f).regs = s.regs := rfl
@[simp] theorem onClk_isSealed (f : Clk → Clk) : (s.onClk f).isSealed = s.isSealed := rfl
@[simp] theorem onClk_latched (f : Clk → Clk) : (s.onClk f).latched = s.latched := rfl
@[simp] theorem onClk_readData (f : Clk → Clk) : (s.onClk f).readData = s.readData := rfl
@[simp] theorem onClk_free (f : Clk → Clk) : (s.onClk f).free = s.free := rfl
@[simp] theorem onClk_hif (f : Clk → Clk) : (s.onClk f).hif = s.hif := rfl
@[simp] theorem onClk_evr (f : Clk → Clk) : (s.onClk f).evr = s.evr := rfl
@[simp] theorem onClk_tim (f : Clk → Clk) : (s.onClk f).tim = s.tim := rfl
@[simp] theorem onClk_tck (f : Clk → Clk) : (s.onClk f).tck = s.tck := rfl
@[simp] theorem onClk_sch (f : Clk → Clk) : (s.onClk f).sch = s.sch := rfl
@[simp] theorem onClk_nvm (f : Clk → Clk) : (s.onClk f).nvm = s.nvm := rfl
@[simp] theorem onClk_aon (f : Clk → Clk) : (s.onClk f).aon = s.aon := rfl
@[simp] theorem onClk_sec (f : Clk → Clk) : (s.onClk f).sec = s.sec := rfl
@[simp] theorem onClk_clk (f : Clk → Clk) : (s.onClk f).clk = f s.clk := rfl
@[simp] theorem onClk_pwr (f : Clk → Clk) : (s.onClk f).pwr = s.pwr := rfl
@[simp] theorem onClk_sys (f : Clk → Clk) : (s.onClk f).sys = s.sys := rfl
@[simp] theorem onClk_gzl (f : Clk → Clk) : (s.onClk f).gzl = s.gzl := rfl
@[simp] theorem onClk_prt (f : Clk → Clk) : (s.onClk f).prt = s.prt := rfl
@[simp] theorem onClk_hdg (f : Clk → Clk) : (s.onClk f).hdg = s.hdg := rfl
@[simp] theorem onClk_bsn (f : Clk → Clk) : (s.onClk f).bsn = s.bsn := rfl
@[simp] theorem onClk_mod (f : Clk → Clk) : (s.onClk f).mod = s.mod := rfl
@[simp] theorem onClk_top (f : Clk → Clk) : (s.onClk f).top = s.top := rfl
@[simp] theorem onClk_alm (f : Clk → Clk) : (s.onClk f).alm = s.alm := rfl
@[simp] theorem onClk_prd (f : Clk → Clk) : (s.onClk f).prd = s.prd := rfl
@[simp] theorem onClk_arc (f : Clk → Clk) : (s.onClk f).arc = s.arc := rfl
@[simp] theorem onClk_lmu (f : Clk → Clk) : (s.onClk f).lmu = s.lmu := rfl
@[simp] theorem onClk_nrg (f : Clk → Clk) : (s.onClk f).nrg = s.nrg := rfl
@[simp] theorem onClk_cap (f : Clk → Clk) : (s.onClk f).cap = s.cap := rfl
@[simp] theorem onClk_dpx (f : Clk → Clk) : (s.onClk f).dpx = s.dpx := rfl
@[simp] theorem onClk_jtag (f : Clk → Clk) : (s.onClk f).jtag = s.jtag := rfl

/-! ### onPwr -/
@[simp] theorem onPwr_pending (f : Pwr → Pwr) : (s.onPwr f).pending = s.pending := rfl
@[simp] theorem onPwr_regs (f : Pwr → Pwr) : (s.onPwr f).regs = s.regs := rfl
@[simp] theorem onPwr_isSealed (f : Pwr → Pwr) : (s.onPwr f).isSealed = s.isSealed := rfl
@[simp] theorem onPwr_latched (f : Pwr → Pwr) : (s.onPwr f).latched = s.latched := rfl
@[simp] theorem onPwr_readData (f : Pwr → Pwr) : (s.onPwr f).readData = s.readData := rfl
@[simp] theorem onPwr_free (f : Pwr → Pwr) : (s.onPwr f).free = s.free := rfl
@[simp] theorem onPwr_hif (f : Pwr → Pwr) : (s.onPwr f).hif = s.hif := rfl
@[simp] theorem onPwr_evr (f : Pwr → Pwr) : (s.onPwr f).evr = s.evr := rfl
@[simp] theorem onPwr_tim (f : Pwr → Pwr) : (s.onPwr f).tim = s.tim := rfl
@[simp] theorem onPwr_tck (f : Pwr → Pwr) : (s.onPwr f).tck = s.tck := rfl
@[simp] theorem onPwr_sch (f : Pwr → Pwr) : (s.onPwr f).sch = s.sch := rfl
@[simp] theorem onPwr_nvm (f : Pwr → Pwr) : (s.onPwr f).nvm = s.nvm := rfl
@[simp] theorem onPwr_aon (f : Pwr → Pwr) : (s.onPwr f).aon = s.aon := rfl
@[simp] theorem onPwr_sec (f : Pwr → Pwr) : (s.onPwr f).sec = s.sec := rfl
@[simp] theorem onPwr_clk (f : Pwr → Pwr) : (s.onPwr f).clk = s.clk := rfl
@[simp] theorem onPwr_pwr (f : Pwr → Pwr) : (s.onPwr f).pwr = f s.pwr := rfl
@[simp] theorem onPwr_sys (f : Pwr → Pwr) : (s.onPwr f).sys = s.sys := rfl
@[simp] theorem onPwr_gzl (f : Pwr → Pwr) : (s.onPwr f).gzl = s.gzl := rfl
@[simp] theorem onPwr_prt (f : Pwr → Pwr) : (s.onPwr f).prt = s.prt := rfl
@[simp] theorem onPwr_hdg (f : Pwr → Pwr) : (s.onPwr f).hdg = s.hdg := rfl
@[simp] theorem onPwr_bsn (f : Pwr → Pwr) : (s.onPwr f).bsn = s.bsn := rfl
@[simp] theorem onPwr_mod (f : Pwr → Pwr) : (s.onPwr f).mod = s.mod := rfl
@[simp] theorem onPwr_top (f : Pwr → Pwr) : (s.onPwr f).top = s.top := rfl
@[simp] theorem onPwr_alm (f : Pwr → Pwr) : (s.onPwr f).alm = s.alm := rfl
@[simp] theorem onPwr_prd (f : Pwr → Pwr) : (s.onPwr f).prd = s.prd := rfl
@[simp] theorem onPwr_arc (f : Pwr → Pwr) : (s.onPwr f).arc = s.arc := rfl
@[simp] theorem onPwr_lmu (f : Pwr → Pwr) : (s.onPwr f).lmu = s.lmu := rfl
@[simp] theorem onPwr_nrg (f : Pwr → Pwr) : (s.onPwr f).nrg = s.nrg := rfl
@[simp] theorem onPwr_cap (f : Pwr → Pwr) : (s.onPwr f).cap = s.cap := rfl
@[simp] theorem onPwr_dpx (f : Pwr → Pwr) : (s.onPwr f).dpx = s.dpx := rfl
@[simp] theorem onPwr_jtag (f : Pwr → Pwr) : (s.onPwr f).jtag = s.jtag := rfl

/-! ### onSys -/
@[simp] theorem onSys_pending (f : Sys → Sys) : (s.onSys f).pending = s.pending := rfl
@[simp] theorem onSys_regs (f : Sys → Sys) : (s.onSys f).regs = s.regs := rfl
@[simp] theorem onSys_isSealed (f : Sys → Sys) : (s.onSys f).isSealed = s.isSealed := rfl
@[simp] theorem onSys_latched (f : Sys → Sys) : (s.onSys f).latched = s.latched := rfl
@[simp] theorem onSys_readData (f : Sys → Sys) : (s.onSys f).readData = s.readData := rfl
@[simp] theorem onSys_free (f : Sys → Sys) : (s.onSys f).free = s.free := rfl
@[simp] theorem onSys_hif (f : Sys → Sys) : (s.onSys f).hif = s.hif := rfl
@[simp] theorem onSys_evr (f : Sys → Sys) : (s.onSys f).evr = s.evr := rfl
@[simp] theorem onSys_tim (f : Sys → Sys) : (s.onSys f).tim = s.tim := rfl
@[simp] theorem onSys_tck (f : Sys → Sys) : (s.onSys f).tck = s.tck := rfl
@[simp] theorem onSys_sch (f : Sys → Sys) : (s.onSys f).sch = s.sch := rfl
@[simp] theorem onSys_nvm (f : Sys → Sys) : (s.onSys f).nvm = s.nvm := rfl
@[simp] theorem onSys_aon (f : Sys → Sys) : (s.onSys f).aon = s.aon := rfl
@[simp] theorem onSys_sec (f : Sys → Sys) : (s.onSys f).sec = s.sec := rfl
@[simp] theorem onSys_clk (f : Sys → Sys) : (s.onSys f).clk = s.clk := rfl
@[simp] theorem onSys_pwr (f : Sys → Sys) : (s.onSys f).pwr = s.pwr := rfl
@[simp] theorem onSys_sys (f : Sys → Sys) : (s.onSys f).sys = f s.sys := rfl
@[simp] theorem onSys_gzl (f : Sys → Sys) : (s.onSys f).gzl = s.gzl := rfl
@[simp] theorem onSys_prt (f : Sys → Sys) : (s.onSys f).prt = s.prt := rfl
@[simp] theorem onSys_hdg (f : Sys → Sys) : (s.onSys f).hdg = s.hdg := rfl
@[simp] theorem onSys_bsn (f : Sys → Sys) : (s.onSys f).bsn = s.bsn := rfl
@[simp] theorem onSys_mod (f : Sys → Sys) : (s.onSys f).mod = s.mod := rfl
@[simp] theorem onSys_top (f : Sys → Sys) : (s.onSys f).top = s.top := rfl
@[simp] theorem onSys_alm (f : Sys → Sys) : (s.onSys f).alm = s.alm := rfl
@[simp] theorem onSys_prd (f : Sys → Sys) : (s.onSys f).prd = s.prd := rfl
@[simp] theorem onSys_arc (f : Sys → Sys) : (s.onSys f).arc = s.arc := rfl
@[simp] theorem onSys_lmu (f : Sys → Sys) : (s.onSys f).lmu = s.lmu := rfl
@[simp] theorem onSys_nrg (f : Sys → Sys) : (s.onSys f).nrg = s.nrg := rfl
@[simp] theorem onSys_cap (f : Sys → Sys) : (s.onSys f).cap = s.cap := rfl
@[simp] theorem onSys_dpx (f : Sys → Sys) : (s.onSys f).dpx = s.dpx := rfl
@[simp] theorem onSys_jtag (f : Sys → Sys) : (s.onSys f).jtag = s.jtag := rfl

/-! ### onGzl -/
@[simp] theorem onGzl_pending (f : Gzl → Gzl) : (s.onGzl f).pending = s.pending := rfl
@[simp] theorem onGzl_regs (f : Gzl → Gzl) : (s.onGzl f).regs = s.regs := rfl
@[simp] theorem onGzl_isSealed (f : Gzl → Gzl) : (s.onGzl f).isSealed = s.isSealed := rfl
@[simp] theorem onGzl_latched (f : Gzl → Gzl) : (s.onGzl f).latched = s.latched := rfl
@[simp] theorem onGzl_readData (f : Gzl → Gzl) : (s.onGzl f).readData = s.readData := rfl
@[simp] theorem onGzl_free (f : Gzl → Gzl) : (s.onGzl f).free = s.free := rfl
@[simp] theorem onGzl_hif (f : Gzl → Gzl) : (s.onGzl f).hif = s.hif := rfl
@[simp] theorem onGzl_evr (f : Gzl → Gzl) : (s.onGzl f).evr = s.evr := rfl
@[simp] theorem onGzl_tim (f : Gzl → Gzl) : (s.onGzl f).tim = s.tim := rfl
@[simp] theorem onGzl_tck (f : Gzl → Gzl) : (s.onGzl f).tck = s.tck := rfl
@[simp] theorem onGzl_sch (f : Gzl → Gzl) : (s.onGzl f).sch = s.sch := rfl
@[simp] theorem onGzl_nvm (f : Gzl → Gzl) : (s.onGzl f).nvm = s.nvm := rfl
@[simp] theorem onGzl_aon (f : Gzl → Gzl) : (s.onGzl f).aon = s.aon := rfl
@[simp] theorem onGzl_sec (f : Gzl → Gzl) : (s.onGzl f).sec = s.sec := rfl
@[simp] theorem onGzl_clk (f : Gzl → Gzl) : (s.onGzl f).clk = s.clk := rfl
@[simp] theorem onGzl_pwr (f : Gzl → Gzl) : (s.onGzl f).pwr = s.pwr := rfl
@[simp] theorem onGzl_sys (f : Gzl → Gzl) : (s.onGzl f).sys = s.sys := rfl
@[simp] theorem onGzl_gzl (f : Gzl → Gzl) : (s.onGzl f).gzl = f s.gzl := rfl
@[simp] theorem onGzl_prt (f : Gzl → Gzl) : (s.onGzl f).prt = s.prt := rfl
@[simp] theorem onGzl_hdg (f : Gzl → Gzl) : (s.onGzl f).hdg = s.hdg := rfl
@[simp] theorem onGzl_bsn (f : Gzl → Gzl) : (s.onGzl f).bsn = s.bsn := rfl
@[simp] theorem onGzl_mod (f : Gzl → Gzl) : (s.onGzl f).mod = s.mod := rfl
@[simp] theorem onGzl_top (f : Gzl → Gzl) : (s.onGzl f).top = s.top := rfl
@[simp] theorem onGzl_alm (f : Gzl → Gzl) : (s.onGzl f).alm = s.alm := rfl
@[simp] theorem onGzl_prd (f : Gzl → Gzl) : (s.onGzl f).prd = s.prd := rfl
@[simp] theorem onGzl_arc (f : Gzl → Gzl) : (s.onGzl f).arc = s.arc := rfl
@[simp] theorem onGzl_lmu (f : Gzl → Gzl) : (s.onGzl f).lmu = s.lmu := rfl
@[simp] theorem onGzl_nrg (f : Gzl → Gzl) : (s.onGzl f).nrg = s.nrg := rfl
@[simp] theorem onGzl_cap (f : Gzl → Gzl) : (s.onGzl f).cap = s.cap := rfl
@[simp] theorem onGzl_dpx (f : Gzl → Gzl) : (s.onGzl f).dpx = s.dpx := rfl
@[simp] theorem onGzl_jtag (f : Gzl → Gzl) : (s.onGzl f).jtag = s.jtag := rfl

/-! ### onPrt -/
@[simp] theorem onPrt_pending (f : Prt → Prt) : (s.onPrt f).pending = s.pending := rfl
@[simp] theorem onPrt_regs (f : Prt → Prt) : (s.onPrt f).regs = s.regs := rfl
@[simp] theorem onPrt_isSealed (f : Prt → Prt) : (s.onPrt f).isSealed = s.isSealed := rfl
@[simp] theorem onPrt_latched (f : Prt → Prt) : (s.onPrt f).latched = s.latched := rfl
@[simp] theorem onPrt_readData (f : Prt → Prt) : (s.onPrt f).readData = s.readData := rfl
@[simp] theorem onPrt_free (f : Prt → Prt) : (s.onPrt f).free = s.free := rfl
@[simp] theorem onPrt_hif (f : Prt → Prt) : (s.onPrt f).hif = s.hif := rfl
@[simp] theorem onPrt_evr (f : Prt → Prt) : (s.onPrt f).evr = s.evr := rfl
@[simp] theorem onPrt_tim (f : Prt → Prt) : (s.onPrt f).tim = s.tim := rfl
@[simp] theorem onPrt_tck (f : Prt → Prt) : (s.onPrt f).tck = s.tck := rfl
@[simp] theorem onPrt_sch (f : Prt → Prt) : (s.onPrt f).sch = s.sch := rfl
@[simp] theorem onPrt_nvm (f : Prt → Prt) : (s.onPrt f).nvm = s.nvm := rfl
@[simp] theorem onPrt_aon (f : Prt → Prt) : (s.onPrt f).aon = s.aon := rfl
@[simp] theorem onPrt_sec (f : Prt → Prt) : (s.onPrt f).sec = s.sec := rfl
@[simp] theorem onPrt_clk (f : Prt → Prt) : (s.onPrt f).clk = s.clk := rfl
@[simp] theorem onPrt_pwr (f : Prt → Prt) : (s.onPrt f).pwr = s.pwr := rfl
@[simp] theorem onPrt_sys (f : Prt → Prt) : (s.onPrt f).sys = s.sys := rfl
@[simp] theorem onPrt_gzl (f : Prt → Prt) : (s.onPrt f).gzl = s.gzl := rfl
@[simp] theorem onPrt_prt (f : Prt → Prt) : (s.onPrt f).prt = f s.prt := rfl
@[simp] theorem onPrt_hdg (f : Prt → Prt) : (s.onPrt f).hdg = s.hdg := rfl
@[simp] theorem onPrt_bsn (f : Prt → Prt) : (s.onPrt f).bsn = s.bsn := rfl
@[simp] theorem onPrt_mod (f : Prt → Prt) : (s.onPrt f).mod = s.mod := rfl
@[simp] theorem onPrt_top (f : Prt → Prt) : (s.onPrt f).top = s.top := rfl
@[simp] theorem onPrt_alm (f : Prt → Prt) : (s.onPrt f).alm = s.alm := rfl
@[simp] theorem onPrt_prd (f : Prt → Prt) : (s.onPrt f).prd = s.prd := rfl
@[simp] theorem onPrt_arc (f : Prt → Prt) : (s.onPrt f).arc = s.arc := rfl
@[simp] theorem onPrt_lmu (f : Prt → Prt) : (s.onPrt f).lmu = s.lmu := rfl
@[simp] theorem onPrt_nrg (f : Prt → Prt) : (s.onPrt f).nrg = s.nrg := rfl
@[simp] theorem onPrt_cap (f : Prt → Prt) : (s.onPrt f).cap = s.cap := rfl
@[simp] theorem onPrt_dpx (f : Prt → Prt) : (s.onPrt f).dpx = s.dpx := rfl
@[simp] theorem onPrt_jtag (f : Prt → Prt) : (s.onPrt f).jtag = s.jtag := rfl

/-! ### onHdg -/
@[simp] theorem onHdg_pending (f : Hdg → Hdg) : (s.onHdg f).pending = s.pending := rfl
@[simp] theorem onHdg_regs (f : Hdg → Hdg) : (s.onHdg f).regs = s.regs := rfl
@[simp] theorem onHdg_isSealed (f : Hdg → Hdg) : (s.onHdg f).isSealed = s.isSealed := rfl
@[simp] theorem onHdg_latched (f : Hdg → Hdg) : (s.onHdg f).latched = s.latched := rfl
@[simp] theorem onHdg_readData (f : Hdg → Hdg) : (s.onHdg f).readData = s.readData := rfl
@[simp] theorem onHdg_free (f : Hdg → Hdg) : (s.onHdg f).free = s.free := rfl
@[simp] theorem onHdg_hif (f : Hdg → Hdg) : (s.onHdg f).hif = s.hif := rfl
@[simp] theorem onHdg_evr (f : Hdg → Hdg) : (s.onHdg f).evr = s.evr := rfl
@[simp] theorem onHdg_tim (f : Hdg → Hdg) : (s.onHdg f).tim = s.tim := rfl
@[simp] theorem onHdg_tck (f : Hdg → Hdg) : (s.onHdg f).tck = s.tck := rfl
@[simp] theorem onHdg_sch (f : Hdg → Hdg) : (s.onHdg f).sch = s.sch := rfl
@[simp] theorem onHdg_nvm (f : Hdg → Hdg) : (s.onHdg f).nvm = s.nvm := rfl
@[simp] theorem onHdg_aon (f : Hdg → Hdg) : (s.onHdg f).aon = s.aon := rfl
@[simp] theorem onHdg_sec (f : Hdg → Hdg) : (s.onHdg f).sec = s.sec := rfl
@[simp] theorem onHdg_clk (f : Hdg → Hdg) : (s.onHdg f).clk = s.clk := rfl
@[simp] theorem onHdg_pwr (f : Hdg → Hdg) : (s.onHdg f).pwr = s.pwr := rfl
@[simp] theorem onHdg_sys (f : Hdg → Hdg) : (s.onHdg f).sys = s.sys := rfl
@[simp] theorem onHdg_gzl (f : Hdg → Hdg) : (s.onHdg f).gzl = s.gzl := rfl
@[simp] theorem onHdg_prt (f : Hdg → Hdg) : (s.onHdg f).prt = s.prt := rfl
@[simp] theorem onHdg_hdg (f : Hdg → Hdg) : (s.onHdg f).hdg = f s.hdg := rfl
@[simp] theorem onHdg_bsn (f : Hdg → Hdg) : (s.onHdg f).bsn = s.bsn := rfl
@[simp] theorem onHdg_mod (f : Hdg → Hdg) : (s.onHdg f).mod = s.mod := rfl
@[simp] theorem onHdg_top (f : Hdg → Hdg) : (s.onHdg f).top = s.top := rfl
@[simp] theorem onHdg_alm (f : Hdg → Hdg) : (s.onHdg f).alm = s.alm := rfl
@[simp] theorem onHdg_prd (f : Hdg → Hdg) : (s.onHdg f).prd = s.prd := rfl
@[simp] theorem onHdg_arc (f : Hdg → Hdg) : (s.onHdg f).arc = s.arc := rfl
@[simp] theorem onHdg_lmu (f : Hdg → Hdg) : (s.onHdg f).lmu = s.lmu := rfl
@[simp] theorem onHdg_nrg (f : Hdg → Hdg) : (s.onHdg f).nrg = s.nrg := rfl
@[simp] theorem onHdg_cap (f : Hdg → Hdg) : (s.onHdg f).cap = s.cap := rfl
@[simp] theorem onHdg_dpx (f : Hdg → Hdg) : (s.onHdg f).dpx = s.dpx := rfl
@[simp] theorem onHdg_jtag (f : Hdg → Hdg) : (s.onHdg f).jtag = s.jtag := rfl

/-! ### onBsn -/
@[simp] theorem onBsn_pending (f : Bsn → Bsn) : (s.onBsn f).pending = s.pending := rfl
@[simp] theorem onBsn_regs (f : Bsn → Bsn) : (s.onBsn f).regs = s.regs := rfl
@[simp] theorem onBsn_isSealed (f : Bsn → Bsn) : (s.onBsn f).isSealed = s.isSealed := rfl
@[simp] theorem onBsn_latched (f : Bsn → Bsn) : (s.onBsn f).latched = s.latched := rfl
@[simp] theorem onBsn_readData (f : Bsn → Bsn) : (s.onBsn f).readData = s.readData := rfl
@[simp] theorem onBsn_free (f : Bsn → Bsn) : (s.onBsn f).free = s.free := rfl
@[simp] theorem onBsn_hif (f : Bsn → Bsn) : (s.onBsn f).hif = s.hif := rfl
@[simp] theorem onBsn_evr (f : Bsn → Bsn) : (s.onBsn f).evr = s.evr := rfl
@[simp] theorem onBsn_tim (f : Bsn → Bsn) : (s.onBsn f).tim = s.tim := rfl
@[simp] theorem onBsn_tck (f : Bsn → Bsn) : (s.onBsn f).tck = s.tck := rfl
@[simp] theorem onBsn_sch (f : Bsn → Bsn) : (s.onBsn f).sch = s.sch := rfl
@[simp] theorem onBsn_nvm (f : Bsn → Bsn) : (s.onBsn f).nvm = s.nvm := rfl
@[simp] theorem onBsn_aon (f : Bsn → Bsn) : (s.onBsn f).aon = s.aon := rfl
@[simp] theorem onBsn_sec (f : Bsn → Bsn) : (s.onBsn f).sec = s.sec := rfl
@[simp] theorem onBsn_clk (f : Bsn → Bsn) : (s.onBsn f).clk = s.clk := rfl
@[simp] theorem onBsn_pwr (f : Bsn → Bsn) : (s.onBsn f).pwr = s.pwr := rfl
@[simp] theorem onBsn_sys (f : Bsn → Bsn) : (s.onBsn f).sys = s.sys := rfl
@[simp] theorem onBsn_gzl (f : Bsn → Bsn) : (s.onBsn f).gzl = s.gzl := rfl
@[simp] theorem onBsn_prt (f : Bsn → Bsn) : (s.onBsn f).prt = s.prt := rfl
@[simp] theorem onBsn_hdg (f : Bsn → Bsn) : (s.onBsn f).hdg = s.hdg := rfl
@[simp] theorem onBsn_bsn (f : Bsn → Bsn) : (s.onBsn f).bsn = f s.bsn := rfl
@[simp] theorem onBsn_mod (f : Bsn → Bsn) : (s.onBsn f).mod = s.mod := rfl
@[simp] theorem onBsn_top (f : Bsn → Bsn) : (s.onBsn f).top = s.top := rfl
@[simp] theorem onBsn_alm (f : Bsn → Bsn) : (s.onBsn f).alm = s.alm := rfl
@[simp] theorem onBsn_prd (f : Bsn → Bsn) : (s.onBsn f).prd = s.prd := rfl
@[simp] theorem onBsn_arc (f : Bsn → Bsn) : (s.onBsn f).arc = s.arc := rfl
@[simp] theorem onBsn_lmu (f : Bsn → Bsn) : (s.onBsn f).lmu = s.lmu := rfl
@[simp] theorem onBsn_nrg (f : Bsn → Bsn) : (s.onBsn f).nrg = s.nrg := rfl
@[simp] theorem onBsn_cap (f : Bsn → Bsn) : (s.onBsn f).cap = s.cap := rfl
@[simp] theorem onBsn_dpx (f : Bsn → Bsn) : (s.onBsn f).dpx = s.dpx := rfl
@[simp] theorem onBsn_jtag (f : Bsn → Bsn) : (s.onBsn f).jtag = s.jtag := rfl

/-! ### onMod -/
@[simp] theorem onMod_pending (f : Mod → Mod) : (s.onMod f).pending = s.pending := rfl
@[simp] theorem onMod_regs (f : Mod → Mod) : (s.onMod f).regs = s.regs := rfl
@[simp] theorem onMod_isSealed (f : Mod → Mod) : (s.onMod f).isSealed = s.isSealed := rfl
@[simp] theorem onMod_latched (f : Mod → Mod) : (s.onMod f).latched = s.latched := rfl
@[simp] theorem onMod_readData (f : Mod → Mod) : (s.onMod f).readData = s.readData := rfl
@[simp] theorem onMod_free (f : Mod → Mod) : (s.onMod f).free = s.free := rfl
@[simp] theorem onMod_hif (f : Mod → Mod) : (s.onMod f).hif = s.hif := rfl
@[simp] theorem onMod_evr (f : Mod → Mod) : (s.onMod f).evr = s.evr := rfl
@[simp] theorem onMod_tim (f : Mod → Mod) : (s.onMod f).tim = s.tim := rfl
@[simp] theorem onMod_tck (f : Mod → Mod) : (s.onMod f).tck = s.tck := rfl
@[simp] theorem onMod_sch (f : Mod → Mod) : (s.onMod f).sch = s.sch := rfl
@[simp] theorem onMod_nvm (f : Mod → Mod) : (s.onMod f).nvm = s.nvm := rfl
@[simp] theorem onMod_aon (f : Mod → Mod) : (s.onMod f).aon = s.aon := rfl
@[simp] theorem onMod_sec (f : Mod → Mod) : (s.onMod f).sec = s.sec := rfl
@[simp] theorem onMod_clk (f : Mod → Mod) : (s.onMod f).clk = s.clk := rfl
@[simp] theorem onMod_pwr (f : Mod → Mod) : (s.onMod f).pwr = s.pwr := rfl
@[simp] theorem onMod_sys (f : Mod → Mod) : (s.onMod f).sys = s.sys := rfl
@[simp] theorem onMod_gzl (f : Mod → Mod) : (s.onMod f).gzl = s.gzl := rfl
@[simp] theorem onMod_prt (f : Mod → Mod) : (s.onMod f).prt = s.prt := rfl
@[simp] theorem onMod_hdg (f : Mod → Mod) : (s.onMod f).hdg = s.hdg := rfl
@[simp] theorem onMod_bsn (f : Mod → Mod) : (s.onMod f).bsn = s.bsn := rfl
@[simp] theorem onMod_mod (f : Mod → Mod) : (s.onMod f).mod = f s.mod := rfl
@[simp] theorem onMod_top (f : Mod → Mod) : (s.onMod f).top = s.top := rfl
@[simp] theorem onMod_alm (f : Mod → Mod) : (s.onMod f).alm = s.alm := rfl
@[simp] theorem onMod_prd (f : Mod → Mod) : (s.onMod f).prd = s.prd := rfl
@[simp] theorem onMod_arc (f : Mod → Mod) : (s.onMod f).arc = s.arc := rfl
@[simp] theorem onMod_lmu (f : Mod → Mod) : (s.onMod f).lmu = s.lmu := rfl
@[simp] theorem onMod_nrg (f : Mod → Mod) : (s.onMod f).nrg = s.nrg := rfl
@[simp] theorem onMod_cap (f : Mod → Mod) : (s.onMod f).cap = s.cap := rfl
@[simp] theorem onMod_dpx (f : Mod → Mod) : (s.onMod f).dpx = s.dpx := rfl
@[simp] theorem onMod_jtag (f : Mod → Mod) : (s.onMod f).jtag = s.jtag := rfl

/-! ### onTop -/
@[simp] theorem onTop_pending (f : Top → Top) : (s.onTop f).pending = s.pending := rfl
@[simp] theorem onTop_regs (f : Top → Top) : (s.onTop f).regs = s.regs := rfl
@[simp] theorem onTop_isSealed (f : Top → Top) : (s.onTop f).isSealed = s.isSealed := rfl
@[simp] theorem onTop_latched (f : Top → Top) : (s.onTop f).latched = s.latched := rfl
@[simp] theorem onTop_readData (f : Top → Top) : (s.onTop f).readData = s.readData := rfl
@[simp] theorem onTop_free (f : Top → Top) : (s.onTop f).free = s.free := rfl
@[simp] theorem onTop_hif (f : Top → Top) : (s.onTop f).hif = s.hif := rfl
@[simp] theorem onTop_evr (f : Top → Top) : (s.onTop f).evr = s.evr := rfl
@[simp] theorem onTop_tim (f : Top → Top) : (s.onTop f).tim = s.tim := rfl
@[simp] theorem onTop_tck (f : Top → Top) : (s.onTop f).tck = s.tck := rfl
@[simp] theorem onTop_sch (f : Top → Top) : (s.onTop f).sch = s.sch := rfl
@[simp] theorem onTop_nvm (f : Top → Top) : (s.onTop f).nvm = s.nvm := rfl
@[simp] theorem onTop_aon (f : Top → Top) : (s.onTop f).aon = s.aon := rfl
@[simp] theorem onTop_sec (f : Top → Top) : (s.onTop f).sec = s.sec := rfl
@[simp] theorem onTop_clk (f : Top → Top) : (s.onTop f).clk = s.clk := rfl
@[simp] theorem onTop_pwr (f : Top → Top) : (s.onTop f).pwr = s.pwr := rfl
@[simp] theorem onTop_sys (f : Top → Top) : (s.onTop f).sys = s.sys := rfl
@[simp] theorem onTop_gzl (f : Top → Top) : (s.onTop f).gzl = s.gzl := rfl
@[simp] theorem onTop_prt (f : Top → Top) : (s.onTop f).prt = s.prt := rfl
@[simp] theorem onTop_hdg (f : Top → Top) : (s.onTop f).hdg = s.hdg := rfl
@[simp] theorem onTop_bsn (f : Top → Top) : (s.onTop f).bsn = s.bsn := rfl
@[simp] theorem onTop_mod (f : Top → Top) : (s.onTop f).mod = s.mod := rfl
@[simp] theorem onTop_top (f : Top → Top) : (s.onTop f).top = f s.top := rfl
@[simp] theorem onTop_alm (f : Top → Top) : (s.onTop f).alm = s.alm := rfl
@[simp] theorem onTop_prd (f : Top → Top) : (s.onTop f).prd = s.prd := rfl
@[simp] theorem onTop_arc (f : Top → Top) : (s.onTop f).arc = s.arc := rfl
@[simp] theorem onTop_lmu (f : Top → Top) : (s.onTop f).lmu = s.lmu := rfl
@[simp] theorem onTop_nrg (f : Top → Top) : (s.onTop f).nrg = s.nrg := rfl
@[simp] theorem onTop_cap (f : Top → Top) : (s.onTop f).cap = s.cap := rfl
@[simp] theorem onTop_dpx (f : Top → Top) : (s.onTop f).dpx = s.dpx := rfl
@[simp] theorem onTop_jtag (f : Top → Top) : (s.onTop f).jtag = s.jtag := rfl

/-! ### onAlm -/
@[simp] theorem onAlm_pending (f : Alm → Alm) : (s.onAlm f).pending = s.pending := rfl
@[simp] theorem onAlm_regs (f : Alm → Alm) : (s.onAlm f).regs = s.regs := rfl
@[simp] theorem onAlm_isSealed (f : Alm → Alm) : (s.onAlm f).isSealed = s.isSealed := rfl
@[simp] theorem onAlm_latched (f : Alm → Alm) : (s.onAlm f).latched = s.latched := rfl
@[simp] theorem onAlm_readData (f : Alm → Alm) : (s.onAlm f).readData = s.readData := rfl
@[simp] theorem onAlm_free (f : Alm → Alm) : (s.onAlm f).free = s.free := rfl
@[simp] theorem onAlm_hif (f : Alm → Alm) : (s.onAlm f).hif = s.hif := rfl
@[simp] theorem onAlm_evr (f : Alm → Alm) : (s.onAlm f).evr = s.evr := rfl
@[simp] theorem onAlm_tim (f : Alm → Alm) : (s.onAlm f).tim = s.tim := rfl
@[simp] theorem onAlm_tck (f : Alm → Alm) : (s.onAlm f).tck = s.tck := rfl
@[simp] theorem onAlm_sch (f : Alm → Alm) : (s.onAlm f).sch = s.sch := rfl
@[simp] theorem onAlm_nvm (f : Alm → Alm) : (s.onAlm f).nvm = s.nvm := rfl
@[simp] theorem onAlm_aon (f : Alm → Alm) : (s.onAlm f).aon = s.aon := rfl
@[simp] theorem onAlm_sec (f : Alm → Alm) : (s.onAlm f).sec = s.sec := rfl
@[simp] theorem onAlm_clk (f : Alm → Alm) : (s.onAlm f).clk = s.clk := rfl
@[simp] theorem onAlm_pwr (f : Alm → Alm) : (s.onAlm f).pwr = s.pwr := rfl
@[simp] theorem onAlm_sys (f : Alm → Alm) : (s.onAlm f).sys = s.sys := rfl
@[simp] theorem onAlm_gzl (f : Alm → Alm) : (s.onAlm f).gzl = s.gzl := rfl
@[simp] theorem onAlm_prt (f : Alm → Alm) : (s.onAlm f).prt = s.prt := rfl
@[simp] theorem onAlm_hdg (f : Alm → Alm) : (s.onAlm f).hdg = s.hdg := rfl
@[simp] theorem onAlm_bsn (f : Alm → Alm) : (s.onAlm f).bsn = s.bsn := rfl
@[simp] theorem onAlm_mod (f : Alm → Alm) : (s.onAlm f).mod = s.mod := rfl
@[simp] theorem onAlm_top (f : Alm → Alm) : (s.onAlm f).top = s.top := rfl
@[simp] theorem onAlm_alm (f : Alm → Alm) : (s.onAlm f).alm = f s.alm := rfl
@[simp] theorem onAlm_prd (f : Alm → Alm) : (s.onAlm f).prd = s.prd := rfl
@[simp] theorem onAlm_arc (f : Alm → Alm) : (s.onAlm f).arc = s.arc := rfl
@[simp] theorem onAlm_lmu (f : Alm → Alm) : (s.onAlm f).lmu = s.lmu := rfl
@[simp] theorem onAlm_nrg (f : Alm → Alm) : (s.onAlm f).nrg = s.nrg := rfl
@[simp] theorem onAlm_cap (f : Alm → Alm) : (s.onAlm f).cap = s.cap := rfl
@[simp] theorem onAlm_dpx (f : Alm → Alm) : (s.onAlm f).dpx = s.dpx := rfl
@[simp] theorem onAlm_jtag (f : Alm → Alm) : (s.onAlm f).jtag = s.jtag := rfl

/-! ### onPrd -/
@[simp] theorem onPrd_pending (f : Prd → Prd) : (s.onPrd f).pending = s.pending := rfl
@[simp] theorem onPrd_regs (f : Prd → Prd) : (s.onPrd f).regs = s.regs := rfl
@[simp] theorem onPrd_isSealed (f : Prd → Prd) : (s.onPrd f).isSealed = s.isSealed := rfl
@[simp] theorem onPrd_latched (f : Prd → Prd) : (s.onPrd f).latched = s.latched := rfl
@[simp] theorem onPrd_readData (f : Prd → Prd) : (s.onPrd f).readData = s.readData := rfl
@[simp] theorem onPrd_free (f : Prd → Prd) : (s.onPrd f).free = s.free := rfl
@[simp] theorem onPrd_hif (f : Prd → Prd) : (s.onPrd f).hif = s.hif := rfl
@[simp] theorem onPrd_evr (f : Prd → Prd) : (s.onPrd f).evr = s.evr := rfl
@[simp] theorem onPrd_tim (f : Prd → Prd) : (s.onPrd f).tim = s.tim := rfl
@[simp] theorem onPrd_tck (f : Prd → Prd) : (s.onPrd f).tck = s.tck := rfl
@[simp] theorem onPrd_sch (f : Prd → Prd) : (s.onPrd f).sch = s.sch := rfl
@[simp] theorem onPrd_nvm (f : Prd → Prd) : (s.onPrd f).nvm = s.nvm := rfl
@[simp] theorem onPrd_aon (f : Prd → Prd) : (s.onPrd f).aon = s.aon := rfl
@[simp] theorem onPrd_sec (f : Prd → Prd) : (s.onPrd f).sec = s.sec := rfl
@[simp] theorem onPrd_clk (f : Prd → Prd) : (s.onPrd f).clk = s.clk := rfl
@[simp] theorem onPrd_pwr (f : Prd → Prd) : (s.onPrd f).pwr = s.pwr := rfl
@[simp] theorem onPrd_sys (f : Prd → Prd) : (s.onPrd f).sys = s.sys := rfl
@[simp] theorem onPrd_gzl (f : Prd → Prd) : (s.onPrd f).gzl = s.gzl := rfl
@[simp] theorem onPrd_prt (f : Prd → Prd) : (s.onPrd f).prt = s.prt := rfl
@[simp] theorem onPrd_hdg (f : Prd → Prd) : (s.onPrd f).hdg = s.hdg := rfl
@[simp] theorem onPrd_bsn (f : Prd → Prd) : (s.onPrd f).bsn = s.bsn := rfl
@[simp] theorem onPrd_mod (f : Prd → Prd) : (s.onPrd f).mod = s.mod := rfl
@[simp] theorem onPrd_top (f : Prd → Prd) : (s.onPrd f).top = s.top := rfl
@[simp] theorem onPrd_alm (f : Prd → Prd) : (s.onPrd f).alm = s.alm := rfl
@[simp] theorem onPrd_prd (f : Prd → Prd) : (s.onPrd f).prd = f s.prd := rfl
@[simp] theorem onPrd_arc (f : Prd → Prd) : (s.onPrd f).arc = s.arc := rfl
@[simp] theorem onPrd_lmu (f : Prd → Prd) : (s.onPrd f).lmu = s.lmu := rfl
@[simp] theorem onPrd_nrg (f : Prd → Prd) : (s.onPrd f).nrg = s.nrg := rfl
@[simp] theorem onPrd_cap (f : Prd → Prd) : (s.onPrd f).cap = s.cap := rfl
@[simp] theorem onPrd_dpx (f : Prd → Prd) : (s.onPrd f).dpx = s.dpx := rfl
@[simp] theorem onPrd_jtag (f : Prd → Prd) : (s.onPrd f).jtag = s.jtag := rfl

/-! ### onArc -/
@[simp] theorem onArc_pending (f : Arc → Arc) : (s.onArc f).pending = s.pending := rfl
@[simp] theorem onArc_regs (f : Arc → Arc) : (s.onArc f).regs = s.regs := rfl
@[simp] theorem onArc_isSealed (f : Arc → Arc) : (s.onArc f).isSealed = s.isSealed := rfl
@[simp] theorem onArc_latched (f : Arc → Arc) : (s.onArc f).latched = s.latched := rfl
@[simp] theorem onArc_readData (f : Arc → Arc) : (s.onArc f).readData = s.readData := rfl
@[simp] theorem onArc_free (f : Arc → Arc) : (s.onArc f).free = s.free := rfl
@[simp] theorem onArc_hif (f : Arc → Arc) : (s.onArc f).hif = s.hif := rfl
@[simp] theorem onArc_evr (f : Arc → Arc) : (s.onArc f).evr = s.evr := rfl
@[simp] theorem onArc_tim (f : Arc → Arc) : (s.onArc f).tim = s.tim := rfl
@[simp] theorem onArc_tck (f : Arc → Arc) : (s.onArc f).tck = s.tck := rfl
@[simp] theorem onArc_sch (f : Arc → Arc) : (s.onArc f).sch = s.sch := rfl
@[simp] theorem onArc_nvm (f : Arc → Arc) : (s.onArc f).nvm = s.nvm := rfl
@[simp] theorem onArc_aon (f : Arc → Arc) : (s.onArc f).aon = s.aon := rfl
@[simp] theorem onArc_sec (f : Arc → Arc) : (s.onArc f).sec = s.sec := rfl
@[simp] theorem onArc_clk (f : Arc → Arc) : (s.onArc f).clk = s.clk := rfl
@[simp] theorem onArc_pwr (f : Arc → Arc) : (s.onArc f).pwr = s.pwr := rfl
@[simp] theorem onArc_sys (f : Arc → Arc) : (s.onArc f).sys = s.sys := rfl
@[simp] theorem onArc_gzl (f : Arc → Arc) : (s.onArc f).gzl = s.gzl := rfl
@[simp] theorem onArc_prt (f : Arc → Arc) : (s.onArc f).prt = s.prt := rfl
@[simp] theorem onArc_hdg (f : Arc → Arc) : (s.onArc f).hdg = s.hdg := rfl
@[simp] theorem onArc_bsn (f : Arc → Arc) : (s.onArc f).bsn = s.bsn := rfl
@[simp] theorem onArc_mod (f : Arc → Arc) : (s.onArc f).mod = s.mod := rfl
@[simp] theorem onArc_top (f : Arc → Arc) : (s.onArc f).top = s.top := rfl
@[simp] theorem onArc_alm (f : Arc → Arc) : (s.onArc f).alm = s.alm := rfl
@[simp] theorem onArc_prd (f : Arc → Arc) : (s.onArc f).prd = s.prd := rfl
@[simp] theorem onArc_arc (f : Arc → Arc) : (s.onArc f).arc = f s.arc := rfl
@[simp] theorem onArc_lmu (f : Arc → Arc) : (s.onArc f).lmu = s.lmu := rfl
@[simp] theorem onArc_nrg (f : Arc → Arc) : (s.onArc f).nrg = s.nrg := rfl
@[simp] theorem onArc_cap (f : Arc → Arc) : (s.onArc f).cap = s.cap := rfl
@[simp] theorem onArc_dpx (f : Arc → Arc) : (s.onArc f).dpx = s.dpx := rfl
@[simp] theorem onArc_jtag (f : Arc → Arc) : (s.onArc f).jtag = s.jtag := rfl

/-! ### onLmu -/
@[simp] theorem onLmu_pending (f : Lmu → Lmu) : (s.onLmu f).pending = s.pending := rfl
@[simp] theorem onLmu_regs (f : Lmu → Lmu) : (s.onLmu f).regs = s.regs := rfl
@[simp] theorem onLmu_isSealed (f : Lmu → Lmu) : (s.onLmu f).isSealed = s.isSealed := rfl
@[simp] theorem onLmu_latched (f : Lmu → Lmu) : (s.onLmu f).latched = s.latched := rfl
@[simp] theorem onLmu_readData (f : Lmu → Lmu) : (s.onLmu f).readData = s.readData := rfl
@[simp] theorem onLmu_free (f : Lmu → Lmu) : (s.onLmu f).free = s.free := rfl
@[simp] theorem onLmu_hif (f : Lmu → Lmu) : (s.onLmu f).hif = s.hif := rfl
@[simp] theorem onLmu_evr (f : Lmu → Lmu) : (s.onLmu f).evr = s.evr := rfl
@[simp] theorem onLmu_tim (f : Lmu → Lmu) : (s.onLmu f).tim = s.tim := rfl
@[simp] theorem onLmu_tck (f : Lmu → Lmu) : (s.onLmu f).tck = s.tck := rfl
@[simp] theorem onLmu_sch (f : Lmu → Lmu) : (s.onLmu f).sch = s.sch := rfl
@[simp] theorem onLmu_nvm (f : Lmu → Lmu) : (s.onLmu f).nvm = s.nvm := rfl
@[simp] theorem onLmu_aon (f : Lmu → Lmu) : (s.onLmu f).aon = s.aon := rfl
@[simp] theorem onLmu_sec (f : Lmu → Lmu) : (s.onLmu f).sec = s.sec := rfl
@[simp] theorem onLmu_clk (f : Lmu → Lmu) : (s.onLmu f).clk = s.clk := rfl
@[simp] theorem onLmu_pwr (f : Lmu → Lmu) : (s.onLmu f).pwr = s.pwr := rfl
@[simp] theorem onLmu_sys (f : Lmu → Lmu) : (s.onLmu f).sys = s.sys := rfl
@[simp] theorem onLmu_gzl (f : Lmu → Lmu) : (s.onLmu f).gzl = s.gzl := rfl
@[simp] theorem onLmu_prt (f : Lmu → Lmu) : (s.onLmu f).prt = s.prt := rfl
@[simp] theorem onLmu_hdg (f : Lmu → Lmu) : (s.onLmu f).hdg = s.hdg := rfl
@[simp] theorem onLmu_bsn (f : Lmu → Lmu) : (s.onLmu f).bsn = s.bsn := rfl
@[simp] theorem onLmu_mod (f : Lmu → Lmu) : (s.onLmu f).mod = s.mod := rfl
@[simp] theorem onLmu_top (f : Lmu → Lmu) : (s.onLmu f).top = s.top := rfl
@[simp] theorem onLmu_alm (f : Lmu → Lmu) : (s.onLmu f).alm = s.alm := rfl
@[simp] theorem onLmu_prd (f : Lmu → Lmu) : (s.onLmu f).prd = s.prd := rfl
@[simp] theorem onLmu_arc (f : Lmu → Lmu) : (s.onLmu f).arc = s.arc := rfl
@[simp] theorem onLmu_lmu (f : Lmu → Lmu) : (s.onLmu f).lmu = f s.lmu := rfl
@[simp] theorem onLmu_nrg (f : Lmu → Lmu) : (s.onLmu f).nrg = s.nrg := rfl
@[simp] theorem onLmu_cap (f : Lmu → Lmu) : (s.onLmu f).cap = s.cap := rfl
@[simp] theorem onLmu_dpx (f : Lmu → Lmu) : (s.onLmu f).dpx = s.dpx := rfl
@[simp] theorem onLmu_jtag (f : Lmu → Lmu) : (s.onLmu f).jtag = s.jtag := rfl

/-! ### onNrg -/
@[simp] theorem onNrg_pending (f : Nrg → Nrg) : (s.onNrg f).pending = s.pending := rfl
@[simp] theorem onNrg_regs (f : Nrg → Nrg) : (s.onNrg f).regs = s.regs := rfl
@[simp] theorem onNrg_isSealed (f : Nrg → Nrg) : (s.onNrg f).isSealed = s.isSealed := rfl
@[simp] theorem onNrg_latched (f : Nrg → Nrg) : (s.onNrg f).latched = s.latched := rfl
@[simp] theorem onNrg_readData (f : Nrg → Nrg) : (s.onNrg f).readData = s.readData := rfl
@[simp] theorem onNrg_free (f : Nrg → Nrg) : (s.onNrg f).free = s.free := rfl
@[simp] theorem onNrg_hif (f : Nrg → Nrg) : (s.onNrg f).hif = s.hif := rfl
@[simp] theorem onNrg_evr (f : Nrg → Nrg) : (s.onNrg f).evr = s.evr := rfl
@[simp] theorem onNrg_tim (f : Nrg → Nrg) : (s.onNrg f).tim = s.tim := rfl
@[simp] theorem onNrg_tck (f : Nrg → Nrg) : (s.onNrg f).tck = s.tck := rfl
@[simp] theorem onNrg_sch (f : Nrg → Nrg) : (s.onNrg f).sch = s.sch := rfl
@[simp] theorem onNrg_nvm (f : Nrg → Nrg) : (s.onNrg f).nvm = s.nvm := rfl
@[simp] theorem onNrg_aon (f : Nrg → Nrg) : (s.onNrg f).aon = s.aon := rfl
@[simp] theorem onNrg_sec (f : Nrg → Nrg) : (s.onNrg f).sec = s.sec := rfl
@[simp] theorem onNrg_clk (f : Nrg → Nrg) : (s.onNrg f).clk = s.clk := rfl
@[simp] theorem onNrg_pwr (f : Nrg → Nrg) : (s.onNrg f).pwr = s.pwr := rfl
@[simp] theorem onNrg_sys (f : Nrg → Nrg) : (s.onNrg f).sys = s.sys := rfl
@[simp] theorem onNrg_gzl (f : Nrg → Nrg) : (s.onNrg f).gzl = s.gzl := rfl
@[simp] theorem onNrg_prt (f : Nrg → Nrg) : (s.onNrg f).prt = s.prt := rfl
@[simp] theorem onNrg_hdg (f : Nrg → Nrg) : (s.onNrg f).hdg = s.hdg := rfl
@[simp] theorem onNrg_bsn (f : Nrg → Nrg) : (s.onNrg f).bsn = s.bsn := rfl
@[simp] theorem onNrg_mod (f : Nrg → Nrg) : (s.onNrg f).mod = s.mod := rfl
@[simp] theorem onNrg_top (f : Nrg → Nrg) : (s.onNrg f).top = s.top := rfl
@[simp] theorem onNrg_alm (f : Nrg → Nrg) : (s.onNrg f).alm = s.alm := rfl
@[simp] theorem onNrg_prd (f : Nrg → Nrg) : (s.onNrg f).prd = s.prd := rfl
@[simp] theorem onNrg_arc (f : Nrg → Nrg) : (s.onNrg f).arc = s.arc := rfl
@[simp] theorem onNrg_lmu (f : Nrg → Nrg) : (s.onNrg f).lmu = s.lmu := rfl
@[simp] theorem onNrg_nrg (f : Nrg → Nrg) : (s.onNrg f).nrg = f s.nrg := rfl
@[simp] theorem onNrg_cap (f : Nrg → Nrg) : (s.onNrg f).cap = s.cap := rfl
@[simp] theorem onNrg_dpx (f : Nrg → Nrg) : (s.onNrg f).dpx = s.dpx := rfl
@[simp] theorem onNrg_jtag (f : Nrg → Nrg) : (s.onNrg f).jtag = s.jtag := rfl

/-! ### onCap -/
@[simp] theorem onCap_pending (f : Cap → Cap) : (s.onCap f).pending = s.pending := rfl
@[simp] theorem onCap_regs (f : Cap → Cap) : (s.onCap f).regs = s.regs := rfl
@[simp] theorem onCap_isSealed (f : Cap → Cap) : (s.onCap f).isSealed = s.isSealed := rfl
@[simp] theorem onCap_latched (f : Cap → Cap) : (s.onCap f).latched = s.latched := rfl
@[simp] theorem onCap_readData (f : Cap → Cap) : (s.onCap f).readData = s.readData := rfl
@[simp] theorem onCap_free (f : Cap → Cap) : (s.onCap f).free = s.free := rfl
@[simp] theorem onCap_hif (f : Cap → Cap) : (s.onCap f).hif = s.hif := rfl
@[simp] theorem onCap_evr (f : Cap → Cap) : (s.onCap f).evr = s.evr := rfl
@[simp] theorem onCap_tim (f : Cap → Cap) : (s.onCap f).tim = s.tim := rfl
@[simp] theorem onCap_tck (f : Cap → Cap) : (s.onCap f).tck = s.tck := rfl
@[simp] theorem onCap_sch (f : Cap → Cap) : (s.onCap f).sch = s.sch := rfl
@[simp] theorem onCap_nvm (f : Cap → Cap) : (s.onCap f).nvm = s.nvm := rfl
@[simp] theorem onCap_aon (f : Cap → Cap) : (s.onCap f).aon = s.aon := rfl
@[simp] theorem onCap_sec (f : Cap → Cap) : (s.onCap f).sec = s.sec := rfl
@[simp] theorem onCap_clk (f : Cap → Cap) : (s.onCap f).clk = s.clk := rfl
@[simp] theorem onCap_pwr (f : Cap → Cap) : (s.onCap f).pwr = s.pwr := rfl
@[simp] theorem onCap_sys (f : Cap → Cap) : (s.onCap f).sys = s.sys := rfl
@[simp] theorem onCap_gzl (f : Cap → Cap) : (s.onCap f).gzl = s.gzl := rfl
@[simp] theorem onCap_prt (f : Cap → Cap) : (s.onCap f).prt = s.prt := rfl
@[simp] theorem onCap_hdg (f : Cap → Cap) : (s.onCap f).hdg = s.hdg := rfl
@[simp] theorem onCap_bsn (f : Cap → Cap) : (s.onCap f).bsn = s.bsn := rfl
@[simp] theorem onCap_mod (f : Cap → Cap) : (s.onCap f).mod = s.mod := rfl
@[simp] theorem onCap_top (f : Cap → Cap) : (s.onCap f).top = s.top := rfl
@[simp] theorem onCap_alm (f : Cap → Cap) : (s.onCap f).alm = s.alm := rfl
@[simp] theorem onCap_prd (f : Cap → Cap) : (s.onCap f).prd = s.prd := rfl
@[simp] theorem onCap_arc (f : Cap → Cap) : (s.onCap f).arc = s.arc := rfl
@[simp] theorem onCap_lmu (f : Cap → Cap) : (s.onCap f).lmu = s.lmu := rfl
@[simp] theorem onCap_nrg (f : Cap → Cap) : (s.onCap f).nrg = s.nrg := rfl
@[simp] theorem onCap_cap (f : Cap → Cap) : (s.onCap f).cap = f s.cap := rfl
@[simp] theorem onCap_dpx (f : Cap → Cap) : (s.onCap f).dpx = s.dpx := rfl
@[simp] theorem onCap_jtag (f : Cap → Cap) : (s.onCap f).jtag = s.jtag := rfl

/-! ### onDpx -/
@[simp] theorem onDpx_pending (f : Dpx → Dpx) : (s.onDpx f).pending = s.pending := rfl
@[simp] theorem onDpx_regs (f : Dpx → Dpx) : (s.onDpx f).regs = s.regs := rfl
@[simp] theorem onDpx_isSealed (f : Dpx → Dpx) : (s.onDpx f).isSealed = s.isSealed := rfl
@[simp] theorem onDpx_latched (f : Dpx → Dpx) : (s.onDpx f).latched = s.latched := rfl
@[simp] theorem onDpx_readData (f : Dpx → Dpx) : (s.onDpx f).readData = s.readData := rfl
@[simp] theorem onDpx_free (f : Dpx → Dpx) : (s.onDpx f).free = s.free := rfl
@[simp] theorem onDpx_hif (f : Dpx → Dpx) : (s.onDpx f).hif = s.hif := rfl
@[simp] theorem onDpx_evr (f : Dpx → Dpx) : (s.onDpx f).evr = s.evr := rfl
@[simp] theorem onDpx_tim (f : Dpx → Dpx) : (s.onDpx f).tim = s.tim := rfl
@[simp] theorem onDpx_tck (f : Dpx → Dpx) : (s.onDpx f).tck = s.tck := rfl
@[simp] theorem onDpx_sch (f : Dpx → Dpx) : (s.onDpx f).sch = s.sch := rfl
@[simp] theorem onDpx_nvm (f : Dpx → Dpx) : (s.onDpx f).nvm = s.nvm := rfl
@[simp] theorem onDpx_aon (f : Dpx → Dpx) : (s.onDpx f).aon = s.aon := rfl
@[simp] theorem onDpx_sec (f : Dpx → Dpx) : (s.onDpx f).sec = s.sec := rfl
@[simp] theorem onDpx_clk (f : Dpx → Dpx) : (s.onDpx f).clk = s.clk := rfl
@[simp] theorem onDpx_pwr (f : Dpx → Dpx) : (s.onDpx f).pwr = s.pwr := rfl
@[simp] theorem onDpx_sys (f : Dpx → Dpx) : (s.onDpx f).sys = s.sys := rfl
@[simp] theorem onDpx_gzl (f : Dpx → Dpx) : (s.onDpx f).gzl = s.gzl := rfl
@[simp] theorem onDpx_prt (f : Dpx → Dpx) : (s.onDpx f).prt = s.prt := rfl
@[simp] theorem onDpx_hdg (f : Dpx → Dpx) : (s.onDpx f).hdg = s.hdg := rfl
@[simp] theorem onDpx_bsn (f : Dpx → Dpx) : (s.onDpx f).bsn = s.bsn := rfl
@[simp] theorem onDpx_mod (f : Dpx → Dpx) : (s.onDpx f).mod = s.mod := rfl
@[simp] theorem onDpx_top (f : Dpx → Dpx) : (s.onDpx f).top = s.top := rfl
@[simp] theorem onDpx_alm (f : Dpx → Dpx) : (s.onDpx f).alm = s.alm := rfl
@[simp] theorem onDpx_prd (f : Dpx → Dpx) : (s.onDpx f).prd = s.prd := rfl
@[simp] theorem onDpx_arc (f : Dpx → Dpx) : (s.onDpx f).arc = s.arc := rfl
@[simp] theorem onDpx_lmu (f : Dpx → Dpx) : (s.onDpx f).lmu = s.lmu := rfl
@[simp] theorem onDpx_nrg (f : Dpx → Dpx) : (s.onDpx f).nrg = s.nrg := rfl
@[simp] theorem onDpx_cap (f : Dpx → Dpx) : (s.onDpx f).cap = s.cap := rfl
@[simp] theorem onDpx_dpx (f : Dpx → Dpx) : (s.onDpx f).dpx = f s.dpx := rfl
@[simp] theorem onDpx_jtag (f : Dpx → Dpx) : (s.onDpx f).jtag = s.jtag := rfl

/-! ### setReg -/
@[simp] theorem setReg_pending (off : Nat) (v : Word) : (s.setReg off v).pending = s.pending := rfl
@[simp] theorem setReg_isSealed (off : Nat) (v : Word) : (s.setReg off v).isSealed = s.isSealed := rfl
@[simp] theorem setReg_latched (off : Nat) (v : Word) : (s.setReg off v).latched = s.latched := rfl
@[simp] theorem setReg_readData (off : Nat) (v : Word) : (s.setReg off v).readData = s.readData := rfl
@[simp] theorem setReg_free (off : Nat) (v : Word) : (s.setReg off v).free = s.free := rfl
@[simp] theorem setReg_hif (off : Nat) (v : Word) : (s.setReg off v).hif = s.hif := rfl
@[simp] theorem setReg_evr (off : Nat) (v : Word) : (s.setReg off v).evr = s.evr := rfl
@[simp] theorem setReg_tim (off : Nat) (v : Word) : (s.setReg off v).tim = s.tim := rfl
@[simp] theorem setReg_tck (off : Nat) (v : Word) : (s.setReg off v).tck = s.tck := rfl
@[simp] theorem setReg_sch (off : Nat) (v : Word) : (s.setReg off v).sch = s.sch := rfl
@[simp] theorem setReg_nvm (off : Nat) (v : Word) : (s.setReg off v).nvm = s.nvm := rfl
@[simp] theorem setReg_aon (off : Nat) (v : Word) : (s.setReg off v).aon = s.aon := rfl
@[simp] theorem setReg_sec (off : Nat) (v : Word) : (s.setReg off v).sec = s.sec := rfl
@[simp] theorem setReg_clk (off : Nat) (v : Word) : (s.setReg off v).clk = s.clk := rfl
@[simp] theorem setReg_pwr (off : Nat) (v : Word) : (s.setReg off v).pwr = s.pwr := rfl
@[simp] theorem setReg_sys (off : Nat) (v : Word) : (s.setReg off v).sys = s.sys := rfl
@[simp] theorem setReg_gzl (off : Nat) (v : Word) : (s.setReg off v).gzl = s.gzl := rfl
@[simp] theorem setReg_prt (off : Nat) (v : Word) : (s.setReg off v).prt = s.prt := rfl
@[simp] theorem setReg_hdg (off : Nat) (v : Word) : (s.setReg off v).hdg = s.hdg := rfl
@[simp] theorem setReg_bsn (off : Nat) (v : Word) : (s.setReg off v).bsn = s.bsn := rfl
@[simp] theorem setReg_mod (off : Nat) (v : Word) : (s.setReg off v).mod = s.mod := rfl
@[simp] theorem setReg_top (off : Nat) (v : Word) : (s.setReg off v).top = s.top := rfl
@[simp] theorem setReg_alm (off : Nat) (v : Word) : (s.setReg off v).alm = s.alm := rfl
@[simp] theorem setReg_prd (off : Nat) (v : Word) : (s.setReg off v).prd = s.prd := rfl
@[simp] theorem setReg_arc (off : Nat) (v : Word) : (s.setReg off v).arc = s.arc := rfl
@[simp] theorem setReg_lmu (off : Nat) (v : Word) : (s.setReg off v).lmu = s.lmu := rfl
@[simp] theorem setReg_nrg (off : Nat) (v : Word) : (s.setReg off v).nrg = s.nrg := rfl
@[simp] theorem setReg_cap (off : Nat) (v : Word) : (s.setReg off v).cap = s.cap := rfl
@[simp] theorem setReg_dpx (off : Nat) (v : Word) : (s.setReg off v).dpx = s.dpx := rfl
@[simp] theorem setReg_jtag (off : Nat) (v : Word) : (s.setReg off v).jtag = s.jtag := rfl

/-! ### add -/
@[simp] theorem add_pending (off : Nat) (n : Nat) : (s.add off n).pending = s.pending := by unfold State.add; split <;> rfl
@[simp] theorem add_isSealed (off : Nat) (n : Nat) : (s.add off n).isSealed = s.isSealed := by unfold State.add; split <;> rfl
@[simp] theorem add_latched (off : Nat) (n : Nat) : (s.add off n).latched = s.latched := by unfold State.add; split <;> rfl
@[simp] theorem add_readData (off : Nat) (n : Nat) : (s.add off n).readData = s.readData := by unfold State.add; split <;> rfl
@[simp] theorem add_free (off : Nat) (n : Nat) : (s.add off n).free = s.free := by unfold State.add; split <;> rfl
@[simp] theorem add_hif (off : Nat) (n : Nat) : (s.add off n).hif = s.hif := by unfold State.add; split <;> rfl
@[simp] theorem add_evr (off : Nat) (n : Nat) : (s.add off n).evr = s.evr := by unfold State.add; split <;> rfl
@[simp] theorem add_tim (off : Nat) (n : Nat) : (s.add off n).tim = s.tim := by unfold State.add; split <;> rfl
@[simp] theorem add_tck (off : Nat) (n : Nat) : (s.add off n).tck = s.tck := by unfold State.add; split <;> rfl
@[simp] theorem add_sch (off : Nat) (n : Nat) : (s.add off n).sch = s.sch := by unfold State.add; split <;> rfl
@[simp] theorem add_nvm (off : Nat) (n : Nat) : (s.add off n).nvm = s.nvm := by unfold State.add; split <;> rfl
@[simp] theorem add_aon (off : Nat) (n : Nat) : (s.add off n).aon = s.aon := by unfold State.add; split <;> rfl
@[simp] theorem add_sec (off : Nat) (n : Nat) : (s.add off n).sec = s.sec := by unfold State.add; split <;> rfl
@[simp] theorem add_clk (off : Nat) (n : Nat) : (s.add off n).clk = s.clk := by unfold State.add; split <;> rfl
@[simp] theorem add_pwr (off : Nat) (n : Nat) : (s.add off n).pwr = s.pwr := by unfold State.add; split <;> rfl
@[simp] theorem add_sys (off : Nat) (n : Nat) : (s.add off n).sys = s.sys := by unfold State.add; split <;> rfl
@[simp] theorem add_gzl (off : Nat) (n : Nat) : (s.add off n).gzl = s.gzl := by unfold State.add; split <;> rfl
@[simp] theorem add_prt (off : Nat) (n : Nat) : (s.add off n).prt = s.prt := by unfold State.add; split <;> rfl
@[simp] theorem add_hdg (off : Nat) (n : Nat) : (s.add off n).hdg = s.hdg := by unfold State.add; split <;> rfl
@[simp] theorem add_bsn (off : Nat) (n : Nat) : (s.add off n).bsn = s.bsn := by unfold State.add; split <;> rfl
@[simp] theorem add_mod (off : Nat) (n : Nat) : (s.add off n).mod = s.mod := by unfold State.add; split <;> rfl
@[simp] theorem add_top (off : Nat) (n : Nat) : (s.add off n).top = s.top := by unfold State.add; split <;> rfl
@[simp] theorem add_alm (off : Nat) (n : Nat) : (s.add off n).alm = s.alm := by unfold State.add; split <;> rfl
@[simp] theorem add_prd (off : Nat) (n : Nat) : (s.add off n).prd = s.prd := by unfold State.add; split <;> rfl
@[simp] theorem add_arc (off : Nat) (n : Nat) : (s.add off n).arc = s.arc := by unfold State.add; split <;> rfl
@[simp] theorem add_lmu (off : Nat) (n : Nat) : (s.add off n).lmu = s.lmu := by unfold State.add; split <;> rfl
@[simp] theorem add_nrg (off : Nat) (n : Nat) : (s.add off n).nrg = s.nrg := by unfold State.add; split <;> rfl
@[simp] theorem add_cap (off : Nat) (n : Nat) : (s.add off n).cap = s.cap := by unfold State.add; split <;> rfl
@[simp] theorem add_dpx (off : Nat) (n : Nat) : (s.add off n).dpx = s.dpx := by unfold State.add; split <;> rfl
@[simp] theorem add_jtag (off : Nat) (n : Nat) : (s.add off n).jtag = s.jtag := by unfold State.add; split <;> rfl

/-! ### inc -/
@[simp] theorem inc_pending (off : Nat) : (s.inc off).pending = s.pending := by unfold State.inc; simp
@[simp] theorem inc_isSealed (off : Nat) : (s.inc off).isSealed = s.isSealed := by unfold State.inc; simp
@[simp] theorem inc_latched (off : Nat) : (s.inc off).latched = s.latched := by unfold State.inc; simp
@[simp] theorem inc_readData (off : Nat) : (s.inc off).readData = s.readData := by unfold State.inc; simp
@[simp] theorem inc_free (off : Nat) : (s.inc off).free = s.free := by unfold State.inc; simp
@[simp] theorem inc_hif (off : Nat) : (s.inc off).hif = s.hif := by unfold State.inc; simp
@[simp] theorem inc_evr (off : Nat) : (s.inc off).evr = s.evr := by unfold State.inc; simp
@[simp] theorem inc_tim (off : Nat) : (s.inc off).tim = s.tim := by unfold State.inc; simp
@[simp] theorem inc_tck (off : Nat) : (s.inc off).tck = s.tck := by unfold State.inc; simp
@[simp] theorem inc_sch (off : Nat) : (s.inc off).sch = s.sch := by unfold State.inc; simp
@[simp] theorem inc_nvm (off : Nat) : (s.inc off).nvm = s.nvm := by unfold State.inc; simp
@[simp] theorem inc_aon (off : Nat) : (s.inc off).aon = s.aon := by unfold State.inc; simp
@[simp] theorem inc_sec (off : Nat) : (s.inc off).sec = s.sec := by unfold State.inc; simp
@[simp] theorem inc_clk (off : Nat) : (s.inc off).clk = s.clk := by unfold State.inc; simp
@[simp] theorem inc_pwr (off : Nat) : (s.inc off).pwr = s.pwr := by unfold State.inc; simp
@[simp] theorem inc_sys (off : Nat) : (s.inc off).sys = s.sys := by unfold State.inc; simp
@[simp] theorem inc_gzl (off : Nat) : (s.inc off).gzl = s.gzl := by unfold State.inc; simp
@[simp] theorem inc_prt (off : Nat) : (s.inc off).prt = s.prt := by unfold State.inc; simp
@[simp] theorem inc_hdg (off : Nat) : (s.inc off).hdg = s.hdg := by unfold State.inc; simp
@[simp] theorem inc_bsn (off : Nat) : (s.inc off).bsn = s.bsn := by unfold State.inc; simp
@[simp] theorem inc_mod (off : Nat) : (s.inc off).mod = s.mod := by unfold State.inc; simp
@[simp] theorem inc_top (off : Nat) : (s.inc off).top = s.top := by unfold State.inc; simp
@[simp] theorem inc_alm (off : Nat) : (s.inc off).alm = s.alm := by unfold State.inc; simp
@[simp] theorem inc_prd (off : Nat) : (s.inc off).prd = s.prd := by unfold State.inc; simp
@[simp] theorem inc_arc (off : Nat) : (s.inc off).arc = s.arc := by unfold State.inc; simp
@[simp] theorem inc_lmu (off : Nat) : (s.inc off).lmu = s.lmu := by unfold State.inc; simp
@[simp] theorem inc_nrg (off : Nat) : (s.inc off).nrg = s.nrg := by unfold State.inc; simp
@[simp] theorem inc_cap (off : Nat) : (s.inc off).cap = s.cap := by unfold State.inc; simp
@[simp] theorem inc_dpx (off : Nat) : (s.inc off).dpx = s.dpx := by unfold State.inc; simp
@[simp] theorem inc_jtag (off : Nat) : (s.inc off).jtag = s.jtag := by unfold State.inc; simp

/-! ### peak -/
@[simp] theorem peak_pending (off : Nat) (v : Nat) : (s.peak off v).pending = s.pending := by unfold State.peak; split <;> rfl
@[simp] theorem peak_isSealed (off : Nat) (v : Nat) : (s.peak off v).isSealed = s.isSealed := by unfold State.peak; split <;> rfl
@[simp] theorem peak_latched (off : Nat) (v : Nat) : (s.peak off v).latched = s.latched := by unfold State.peak; split <;> rfl
@[simp] theorem peak_readData (off : Nat) (v : Nat) : (s.peak off v).readData = s.readData := by unfold State.peak; split <;> rfl
@[simp] theorem peak_free (off : Nat) (v : Nat) : (s.peak off v).free = s.free := by unfold State.peak; split <;> rfl
@[simp] theorem peak_hif (off : Nat) (v : Nat) : (s.peak off v).hif = s.hif := by unfold State.peak; split <;> rfl
@[simp] theorem peak_evr (off : Nat) (v : Nat) : (s.peak off v).evr = s.evr := by unfold State.peak; split <;> rfl
@[simp] theorem peak_tim (off : Nat) (v : Nat) : (s.peak off v).tim = s.tim := by unfold State.peak; split <;> rfl
@[simp] theorem peak_tck (off : Nat) (v : Nat) : (s.peak off v).tck = s.tck := by unfold State.peak; split <;> rfl
@[simp] theorem peak_sch (off : Nat) (v : Nat) : (s.peak off v).sch = s.sch := by unfold State.peak; split <;> rfl
@[simp] theorem peak_nvm (off : Nat) (v : Nat) : (s.peak off v).nvm = s.nvm := by unfold State.peak; split <;> rfl
@[simp] theorem peak_aon (off : Nat) (v : Nat) : (s.peak off v).aon = s.aon := by unfold State.peak; split <;> rfl
@[simp] theorem peak_sec (off : Nat) (v : Nat) : (s.peak off v).sec = s.sec := by unfold State.peak; split <;> rfl
@[simp] theorem peak_clk (off : Nat) (v : Nat) : (s.peak off v).clk = s.clk := by unfold State.peak; split <;> rfl
@[simp] theorem peak_pwr (off : Nat) (v : Nat) : (s.peak off v).pwr = s.pwr := by unfold State.peak; split <;> rfl
@[simp] theorem peak_sys (off : Nat) (v : Nat) : (s.peak off v).sys = s.sys := by unfold State.peak; split <;> rfl
@[simp] theorem peak_gzl (off : Nat) (v : Nat) : (s.peak off v).gzl = s.gzl := by unfold State.peak; split <;> rfl
@[simp] theorem peak_prt (off : Nat) (v : Nat) : (s.peak off v).prt = s.prt := by unfold State.peak; split <;> rfl
@[simp] theorem peak_hdg (off : Nat) (v : Nat) : (s.peak off v).hdg = s.hdg := by unfold State.peak; split <;> rfl
@[simp] theorem peak_bsn (off : Nat) (v : Nat) : (s.peak off v).bsn = s.bsn := by unfold State.peak; split <;> rfl
@[simp] theorem peak_mod (off : Nat) (v : Nat) : (s.peak off v).mod = s.mod := by unfold State.peak; split <;> rfl
@[simp] theorem peak_top (off : Nat) (v : Nat) : (s.peak off v).top = s.top := by unfold State.peak; split <;> rfl
@[simp] theorem peak_alm (off : Nat) (v : Nat) : (s.peak off v).alm = s.alm := by unfold State.peak; split <;> rfl
@[simp] theorem peak_prd (off : Nat) (v : Nat) : (s.peak off v).prd = s.prd := by unfold State.peak; split <;> rfl
@[simp] theorem peak_arc (off : Nat) (v : Nat) : (s.peak off v).arc = s.arc := by unfold State.peak; split <;> rfl
@[simp] theorem peak_lmu (off : Nat) (v : Nat) : (s.peak off v).lmu = s.lmu := by unfold State.peak; split <;> rfl
@[simp] theorem peak_nrg (off : Nat) (v : Nat) : (s.peak off v).nrg = s.nrg := by unfold State.peak; split <;> rfl
@[simp] theorem peak_cap (off : Nat) (v : Nat) : (s.peak off v).cap = s.cap := by unfold State.peak; split <;> rfl
@[simp] theorem peak_dpx (off : Nat) (v : Nat) : (s.peak off v).dpx = s.dpx := by unfold State.peak; split <;> rfl
@[simp] theorem peak_jtag (off : Nat) (v : Nat) : (s.peak off v).jtag = s.jtag := by unfold State.peak; split <;> rfl

/-! ### setBits -/
@[simp] theorem setBits_pending (off : Nat) (m : Word) : (s.setBits off m).pending = s.pending := rfl
@[simp] theorem setBits_isSealed (off : Nat) (m : Word) : (s.setBits off m).isSealed = s.isSealed := rfl
@[simp] theorem setBits_latched (off : Nat) (m : Word) : (s.setBits off m).latched = s.latched := rfl
@[simp] theorem setBits_readData (off : Nat) (m : Word) : (s.setBits off m).readData = s.readData := rfl
@[simp] theorem setBits_free (off : Nat) (m : Word) : (s.setBits off m).free = s.free := rfl
@[simp] theorem setBits_hif (off : Nat) (m : Word) : (s.setBits off m).hif = s.hif := rfl
@[simp] theorem setBits_evr (off : Nat) (m : Word) : (s.setBits off m).evr = s.evr := rfl
@[simp] theorem setBits_tim (off : Nat) (m : Word) : (s.setBits off m).tim = s.tim := rfl
@[simp] theorem setBits_tck (off : Nat) (m : Word) : (s.setBits off m).tck = s.tck := rfl
@[simp] theorem setBits_sch (off : Nat) (m : Word) : (s.setBits off m).sch = s.sch := rfl
@[simp] theorem setBits_nvm (off : Nat) (m : Word) : (s.setBits off m).nvm = s.nvm := rfl
@[simp] theorem setBits_aon (off : Nat) (m : Word) : (s.setBits off m).aon = s.aon := rfl
@[simp] theorem setBits_sec (off : Nat) (m : Word) : (s.setBits off m).sec = s.sec := rfl
@[simp] theorem setBits_clk (off : Nat) (m : Word) : (s.setBits off m).clk = s.clk := rfl
@[simp] theorem setBits_pwr (off : Nat) (m : Word) : (s.setBits off m).pwr = s.pwr := rfl
@[simp] theorem setBits_sys (off : Nat) (m : Word) : (s.setBits off m).sys = s.sys := rfl
@[simp] theorem setBits_gzl (off : Nat) (m : Word) : (s.setBits off m).gzl = s.gzl := rfl
@[simp] theorem setBits_prt (off : Nat) (m : Word) : (s.setBits off m).prt = s.prt := rfl
@[simp] theorem setBits_hdg (off : Nat) (m : Word) : (s.setBits off m).hdg = s.hdg := rfl
@[simp] theorem setBits_bsn (off : Nat) (m : Word) : (s.setBits off m).bsn = s.bsn := rfl
@[simp] theorem setBits_mod (off : Nat) (m : Word) : (s.setBits off m).mod = s.mod := rfl
@[simp] theorem setBits_top (off : Nat) (m : Word) : (s.setBits off m).top = s.top := rfl
@[simp] theorem setBits_alm (off : Nat) (m : Word) : (s.setBits off m).alm = s.alm := rfl
@[simp] theorem setBits_prd (off : Nat) (m : Word) : (s.setBits off m).prd = s.prd := rfl
@[simp] theorem setBits_arc (off : Nat) (m : Word) : (s.setBits off m).arc = s.arc := rfl
@[simp] theorem setBits_lmu (off : Nat) (m : Word) : (s.setBits off m).lmu = s.lmu := rfl
@[simp] theorem setBits_nrg (off : Nat) (m : Word) : (s.setBits off m).nrg = s.nrg := rfl
@[simp] theorem setBits_cap (off : Nat) (m : Word) : (s.setBits off m).cap = s.cap := rfl
@[simp] theorem setBits_dpx (off : Nat) (m : Word) : (s.setBits off m).dpx = s.dpx := rfl
@[simp] theorem setBits_jtag (off : Nat) (m : Word) : (s.setBits off m).jtag = s.jtag := rfl

/-! ### run -/
@[simp] theorem run_pending (n : Nat) : (s.run n).pending = s.pending := rfl
@[simp] theorem run_regs (n : Nat) : (s.run n).regs = s.regs := rfl
@[simp] theorem run_isSealed (n : Nat) : (s.run n).isSealed = s.isSealed := rfl
@[simp] theorem run_latched (n : Nat) : (s.run n).latched = s.latched := rfl
@[simp] theorem run_readData (n : Nat) : (s.run n).readData = s.readData := rfl
@[simp] theorem run_free (n : Nat) : (s.run n).free = s.free := rfl
@[simp] theorem run_hif (n : Nat) : (s.run n).hif = s.hif := rfl
@[simp] theorem run_evr (n : Nat) : (s.run n).evr = s.evr := rfl
@[simp] theorem run_tck (n : Nat) : (s.run n).tck = s.tck := rfl
@[simp] theorem run_sch (n : Nat) : (s.run n).sch = s.sch := rfl
@[simp] theorem run_nvm (n : Nat) : (s.run n).nvm = s.nvm := rfl
@[simp] theorem run_aon (n : Nat) : (s.run n).aon = s.aon := rfl
@[simp] theorem run_sec (n : Nat) : (s.run n).sec = s.sec := rfl
@[simp] theorem run_clk (n : Nat) : (s.run n).clk = s.clk := rfl
@[simp] theorem run_pwr (n : Nat) : (s.run n).pwr = s.pwr := rfl
@[simp] theorem run_sys (n : Nat) : (s.run n).sys = s.sys := rfl
@[simp] theorem run_gzl (n : Nat) : (s.run n).gzl = s.gzl := rfl
@[simp] theorem run_prt (n : Nat) : (s.run n).prt = s.prt := rfl
@[simp] theorem run_hdg (n : Nat) : (s.run n).hdg = s.hdg := rfl
@[simp] theorem run_bsn (n : Nat) : (s.run n).bsn = s.bsn := rfl
@[simp] theorem run_mod (n : Nat) : (s.run n).mod = s.mod := rfl
@[simp] theorem run_top (n : Nat) : (s.run n).top = s.top := rfl
@[simp] theorem run_alm (n : Nat) : (s.run n).alm = s.alm := rfl
@[simp] theorem run_prd (n : Nat) : (s.run n).prd = s.prd := rfl
@[simp] theorem run_arc (n : Nat) : (s.run n).arc = s.arc := rfl
@[simp] theorem run_lmu (n : Nat) : (s.run n).lmu = s.lmu := rfl
@[simp] theorem run_nrg (n : Nat) : (s.run n).nrg = s.nrg := rfl
@[simp] theorem run_cap (n : Nat) : (s.run n).cap = s.cap := rfl
@[simp] theorem run_dpx (n : Nat) : (s.run n).dpx = s.dpx := rfl
@[simp] theorem run_jtag (n : Nat) : (s.run n).jtag = s.jtag := rfl

/-! ### runTo -/
@[simp] theorem runTo_pending (t : Nat) : (s.runTo t).pending = s.pending := by unfold State.runTo; split <;> rfl
@[simp] theorem runTo_regs (t : Nat) : (s.runTo t).regs = s.regs := by unfold State.runTo; split <;> rfl
@[simp] theorem runTo_isSealed (t : Nat) : (s.runTo t).isSealed = s.isSealed := by unfold State.runTo; split <;> rfl
@[simp] theorem runTo_latched (t : Nat) : (s.runTo t).latched = s.latched := by unfold State.runTo; split <;> rfl
@[simp] theorem runTo_readData (t : Nat) : (s.runTo t).readData = s.readData := by unfold State.runTo; split <;> rfl
@[simp] theorem runTo_free (t : Nat) : (s.runTo t).free = s.free := by unfold State.runTo; split <;> rfl
@[simp] theorem runTo_hif (t : Nat) : (s.runTo t).hif = s.hif := by unfold State.runTo; split <;> rfl
@[simp] theorem runTo_evr (t : Nat) : (s.runTo t).evr = s.evr := by unfold State.runTo; split <;> rfl
@[simp] theorem runTo_tck (t : Nat) : (s.runTo t).tck = s.tck := by unfold State.runTo; split <;> rfl
@[simp] theorem runTo_sch (t : Nat) : (s.runTo t).sch = s.sch := by unfold State.runTo; split <;> rfl
@[simp] theorem runTo_nvm (t : Nat) : (s.runTo t).nvm = s.nvm := by unfold State.runTo; split <;> rfl
@[simp] theorem runTo_aon (t : Nat) : (s.runTo t).aon = s.aon := by unfold State.runTo; split <;> rfl
@[simp] theorem runTo_sec (t : Nat) : (s.runTo t).sec = s.sec := by unfold State.runTo; split <;> rfl
@[simp] theorem runTo_clk (t : Nat) : (s.runTo t).clk = s.clk := by unfold State.runTo; split <;> rfl
@[simp] theorem runTo_pwr (t : Nat) : (s.runTo t).pwr = s.pwr := by unfold State.runTo; split <;> rfl
@[simp] theorem runTo_sys (t : Nat) : (s.runTo t).sys = s.sys := by unfold State.runTo; split <;> rfl
@[simp] theorem runTo_gzl (t : Nat) : (s.runTo t).gzl = s.gzl := by unfold State.runTo; split <;> rfl
@[simp] theorem runTo_prt (t : Nat) : (s.runTo t).prt = s.prt := by unfold State.runTo; split <;> rfl
@[simp] theorem runTo_hdg (t : Nat) : (s.runTo t).hdg = s.hdg := by unfold State.runTo; split <;> rfl
@[simp] theorem runTo_bsn (t : Nat) : (s.runTo t).bsn = s.bsn := by unfold State.runTo; split <;> rfl
@[simp] theorem runTo_mod (t : Nat) : (s.runTo t).mod = s.mod := by unfold State.runTo; split <;> rfl
@[simp] theorem runTo_top (t : Nat) : (s.runTo t).top = s.top := by unfold State.runTo; split <;> rfl
@[simp] theorem runTo_alm (t : Nat) : (s.runTo t).alm = s.alm := by unfold State.runTo; split <;> rfl
@[simp] theorem runTo_prd (t : Nat) : (s.runTo t).prd = s.prd := by unfold State.runTo; split <;> rfl
@[simp] theorem runTo_arc (t : Nat) : (s.runTo t).arc = s.arc := by unfold State.runTo; split <;> rfl
@[simp] theorem runTo_lmu (t : Nat) : (s.runTo t).lmu = s.lmu := by unfold State.runTo; split <;> rfl
@[simp] theorem runTo_nrg (t : Nat) : (s.runTo t).nrg = s.nrg := by unfold State.runTo; split <;> rfl
@[simp] theorem runTo_cap (t : Nat) : (s.runTo t).cap = s.cap := by unfold State.runTo; split <;> rfl
@[simp] theorem runTo_dpx (t : Nat) : (s.runTo t).dpx = s.dpx := by unfold State.runTo; split <;> rfl
@[simp] theorem runTo_jtag (t : Nat) : (s.runTo t).jtag = s.jtag := by unfold State.runTo; split <;> rfl

/-! ### runToMono -/
@[simp] theorem runToMono_pending (m : Nat) : (s.runToMono m).pending = s.pending := by unfold State.runToMono; split <;> rfl
@[simp] theorem runToMono_regs (m : Nat) : (s.runToMono m).regs = s.regs := by unfold State.runToMono; split <;> rfl
@[simp] theorem runToMono_isSealed (m : Nat) : (s.runToMono m).isSealed = s.isSealed := by unfold State.runToMono; split <;> rfl
@[simp] theorem runToMono_latched (m : Nat) : (s.runToMono m).latched = s.latched := by unfold State.runToMono; split <;> rfl
@[simp] theorem runToMono_readData (m : Nat) : (s.runToMono m).readData = s.readData := by unfold State.runToMono; split <;> rfl
@[simp] theorem runToMono_free (m : Nat) : (s.runToMono m).free = s.free := by unfold State.runToMono; split <;> rfl
@[simp] theorem runToMono_hif (m : Nat) : (s.runToMono m).hif = s.hif := by unfold State.runToMono; split <;> rfl
@[simp] theorem runToMono_evr (m : Nat) : (s.runToMono m).evr = s.evr := by unfold State.runToMono; split <;> rfl
@[simp] theorem runToMono_tck (m : Nat) : (s.runToMono m).tck = s.tck := by unfold State.runToMono; split <;> rfl
@[simp] theorem runToMono_sch (m : Nat) : (s.runToMono m).sch = s.sch := by unfold State.runToMono; split <;> rfl
@[simp] theorem runToMono_nvm (m : Nat) : (s.runToMono m).nvm = s.nvm := by unfold State.runToMono; split <;> rfl
@[simp] theorem runToMono_aon (m : Nat) : (s.runToMono m).aon = s.aon := by unfold State.runToMono; split <;> rfl
@[simp] theorem runToMono_sec (m : Nat) : (s.runToMono m).sec = s.sec := by unfold State.runToMono; split <;> rfl
@[simp] theorem runToMono_clk (m : Nat) : (s.runToMono m).clk = s.clk := by unfold State.runToMono; split <;> rfl
@[simp] theorem runToMono_pwr (m : Nat) : (s.runToMono m).pwr = s.pwr := by unfold State.runToMono; split <;> rfl
@[simp] theorem runToMono_sys (m : Nat) : (s.runToMono m).sys = s.sys := by unfold State.runToMono; split <;> rfl
@[simp] theorem runToMono_gzl (m : Nat) : (s.runToMono m).gzl = s.gzl := by unfold State.runToMono; split <;> rfl
@[simp] theorem runToMono_prt (m : Nat) : (s.runToMono m).prt = s.prt := by unfold State.runToMono; split <;> rfl
@[simp] theorem runToMono_hdg (m : Nat) : (s.runToMono m).hdg = s.hdg := by unfold State.runToMono; split <;> rfl
@[simp] theorem runToMono_bsn (m : Nat) : (s.runToMono m).bsn = s.bsn := by unfold State.runToMono; split <;> rfl
@[simp] theorem runToMono_mod (m : Nat) : (s.runToMono m).mod = s.mod := by unfold State.runToMono; split <;> rfl
@[simp] theorem runToMono_top (m : Nat) : (s.runToMono m).top = s.top := by unfold State.runToMono; split <;> rfl
@[simp] theorem runToMono_alm (m : Nat) : (s.runToMono m).alm = s.alm := by unfold State.runToMono; split <;> rfl
@[simp] theorem runToMono_prd (m : Nat) : (s.runToMono m).prd = s.prd := by unfold State.runToMono; split <;> rfl
@[simp] theorem runToMono_arc (m : Nat) : (s.runToMono m).arc = s.arc := by unfold State.runToMono; split <;> rfl
@[simp] theorem runToMono_lmu (m : Nat) : (s.runToMono m).lmu = s.lmu := by unfold State.runToMono; split <;> rfl
@[simp] theorem runToMono_nrg (m : Nat) : (s.runToMono m).nrg = s.nrg := by unfold State.runToMono; split <;> rfl
@[simp] theorem runToMono_cap (m : Nat) : (s.runToMono m).cap = s.cap := by unfold State.runToMono; split <;> rfl
@[simp] theorem runToMono_dpx (m : Nat) : (s.runToMono m).dpx = s.dpx := by unfold State.runToMono; split <;> rfl
@[simp] theorem runToMono_jtag (m : Nat) : (s.runToMono m).jtag = s.jtag := by unfold State.runToMono; split <;> rfl

/-! ### setRing -/
@[simp] theorem setRing_pending (n : Nat) (r : Ring) : (s.setRing n r).pending = s.pending := rfl
@[simp] theorem setRing_regs (n : Nat) (r : Ring) : (s.setRing n r).regs = s.regs := rfl
@[simp] theorem setRing_isSealed (n : Nat) (r : Ring) : (s.setRing n r).isSealed = s.isSealed := rfl
@[simp] theorem setRing_latched (n : Nat) (r : Ring) : (s.setRing n r).latched = s.latched := rfl
@[simp] theorem setRing_readData (n : Nat) (r : Ring) : (s.setRing n r).readData = s.readData := rfl
@[simp] theorem setRing_free (n : Nat) (r : Ring) : (s.setRing n r).free = s.free := rfl
@[simp] theorem setRing_evr (n : Nat) (r : Ring) : (s.setRing n r).evr = s.evr := rfl
@[simp] theorem setRing_tim (n : Nat) (r : Ring) : (s.setRing n r).tim = s.tim := rfl
@[simp] theorem setRing_tck (n : Nat) (r : Ring) : (s.setRing n r).tck = s.tck := rfl
@[simp] theorem setRing_sch (n : Nat) (r : Ring) : (s.setRing n r).sch = s.sch := rfl
@[simp] theorem setRing_nvm (n : Nat) (r : Ring) : (s.setRing n r).nvm = s.nvm := rfl
@[simp] theorem setRing_aon (n : Nat) (r : Ring) : (s.setRing n r).aon = s.aon := rfl
@[simp] theorem setRing_sec (n : Nat) (r : Ring) : (s.setRing n r).sec = s.sec := rfl
@[simp] theorem setRing_clk (n : Nat) (r : Ring) : (s.setRing n r).clk = s.clk := rfl
@[simp] theorem setRing_pwr (n : Nat) (r : Ring) : (s.setRing n r).pwr = s.pwr := rfl
@[simp] theorem setRing_sys (n : Nat) (r : Ring) : (s.setRing n r).sys = s.sys := rfl
@[simp] theorem setRing_gzl (n : Nat) (r : Ring) : (s.setRing n r).gzl = s.gzl := rfl
@[simp] theorem setRing_prt (n : Nat) (r : Ring) : (s.setRing n r).prt = s.prt := rfl
@[simp] theorem setRing_hdg (n : Nat) (r : Ring) : (s.setRing n r).hdg = s.hdg := rfl
@[simp] theorem setRing_bsn (n : Nat) (r : Ring) : (s.setRing n r).bsn = s.bsn := rfl
@[simp] theorem setRing_mod (n : Nat) (r : Ring) : (s.setRing n r).mod = s.mod := rfl
@[simp] theorem setRing_top (n : Nat) (r : Ring) : (s.setRing n r).top = s.top := rfl
@[simp] theorem setRing_alm (n : Nat) (r : Ring) : (s.setRing n r).alm = s.alm := rfl
@[simp] theorem setRing_prd (n : Nat) (r : Ring) : (s.setRing n r).prd = s.prd := rfl
@[simp] theorem setRing_arc (n : Nat) (r : Ring) : (s.setRing n r).arc = s.arc := rfl
@[simp] theorem setRing_lmu (n : Nat) (r : Ring) : (s.setRing n r).lmu = s.lmu := rfl
@[simp] theorem setRing_nrg (n : Nat) (r : Ring) : (s.setRing n r).nrg = s.nrg := rfl
@[simp] theorem setRing_cap (n : Nat) (r : Ring) : (s.setRing n r).cap = s.cap := rfl
@[simp] theorem setRing_dpx (n : Nat) (r : Ring) : (s.setRing n r).dpx = s.dpx := rfl
@[simp] theorem setRing_jtag (n : Nat) (r : Ring) : (s.setRing n r).jtag = s.jtag := rfl

/-! ### queueEvent -/
@[simp] theorem queueEvent_pending (r : List Word) : (s.queueEvent r).pending = s.pending := by simp only [State.queueEvent]; split <;> simp
@[simp] theorem queueEvent_isSealed (r : List Word) : (s.queueEvent r).isSealed = s.isSealed := by simp only [State.queueEvent]; split <;> simp
@[simp] theorem queueEvent_latched (r : List Word) : (s.queueEvent r).latched = s.latched := by simp only [State.queueEvent]; split <;> simp
@[simp] theorem queueEvent_readData (r : List Word) : (s.queueEvent r).readData = s.readData := by simp only [State.queueEvent]; split <;> simp
@[simp] theorem queueEvent_free (r : List Word) : (s.queueEvent r).free = s.free := by simp only [State.queueEvent]; split <;> simp
@[simp] theorem queueEvent_hif (r : List Word) : (s.queueEvent r).hif = s.hif := by simp only [State.queueEvent]; split <;> simp
@[simp] theorem queueEvent_tim (r : List Word) : (s.queueEvent r).tim = s.tim := by simp only [State.queueEvent]; split <;> simp
@[simp] theorem queueEvent_tck (r : List Word) : (s.queueEvent r).tck = s.tck := by simp only [State.queueEvent]; split <;> simp
@[simp] theorem queueEvent_sch (r : List Word) : (s.queueEvent r).sch = s.sch := by simp only [State.queueEvent]; split <;> simp
@[simp] theorem queueEvent_nvm (r : List Word) : (s.queueEvent r).nvm = s.nvm := by simp only [State.queueEvent]; split <;> simp
@[simp] theorem queueEvent_aon (r : List Word) : (s.queueEvent r).aon = s.aon := by simp only [State.queueEvent]; split <;> simp
@[simp] theorem queueEvent_sec (r : List Word) : (s.queueEvent r).sec = s.sec := by simp only [State.queueEvent]; split <;> simp
@[simp] theorem queueEvent_clk (r : List Word) : (s.queueEvent r).clk = s.clk := by simp only [State.queueEvent]; split <;> simp
@[simp] theorem queueEvent_pwr (r : List Word) : (s.queueEvent r).pwr = s.pwr := by simp only [State.queueEvent]; split <;> simp
@[simp] theorem queueEvent_sys (r : List Word) : (s.queueEvent r).sys = s.sys := by simp only [State.queueEvent]; split <;> simp
@[simp] theorem queueEvent_gzl (r : List Word) : (s.queueEvent r).gzl = s.gzl := by simp only [State.queueEvent]; split <;> simp
@[simp] theorem queueEvent_prt (r : List Word) : (s.queueEvent r).prt = s.prt := by simp only [State.queueEvent]; split <;> simp
@[simp] theorem queueEvent_hdg (r : List Word) : (s.queueEvent r).hdg = s.hdg := by simp only [State.queueEvent]; split <;> simp
@[simp] theorem queueEvent_bsn (r : List Word) : (s.queueEvent r).bsn = s.bsn := by simp only [State.queueEvent]; split <;> simp
@[simp] theorem queueEvent_mod (r : List Word) : (s.queueEvent r).mod = s.mod := by simp only [State.queueEvent]; split <;> simp
@[simp] theorem queueEvent_top (r : List Word) : (s.queueEvent r).top = s.top := by simp only [State.queueEvent]; split <;> simp
@[simp] theorem queueEvent_alm (r : List Word) : (s.queueEvent r).alm = s.alm := by simp only [State.queueEvent]; split <;> simp
@[simp] theorem queueEvent_prd (r : List Word) : (s.queueEvent r).prd = s.prd := by simp only [State.queueEvent]; split <;> simp
@[simp] theorem queueEvent_arc (r : List Word) : (s.queueEvent r).arc = s.arc := by simp only [State.queueEvent]; split <;> simp
@[simp] theorem queueEvent_lmu (r : List Word) : (s.queueEvent r).lmu = s.lmu := by simp only [State.queueEvent]; split <;> simp
@[simp] theorem queueEvent_nrg (r : List Word) : (s.queueEvent r).nrg = s.nrg := by simp only [State.queueEvent]; split <;> simp
@[simp] theorem queueEvent_cap (r : List Word) : (s.queueEvent r).cap = s.cap := by simp only [State.queueEvent]; split <;> simp
@[simp] theorem queueEvent_dpx (r : List Word) : (s.queueEvent r).dpx = s.dpx := by simp only [State.queueEvent]; split <;> simp
@[simp] theorem queueEvent_jtag (r : List Word) : (s.queueEvent r).jtag = s.jtag := by simp only [State.queueEvent]; split <;> simp

/-! ### event -/
@[simp] theorem event_pending (code : Nat) (cls : Nat) (data : List Word) (src : EventSource) : (s.event code cls data src).pending = s.pending := by unfold State.event; simp
@[simp] theorem event_isSealed (code : Nat) (cls : Nat) (data : List Word) (src : EventSource) : (s.event code cls data src).isSealed = s.isSealed := by unfold State.event; simp
@[simp] theorem event_latched (code : Nat) (cls : Nat) (data : List Word) (src : EventSource) : (s.event code cls data src).latched = s.latched := by unfold State.event; simp
@[simp] theorem event_readData (code : Nat) (cls : Nat) (data : List Word) (src : EventSource) : (s.event code cls data src).readData = s.readData := by unfold State.event; simp
@[simp] theorem event_free (code : Nat) (cls : Nat) (data : List Word) (src : EventSource) : (s.event code cls data src).free = s.free := by unfold State.event; simp
@[simp] theorem event_hif (code : Nat) (cls : Nat) (data : List Word) (src : EventSource) : (s.event code cls data src).hif = s.hif := by unfold State.event; simp
@[simp] theorem event_tim (code : Nat) (cls : Nat) (data : List Word) (src : EventSource) : (s.event code cls data src).tim = s.tim := by unfold State.event; simp
@[simp] theorem event_tck (code : Nat) (cls : Nat) (data : List Word) (src : EventSource) : (s.event code cls data src).tck = s.tck := by unfold State.event; simp
@[simp] theorem event_sch (code : Nat) (cls : Nat) (data : List Word) (src : EventSource) : (s.event code cls data src).sch = s.sch := by unfold State.event; simp
@[simp] theorem event_nvm (code : Nat) (cls : Nat) (data : List Word) (src : EventSource) : (s.event code cls data src).nvm = s.nvm := by unfold State.event; simp
@[simp] theorem event_aon (code : Nat) (cls : Nat) (data : List Word) (src : EventSource) : (s.event code cls data src).aon = s.aon := by unfold State.event; simp
@[simp] theorem event_sec (code : Nat) (cls : Nat) (data : List Word) (src : EventSource) : (s.event code cls data src).sec = s.sec := by unfold State.event; simp
@[simp] theorem event_clk (code : Nat) (cls : Nat) (data : List Word) (src : EventSource) : (s.event code cls data src).clk = s.clk := by unfold State.event; simp
@[simp] theorem event_pwr (code : Nat) (cls : Nat) (data : List Word) (src : EventSource) : (s.event code cls data src).pwr = s.pwr := by unfold State.event; simp
@[simp] theorem event_sys (code : Nat) (cls : Nat) (data : List Word) (src : EventSource) : (s.event code cls data src).sys = s.sys := by unfold State.event; simp
@[simp] theorem event_gzl (code : Nat) (cls : Nat) (data : List Word) (src : EventSource) : (s.event code cls data src).gzl = s.gzl := by unfold State.event; simp
@[simp] theorem event_prt (code : Nat) (cls : Nat) (data : List Word) (src : EventSource) : (s.event code cls data src).prt = s.prt := by unfold State.event; simp
@[simp] theorem event_hdg (code : Nat) (cls : Nat) (data : List Word) (src : EventSource) : (s.event code cls data src).hdg = s.hdg := by unfold State.event; simp
@[simp] theorem event_bsn (code : Nat) (cls : Nat) (data : List Word) (src : EventSource) : (s.event code cls data src).bsn = s.bsn := by unfold State.event; simp
@[simp] theorem event_mod (code : Nat) (cls : Nat) (data : List Word) (src : EventSource) : (s.event code cls data src).mod = s.mod := by unfold State.event; simp
@[simp] theorem event_top (code : Nat) (cls : Nat) (data : List Word) (src : EventSource) : (s.event code cls data src).top = s.top := by unfold State.event; simp
@[simp] theorem event_alm (code : Nat) (cls : Nat) (data : List Word) (src : EventSource) : (s.event code cls data src).alm = s.alm := by unfold State.event; simp
@[simp] theorem event_prd (code : Nat) (cls : Nat) (data : List Word) (src : EventSource) : (s.event code cls data src).prd = s.prd := by unfold State.event; simp
@[simp] theorem event_arc (code : Nat) (cls : Nat) (data : List Word) (src : EventSource) : (s.event code cls data src).arc = s.arc := by unfold State.event; simp
@[simp] theorem event_lmu (code : Nat) (cls : Nat) (data : List Word) (src : EventSource) : (s.event code cls data src).lmu = s.lmu := by unfold State.event; simp
@[simp] theorem event_nrg (code : Nat) (cls : Nat) (data : List Word) (src : EventSource) : (s.event code cls data src).nrg = s.nrg := by unfold State.event; simp
@[simp] theorem event_cap (code : Nat) (cls : Nat) (data : List Word) (src : EventSource) : (s.event code cls data src).cap = s.cap := by unfold State.event; simp
@[simp] theorem event_dpx (code : Nat) (cls : Nat) (data : List Word) (src : EventSource) : (s.event code cls data src).dpx = s.dpx := by unfold State.event; simp
@[simp] theorem event_jtag (code : Nat) (cls : Nat) (data : List Word) (src : EventSource) : (s.event code cls data src).jtag = s.jtag := by unfold State.event; simp

end State

end Sys2Proof.Machine
end

