-- ==== Sys2Proof/Laws/Maps.lean ====
section
/-! SUPPORT. What the sparse maps, the registers and the rings hold after a write, and that every write keeps the canonical form. -/
namespace Sys2Proof.Machine

/-! ### Sparse maps -/

theorem mapGet_mapSet_self {α : Type} (m : List (Nat × α)) (a : Nat) (v : α) : mapGet (mapSet m a v) a = some v := by
  induction m with
  | nil => simp [mapSet, mapGet]
  | cons e m ih =>
    obtain ⟨k, w⟩ := e
    unfold mapSet
    split
    · simp [mapGet]
    · split
      · simp [mapGet]
      · rename_i h
        simp [mapGet, ih, Ne.symm h]

theorem mapGet_mapSet_ne {α : Type} (m : List (Nat × α)) {a b : Nat} (v : α) (h : b ≠ a) : mapGet (mapSet m a v) b = mapGet m b := by
  induction m with
  | nil => simp [mapSet, mapGet, Ne.symm h]
  | cons e m ih =>
    obtain ⟨k, w⟩ := e
    unfold mapSet
    split
    · simp [mapGet, Ne.symm h]
    · split
      · subst_vars
        simp [mapGet, Ne.symm h]
      · simp [mapGet, ih]

theorem mapGet_mapDel_self {α : Type} (m : List (Nat × α)) (a : Nat) : mapGet (mapDel m a) a = none := by
  induction m with
  | nil => rfl
  | cons e m ih =>
    obtain ⟨k, w⟩ := e
    unfold mapDel
    split
    · exact ih
    · rename_i h
      simp [mapGet, h, ih]

theorem mapGet_mapDel_ne {α : Type} (m : List (Nat × α)) {a b : Nat} (h : b ≠ a) : mapGet (mapDel m a) b = mapGet m b := by
  induction m with
  | nil => rfl
  | cons e m ih =>
    obtain ⟨k, w⟩ := e
    unfold mapDel
    split
    · subst_vars
      simp [mapGet, ih, Ne.symm h]
    · simp [mapGet, ih]

/-- Every entry of a map with one key set is that entry or was in the map. -/
theorem mem_mapSet {α : Type} {m : List (Nat × α)} {a : Nat} {v : α} {e : Nat × α} (h : e ∈ mapSet m a v) : e = (a, v) ∨ e ∈ m := by
  induction m with
  | nil => simpa [mapSet] using h
  | cons x m ih =>
    obtain ⟨k, w⟩ := x
    unfold mapSet at h
    split at h
    · simpa using h
    · split at h
      · rcases List.mem_cons.1 h with h | h
        · exact .inl h
        · exact .inr (List.mem_cons_of_mem _ h)
      · rcases List.mem_cons.1 h with h | h
        · exact .inr (h ▸ List.mem_cons_self ..)
        · exact (ih h).imp id (List.mem_cons_of_mem _)

/-- Every entry of a map with one key removed was in the map. -/
theorem mem_mapDel {α : Type} {m : List (Nat × α)} {a : Nat} {e : Nat × α} (h : e ∈ mapDel m a) : e ∈ m := by
  induction m with
  | nil => exact h
  | cons x m ih =>
    obtain ⟨k, w⟩ := x
    unfold mapDel at h
    split at h
    · exact List.mem_cons_of_mem _ (ih h)
    · rcases List.mem_cons.1 h with h | h
      · exact h ▸ List.mem_cons_self ..
      · exact List.mem_cons_of_mem _ (ih h)

theorem mapWf_mapSet {α : Type} (m : List (Nat × α)) (a : Nat) (v : α) (h : mapWf m = true) : mapWf (mapSet m a v) = true := by
  induction m with
  | nil => rfl
  | cons x m ih =>
    obtain ⟨k, w⟩ := x
    obtain ⟨hk, hm⟩ := Bool.and_eq_true_iff.1 h
    have hk' := List.all_eq_true.1 hk
    unfold mapSet
    split
    · rename_i hlt
      refine Bool.and_eq_true_iff.2 ⟨List.all_eq_true.2 fun e he => ?_, h⟩
      rcases List.mem_cons.1 he with rfl | he
      · simpa using hlt
      · have := of_decide_eq_true (hk' e he)
        exact decide_eq_true (Nat.lt_trans hlt this)
    · split
      · subst_vars
        exact h
      · refine Bool.and_eq_true_iff.2 ⟨List.all_eq_true.2 fun e he => ?_, ih hm⟩
        rcases mem_mapSet he with rfl | he
        · exact decide_eq_true (by dsimp only; omega)
        · exact hk' e he

theorem mapWf_mapDel {α : Type} (m : List (Nat × α)) (a : Nat) (h : mapWf m = true) : mapWf (mapDel m a) = true := by
  induction m with
  | nil => rfl
  | cons x m ih =>
    obtain ⟨k, w⟩ := x
    obtain ⟨hk, hm⟩ := Bool.and_eq_true_iff.1 h
    unfold mapDel
    split
    · exact ih hm
    · exact Bool.and_eq_true_iff.2 ⟨List.all_eq_true.2 fun e he => List.all_eq_true.1 hk e (mem_mapDel he), ih hm⟩

/-! ### Registers -/

@[simp] theorem State.reg_setReg_self (s : State) (off : Nat) (v : Word) : (s.setReg off v).reg off = v := by
  unfold State.setReg State.reg
  dsimp only
  split
  · rw [mapGet_mapDel_self]
    exact Eq.symm ‹_›
  · rw [mapGet_mapSet_self]
    rfl

theorem State.reg_setReg_ne (s : State) {off o : Nat} (v : Word) (h : o ≠ off) : (s.setReg off v).reg o = s.reg o := by
  unfold State.setReg State.reg
  dsimp only
  split
  · rw [mapGet_mapDel_ne _ h]
  · rw [mapGet_mapSet_ne _ _ h]

theorem State.reg_add_self (s : State) (off n : Nat) : (s.add off n).reg off = s.reg off + w32 n := by
  unfold State.add
  split
  · subst_vars
    exact (BitVec.add_zero _).symm
  · rw [State.reg_setReg_self]

theorem State.reg_add_ne (s : State) {off o : Nat} (n : Nat) (h : o ≠ off) : (s.add off n).reg o = s.reg o := by
  unfold State.add
  split
  · rfl
  · exact State.reg_setReg_ne _ _ h

@[simp] theorem State.reg_inc_self (s : State) (off : Nat) : (s.inc off).reg off = s.reg off + 1 := State.reg_add_self s off 1

theorem State.reg_inc_ne (s : State) {off o : Nat} (h : o ≠ off) : (s.inc off).reg o = s.reg o := State.reg_add_ne s 1 h

@[simp] theorem State.reg_setBits_self (s : State) (off : Nat) (m : Word) : (s.setBits off m).reg off = s.reg off ||| m :=
  State.reg_setReg_self _ _ _

theorem State.reg_setBits_ne (s : State) {off o : Nat} (m : Word) (h : o ≠ off) : (s.setBits off m).reg o = s.reg o :=
  State.reg_setReg_ne _ _ h

theorem State.setReg_regs_only (s : State) (off : Nat) (v : Word) : s.setReg off v = { s with regs := (s.setReg off v).regs } := rfl

theorem State.add_regs_only (s : State) (off n : Nat) : s.add off n = { s with regs := (s.add off n).regs } := by
  unfold State.add
  split <;> rfl

theorem State.inc_regs_only (s : State) (off : Nat) : s.inc off = { s with regs := (s.inc off).regs } := State.add_regs_only s off 1

/-! ### Rings -/

@[simp] theorem State.ring_setRing_self (s : State) (n : Nat) (r : Ring) : (s.setRing n r).ring n = r := by
  unfold State.setRing State.ring State.onHif
  dsimp only
  split
  · rw [mapGet_mapDel_self]
    exact Eq.symm ‹_›
  · rw [mapGet_mapSet_self]
    rfl

theorem State.ring_setRing_ne (s : State) {n m : Nat} (r : Ring) (h : m ≠ n) : (s.setRing n r).ring m = s.ring m := by
  unfold State.setRing State.ring State.onHif
  dsimp only
  split
  · rw [mapGet_mapDel_ne _ h]
  · rw [mapGet_mapSet_ne _ _ h]

end Sys2Proof.Machine
end

