-- ==== Sys2Proof/Laws/Commands.lean ====
section
/-! SUPPORT. What the shared operations can do, said once: a command of a command ring, running to a moment, emitting an instant, opening a column,
muting the outputs, loading a key. -/
namespace Sys2Proof.Machine

/-! ### Commands of the command rings (R399, R405, R486) -/

/-- A command that is served and completes at once. -/
theorem State.command_done (s : State) (h : CmdHdr) (b : Bool) (body : CmdRef → State → State × CmdEnd) (hc : s.canAccept h = true)
    (ht : s.sys.tampered = false ∨ b = true) (t : State) (r : CmdResult) (hb : body (s.refOf h) (s.commandTaken h) = (t, .done r)) :
    s.command h b body = s.done h r t := by
  have ht' : (s.sys.tampered && !b) = false := by rcases ht with h | h <;> simp [h]
  unfold State.commandTaken at hb
  unfold State.command
  simp only [hc, ht', hb, Bool.not_true, Bool.false_eq_true, if_false]
  rfl

/-- A command that is served and becomes one of the long commands, while fewer than 32 are in progress. -/
theorem State.command_long (s : State) (h : CmdHdr) (b : Bool) (body : CmdRef → State → State × CmdEnd) (hc : s.canAccept h = true)
    (ht : s.sys.tampered = false ∨ b = true) (hl : s.hif.outstanding.length < 32) (t : State)
    (hb : body (s.refOf h) (s.commandTaken h) = (t, .long)) : s.command h b body = s.begun h t := by
  have ht' : (s.sys.tampered && !b) = false := by rcases ht with h | h <;> simp [h]
  unfold State.commandTaken at hb
  unfold State.command
  simp only [hc, ht', hb, Bool.not_true, Bool.false_eq_true, if_false, Nat.not_le.2 hl]
  rfl

/-- A command that is served and completes later, its ring waiting for it. -/
theorem State.command_later (s : State) (h : CmdHdr) (b : Bool) (body : CmdRef → State → State × CmdEnd) (hc : s.canAccept h = true)
    (ht : s.sys.tampered = false ∨ b = true) (t : State) (hb : body (s.refOf h) (s.commandTaken h) = (t, .later)) :
    s.command h b body = t.onHif fun x => { x with blocking := x.blocking ++ [s.refOf h] } := by
  have ht' : (s.sys.tampered && !b) = false := by rcases ht with h | h <;> simp [h]
  unfold State.commandTaken at hb
  unfold State.command
  simp only [hc, ht', hb, Bool.not_true, Bool.false_eq_true, if_false]

/-- A command that is not read changes nothing. -/
theorem State.command_unread (s : State) (h : CmdHdr) (b : Bool) (body : CmdRef → State → State × CmdEnd) (hc : s.canAccept h = false) :
    s.command h b body = s := by simp [State.command, hc]

/-- In TAMPERED a command that is not served completes with TAMPER. -/
theorem State.command_tampered (s : State) (h : CmdHdr) (body : CmdRef → State → State × CmdEnd) (hc : s.canAccept h = true)
    (ht : s.sys.tampered = true) :
    s.command h false body = (s.commandTaken h).complete (s.refOf h) { status := stTamper } := by
  simp [State.command, hc, ht, State.commandTaken]

/-! ### The passing of time -/

/-- Running to a moment of the timebase changes its two clocks only. -/
theorem State.runTo_tim (s : State) (t : Nat) :
    (s.runTo t).tim = { s.tim with now := (s.runTo t).tim.now, mono := (s.runTo t).tim.mono } := by
  unfold State.runTo; split <;> rfl

/-- Running to a moment of the device time changes its two clocks only. -/
theorem State.runToMono_tim (s : State) (m : Nat) :
    (s.runToMono m).tim = { s.tim with now := (s.runToMono m).tim.now, mono := (s.runToMono m).tim.mono } := by
  unfold State.runToMono; split <;> rfl

theorem State.runTo_eq (s : State) (t : Nat) :
    s.runTo t = { s with tim := { s.tim with now := (s.runTo t).tim.now, mono := (s.runTo t).tim.mono } } := by
  unfold State.runTo; split <;> rfl

theorem State.runToMono_eq (s : State) (m : Nat) :
    s.runToMono m = { s with tim := { s.tim with now := (s.runToMono m).tim.now, mono := (s.runToMono m).tim.mono } } := by
  unfold State.runToMono; split <;> rfl

theorem State.runTo_now (s : State) (t : Nat) (h : s.tim.now < t) (g : t < timeModulus) : (s.runTo t).tim.now = t := by
  unfold State.runTo; rw [if_pos h]; unfold State.run State.onTim
  show (s.tim.now + (t - s.tim.now)) % timeModulus = t
  rw [Nat.add_sub_cancel' (Nat.le_of_lt h), Nat.mod_eq_of_lt g]

theorem State.runTo_of_le (s : State) (t : Nat) (h : t ≤ s.tim.now) : s.runTo t = s := by
  unfold State.runTo; rw [if_neg (Nat.not_lt.2 h)]

theorem State.runToMono_mono (s : State) (m : Nat) : (s.runToMono m).tim.mono = max s.tim.mono m := by
  unfold State.runToMono
  split
  · show s.tim.mono + (m - s.tim.mono) = _; omega
  · omega

/-! ### Instants and columns (R35, R36, R158) -/

/-- Emitting an instant changes the sequencer's numbering, the emitted column, TICK_OUT and the estimates owed. -/
theorem State.emitInstant_eq (s : State) : s.emitInstant = { s with
    tim := { s.tim with tickRise := s.emitInstant.tim.tickRise }
    tck := { s.tck with lastInstant := some s.tck.nextInstant, nextId := s.tck.nextId + 1, nextInstant := gridNext s.fm s.tck.nextInstant }
    bsn := { s.bsn with cols := s.bsn.cols.map fun c => if c.tick = s.tck.nextId then { c with emitted := true } else c }
    lmu := s.emitInstant.lmu } := by
  unfold State.emitInstant State.tickOut; dsimp only; split <;> rfl

/-- Opening a column adds it to the open ones and moves the sequencer to the next. -/
theorem State.openColumn_eq (s : State) : ∃ c : Column, s.openColumn = { s with
    tck := { s.tck with openId := s.tck.openId + 1, openInstant := gridNext s.fm s.tck.openInstant, afterStep := false }
    bsn := { s.bsn with cols := (s.bsn.cols.filter fun y => decide (s.tck.openId < y.tick + 24)) ++ [c] } } ∧
    c.tick = s.tck.openId ∧ c.sec = s.tck.openInstant.1 ∧ c.index = s.tck.openInstant.2 ∧ c.closed = false ∧ c.ended = false :=
  ⟨_, rfl, rfl, rfl, rfl, rfl, rfl⟩

/-! ### Completions (R403, R405): only the host interface and the registers change -/

/-- From `s` to `t` only the host interface and the registers change. -/
@[reducible] def HostOnly (s t : State) : Prop := t = { s with hif := t.hif, regs := t.regs }
theorem HostOnly.trans {s t u : State} (h : HostOnly s t) (g : HostOnly t u) : HostOnly s u := by
  unfold HostOnly at *; rw [g, h]
theorem State.inc_host (s : State) (off : Nat) : HostOnly s (s.inc off) := by unfold HostOnly; rw [State.inc_regs_only]
theorem State.checkFire_host (s : State) (n : Nat) : HostOnly s (s.checkFire n) := by
  unfold State.checkFire
  extract_lets
  split
  · unfold State.fire
    extract_lets
    split
    · rfl
    · exact HostOnly.trans (t := s.setRing n _) rfl (State.inc_host _ _)
  · rfl
theorem State.complete_hif (s : State) (c : CmdRef) (r : CmdResult) : HostOnly s (s.complete c r) := by
  unfold State.complete
  split
  · rfl
  extract_lets s1 s2
  have h1 : HostOnly s s1 := s.inc_host _
  have h2 : HostOnly s s2 := h1.trans (by unfold s2; split; · rfl
                                          · exact s1.inc_host _)
  clear_value s2
  refine h2.trans ?_
  unfold State.post
  split
  · rfl
  split
  · unfold State.writeCompletion
    extract_lets
    exact HostOnly.trans (t := s2.setRing _ _) rfl (State.checkFire_host _ _)
  · rfl

/-! ### What a change of role does to the outputs (R22, R439): only port queues, counters and the pulse outputs change, and on muting the records of backlogs
that end -/

/-- From `s` to `t` only registers, ports and the energy unit change. -/
@[reducible] def OutputsOnly (s t : State) : Prop := t = { s with regs := t.regs, prt := t.prt, nrg := t.nrg }
theorem State.foldl_outputs {α : Type} (f : State → α → State) (h : ∀ x a, OutputsOnly x (f x a)) (l : List α) (s : State) :
    OutputsOnly s (l.foldl f s) := by
  induction l generalizing s with
  | nil => rfl
  | cons a l ih => have g := ih (f s a); unfold OutputsOnly at *; rw [List.foldl_cons, g, h s a]
/-- A device that does not mute: its pulse outputs restart if it unmutes. -/
theorem State.gateFrom_outputs (s old : State) (h : s.gateOpen = true ∨ old.gateOpen = false) : OutputsOnly s (s.gateFrom old) := by
  unfold State.gateFrom
  rw [if_neg (by rcases h with h | h <;> simp [h])]
  split
  · have g := State.foldl_outputs State.pulseRef (fun x n => rfl) (List.range 8) (s.onNrg fun n => { n with follows := false })
    unfold OutputsOnly at *; exact g
  · rfl

/-- From `s` to `t` only registers, ports, the energy unit, the recorder's queue, the host interface and the records being written change: what forming a record can touch. -/
@[reducible] def RecordsOnly (s t : State) : Prop := t = { s with regs := t.regs, prt := t.prt, nrg := t.nrg, evr := t.evr, hif := t.hif, bsn := t.bsn }
theorem RecordsOnly.trans {s t u : State} (h : RecordsOnly s t) (g : RecordsOnly t u) : RecordsOnly s u := by
  unfold RecordsOnly at *; rw [g, h]
theorem HostOnly.records {s t : State} (h : HostOnly s t) : RecordsOnly s t := by unfold RecordsOnly HostOnly at *; rw [h]
theorem State.foldl_records {α : Type} (f : State → α → State) (h : ∀ x a, RecordsOnly x (f x a)) (l : List α) (s : State) :
    RecordsOnly s (l.foldl f s) := by
  induction l generalizing s with
  | nil => rfl
  | cons a l ih => exact (h s a).trans (ih _)
theorem State.inc_records (s : State) (off : Nat) : RecordsOnly s (s.inc off) := (s.inc_host off).records
theorem State.event_records (s : State) (code cls : Nat) (data : List Word) (src : EventSource) : RecordsOnly s (s.event code cls data src) := by
  unfold State.event State.queueEvent
  extract_lets
  split
  · unfold State.peak; split <;> rfl
  · exact RecordsOnly.trans (t := State.inc _ _) (RecordsOnly.trans (t := s.onEvr _) rfl (State.inc_records _ _)) rfl
theorem State.post_host (s : State) (n : Nat) (c : Completion) : HostOnly s (s.post n c) := by
  unfold State.post
  split
  · rfl
  split
  · unfold State.writeCompletion
    extract_lets
    exact HostOnly.trans (t := s.setRing n _) rfl (State.checkFire_host _ _)
  · rfl
theorem State.postRecord_records (s : State) (c : Completion) : RecordsOnly s (s.postRecord c) := by
  unfold State.postRecord
  split
  · rfl
  · exact (State.post_host _ _ _).records
theorem State.deliverOr_records (s : State) (n type : Nat) (data : List Byte) (result : List Word) (drop : Nat) :
    RecordsOnly s (s.deliverOr n type data result drop) := by
  have h : RecordsOnly s (s.deliver n type data result).1 := by
    unfold State.deliver State.deliverSlow
    split
    · rfl
    split
    · rfl
    · rename_i b rest _
      have h2 : RecordsOnly s (s.takeBuffer n b rest result).1 := rfl
      generalize s.takeBuffer n b rest result = q at h2
      obtain ⟨s1, base⟩ := q
      dsimp only
      split
      · exact (h2.trans (State.inc_records _ _)).trans (State.postRecord_records _ _)
      · exact h2.trans (State.postRecord_records _ _)
  unfold State.deliverOr
  split <;> rename_i h1 <;> rw [h1] at h
  · exact h
  · exact h.trans (State.inc_records _ _)
theorem State.nrgRecordAt_records (s : State) (code cls source t : Nat) (own : Option EventTime) (value : Word) (count : Nat) :
    RecordsOnly s (s.nrgRecordAt code cls source t own value count) := by
  unfold State.nrgRecordAt
  extract_lets w0 sec ws s1
  have h : RecordsOnly s s1 := State.event_records _ _ _ _ _
  clear_value s1
  split
  · exact h.trans (State.deliverOr_records _ _ _ _ _ _)
  · exact h
/-- Any change of the gate: on muting, records of backlogs that end may go to the recorder and to a ring. -/
theorem State.gateFrom_records (s old : State) : RecordsOnly s (s.gateFrom old) := by
  by_cases h : s.gateOpen = true ∨ old.gateOpen = false
  · have := s.gateFrom_outputs old h
    unfold RecordsOnly OutputsOnly at *; rw [this]
  · unfold State.gateFrom
    rw [if_pos (by simpa [and_comm] using h)]
    refine RecordsOnly.trans (State.foldl_records _ (fun x n => ?_) (List.range 4) s) (State.foldl_records _ (fun x n => ?_) (List.range 8) _)
    · unfold State.purgeMuted
      split
      · rfl
      · unfold State.add; extract_lets; split <;> rfl
    · unfold State.dropBacklog
      extract_lets p s1
      have h1 : RecordsOnly x s1 := rfl
      clear_value s1
      split
      · exact h1
      · exact h1.trans (State.nrgRecordAt_records _ _ _ _ _ _ _ _)

/-! ### The key unit's register and cache (R474 to R477) -/

/-- A key slot whose content can be read is VALID. -/
theorem KeySlot.status_of_content (k : KeySlot) (n : Nat) (h : (k.content n).isSome = true) : k.status n = 1 := by
  unfold KeySlot.status
  by_cases hm : (!markerSound k.marker || !markerValid k.marker) = true
  · unfold KeySlot.content at h; rw [if_pos hm] at h; cases h
  · simp only [Bool.or_eq_true, not_or, Bool.not_eq_true, Bool.not_eq_false'] at hm
    rw [if_neg (by simp [hm.1]), if_neg (by simp [hm.2]), if_pos h]

/-- From `s` to `t` only the key register, the cache, what the unwrap of a sound slot shows, the counts of derivations and jobs and the free values change. -/
@[reducible] def KeyOnly (s t : State) : Prop :=
  (∀ o, o ≠ Reg.secDeriveCnt → o ≠ Reg.secJobCnt → t.reg o = s.reg o) ∧
  t = { s with
    sec := { s.sec with key := t.sec.key, cache := t.sec.cache, slotStatus := t.sec.slotStatus, keyIds := t.sec.keyIds, unwrapped := t.sec.unwrapped }
    regs := t.regs
    free := t.free }
theorem KeyOnly.trans {s t u : State} (h : KeyOnly s t) (g : KeyOnly t u) : KeyOnly s u :=
  ⟨fun o h1 h2 => (g.1 o h1 h2).trans (h.1 o h1 h2), by have h2 := h.2; have g2 := g.2; rw [g2, h2]⟩
theorem State.heldKey_only (s : State) (purpose : Nat) (ctx : List Byte) (slot : Option Nat) : KeyOnly s (s.heldKey purpose ctx slot).1 := by
  unfold State.heldKey
  split
  · exact ⟨fun _ _ _ => rfl, rfl⟩
  · split <;> exact ⟨fun _ _ _ => rfl, rfl⟩
theorem State.heldKey_some (s : State) (purpose : Nat) (ctx : List Byte) (slot : Option Nat) (ko : List Byte)
    (h : (s.heldKey purpose ctx slot).2 = some ko) : ∃ k : MaskedKey, (s.heldKey purpose ctx slot).1.sec.key = some k ∧ k.purpose = purpose ∧ k.ctx = ctx := by
  have a : ∀ k : MaskedKey, k.answers purpose ctx slot = true → k.purpose = purpose ∧ k.ctx = ctx := by
    intro k hk; simp only [MaskedKey.answers, Bool.and_eq_true, decide_eq_true_eq] at hk; exact ⟨hk.1.1, hk.1.2⟩
  unfold State.heldKey at h ⊢
  split
  · rename_i k hk
    obtain ⟨hk1, hk2⟩ := Option.filter_eq_some_iff.1 hk
    exact ⟨k, hk1, a k hk2⟩
  · rename_i hn
    rw [hn] at h
    split
    · rename_i k hc
      exact ⟨k, rfl, a k (by simpa using List.find?_some hc)⟩
    · rename_i hc
      rw [hc] at h; cases h
theorem State.deriveKey_only (s : State) (purpose : Nat) (ctx : List Byte) (slot : Option Nat) (ko : List Byte) :
    KeyOnly s (s.deriveKey purpose ctx slot ko) ∧
    ∃ k : MaskedKey, (s.deriveKey purpose ctx slot ko).sec.key = some k ∧ k.purpose = purpose ∧ k.ctx = ctx := by
  unfold State.deriveKey State.freeBytes
  dsimp only
  refine ⟨⟨fun o h _ => State.reg_inc_ne _ h, ?_⟩, _, by rw [State.inc_regs_only]; rfl, rfl, rfl⟩
  rw [State.inc_regs_only]; rfl
theorem State.loadWrapKey_only (s : State) (n : Nat) : KeyOnly s (s.loadWrapKey n) := by
  unfold State.loadWrapKey
  split
  · rename_i h; have := s.heldKey_only purposeWrap [BitVec.ofNat 8 n] none; rwa [h] at this
  · rename_i h; have := s.heldKey_only purposeWrap [BitVec.ofNat 8 n] none; rw [h] at this
    exact this.trans (State.deriveKey_only _ _ _ _ _).1
theorem State.incJob_only (s : State) : KeyOnly s (s.inc Reg.secJobCnt) :=
  ⟨fun _ _ h => State.reg_inc_ne _ h, by rw [State.inc_regs_only]⟩
/-- The check of a slot that is VALID only shows it. -/
theorem State.checkSlot_only (s : State) (n : Nat) (h : ((s.keySlot n).content n).isSome = true) : KeyOnly s (s.checkSlot n) := by
  have hs := KeySlot.status_of_content _ _ h
  unfold State.checkSlot
  rw [hs]
  exact ⟨fun _ _ _ => rfl, rfl⟩
/-- An unwrap of a slot that can be read. -/
theorem State.unwrapFirst_only (s : State) (n : Nat) (h : ((s.keySlot n).content n).isSome = true) : KeyOnly s (s.unwrapFirst n) := by
  have key {t : State} (ht : KeyOnly s t) : ((t.keySlot n).content n).isSome = true := by
    have : t.nvm = s.nvm := by rw [ht.2]
    unfold State.keySlot at h ⊢; rw [this]; exact h
  unfold State.unwrapFirst
  split
  · exact ⟨fun _ _ _ => rfl, rfl⟩
  · have h1 : KeyOnly s (s.unwrapSlot n) := by
      unfold State.unwrapSlot
      extract_lets m
      split
      · have := (s.loadWrapKey_only n).trans (State.incJob_only _)
        exact this.trans (State.checkSlot_only _ _ (key this))
      · exact State.checkSlot_only _ _ h
    exact h1.trans ⟨fun _ _ _ => rfl, rfl⟩
/-- What the check of a slot, and the unwrap with it, do to the registers. -/
theorem State.event_reg (s : State) (code cls : Nat) (data : List Word) (src : EventSource) (o : Nat) (h1 : o ≠ Reg.evrQueuePeak) (h2 : o ≠ Reg.evrQlostCnt) :
    (s.event code cls data src).reg o = s.reg o := by
  unfold State.event State.queueEvent
  extract_lets
  split
  · unfold State.peak
    split
    · exact State.reg_setReg_ne _ _ h1
    · rfl
  · exact State.reg_inc_ne _ h2
theorem State.checkSlot_reg (s : State) (n o : Nat) (h1 : o ≠ Reg.evrQueuePeak) (h2 : o ≠ Reg.evrQlostCnt) (h3 : o ≠ Reg.secSlotBadCnt) :
    (s.checkSlot n).reg o = s.reg o := by
  unfold State.checkSlot
  extract_lets
  split
  · rw [State.event_reg _ _ _ _ _ _ h1 h2, State.reg_inc_ne _ h3]; rfl
  · rfl
/-- The slot of the link key stays while its key is unwrapped. -/
theorem State.unwrapFirst_linkSlot (s : State) (n : Nat) : (s.unwrapFirst n).linkSlot = s.linkSlot := by
  have key {t u : State} (h : u.reg Reg.gzlCfg = t.reg Reg.gzlCfg) : u.linkSlot = t.linkSlot := by unfold State.linkSlot State.regField; rw [h]
  unfold State.unwrapFirst
  split
  · rfl
  · unfold State.unwrapSlot
    extract_lets m
    split
    · refine key ((State.checkSlot_reg _ _ _ (by decide) (by decide) (by decide)).trans ?_)
      rw [State.reg_inc_ne _ (by decide)]
      exact (s.loadWrapKey_only n).1 _ (by decide) (by decide)
    · exact key (State.checkSlot_reg _ _ _ (by decide) (by decide) (by decide))
/-- The slot of the link key, and what it holds, stay while a key is loaded. -/
theorem KeyOnly.workingKey {s t : State} (h : KeyOnly s t) (purpose : Nat) (ctx : List Byte) : t.workingKey purpose ctx = s.workingKey purpose ctx := by
  have h1 : t.nvm = s.nvm := by rw [h.2]
  have h2 : t.linkSlot = s.linkSlot := by unfold State.linkSlot State.regField; rw [h.1 _ (by decide) (by decide)]
  unfold State.workingKey State.keySlot
  rw [h1, h2]
theorem State.keySlot_nvm {s t : State} (h : t.nvm = s.nvm) (n : Nat) : t.keySlot n = s.keySlot n := by unfold State.keySlot; rw [h]
/-- A key that is found or derived changes the key register, the cache, what the unwrap of the link's slot shows, the counts of derivations and jobs and the free
values only. -/
theorem State.loadKey_some (s : State) (purpose : Nat) (ctx ko : List Byte) (t : State) (h : s.loadKey purpose ctx = (t, some ko)) : ∃ k : MaskedKey,
    t.sec.key = some k ∧ k.purpose = purpose ∧ k.ctx = ctx ∧ KeyOnly s t := by
  unfold State.loadKey at h
  extract_lets slot at h
  split at h
  · simp at h
  split at h
  · rename_i s1 k hk
    cases h
    obtain ⟨k, h1, h2, h3⟩ := s.heldKey_some purpose ctx slot ko (by rw [hk])
    rw [hk] at h1
    exact ⟨k, h1, h2, h3, by have := s.heldKey_only purpose ctx slot; rwa [hk] at this⟩
  · rename_i s1 hk
    have h0 : KeyOnly s s1 := by have := s.heldKey_only purpose ctx slot; rwa [hk] at this
    dsimp only at h
    split at h
    · simp at h
    · rename_i ko' hw
      obtain ⟨h1, h2⟩ := Prod.mk.inj h
      have hd := State.deriveKey_only (s1.unwrapBefore slot) purpose ctx slot ko'
      rw [h1] at hd
      obtain ⟨hd, k, h3, h4, h5⟩ := hd
      refine ⟨k, h3, h4, h5, (h0.trans ?_).trans hd⟩
      by_cases hp : purpose = purposeGreaz
      · have hs : slot = some s.linkSlot := if_pos hp
        rw [hs] at hw ⊢
        refine State.unwrapFirst_only _ _ ?_
        have hk : (s1.unwrapBefore (some s.linkSlot)).nvm.slots = s1.nvm.slots := by
          have := State.unwrapFirst_kept s1 s.linkSlot
          unfold State.kept at this
          simp only [Prod.mk.injEq] at this
          exact this.2.2.2.1
        have hl : (s1.unwrapBefore (some s.linkSlot)).linkSlot = s.linkSlot := by
          refine (State.unwrapFirst_linkSlot _ _).trans ?_
          unfold State.linkSlot State.regField
          rw [h0.1 _ (by decide) (by decide)]
        unfold State.workingKey at hw
        rw [if_pos hp, hl] at hw
        rw [show s1.keySlot s.linkSlot = (s1.unwrapBefore (some s.linkSlot)).keySlot s.linkSlot by unfold State.keySlot; rw [hk]]
        cases hc : ((s1.unwrapBefore (some s.linkSlot)).keySlot s.linkSlot).content s.linkSlot
        · rw [hc] at hw; cases hw
        · rfl
      · have hs : slot = none := if_neg hp
        rw [hs]
        exact ⟨fun _ _ _ => rfl, rfl⟩
/-- A key is found or derived wherever the key unit serves and the slot or the fuses hold one. -/
theorem State.loadKey_isSome (s : State) (purpose : Nat) (ctx : List Byte) (hs : s.keyUnitServes = true) (hw : (s.workingKey purpose ctx).isSome = true) :
    (s.loadKey purpose ctx).2.isSome = true := by
  unfold State.loadKey
  extract_lets slot
  rw [if_neg (by simp [hs])]
  split
  · rfl
  · rename_i s1 hk
    have h0 : KeyOnly s s1 := by have := s.heldKey_only purpose ctx slot; rwa [hk] at this
    dsimp only
    by_cases hp : purpose = purposeGreaz
    · have hsl : slot = some s.linkSlot := if_pos hp
      rw [hsl]
      have h1 : KeyOnly s1 (s1.unwrapFirst s.linkSlot) := by
        refine State.unwrapFirst_only _ _ ?_
        rw [State.keySlot_nvm (t := s1) (s := s) (by rw [h0.2])]
        unfold State.workingKey at hw
        rw [if_pos hp] at hw
        simpa using hw
      rw [show (s1.unwrapBefore (some s.linkSlot)).workingKey purpose ctx = s.workingKey purpose ctx from (h0.trans h1).workingKey _ _]
      obtain ⟨w, hw⟩ := Option.isSome_iff_exists.1 hw
      rw [hw]; rfl
    · have hsl : slot = none := if_neg hp
      rw [hsl, show (s1.unwrapBefore none).workingKey purpose ctx = s.workingKey purpose ctx from h0.workingKey _ _]
      obtain ⟨w, hw⟩ := Option.isSome_iff_exists.1 hw
      rw [hw]; rfl
/-- Finding a key and deriving one count no job themselves. -/
theorem State.heldKey_jobs (s : State) (purpose : Nat) (ctx : List Byte) (slot : Option Nat) :
    (s.heldKey purpose ctx slot).1.reg Reg.secJobCnt = s.reg Reg.secJobCnt ∧ (s.heldKey purpose ctx slot).1.sec.unwrapped = s.sec.unwrapped := by
  unfold State.heldKey
  split
  · exact ⟨rfl, rfl⟩
  · split <;> exact ⟨rfl, rfl⟩
theorem State.deriveKey_jobs (s : State) (purpose : Nat) (ctx : List Byte) (slot : Option Nat) (ko : List Byte) :
    (s.deriveKey purpose ctx slot ko).reg Reg.secJobCnt = s.reg Reg.secJobCnt := by
  unfold State.deriveKey State.freeBytes
  exact State.reg_inc_ne _ (by decide)
/-- The jobs that a load counts: the unwrap before a derivation from a slot that has not been unwrapped since it last changed (R476, R477). -/
theorem State.loadKey_jobs (s : State) (purpose : Nat) (ctx : List Byte) (hs : s.keyUnitServes = true) (hw : (s.workingKey purpose ctx).isSome = true) :
    (s.loadKey purpose ctx).1.reg Reg.secJobCnt = s.reg Reg.secJobCnt +
      (if purpose = purposeGreaz ∧ s.sec.unwrapped.getLsbD s.linkSlot = false ∧ (s.heldKey purpose ctx (some s.linkSlot)).2 = none then 1 else 0) := by
  have hd (x : State) (slot : Option Nat) (ko : List Byte) := x.deriveKey_jobs purpose ctx slot ko
  have hh (slot : Option Nat) := s.heldKey_jobs purpose ctx slot
  unfold State.loadKey
  extract_lets slot
  rw [if_neg (by simp [hs])]
  by_cases hp : purpose = purposeGreaz
  · have hsl : slot = some s.linkSlot := if_pos hp
    rw [hsl]
    obtain ⟨h1, h2⟩ := hh (some s.linkSlot)
    have h0 := s.heldKey_only purpose ctx (some s.linkSlot)
    split
    · rename_i s1 k hk
      rw [hk] at h1 ⊢
      simp [h1]
    · rename_i s1 hk
      rw [hk] at h1 h2 h0 ⊢
      dsimp only at h0 h1 h2 ⊢
      have hc : ((s1.keySlot s.linkSlot).content s.linkSlot).isSome = true := by
        rw [State.keySlot_nvm (t := s1) (s := s) (by rw [h0.2])]
        unfold State.workingKey at hw
        rw [if_pos hp] at hw
        simpa using hw
      have hu : (s1.unwrapBefore (some s.linkSlot)).reg Reg.secJobCnt =
          s.reg Reg.secJobCnt + (if s.sec.unwrapped.getLsbD s.linkSlot = false then 1 else 0) := by
        show (s1.unwrapFirst s.linkSlot).reg Reg.secJobCnt = _
        unfold State.unwrapFirst
        rw [h2]
        by_cases hb : s.sec.unwrapped.getLsbD s.linkSlot = true
        · rw [if_pos hb, h1]; simp [hb]
        · rw [if_neg hb]
          have hm : markerSound (s1.keySlot s.linkSlot).marker = true ∧ markerValid (s1.keySlot s.linkSlot).marker = true := by
            unfold KeySlot.content at hc
            split at hc
            · cases hc
            · rename_i h; simpa using h
          have hser : s1.keyUnitServes = true := by
            have : s1.keyUnitServes = s.keyUnitServes := by
              unfold State.keyUnitServes State.inService
              rw [h0.2]
            rw [this]; exact hs
          show (s1.unwrapSlot s.linkSlot).reg Reg.secJobCnt = _
          unfold State.unwrapSlot
          extract_lets m
          rw [if_pos (by rw [show m = (s1.keySlot s.linkSlot).marker from rfl]; simp [hm, hser])]
          rw [State.checkSlot_reg _ _ _ (by decide) (by decide) (by decide), State.reg_inc_self]
          have hl : (s1.loadWrapKey s.linkSlot).reg Reg.secJobCnt = s1.reg Reg.secJobCnt := by
            unfold State.loadWrapKey
            have g1 := (s1.heldKey_jobs purposeWrap [BitVec.ofNat 8 s.linkSlot] none).1
            split <;> rename_i h3 <;> rw [h3] at g1
            · exact g1
            · exact (State.deriveKey_jobs _ _ _ _ _).trans g1
          rw [hl, h1]
          simp [hb]
      have hres : ∀ (x : State × Option (List Byte)), (x = (s1.unwrapBefore (some s.linkSlot), none) ∨ ∃ ko, x = ((s1.unwrapBefore (some s.linkSlot)).deriveKey purpose ctx (some s.linkSlot) ko, some ko)) →
          x.1.reg Reg.secJobCnt = s.reg Reg.secJobCnt + (if s.sec.unwrapped.getLsbD s.linkSlot = false then 1 else 0) := by
        rintro x (rfl | ⟨ko, rfl⟩)
        · exact hu
        · exact (hd _ _ _).trans hu
      refine (hres _ ?_).trans (by simp [hp])
      split
      · exact .inl rfl
      · exact .inr ⟨_, rfl⟩
  · have hsl : slot = none := if_neg hp
    rw [hsl]
    obtain ⟨h1, _⟩ := hh none
    split
    · rename_i hk; rw [hk] at h1; simpa [hp] using h1
    · rename_i s1 hk
      rw [hk] at h1
      dsimp only at h1 ⊢
      split
      · simpa [hp, State.unwrapBefore] using h1
      · simpa [hp, hd, State.unwrapBefore] using h1
end Sys2Proof.Machine
end

