-- ==== Sys2Proof/Laws/Crypto.lean ====
section
/-! SUPPORT. Cryptography: block lengths, and that a sealed string opens to what it was. -/
namespace Sys2Proof.Laws
open Sys2Proof Sys2Proof.Machine

theorem length_xorBytes (a b : List Byte) : (xorBytes a b).length = min a.length b.length := by simp [xorBytes]

theorem xorBytes_cancel : ∀ a b : List Byte, a.length ≤ b.length → xorBytes (xorBytes a b) b = a
  | [], _, _ => rfl
  | x :: xs, [], h => by simp at h
  | x :: xs, y :: ys, h => by
    have h' : xs.length ≤ ys.length := by simpa using h
    have e := xorBytes_cancel xs ys h'
    simp only [xorBytes, List.zip_cons_cons, List.map_cons, List.cons.injEq] at e ⊢
    exact ⟨by rw [BitVec.xor_assoc, BitVec.xor_self, BitVec.xor_zero], e⟩

/-! ### The length of a block -/

theorem length_shiftRows (s : List Byte) : (shiftRows s).length = 16 := by simp [shiftRows]

theorem length_chunks_flatten_mix (s : List Byte) (h : s.length = 16) : ((chunks 4 4 s).flatMap mixColumn).length = 16 := by
  obtain ⟨a0, a1, a2, a3, a4, a5, a6, a7, a8, a9, b0, b1, b2, b3, b4, b5, rfl⟩ :
      ∃ a0 a1 a2 a3 a4 a5 a6 a7 a8 a9 b0 b1 b2 b3 b4 b5 : Byte, s = [a0, a1, a2, a3, a4, a5, a6, a7, a8, a9, b0, b1, b2, b3, b4, b5] := by
    match s, h with
    | [a0, a1, a2, a3, a4, a5, a6, a7, a8, a9, b0, b1, b2, b3, b4, b5], _ => exact ⟨_, _, _, _, _, _, _, _, _, _, _, _, _, _, _, _, rfl⟩
  simp [chunks, mixColumn]

/-- Round keys are whole blocks. -/
theorem length_aesRounds : ∀ (ks : List (List Byte)) (s : List Byte), ks ≠ [] → (∀ k ∈ ks, k.length = 16) → (aesRounds ks s).length = 16
  | [], _, h, _ => absurd rfl h
  | [k], s, _, h => by simp [aesRounds, length_xorBytes, length_shiftRows, h k (by simp)]
  | k :: k' :: ks, s, _, h => by
    rw [aesRounds]
    · exact length_aesRounds (k' :: ks) _ (by simp) fun x hx => h x (by simp_all)
    · simp

theorem length_aesBlock (keys : List (List Byte)) (blk : List Byte) (h2 : 2 ≤ keys.length) (h : ∀ k ∈ keys, k.length = 16) :
    (aesBlock keys blk).length = 16 := by
  match keys, h2, h with
  | k :: k' :: ks, _, h => exact length_aesRounds (k' :: ks) _ (by simp) fun x hx => h x (by simp_all)

/-- Pieces of n bytes of a string that holds f of them. -/
theorem chunks_whole (n : Nat) (hn : 0 < n) : ∀ (f : Nat) (bs : List Byte), bs.length = n * f →
    (chunks n f bs).length = f ∧ ∀ c ∈ chunks n f bs, c.length = n
  | 0, _, _ => by simp [chunks]
  | f + 1, bs, h => by
    have hb : bs.length = n * f + n := by rw [h, Nat.mul_succ]
    have hne : bs.isEmpty = false := by
      cases bs with
      | nil => simp at hb; omega
      | cons => rfl
    obtain ⟨hl, hc⟩ := chunks_whole n hn f (bs.drop n) (by simp [hb])
    simp only [chunks, hne, Bool.false_eq_true, if_false, List.length_cons, hl, List.mem_cons, true_and]
    rintro c (rfl | hm)
    · simp [hb]
    · exact hc c hm

theorem length_aesKeyStep (i : Nat) (l : List (List Byte)) (rc : Byte) (h8 : 8 ≤ l.length) (h : ∀ w ∈ l, w.length = 4) :
    (aesKeyStep i l rc).1.length = 4 := by
  have hp : (l.headD []).length = 4 := by
    cases l with
    | nil => simp at h8
    | cons a t => exact h a (by simp)
  have hb : (l.getD 7 []).length = 4 := by
    rw [List.getD_eq_getElem?_getD, List.getElem?_eq_getElem (by omega)]; exact h _ (List.getElem_mem _)
  unfold aesKeyStep
  generalize l.headD [] = prev at hp ⊢
  generalize l.getD 7 [] = back at hb ⊢
  split
  · simp [hb, hp]
  · split <;> simp [hb, hp]

theorem aesExpand_words : ∀ (n i : Nat) (l : List (List Byte)) (rc : Byte), 8 ≤ l.length → (∀ w ∈ l, w.length = 4) →
    (aesExpand n i l rc).length = l.length + n ∧ ∀ w ∈ aesExpand n i l rc, w.length = 4
  | 0, _, l, _, _, h => ⟨rfl, h⟩
  | n + 1, i, l, rc, h8, h => by
    have hw := length_aesKeyStep i l rc h8 h
    simp only [aesExpand]
    obtain ⟨e, m⟩ := aesExpand_words n (i + 1) ((aesKeyStep i l rc).1 :: l) (aesKeyStep i l rc).2 (by simp; omega) (by
      rintro w (_ | ⟨_, hm⟩)
      · exact hw
      · exact h w ‹_›)
    exact ⟨by rw [e]; simp; omega, m⟩

theorem length_flatten_words : ∀ l : List (List Byte), (∀ w ∈ l, w.length = 4) → l.flatten.length = 4 * l.length
  | [], _ => rfl
  | w :: l, h => by
    rw [List.flatten_cons, List.length_append, length_flatten_words l (fun x hx => h x (by simp [hx])), h w (by simp), List.length_cons]; omega

/-- The fifteen round keys of a 32-byte key are whole blocks. -/
theorem aesKeys_blocks (key : List Byte) (h : key.length = 32) : (aesKeys key).length = 15 ∧ ∀ k ∈ aesKeys key, k.length = 16 := by
  obtain ⟨hl, hc⟩ := chunks_whole 4 (by decide) 8 key (by simp [h])
  obtain ⟨e, m⟩ := aesExpand_words 52 8 (chunks 4 8 key).reverse 1 (by simp [hl]) (by simpa using hc)
  refine chunks_whole 16 (by decide) 15 _ ?_
  rw [length_flatten_words _ (by simpa using m), List.length_reverse, e, List.length_reverse, hl]

/-! ### Working keys are 32 bytes -/

theorem length_shaRound (st : List Word) (kw : Word × Word) (h : st.length = 8) : (shaRound st kw).length = 8 := by
  unfold shaRound; split
  · rfl
  · exact h

theorem length_shaRounds : ∀ (l : List (Word × Word)) (st : List Word), st.length = 8 → (l.foldl shaRound st).length = 8
  | [], _, h => h
  | x :: l, st, h => length_shaRounds l _ (length_shaRound st x h)

theorem length_shaGo : ∀ (n : Nat) (h : List Word) (bs : List Byte), h.length = 8 → (shaGo n h bs).length = 8
  | 0, _, _, hh => hh
  | n + 1, h, bs, hh => length_shaGo n _ _ (by simp [shaBlock, length_shaRounds _ h hh, hh])

theorem length_leBytes (w : Word) : (leBytes w).length = 4 := by simp [leBytes]

theorem length_sha256 (bs : List Byte) : (sha256 bs).length = 32 := by
  have h : ∀ l : List Word, (l.flatMap fun w => (leBytes w).reverse).length = 4 * l.length := by
    intro l
    induction l with
    | nil => rfl
    | cons w l ih => rw [List.flatMap_cons, List.length_append, ih]; simp [length_leBytes]; omega
  rw [sha256, h, length_shaGo _ _ _ (by decide)]

theorem length_kdf (ki label ctx : List Byte) : (kdf ki label ctx).length = 32 := length_sha256 _

/-! ### Counter mode -/

/-- The blocks of counter mode from a counter on, one after another. -/
def ctrBlocks (E : Nat → List Byte) : Nat → List (List Byte) → List Byte
  | _, [] => []
  | c, b :: bl => xorBytes b (E c) ++ ctrBlocks E (c + 1) bl

theorem ctrBlocks_eq (E : Nat → List Byte) : ∀ (bl : List (List Byte)) (c k : Nat),
    ((List.range' k bl.length).zip bl).flatMap (fun p => xorBytes p.2 (E (c + p.1))) = ctrBlocks E (c + k) bl
  | [], _, _ => rfl
  | b :: bl, c, k => by
    rw [List.length_cons, List.range'_succ, List.zip_cons_cons, List.flatMap_cons, ctrBlocks_eq E bl c (k + 1)]; rfl

theorem gctr_eq (keys : List (List Byte)) (iv : List Byte) (c : Nat) (bs : List Byte) :
    gctr keys iv c bs = ctrBlocks (fun n => aesBlock keys (iv ++ beNat 4 n)) c (chunks 16 (bs.length / 16 + 1) bs) := by
  have h := ctrBlocks_eq (fun n => aesBlock keys (iv ++ beNat 4 n)) (chunks 16 (bs.length / 16 + 1) bs) c 0
  rw [← List.range_eq_range'] at h
  exact h

/-- Counter mode keeps a string's length, and done twice gives it back. -/
theorem ctrBlocks_twice (E : Nat → List Byte) (hE : ∀ n, (E n).length = 16) : ∀ (f c : Nat) (bs : List Byte), bs.length ≤ 16 * f →
    (ctrBlocks E c (chunks 16 f bs)).length = bs.length ∧ ctrBlocks E c (chunks 16 f (ctrBlocks E c (chunks 16 f bs))) = bs
  | 0, _, bs, h => by
    have : bs = [] := List.eq_nil_of_length_eq_zero (by omega)
    subst this; exact ⟨rfl, rfl⟩
  | f + 1, c, bs, h => by
    by_cases he : bs = []
    · subst he; simp [chunks, ctrBlocks]
    · have e1 : bs.isEmpty = false := by simpa using he
      have pos : 0 < bs.length := List.length_pos_iff.mpr he
      obtain ⟨hl, ht⟩ := ctrBlocks_twice E hE f (c + 1) (bs.drop 16) (by simp; omega)
      have hx : (xorBytes (bs.take 16) (E c)).length = min 16 bs.length := by
        rw [length_xorBytes, hE, List.length_take]; omega
      have key : ctrBlocks E c (chunks 16 (f + 1) bs) = xorBytes (bs.take 16) (E c) ++ ctrBlocks E (c + 1) (chunks 16 f (bs.drop 16)) := by
        simp [chunks, e1, ctrBlocks]
      have hlen : (ctrBlocks E c (chunks 16 (f + 1) bs)).length = bs.length := by
        rw [key, List.length_append, hx, hl, List.length_drop]; omega
      refine ⟨hlen, ?_⟩
      have e2 : (ctrBlocks E c (chunks 16 (f + 1) bs)).isEmpty = false := by
        cases hc : ctrBlocks E c (chunks 16 (f + 1) bs) with
        | nil => rw [hc] at hlen; simp at hlen; omega
        | cons => rfl
      have split_ : (ctrBlocks E c (chunks 16 (f + 1) bs)).take 16 = xorBytes (bs.take 16) (E c) ∧
          (ctrBlocks E c (chunks 16 (f + 1) bs)).drop 16 = ctrBlocks E (c + 1) (chunks 16 f (bs.drop 16)) := by
        rw [key]
        by_cases h16 : 16 ≤ bs.length
        · have : (xorBytes (bs.take 16) (E c)).length = 16 := by omega
          exact ⟨List.take_left' this, List.drop_left' this⟩
        · have z : bs.drop 16 = [] := List.drop_eq_nil_of_le (by omega)
          have z' : ctrBlocks E (c + 1) (chunks 16 f (bs.drop 16)) = [] := List.eq_nil_of_length_eq_zero (by rw [hl, z]; rfl)
          rw [z', List.append_nil]
          exact ⟨List.take_of_length_le (by omega), List.drop_eq_nil_of_le (by omega)⟩
      have again : ctrBlocks E c (chunks 16 (f + 1) (ctrBlocks E c (chunks 16 (f + 1) bs))) =
          xorBytes (xorBytes (bs.take 16) (E c)) (E c) ++
            ctrBlocks E (c + 1) (chunks 16 f (ctrBlocks E (c + 1) (chunks 16 f (bs.drop 16)))) := by
        have one (x : List Byte) (hx : x.isEmpty = false) :
            ctrBlocks E c (chunks 16 (f + 1) x) = xorBytes (x.take 16) (E c) ++ ctrBlocks E (c + 1) (chunks 16 f (x.drop 16)) := by
          simp [chunks, hx, ctrBlocks]
        rw [one _ e2, split_.1, split_.2]
      rw [again, ht, xorBytes_cancel _ _ (by rw [hE, List.length_take]; omega), List.take_append_drop]

/-- A string sealed under a 32-byte key keeps its length and opens to what it was (R480, R482). -/
theorem gcmOpen_gcmSeal (key iv aad pt : List Byte) (h : key.length = 32) :
    (gcmSeal key iv aad pt).1.length = pt.length ∧ gcmOpen key iv aad (gcmSeal key iv aad pt).1 (gcmSeal key iv aad pt).2 = some pt := by
  obtain ⟨hk, hb⟩ := aesKeys_blocks key h
  have hE : ∀ n, (aesBlock (aesKeys key) (iv ++ beNat 4 n)).length = 16 := fun n => length_aesBlock _ _ (by omega) hb
  have t := ctrBlocks_twice (fun n => aesBlock (aesKeys key) (iv ++ beNat 4 n)) hE (pt.length / 16 + 1) 2 pt (by omega)
  have hl : (gctr (aesKeys key) iv 2 pt).length = pt.length := by rw [gctr_eq]; exact t.1
  refine ⟨hl, ?_⟩
  simp only [gcmSeal, gcmOpen, if_true]
  rw [gctr_eq, hl, gctr_eq, t.2]

/-- A key slot holds the buffer that its copy was wrapped from (R480, R481). -/
theorem content_of_wrapCopy (slot c gen : Nat) (buf other : List Byte) (m : BitVec 64) (hb : buf.length = 64) (hok : slotCheckOk buf = true)
    (hs : markerSound m = true) (hv : markerValid m = true) (hc : markerCopy m = c) (hg : markerGen m = gen) :
    KeySlot.content { copyA := if c = 0 then wrapCopy slot c gen buf else other, copyB := if c = 0 then other else wrapCopy slot c gen buf, marker := m }
      slot = some buf := by
  obtain ⟨hl, ho⟩ := gcmOpen_gcmSeal (wrapKey slot) (slotIv slot c gen) [] buf (length_kdf _ _ _)
  subst hc hg
  have hw : (if markerCopy m = 0 then if markerCopy m = 0 then wrapCopy slot (markerCopy m) (markerGen m) buf else other
      else if markerCopy m = 0 then other else wrapCopy slot (markerCopy m) (markerGen m) buf) = wrapCopy slot (markerCopy m) (markerGen m) buf := by
    by_cases h0 : markerCopy m = 0 <;> simp [h0]
  simp only [KeySlot.content, hs, hv, Bool.not_true, Bool.or_self, Bool.false_eq_true, if_false, hw]
  rw [wrapCopy, List.take_left' (by rw [hl, hb]), List.drop_left' (by rw [hl, hb]), ho]
  simp [hok]

end Sys2Proof.Laws
end

