-- ==== Sys2Proof/WellFormed.lean ====
section
/-! DEFINITION. Which commands the outside world can send: the sizes that the spec gives to what arrives with them. -/
namespace Sys2Proof

/-- Bytes of a PCIe register access (R391): 1, 2, 4 or 8. -/
def widthOk (w : Nat) : Bool := [1, 2, 4, 8].contains w

/-- A frame as a port sees it: both addresses and an EtherType, and a PCS position b of Table TIM-4 (0 to 65). -/
def RxFrame.wf (f : RxFrame) : Bool := decide (14 ≤ f.bytes.length) && decide (f.align ≤ 65)

/-- An injection descriptor (Table HIF-5): eight words, and as many frame bytes as LEN says. -/
def InjDesc.wf (d : InjDesc) : Bool := decide (d.words.length = 8) && (d.dmaErr || decide (d.frame.length = (d.words.getD 3 0).toNat % 65536))

/-- A STATE frame carries 4 to 4,096 bytes of region data (Table GZL-2). -/
def StateBody.wf (b : StateBody) : Bool := decide (1 ≤ b.data.length) && decide (b.data.length ≤ 1024)

/-- An ALARM frame carries 1 to 16 records of 16 words (Tables GZL-2, ALM-4). -/
def alarmsWf (r : List (List Word)) : Bool :=
  decide (1 ≤ r.length) && decide (r.length ≤ 16) && r.all fun ws => decide (ws.length = 16)

/-- The samples of the eight thermal sensors and the six voltage monitors (R519). -/
def samplesWf (temps vmons : List (BitVec 16)) : Bool := decide (temps.length = 8) && decide (vmons.length = 6)

/-- The modulator bits of a label: 640 for each of 24 pins and two edges (R280, R281, R285). -/
def bitsWf (bits : List (List Bool)) : Bool := decide (bits.length = 48) && bits.all fun b => decide (b.length = 640)

/-- A command as the outside world can send it: every check below is one size that the spec fixes. -/
def Instr.WellFormed : Instr → Bool
  | .registerWrite _ w _ => widthOk w
  | .readClear _ w => widthOk w
  | .doorbell _ _ ds _ => ds.all fun ws => decide (ws.length = 8)
  | .frameReceive _ f _ => f.wf
  | .hostInjection _ d _ => d.wf
  | .stateReceive _ b _ => b.wf
  | .alarmReceive _ r => alarmsWf r
  | .telemetrySample t v => samplesWf t v
  | .lmuLabel b => bitsWf b
  | .pcieLinkUp s l => decide (1 ≤ s.val) && decide (s.val ≤ 4) && [1, 2, 4, 8].contains l.val
  | .dormantWake w _ => decide (w ≠ 0)
  | _ => true

end Sys2Proof
end

