-- ==== Sys2Proof/Tests/Slice0.lean ====
section
/-! SUPPORT. Tests: the WellFormed smoke, single steps with results from the spec, and for every statement states and operands that meet its hypotheses. -/
namespace Sys2Proof.Tests.Slice0
open Sys2Proof Sys2Proof.Machine

/-! ### States -/

/-- A state with registers written. -/
def withRegs (s : State) (l : List (Nat × Word)) : State := l.foldl (fun x p => x.setReg p.1 p.2) s

/-- A PROVISIONED device at start-up step 14: command ring 0 with one command, completion ring 1, telemetry ring 2, archive ring 3, injection ring 4, input
ring 5; the pair link up, in role ACTIVE; port 2 up. -/
def live : State :=
  let s := withRegs State.reset
    [(Reg.prtCfg 2, 1), (Reg.timCfg, 2), (Reg.hifRingCfg 0, 0x161), (Reg.hifRingCfg 1, 0x62), (Reg.hifRingCfg 2, 0x169), (Reg.hifRingCfg 3, 0x166),
     (Reg.hifRingCfg 4, 0x164), (Reg.hifRingCfg 5, 0x163), (Reg.gzlCfg, 1)]
  let on : Ring := { enabled := true }
  { s with
    sys := { s.sys with step := 14 }
    nvm := { s.nvm with fuses := { lc := 1 } }
    hif := { s.hif with rings := [(0, { on with hostIdx := 1 }), (1, { on with armed := true }), (2, on), (3, on), (4, { on with hostIdx := 1 }), (5, on)] }
    gzl := { s.gzl with role := .active, lane0 := true, lane1 := true, linkUp := true, partnerRole := .standby, partnerStateValid := true, claimEpoch := some 0 }
    prt := { s.prt with serdes := true, ports := s.prt.ports.set 2 { link := true } } }

/-- The same device with its grid running, in a compute window of the column with tick ID 0. -/
def busy : State :=
  let s := withRegs live [(Reg.tckCfg, 3)]
  { s with
    tck := { s.tck with phase := 0, proc := some { tick := 0, sec := 0, index := 0, variant := 0, closeAt := 0 } }
    dpx := { s.dpx with map := [3], plots := [{ executing := some { op := 0, list := .reserve, args := [] } }] } }

/-- The same device with its grid running, in slack. -/
def grid : State := let s := withRegs live [(Reg.tckCfg, 3)]; { s with tck := { s.tck with phase := 2 } }

/-- A command of ring 0. -/
def hdr : CmdHdr := { ring := 0, tag := 7 }
/-- Its reference. -/
def ref : CmdRef := { ring := 0, index := 0, tag := 7, gen := 0 }

/-- A key-slot buffer: type 60H, version 1, its CRC in the last word. -/
def slotBuf : List Byte := [0x60, 0x01] ++ List.replicate 58 0 ++ [0x26, 0xE1, 0x24, 0xE7]
/-- The row of a register (of SYS_ID where there is none). -/
def rowOf (off : Nat) : RegRow := (regRow off).getD { base := 0, n1 := 1, s1 := 4, n2 := 1, s2 := 4, reset := 0, acc := .ro, mask := 0 }
/-- Metering point 3 with one energy unit of 1.0, its curves all zero. -/
def pointRegs : List (Nat × Word) := [(Reg.nrgPtEu 3, 0x3F800000)]
/-- A completion entry. -/
def ent : Completion :=
  { index := 0, src := 0, phase := true, tag := 0, status := 0, detail := 0, length := 0, result := [], data := [], addr := 0, time := 0 }
/-- A word of guy line B: 0xA5, role 0, EPOCH 0, its CRC. -/
def guyWordB : BitVec 64 := 0xAC390000000000A5
/-- `live` with items in Flume n. -/
def onFlumes (n : Nat) (items : List FlumeItem) : State :=
  { live with hdg := { live.hdg with flumes := live.hdg.flumes.set n { items := items } } }
/-- An ended block. -/
def arcBlock (st : SealState) : ArcBlock :=
  { id := 0, type := 1, group := 0, entries := 0, level := 0, fmCode := 0, firstTick := 0, soc := 0, present := [], origLen := 0, origCrc := 0
    dir := [], nbr := [], payload := [], serial := 0, state := st }
/-- `live` with a buffer posted to ring n. -/
def postTo (n : Nat) : State :=
  { live with hif := { live.hif with rings := live.hif.rings.map fun p =>
      if p.1 = n then (n, { p.2 with posted := [{ tag := 0, addr := 0, len := 4096 }] }) else p } }
/-- In slack, CORE and PLOT on their fallback while PLLC has qualified. -/
def retDue : State :=
  { live with clk := { live.clk with fallback := List.replicate 8 true, qualified := 16 } }
/-- XTA is qualified. -/
def qualifiedXta : State := { live with clk := { live.clk with qualified := (1 : BitVec 8) <<< ClkSrc.xta.code } }
/-- Only FIRC is qualified. -/
def onlyFirc : State := { live with clk := { live.clk with qualified := (1 : BitVec 8) <<< ClkSrc.firc.code } }
/-- The state after a step, where there is one. -/
def after (s : State) : State := match step s with
  | .next t => t
  | _ => s
/-- A step answers a next state. -/
def goesOn (s : State) : Bool := match step s with
  | .next _ => true
  | _ => false
theorem after_eq {s : State} (h : goesOn s = true) : step s = .next (after s) := by
  unfold goesOn at h; unfold after; split at h <;> simp_all
/-- Slot 0 with the buffer of `slotBuf`. -/
def slot0 : KeySlot :=
  { copyA := if (0 : Nat) = 0 then wrapCopy 0 0 1 slotBuf else [], copyB := if (0 : Nat) = 0 then [] else wrapCopy 0 0 1 slotBuf, marker := markerOf 0 1 true }
/-- `live` with that slot, which GZL_CFG names, and a link in a given state. -/
def keyed (g : Gzl) : State := { live with nvm := { live.nvm with slots := live.nvm.slots.set 0 slot0 }, gzl := g }
/-- The link's slot holds that buffer. -/
theorem keyed_content (g : Gzl) : (((keyed g).keySlot (keyed g).linkSlot).content (keyed g).linkSlot).isSome = true := by
  have r : (keyed g).regs = live.regs := by unfold keyed; rfl
  have e : (keyed g).linkSlot = 0 := by
    rw [State.linkSlot, State.regField, State.reg, r]; decide +kernel
  have k : (keyed g).keySlot 0 = slot0 := by unfold keyed; rfl
  rw [e, k, slot0, Laws.content_of_wrapCopy 0 0 1 slotBuf [] _ (by decide +kernel) (by decide +kernel) (by decide +kernel)
    (by decide +kernel) (by decide +kernel) (by decide +kernel)]
  rfl
/-- A PTP master. -/
def master : Master :=
  { port := 0, sender := 0, priority1 := 0, clockClass := 6, accuracy := 0, variance := 0, priority2 := 0, identity := 0, steps := 0, utcOffset := 0
    offsetValid := true, leap61 := false, leap59 := false, inaccuracy := none, logInterval := 0, heard := 4, time := 0 }
/-- $GPZDA,000005.00,01,01,1970,00,00*6C in ASCII. -/
def zda : List Byte :=
  [0x24, 0x47, 0x50, 0x5A, 0x44, 0x41, 0x2C, 0x30, 0x30, 0x30, 0x30, 0x30, 0x35, 0x2E, 0x30, 0x30, 0x2C, 0x30, 0x31, 0x2C, 0x30, 0x31, 0x2C, 0x31, 0x39, 0x37, 0x30, 0x2C, 0x30, 0x30, 0x2C, 0x30, 0x30, 0x2A, 0x36, 0x43]

theorem test_meets_empty_queue_counts_one_cycle :
    (∃ (s : State), s.pending = [] ∧ s.bootRests = false ∧ s.sys.checking = none) ∧
    (∃ (s : State), s.pending = [] ∧ s.bootRests = true ∧ s.pwr.brace = false) ∧
    (∃ (s : State) (p : PatchIn), s.pending = [] ∧ s.bootRests = false ∧ s.sys.checking = some p) :=
  ⟨⟨live, by decide⟩,
   ⟨{ State.reset with sys := { State.reset.sys with step := 3 } }, by decide⟩,
   ⟨{ live with sys := { live.sys with step := 10, checking := some { host := false, bytes := [], rests := true } } }, { host := false, bytes := [], rests := true }, by decide⟩⟩

theorem test_meets_stored_keys_and_epoch_change_only_by_their_commands : ∃ (s : State), s.gzl.claim = none ∧ s.nextCommit = none :=
  ⟨live, by decide⟩

theorem test_meets_register_holds_what_was_written : ∃ (s : State) (_ : Nat) (_ : Word), s.regsSound :=
  ⟨live, 0, 0, by decide⟩

theorem test_meets_ring_indices_follow_their_layout :
    (∃ (n : Fin 64) (s : State), s.hostUp = true ∧ (s.ring n.val).enabled = false ∧ s.ringCfgOk n.val = true) ∧
    (∃ (lg : Nat) (i : Nat) (j : Nat), 6 ≤ lg ∧ lg ≤ 12 ∧ i < 65536 ∧ j < 65536) :=
  ⟨⟨5, { live with hif := { live.hif with rings := live.hif.rings.filter fun p => decide (p.1 = 1) } }, by decide⟩,
   ⟨6, 63, 32768, by decide⟩⟩

theorem test_meets_unread_command_changes_nothing : ∃ (c : Instr) (h : CmdHdr) (served : Bool) (s : State), ringCommand c = some (h, served) ∧ s.canAccept h = false :=
  ⟨.pitchAbort hdr, hdr, false, State.reset, by decide⟩

theorem test_meets_tampered_device_refuses_commands : ∃ (c : Instr) (h : CmdHdr) (s : State), ringCommand c = some (h, false) ∧ s.canAccept h = true ∧ s.sys.tampered = true :=
  ⟨.pitchAbort hdr, hdr, { live with sys := { live.sys with tampered := true } }, by decide⟩

theorem test_meets_completion_is_written_and_counted : ∃ (s : State) (c : CmdRef) (_ : CmdResult), c.gen = s.hif.gen ∧ s.cqFree (s.ringCq c.ring) = true :=
  ⟨live, ref, { status := 0 }, by decide⟩

theorem test_meets_pitch_is_begun_and_aborted :
    (∃ (h : CmdHdr) (offset : Word) (length : Word) (_ : List Byte) (s : State), s.serves h ∧ s.sch.pitch = none ∧ s.inService = true ∧ s.regBit Reg.schStage 31 = true ∧ pitchPlaceOk offset length = true ∧ s.hif.outstanding.length < 32) ∧
    (∃ (h : CmdHdr) (_ : Word) (_ : Word) (_ : List Byte) (s : State), s.serves h ∧ s.sch.pitch.isSome = true) ∧
    (∃ (h : CmdHdr) (s : State) (p : Pitch), s.serves h ∧ s.sch.pitch = some p) ∧
    (∃ (h : CmdHdr) (s : State), s.serves h ∧ s.sch.pitch = none) :=
  ⟨⟨hdr, 4194304, 4194304, [], withRegs live [(Reg.schStage, 0x80001FFF)], by decide⟩,
   ⟨hdr, 0, 256, [], { live with sch := { live.sch with pitch := some { ref := ref, offset := 0, length := 256 } } }, by decide⟩,
   ⟨hdr, { live with sch := { live.sch with pitch := some { ref := ref, offset := 0, length := 256 } } }, { ref := ref, offset := 0, length := 256 }, by decide⟩,
   ⟨hdr, live, by decide⟩⟩

theorem test_meets_fences_are_registered :
    (∃ (h : CmdHdr) (p : Byte) (s : State), s.serves h ∧ p.toNat < 32 ∧ s.dpx.fencePend.getLsbD p.toNat = false) ∧
    (∃ (h : CmdHdr) (p : Byte) (s : State), s.serves h ∧ p.toNat < 32 ∧ s.plotGate p.toNat = true ∧ s.dpx.fencePend.getLsbD p.toNat = true) ∧
    (∃ (h : CmdHdr) (p : Byte) (s : State), s.serves h ∧ 31 < p.toNat) ∧
    (∃ (h : CmdHdr) (p : Byte) (s : State), s.serves h ∧ p.toNat < 32 ∧ s.dpx.fencePend.getLsbD p.toNat = true) ∧
    (∃ (h : CmdHdr) (p : Byte) (s : State), s.serves h ∧ p.toNat < 32 ∧ s.plotGate p.toNat = false) ∧
    (∃ (h : CmdHdr) (p : Byte) (s : State), s.serves h ∧ p.toNat < 32 ∧ s.plotGate p.toNat = true ∧ s.dpx.fencePend.getLsbD p.toNat = false) :=
  ⟨⟨hdr, 31, live, by decide⟩,
   ⟨hdr, 31, { live with dpx := { live.dpx with fencePend := 0x80000000 } }, by decide⟩,
   ⟨hdr, 32, live, by decide⟩,
   ⟨hdr, 0, { live with dpx := { live.dpx with fencePend := 1 } }, by decide⟩,
   ⟨hdr, 31, { live with clk := { live.clk with gates := 0 } }, by decide⟩,
   ⟨hdr, 0, live, by decide⟩⟩

theorem test_meets_roles_are_set_and_swapped :
    (∃ (h : CmdHdr) (s : State), s.serves h ∧ s.gzlOn = true ∧ s.gzl.role ≠ .active ∧ s.gzl.role ≠ .solo) ∧
    (∃ (h : CmdHdr) (s : State), s.serves h ∧ s.gzlOn = true ∧ s.gzl.role ≠ .standby ∧ s.gzl.role ≠ .solo) ∧
    (∃ (h : CmdHdr) (s : State), s.serves h ∧ s.gzlOn = false ∧ s.gzl.role ≠ .solo) ∧
    (∃ (h : CmdHdr) (s : State), s.serves h ∧ s.gzlOn = true ∧ s.gzl.role ≠ .solo) ∧
    (∃ (h : CmdHdr) (s : State) (k : BitVec 2), s.serves h ∧ s.gzl.role = (if k = 0 then .active else if k = 1 then .standby else .solo) ∧ k ≠ 3) ∧
    (∃ (h : CmdHdr) (s : State) (k : BitVec 2), s.serves h ∧ s.gzl.role = .solo ∧ (k = 0 ∨ k = 1)) ∧
    (∃ (h : CmdHdr) (s : State), s.serves h ∧ s.gzlOn = false ∧ s.gzl.role ≠ .active) ∧
    (∃ (h : CmdHdr) (s : State), s.serves h ∧ s.gzlOn = false ∧ s.gzl.role ≠ .standby) ∧
    (∃ (h : CmdHdr) (s : State), s.serves h) ∧
    (∃ (h : CmdHdr) (s : State), s.serves h ∧ s.swapOk = true ∧ s.hif.outstanding.length < 32) ∧
    (∃ (h : CmdHdr) (s : State), s.serves h ∧ s.swapOk = false) :=
  ⟨⟨hdr, { live with gzl := { live.gzl with role := .standby } }, by decide⟩,
   ⟨hdr, live, by decide⟩,
   ⟨hdr, withRegs live [(Reg.gzlCfg, 0)], by decide⟩,
   ⟨hdr, live, by decide⟩,
   ⟨hdr, live, 0, by decide⟩,
   ⟨hdr, { live with gzl := { live.gzl with role := .solo } }, 1, by decide⟩,
   ⟨hdr, withRegs ({ live with gzl := { live.gzl with role := .standby } }) [(Reg.gzlCfg, 0)], by decide⟩,
   ⟨hdr, withRegs live [(Reg.gzlCfg, 0)], by decide⟩,
   ⟨hdr, live, by decide⟩,
   ⟨hdr, live, by decide⟩,
   ⟨hdr, { live with gzl := { live.gzl with linkUp := false } }, by decide⟩⟩

theorem test_meets_time_is_set :
    (∃ (h : CmdHdr) (_ : Word) (_ : Word) (w3 : Word) (w4 : Word) (_ : Word) (s : State), s.serves h ∧ (nsPerSec ≤ w3.toNat ∨ field w4 18 17 = 3)) ∧
    (∃ (h : CmdHdr) (_ : Word) (_ : Word) (w3 : Word) (w4 : Word) (_ : Word) (s : State), s.serves h ∧ w3.toNat < nsPerSec ∧ field w4 18 17 ≠ 3 ∧ (s.tim.state = .locked ∨ s.tim.state = .acquiring) ∧ flag w4 19 = false) ∧
    (∃ (h : CmdHdr) (_ : Word) (_ : Word) (w3 : Word) (w4 : Word) (_ : Word) (s : State), s.serves h ∧ w3.toNat < nsPerSec ∧ field w4 18 17 = 0 ∧ (flag w4 19 = true ∨ (s.tim.state ≠ .locked ∧ s.tim.state ≠ .acquiring)) ∧ flag w4 20 = true) ∧
    (∃ (h : CmdHdr) (w1 : Word) (w2 : Word) (w3 : Word) (w4 : Word) (_ : Word) (s : State) (θ : Int), s.serves h ∧ w3.toNat < nsPerSec ∧ field w4 18 17 ≠ 3 ∧ (flag w4 19 = true ∨ (s.tim.state ≠ .locked ∧ s.tim.state ≠ .acquiring)) ∧ flag w4 20 = false ∧ θ = (s.tim.now : Int) - Int.ofNat ((field w2 15 0 * 2 ^ 32 + w1.toNat) * nsPerSec + w3.toNat) ∧ 1000000 ≤ θ.natAbs) ∧
    (∃ (h : CmdHdr) (w1 : Word) (w2 : Word) (w3 : Word) (w4 : Word) (_ : Word) (s : State) (θ : Int), s.serves h ∧ w3.toNat < nsPerSec ∧ field w4 18 17 ≠ 3 ∧ (flag w4 19 = true ∨ (s.tim.state ≠ .locked ∧ s.tim.state ≠ .acquiring)) ∧ flag w4 20 = false ∧ θ = (s.tim.now : Int) - Int.ofNat ((field w2 15 0 * 2 ^ 32 + w1.toNat) * nsPerSec + w3.toNat) ∧ θ.natAbs < 1000000) :=
  ⟨⟨hdr, 0, 0, 1000000000, 0, 0, live, by decide⟩,
   ⟨hdr, 0, 0, 999999999, 0, 0, { live with tim := { live.tim with state := .locked } }, by decide⟩,
   ⟨hdr, 0, 0, 999999999, 0x180000, 0, live, by decide⟩,
   ⟨hdr, 0, 0, 999999999, 0x80000, 0, live, (-999999999), by decide⟩,
   ⟨hdr, 0, 0, 999999, 0x80000, 0, live, (-999999), by decide⟩⟩

theorem test_meets_recorder_holds_and_serves_records :
    (∃ (h : CmdHdr) (s : State), s.canAccept h = true ∧ s.evr.frozen = false) ∧
    (∃ (h : CmdHdr) (s : State), s.canAccept h = true ∧ s.evr.frozen = true) ∧
    (∃ (h : CmdHdr) (s : State), s.canAccept h = true ∧ s.evr.frozen = false) ∧
    (∃ (h : CmdHdr) (first : Word) (count : Word) (_ : BitVec 64) (len : Word) (s : State) (q : Nat), s.canAccept h = true ∧ 1 ≤ count.toNat ∧ count.toNat ≤ 65536 ∧ 64 ≤ len.toNat ∧ s.readStart first = some q ∧ s.hif.outstanding.length < 32) ∧
    (∃ (h : CmdHdr) (upTo : Word) (s : State), s.canAccept h = true ∧ s.evrHeldOff = false ∧ s.evrNamed upTo < s.evrCount ∧ s.evrFull = false) ∧
    (∃ (h : CmdHdr) (_ : Word) (s : State), s.canAccept h = true ∧ s.evrHeldOff = true) ∧
    (∃ (h : CmdHdr) (upTo : Word) (s : State), s.canAccept h = true ∧ s.evrHeldOff = false ∧ s.evrCount ≤ s.evrNamed upTo) ∧
    (∃ (s : State), s.evrHeldOff = false ∧ 6 ≤ s.sys.step ∧ s.awake = true) ∧
    (∃ (s : State), s.evrHeldOff = true) ∧
    (∃ (s : State), s.evr.frozen = true) ∧
    (∃ (s : State), s.evr.frozen = false) :=
  ⟨⟨hdr, live, by decide⟩,
   ⟨hdr, { live with evr := { live.evr with frozen := true } }, by decide⟩,
   ⟨hdr, live, by decide⟩,
   ⟨hdr, 0, 65536, 0, 64, { live with nvm := { live.nvm with evrNext := 1 } }, 0, by decide⟩,
   ⟨hdr, 0, { live with nvm := { live.nvm with evrNext := 1 } }, by decide⟩,
   ⟨hdr, 0, { live with evr := { live.evr with frozen := true } }, by decide⟩,
   ⟨hdr, 0, live, by decide⟩,
   ⟨{ State.reset with sys := { State.reset.sys with step := 6 } }, by decide⟩,
   ⟨{ live with evr := { live.evr with held := true } }, by decide⟩,
   ⟨{ live with evr := { live.evr with frozen := true } }, by decide⟩,
   ⟨live, by decide⟩⟩

theorem test_meets_key_commands :
    (∃ (h : CmdHdr) (p : Byte) (ctx : Word) (s : State), s.serves h ∧ s.keyGate = none ∧ s.sec.jobs = [] ∧ s.sec.writes = [] ∧ (p.toNat = purposeArchive ∨ (p.toNat = purposeGreaz ∧ (s.workingKey purposeGreaz (deriveCtx purposeGreaz ctx)).isSome = true))) ∧
    (∃ (h : CmdHdr) (p : Byte) (_ : Word) (s : State), s.serves h ∧ s.keyGate = none ∧ p.toNat ≠ purposeGreaz ∧ p.toNat ≠ purposeArchive) ∧
    (∃ (h : CmdHdr) (w1 : Word) (_ : BitVec 64) (len : Word) (buf : List Byte) (s : State), s.serves h ∧ s.keyGate = none ∧ 64 ≤ len.toNat ∧ h.dmaErr = false ∧ w1.toNat ≤ 15 ∧ slotBufferOk (buf.take 64) = true) ∧
    (∃ (h : CmdHdr) (w1 : Word) (s : State), s.serves h ∧ s.keyGate = none ∧ s.pwr.brace = false ∧ s.slotRefs (field w1 3 0) = []) ∧
    (∃ (h : CmdHdr) (w1 : Word) (s : State), s.serves h ∧ s.keyGate = none ∧ s.pwr.brace = true ∧ s.slotRefs (field w1 3 0) = []) ∧
    (∃ (h : CmdHdr) (_ : Byte) (_ : Word) (_ : Word) (_ : BitVec 64) (_ : Word) (_ : List Byte) (s : State) (st : Nat), s.serves h ∧ s.keyGate = some st) ∧
    (∃ (s : State), s.sec.keyLock = true) ∧
    (∃ (s : State), s.sec.keyLock = false ∧ s.inService = false) ∧
    (∃ (s : State), s.sec.keyLock = false ∧ s.inService = true) :=
  ⟨⟨hdr, BitVec.ofNat 8 purposeArchive, 0, live, by decide⟩,
   ⟨hdr, 0xFF, 0, live, by decide⟩,
   ⟨hdr, 15, 0, 64, slotBuf, live, by decide +kernel⟩,
   ⟨hdr, 15, live, by decide⟩,
   ⟨hdr, 15, { live with pwr := { live.pwr with brace := true } }, by decide⟩,
   ⟨hdr, 0, 0, 1, 0, 0, [], { live with sec := { live.sec with keyLock := true } }, stTamper, by decide⟩,
   ⟨{ live with sec := { live.sec with keyLock := true } }, by decide⟩,
   ⟨State.reset, by decide⟩,
   ⟨live, by decide⟩⟩

theorem test_meets_snapshot_is_delivered :
    (∃ (h : CmdHdr) (w1 : Word) (_ : BitVec 64) (len : Word) (s : State), s.serves h ∧ field w1 3 0 ≠ 0 ∧ 64 + 576 * ((List.range 4).filter fun p => flag w1 p).length ≤ len.toNat) ∧
    (∃ (h : CmdHdr) (w1 : Word) (_ : BitVec 64) (_ : Word) (s : State), s.serves h ∧ field w1 3 0 = 0) ∧
    (∃ (h : CmdHdr) (w1 : Word) (_ : BitVec 64) (len : Word) (s : State), s.serves h ∧ field w1 3 0 ≠ 0 ∧ len.toNat < 64 + 576 * ((List.range 4).filter fun p => flag w1 p).length) :=
  ⟨⟨hdr, 0xF, 0, 2368, live, by decide⟩,
   ⟨hdr, 0, 0, 0, live, by decide⟩,
   ⟨hdr, 1, 0, 639, live, by decide⟩⟩

theorem test_meets_capture_commands :
    (∃ (h : CmdHdr) (w1 : Word) (s : State), s.serves h ∧ flag w1 8 = false ∧ (capUnits w1).all (s.commandTaken h).capArmOk = true) ∧
    (∃ (h : CmdHdr) (w1 : Word) (s : State), s.serves h ∧ flag w1 8 = false) ∧
    (∃ (h : CmdHdr) (w1 : Word) (s : State), s.serves h ∧ flag w1 8 = true ∧ s.capMaster = false) ∧
    (∃ (h : CmdHdr) (w1 : Word) (offset : Word) (length : Word) (_ : BitVec 64) (s : State), s.serves h ∧ (s.capUnit (field w1 2 0)).state = .done ∧ offset.toNat % 64 = 0 ∧ ((s.commandTaken h).capRecord (field w1 2 0)).length ≤ offset.toNat + length.toNat ∧ offset.toNat < ((s.commandTaken h).capRecord (field w1 2 0)).length ∧ 64 ≤ length.toNat ∧ flag w1 8 = false ∧ s.hif.outstanding.length < 32) ∧
    (∃ (h : CmdHdr) (w1 : Word) (_ : Word) (_ : Word) (_ : BitVec 64) (_ : Bool) (s : State), s.serves h ∧ (s.capUnit (field w1 2 0)).state ≠ .done) :=
  ⟨⟨hdr, 0x80, withRegs live [(Reg.capUCfg 7, 0), (Reg.capUSel 7, 1), (Reg.capUPre 7, 0), (Reg.capUPost 7, 1), (Reg.capUBase 7, 0x80002000)], by decide⟩,
   ⟨hdr, 1, live, by decide⟩,
   ⟨hdr, 0x100, live, by decide⟩,
   ⟨hdr, 0, 0, 4096, 0, { live with cap := { live.cap with units := List.replicate 8 { state := .done } } }, by decide +kernel⟩,
   ⟨hdr, 7, 0, 0, 0, false, live, by decide⟩⟩

theorem test_meets_replay_fade_telemetry_and_bad_opcode :
    (∃ (h : CmdHdr) (w1 : Word) (_ : Word) (_ : Word) (_ : Word) (_ : List Byte) (s : State), s.serves h ∧ (s.ring (field w1 13 8)).works = true ∧ s.ringType (field w1 13 8) = 6 ∧ flag w1 0 = true ∧ s.arc.replay = none ∧ h.dmaErr = false ∧ s.hif.outstanding.length < 32) ∧
    (∃ (h : CmdHdr) (w1 : Word) (s : State), s.canAccept h = true ∧ flag w1 8 = true ∧ (s.ring (field w1 5 0)).enabled = true ∧ s.ringType (field w1 5 0) = 9) ∧
    (∃ (h : CmdHdr) (w1 : Word) (s : State), s.canAccept h = true ∧ flag w1 8 = false) ∧
    (∃ (h : CmdHdr) (op : Byte) (s : State), s.serves h ∧ opcodes.contains op.toNat = false) :=
  ⟨⟨hdr, 0x301, 0, 0, 0, [], live, by decide⟩,
   ⟨hdr, 0x102, live, by decide⟩,
   ⟨hdr, 0, live, by decide⟩,
   ⟨hdr, 0xFF, live, by decide⟩⟩

theorem test_meets_register_writes_follow_access_codes :
    (∃ (off : BitVec 24) (_ : BitVec 64) (s : State) (r : RegRow), s.hostUp = true ∧ off.toNat % 4 = 0 ∧ regRow off.toNat = some r ∧ (r.acc = .rw ∨ (r.acc = .rws ∧ s.isSealed = false)) ∧ actsOnWrite off.toNat = false ∧ ((off.toNat / 65536 = 0x02 → s.gridOn = false))) ∧
    (∃ (off : BitVec 24) (_ : BitVec 64) (s : State) (r : RegRow), s.hostUp = true ∧ off.toNat % 4 = 0 ∧ regRow off.toNat = some r ∧ r.acc = .w1c) ∧
    (∃ (off : BitVec 24) (_ : BitVec 64) (s : State) (r : RegRow), s.hostUp = true ∧ off.toNat % 4 = 0 ∧ regRow off.toNat = some r ∧ (r.acc = .ro ∨ r.acc = .rc)) ∧
    (∃ (off : BitVec 24) (_ : BitVec 64) (s : State), s.gridOn = true ∧ (off.toNat = Reg.tckFm ∨ off.toNat = Reg.tckWd)) ∧
    (∃ (off : BitVec 24) (d : BitVec 64) (s : State) (x : State) (r : RegRow) (n : Fin 64), s.hostUp = true ∧ regRow off.toNat = some r ∧ s.isSealed = false ∧ x = s.setReg off.toNat ((lo32 d &&& r.mask) ||| (r.reset &&& ~~~r.mask)) ∧ off.toNat = Reg.hifRingMod n.val) ∧
    (∃ (off : BitVec 24) (d : BitVec 64) (s : State) (x : State) (r : RegRow) (n : Fin 4), s.hostUp = true ∧ regRow off.toNat = some r ∧ s.isSealed = false ∧ x = s.setReg off.toNat ((lo32 d &&& r.mask) ||| (r.reset &&& ~~~r.mask)) ∧ off.toNat = Reg.prtCfg n.val ∧ s.templateOn n.val = false) ∧
    (∃ (off : BitVec 24) (d : BitVec 64) (s : State) (x : State) (r : RegRow), s.hostUp = true ∧ regRow off.toNat = some r ∧ s.isSealed = false ∧ x = s.setReg off.toNat ((lo32 d &&& r.mask) ||| (r.reset &&& ~~~r.mask)) ∧ off.toNat = Reg.prtPairCfg) ∧
    (∃ (off : BitVec 24) (d : BitVec 64) (s : State) (x : State) (r : RegRow) (n : Fin 8), s.hostUp = true ∧ regRow off.toNat = some r ∧ s.isSealed = false ∧ x = s.setReg off.toNat ((lo32 d &&& r.mask) ||| (r.reset &&& ~~~r.mask)) ∧ off.toNat = Reg.nrgPlsCfg n.val ∧ flag (lo32 d) 0 = false) ∧
    (∃ (off : BitVec 24) (d : BitVec 64) (s : State) (x : State) (r : RegRow) (n : Fin 4), s.hostUp = true ∧ regRow off.toNat = some r ∧ s.isSealed = false ∧ x = s.setReg off.toNat ((lo32 d &&& r.mask) ||| (r.reset &&& ~~~r.mask)) ∧ off.toNat = Reg.lmuPtCfg n.val ∧ flag (lo32 d) 0 = true ∧ s.ptOn n.val = true) ∧
    (∃ (off : BitVec 24) (d : BitVec 64) (s : State) (x : State) (r : RegRow), s.hostUp = true ∧ regRow off.toNat = some r ∧ s.isSealed = false ∧ x = s.setReg off.toNat ((lo32 d &&& r.mask) ||| (r.reset &&& ~~~r.mask)) ∧ off.toNat = Reg.lmuTrk ∧ flag (lo32 d) 0 = true) ∧
    (∃ (off : BitVec 24) (d : BitVec 64) (s : State) (x : State) (r : RegRow), s.hostUp = true ∧ regRow off.toNat = some r ∧ s.isSealed = false ∧ x = s.setReg off.toNat ((lo32 d &&& r.mask) ||| (r.reset &&& ~~~r.mask)) ∧ off.toNat = Reg.capCfg ∧ s.capMaster = x.capMaster) ∧
    (∃ (off : BitVec 24) (d : BitVec 64) (s : State) (x : State) (r : RegRow), s.hostUp = true ∧ regRow off.toNat = some r ∧ s.isSealed = false ∧ x = s.setReg off.toNat ((lo32 d &&& r.mask) ||| (r.reset &&& ~~~r.mask)) ∧ off.toNat = Reg.arcCfg) ∧
    (∃ (off : BitVec 24) (d : BitVec 64) (s : State) (x : State) (r : RegRow), s.hostUp = true ∧ regRow off.toNat = some r ∧ s.isSealed = false ∧ x = s.setReg off.toNat ((lo32 d &&& r.mask) ||| (r.reset &&& ~~~r.mask)) ∧ (off.toNat = Reg.timCfg ∨ off.toNat = Reg.timPrio) ∧ s.tim.gnssOk = false) ∧
    (∃ (off : BitVec 24) (d : BitVec 64) (s : State) (x : State) (r : RegRow), s.hostUp = true ∧ regRow off.toNat = some r ∧ s.isSealed = false ∧ x = s.setReg off.toNat ((lo32 d &&& r.mask) ||| (r.reset &&& ~~~r.mask)) ∧ off.toNat = Reg.timLock) ∧
    (∃ (off : BitVec 24) (d : BitVec 64) (s : State) (x : State) (r : RegRow), s.hostUp = true ∧ regRow off.toNat = some r ∧ s.isSealed = false ∧ x = s.setReg off.toNat ((lo32 d &&& r.mask) ||| (r.reset &&& ~~~r.mask)) ∧ off.toNat = Reg.gzlCfg ∧ s.gzlOn = x.gzlOn) ∧
    (∃ (off : BitVec 24) (d : BitVec 64) (s : State) (x : State) (r : RegRow), s.hostUp = true ∧ regRow off.toNat = some r ∧ s.isSealed = false ∧ x = s.setReg off.toNat ((lo32 d &&& r.mask) ||| (r.reset &&& ~~~r.mask)) ∧ off.toNat = Reg.pwrDvfsCfg ∧ s.sch.activeValid = false) ∧
    (∃ (off : BitVec 24) (_ : BitVec 64) (s : State), s.hostUp = true ∧ off.toNat % 4 = 0 ∧ regRow off.toNat = none) ∧
    (∃ (off : BitVec 24) (_ : BitVec 64) (s : State), s.hostUp = true ∧ off.toNat % 4 = 0) ∧
    (∃ (b : HostSpace) (off : BitVec 24) (w : Nat) (_ : BitVec 64) (s : State), s.hostUp = true ∧ b ≠ .config ∧ (off.toNat % 4 ≠ 0 ∨ (w ≠ 4 ∧ w ≠ 8))) ∧
    (∃ (n : Fin 64) (_ : BitVec 64) (s : State), s.hostUp = true ∧ s.ringType n.val = 2) ∧
    (∃ (n : Fin 64) (_ : BitVec 64) (s : State), s.hostUp = true ∧ s.ringType n.val ≠ 2) ∧
    (∃ (_ : Fin 128) (s : State), s.hostUp = true) ∧
    (∃ (_ : BitVec 24) (_ : Nat) (_ : BitVec 64) (s : State), s.hostUp = true ∧ s.hif.pba = 0) ∧
    (∃ (v : Fin 128) (d : BitVec 64) (s : State), s.hostUp = true ∧ s.functionMasked = true ∧ flag (lo32 d) 30 = false ∧ s.hif.pba = (1 : BitVec 128) <<< v.val ∧ s.hif.masked = 0) ∧
    (∃ (_ : HostSpace) (_ : BitVec 24) (_ : Nat) (_ : BitVec 64) (s : State), s.hostUp = false) :=
  ⟨⟨0x060004, 0, live, rowOf 0x060004, by decide⟩,
   ⟨BitVec.ofNat 24 Reg.gzlFault, 0, live, rowOf Reg.gzlFault, by decide⟩,
   ⟨BitVec.ofNat 24 Reg.sysId, 0, live, rowOf Reg.sysId, by decide⟩,
   ⟨BitVec.ofNat 24 Reg.tckFm, 0, grid, by decide⟩,
   ⟨BitVec.ofNat 24 (Reg.hifRingMod 63), 0, live, _, rowOf (Reg.hifRingMod 63), 63, by decide, by decide, by decide, rfl, by decide⟩,
   ⟨BitVec.ofNat 24 (Reg.prtCfg 3), 1, live, _, rowOf (Reg.prtCfg 3), 3, by decide, by decide, by decide, rfl, by decide, by decide⟩,
   ⟨BitVec.ofNat 24 (Reg.prtPairCfg), 1, live, _, rowOf (Reg.prtPairCfg), by decide, by decide, by decide, rfl, by decide⟩,
   ⟨BitVec.ofNat 24 (Reg.nrgPlsCfg 7), 0, live, _, rowOf (Reg.nrgPlsCfg 7), 7, by decide, by decide, by decide, rfl, by decide, by decide⟩,
   ⟨BitVec.ofNat 24 (Reg.lmuPtCfg 3), 1, withRegs live [(Reg.lmuPtCfg 3, 1)], _, rowOf (Reg.lmuPtCfg 3), 3, by decide, by decide, by decide, rfl, by decide, by decide, by decide⟩,
   ⟨BitVec.ofNat 24 (Reg.lmuTrk), 1, live, _, rowOf (Reg.lmuTrk), by decide, by decide, by decide, rfl, by decide, by decide⟩,
   ⟨BitVec.ofNat 24 (Reg.capCfg), 0, live, _, rowOf (Reg.capCfg), by decide, by decide, by decide, rfl, by decide, by decide⟩,
   ⟨BitVec.ofNat 24 (Reg.arcCfg), 1, live, _, rowOf (Reg.arcCfg), by decide, by decide, by decide, rfl, by decide⟩,
   ⟨BitVec.ofNat 24 (Reg.timPrio), 0, live, _, rowOf (Reg.timPrio), by decide, by decide, by decide, rfl, by decide, by decide⟩,
   ⟨BitVec.ofNat 24 (Reg.timLock), 0, live, _, rowOf (Reg.timLock), by decide, by decide, by decide, rfl, by decide⟩,
   ⟨BitVec.ofNat 24 (Reg.gzlCfg), 1, live, _, rowOf (Reg.gzlCfg), by decide, by decide, by decide, rfl, by decide, by decide⟩,
   ⟨BitVec.ofNat 24 (Reg.pwrDvfsCfg), 0, live, _, rowOf (Reg.pwrDvfsCfg), by decide, by decide, by decide, rfl, by decide, by decide⟩,
   ⟨0xFFFFFC, 0, live, by decide⟩,
   ⟨0, 0, live, by decide⟩,
   ⟨.bar2, 2, 4, 0, live, by decide⟩,
   ⟨1, 0, live, by decide⟩,
   ⟨5, 0, live, by decide⟩,
   ⟨127, live, by decide⟩,
   ⟨0, 4, 0, live, by decide⟩,
   ⟨127, 0, { live with hif := { live.hif with config := [(0x80, 0x40000000)], pba := (1 : BitVec 128) <<< 127, masked := 0 } }, by decide⟩,
   ⟨.bar0, 0, 4, 0, State.reset, by decide⟩⟩

theorem test_meets_seal_stops_sealed_registers :
    (∃ (_ : Word) (s : State), s.hostUp = true) ∧
    (∃ (off : BitVec 24) (_ : BitVec 64) (s : State) (r : RegRow), s.isSealed = true ∧ off.toNat % 4 = 0 ∧ regRow off.toNat = some r ∧ r.acc = .rws) :=
  ⟨⟨0x5EA10880, live, by decide⟩,
   ⟨BitVec.ofNat 24 Reg.schStage, 0, { live with isSealed := true }, rowOf Reg.schStage, by decide⟩⟩

theorem test_meets_reads_clear_and_latch :
    (∃ (n : Fin 9) (s : State), s.hostUp = true ∧ mapGet s.latched (Reg.flmPeak n.val) = none) ∧
    (∃ (s : State), s.hostUp = true ∧ mapGet s.latched Reg.evrQueuePeak = none) ∧
    (∃ (s : State), s.hostUp = true ∧ mapGet s.latched Reg.pwrTempPeak = none) ∧
    (∃ (s : State), s.hostUp = true ∧ mapGet s.latched Reg.tckTickIdLo = none) ∧
    (∃ (s : State) (v : Word), s.hostUp = true ∧ mapGet s.latched Reg.tckTickIdHi = some v) :=
  ⟨⟨8, live, by decide⟩,
   ⟨live, by decide⟩,
   ⟨live, by decide⟩,
   ⟨live, by decide⟩,
   ⟨{ live with latched := [(Reg.tckTickIdHi, 5)] }, 5, by decide⟩⟩

theorem test_meets_grid_enable_starts_the_grid :
    (∃ (_ : Bool) (s : State), s.hostUp = true ∧ s.isSealed = false ∧ s.gridOn = false ∧ s.gridCfgOk = true ∧ s.sys.tampered = false) ∧
    (∃ (_ : Bool) (s : State), s.hostUp = true ∧ s.isSealed = false ∧ s.gridOn = false ∧ s.gridCfgOk = false) :=
  ⟨⟨true, live, by decide⟩,
   ⟨false, withRegs live [(Reg.tckFm, 12)], by decide⟩⟩

theorem test_meets_start_and_boot_writes :
    (∃ (s : State), s.hostUp = true ∧ s.sys.step = 11 ∧ s.sys.tampered = false ∧ s.tim.state ≠ .locked ∧ s.tim.mono < s.acqEnd) ∧
    (∃ (s : State), s.hostUp = true ∧ s.sys.step < 11 ∧ s.sys.tampered = false) ∧
    (∃ (s : State), s.waitsBoot = true) ∧
    (∃ (s : State), s.waitsBoot = true ∧ s.sys.goWritten = false) ∧
    (∃ (s : State), s.waitsBoot = false) :=
  ⟨⟨{ State.reset with sys := { State.reset.sys with step := 11, acqAt := 1 } }, by decide⟩,
   ⟨{ State.reset with sys := { State.reset.sys with step := 9, patchWait := true } }, by decide⟩,
   ⟨{ State.reset with sys := { State.reset.sys with step := 9, patchWait := true } }, by decide⟩,
   ⟨{ State.reset with sys := { State.reset.sys with step := 9, patchWait := true } }, by decide⟩,
   ⟨live, by decide⟩⟩

theorem test_meets_request_writes_become_pending :
    (∃ (s : State), s.hostUp = true ∧ s.sec.verifying = none) ∧
    (∃ (s : State), s.hostUp = true ∧ s.pwr.brace = false) ∧
    (∃ (v : Word) (s : State), s.hostUp = true ∧ flag v 0 = true ∧ field v 15 8 = 0x5A ∧ s.gateOpen = false ∧ s.pwr.brace = false ∧ s.reg Reg.pwrWakeCfg ≠ 0) ∧
    (∃ (v : Word) (s : State), (s.gateOpen = true ∨ s.pwr.brace = true ∨ s.reg Reg.pwrWakeCfg = 0 ∨ flag v 0 = false ∨ field v 15 8 ≠ 0x5A)) ∧
    (∃ (_ : BitVec 2) (s : State), s.hostUp = true) ∧
    (∃ (_ : BitVec 6) (_ : Bool) (s : State), s.hostUp = true ∧ s.clk.sluice = none) ∧
    (∃ (_ : BitVec 6) (_ : Bool) (s : State), s.clk.sluice.isSome = true) :=
  ⟨⟨live, by decide⟩,
   ⟨live, by decide⟩,
   ⟨0x5A01, withRegs ({ live with gzl := { live.gzl with role := .standby } }) [(Reg.pwrWakeCfg, 1)], by decide⟩,
   ⟨0, live, by decide⟩,
   ⟨3, live, by decide⟩,
   ⟨63, true, live, by decide⟩,
   ⟨0, false, { live with clk := { live.clk with sluice := some (0, true) } }, by decide⟩⟩

theorem test_meets_rings_are_enabled_and_disabled :
    (∃ (n : Fin 64) (s : State), s.hostUp = true ∧ (s.ring n.val).enabled = false ∧ s.ringCfgOk n.val = true) ∧
    (∃ (n : Fin 64) (s : State), s.hostUp = true ∧ (s.ring n.val).enabled = false ∧ s.ringCfgOk n.val = false) ∧
    (∃ (n : Fin 64) (s : State), s.hostUp = true ∧ (s.ring n.val).enabled = true ∧ (s.ringType n.val ≠ 2 ∨ s.cqInUse n.val = false)) ∧
    (∃ (n : Fin 64) (s : State), s.ringType n.val = 2 ∧ s.cqInUse n.val = true) :=
  ⟨⟨5, { live with hif := { live.hif with rings := live.hif.rings.filter fun p => decide (p.1 = 1) } }, by decide⟩,
   ⟨63, live, by decide⟩,
   ⟨5, live, by decide⟩,
   ⟨1, live, by decide⟩⟩

theorem test_meets_host_indices_post_and_consume :
    (∃ (n : Fin 64) (i : BitVec 16) (ds : List (List Word)) (s : State), s.hostUp = true ∧ (s.ring n.val).works = true ∧ 3 ≤ s.ringType n.val ∧ s.ringType n.val ≠ 4 ∧ idxValid (s.ringSize n.val) i.toNat = true ∧ idxDist (s.ringSize n.val) (s.ring n.val).devIdx i.toNat = (s.ring n.val).posted.length + ds.length ∧ (s.ring n.val).posted.length + ds.length ≤ s.ringSize n.val) ∧
    (∃ (n : Fin 64) (i : BitVec 16) (_ : List (List Word)) (s : State), s.hostUp = true ∧ (s.ring n.val).works = true ∧ (s.ringType n.val = 1 ∨ s.ringType n.val = 4) ∧ idxValid (s.ringSize n.val) i.toNat = true ∧ idxDist (s.ringSize n.val) (s.ring n.val).devIdx i.toNat ≤ s.ringSize n.val) ∧
    (∃ (n : Fin 64) (i : BitVec 16) (_ : List (List Word)) (_ : Bool) (s : State), s.hostUp = true ∧ (s.ring n.val).works = true ∧ s.ringType n.val ≠ 0 ∧ idxValid (s.ringSize n.val) i.toNat = false) ∧
    (∃ (n : Fin 64) (i : BitVec 16) (_ : List (List Word)) (_ : Bool) (s : State), s.hostUp = true ∧ (s.ring n.val).works = true ∧ (s.ringType n.val = 1 ∨ 3 ≤ s.ringType n.val) ∧ idxValid (s.ringSize n.val) i.toNat = true ∧ s.ringSize n.val < idxDist (s.ringSize n.val) (s.ring n.val).devIdx i.toNat) ∧
    (∃ (n : Fin 64) (i : BitVec 16) (_ : List (List Word)) (s : State), s.hostUp = true ∧ (s.ring n.val).works = true ∧ (s.ringType n.val = 1 ∨ 3 ≤ s.ringType n.val) ∧ idxValid (s.ringSize n.val) i.toNat = true ∧ idxDist (s.ringSize n.val) (s.ring n.val).devIdx i.toNat ≤ s.ringSize n.val) ∧
    (∃ (n : Fin 64) (i : BitVec 16) (s : State), s.hostUp = true ∧ (s.ring n.val).works = true ∧ s.ringType n.val = 2 ∧ idxValid (s.ringSize n.val) i.toNat = true ∧ s.hif.waiting = [] ∧ idxDist (s.ringSize n.val) (s.ring n.val).hostIdx i.toNat = (s.ring n.val).entries.length) ∧
    (∃ (n : Fin 64) (i : BitVec 16) (s : State), s.hostUp = true ∧ (s.ring n.val).works = true ∧ s.ringType n.val = 2 ∧ idxValid (s.ringSize n.val) i.toNat = true ∧ s.hif.waiting = [] ∧ idxDist (s.ringSize n.val) (s.ring n.val).hostIdx i.toNat < (s.ring n.val).entries.length ∧ max 1 (s.regField (Reg.hifRingMod n.val) 11 0) + idxDist (s.ringSize n.val) (s.ring n.val).hostIdx i.toNat ≤ (s.ring n.val).entries.length ∧ s.hif.masked.getLsbD (s.regField (Reg.hifRingCfg n.val) 20 14) = false ∧ s.functionMasked = false) ∧
    (∃ (n : Fin 64) (i : BitVec 16) (s : State), s.hostUp = true ∧ (s.ring n.val).works = true ∧ s.ringType n.val = 2 ∧ idxValid (s.ringSize n.val) i.toNat = true ∧ (s.ring n.val).entries.length < idxDist (s.ringSize n.val) (s.ring n.val).hostIdx i.toNat) ∧
    (∃ (n : Fin 64) (_ : BitVec 16) (_ : List (List Word)) (_ : Bool) (s : State), (s.ring n.val).works = false) :=
  ⟨⟨5, 0x8000, List.replicate 64 [], live, by decide⟩,
   ⟨0, 0x8000, [], live, by decide⟩,
   ⟨1, 64, [], false, live, by decide⟩,
   ⟨5, 0x8001, [], true, live, by decide⟩,
   ⟨5, 0x8000, [], live, by decide⟩,
   ⟨1, 0, live, by decide⟩,
   ⟨1, 1, { live with hif := { live.hif with rings := [(1, { enabled := true, entries := [ent, ent], fresh := 2 })], masked := 0 } }, by decide⟩,
   ⟨1, 1, live, by decide⟩,
   ⟨63, 0, [], false, live, by decide⟩⟩

theorem test_meets_port_and_channel_controls :
    (∃ (n : Fin 4) (s : State), s.hostUp = true ∧ (s.port n.val).busyUntil ≤ s.tim.mono) ∧
    (∃ (_ : Fin 4) (s : State), s.hostUp = true) ∧
    (∃ (c : Fin 24) (v : Word) (s : State), s.hostUp = true ∧ flag v 0 = true ∧ field v 5 1 ≤ 23 ∧ s.chOn c.val = false) ∧
    (∃ (c : Fin 24) (v : Word) (s : State), s.hostUp = true ∧ flag v 0 = false ∧ s.chOn c.val = false) ∧
    (∃ (_ : Fin 24) (v : Word) (_ : State), flag v 0 = true ∧ 23 < field v 5 1) :=
  ⟨⟨0, live, by decide⟩,
   ⟨3, live, by decide⟩,
   ⟨23, 0x2F, live, by decide⟩,
   ⟨0, 0, live, by decide⟩,
   ⟨0, 0x31, live, by decide⟩⟩

theorem test_meets_enables_are_checked :
    (∃ (_ : Fin 8) (_ : Word) (s : State), s.hostUp = true ∧ s.isSealed = false) ∧
    (∃ (p : Fin 4) (v : Word) (s : State), s.hostUp = true ∧ s.isSealed = false ∧ flag v 0 = true ∧ s.pointCfgOk p.val = true ∧ s.nrgOn p.val = false) ∧
    (∃ (p : Fin 4) (v : Word) (s : State), s.hostUp = true ∧ s.isSealed = false ∧ flag v 0 = true ∧ s.pointCfgOk p.val = false) ∧
    (∃ (v : Word) (s : State), s.hostUp = true ∧ s.isSealed = false ∧ flag v 31 = true ∧ s.sys.boot.ddrOk = true ∧ s.regionOverlaps 0 (v &&& 0x80001FFF) = false) ∧
    (∃ (v : Word) (s : State), s.hostUp = true ∧ s.isSealed = false ∧ flag v 31 = true ∧ s.sys.boot.ddrOk = true ∧ s.regionOverlaps 0 (v &&& 0x80001FFF) = true) ∧
    (∃ (u : Fin 8) (n : Fin 10) (v : Word) (s : State), s.hostUp = true ∧ s.isSealed = false ∧ n.val = u.val + 2 ∧ flag v 31 = true ∧ s.sys.boot.ddrOk = true ∧ s.regionOverlaps n.val (v &&& 0x87FFFFFF) = false) ∧
    (∃ (u : Fin 8) (n : Fin 10) (v : Word) (s : State), s.hostUp = true ∧ s.isSealed = false ∧ n.val = u.val + 2 ∧ flag v 31 = true ∧ s.regionOverlaps n.val (v &&& 0x87FFFFFF) = true) ∧
    (∃ (v : Word) (s : State), s.hostUp = true ∧ s.isSealed = false ∧ flag v 31 = true ∧ s.sys.boot.ddrOk = true ∧ 32 ≤ field v 26 13 ∧ s.regionOverlaps 1 (v &&& 0x87FFFFFF) = false) ∧
    (∃ (v : Word) (s : State), s.hostUp = true ∧ s.isSealed = false ∧ flag v 31 = true ∧ field v 26 13 < 32 ∧ s.regionOverlaps 1 (v &&& 0x87FFFFFF) = false) ∧
    (∃ (v : Word) (s : State), s.hostUp = true ∧ s.isSealed = false ∧ flag v 31 = true ∧ s.regionOverlaps 1 (v &&& 0x87FFFFFF) = true) ∧
    (∃ (n : Fin 10) (v : Word) (s : State), s.hostUp = true ∧ s.isSealed = false ∧ s.sys.boot.ddrOk = false ∧ s.regionOverlaps n.val (v &&& 0x87FFFFFF) = false ∧ n.val ≠ 0) ∧
    (∃ (v : Word) (s : State), s.hostUp = true ∧ s.isSealed = false ∧ s.sys.boot.ddrOk = false ∧ s.regionOverlaps 0 (v &&& 0x80001FFF) = false) :=
  ⟨⟨7, 0, live, by decide⟩,
   ⟨3, 1, withRegs live pointRegs, by decide⟩,
   ⟨0, 1, withRegs live [(Reg.nrgPtEu 0, 0)], by decide⟩,
   ⟨0x80000000, live, by decide⟩,
   ⟨0x80000000, withRegs live [(Reg.arcRegion, 0x80040003)], by decide⟩,
   ⟨7, 9, 0x80000000, live, by decide⟩,
   ⟨7, 9, 0x80002000, withRegs live [(Reg.arcRegion, 0x80002000)], by decide⟩,
   ⟨0x80040000, live, by decide⟩,
   ⟨0x8003E000, live, by decide⟩,
   ⟨0x80040000, withRegs live [(Reg.schStage, 0x80000000)], by decide⟩,
   ⟨9, 0x80000000, { live with sys := { live.sys with boot := { ddrOk := false } } }, by decide⟩,
   ⟨0x80000000, { live with sys := { live.sys with boot := { ddrOk := false } } }, by decide⟩⟩

theorem test_meets_grid_instants_lie_at_their_times : ∃ (fm : Nat) (_ : Nat) (i : Nat), 0 < fm ∧ fm ≤ 240 ∧ i < fm :=
  ⟨240, 0, 239, by decide⟩

theorem test_meets_instants_columns_and_tick_ids :
    (∃ (s : State), s.gridOn = true ∧ s.awake = true) ∧
    (∃ (s : State), s.gridOn = true ∧ s.awake = true ∧ s.slotFree s.tck.openId = true) ∧
    (∃ (s : State), s.slackAt 5 = true ∧ s.gridOn = true ∧ s.tck.storedSec ≠ some s.nowSec ∧ s.tck.lastInstant.isSome = true ∧ s.pwr.brace = false) :=
  ⟨⟨grid, by decide⟩,
   ⟨grid, by decide⟩,
   ⟨{ grid with tck := { grid.tck with lastInstant := some (0, 0) } }, by decide⟩⟩

theorem test_meets_columns_close_and_end :
    (∃ (_ : List MemErr) (_ : List SlowRecord) (c : Column) (rest : List Column) (s : State), s.gridOn = true ∧ s.awake = true ∧ s.tck.proc = none ∧ s.openCols = c :: rest ∧ c.emitted = true) ∧
    (∃ (_ : List MemErr) (_ : List SlowRecord) (c : Column) (rest : List Column) (s : State), s.gridOn = true ∧ s.awake = true ∧ s.tck.proc = none ∧ s.openCols = c :: rest ∧ c.emitted = true ∧ c.full = true ∧ s.regBit Reg.tckCfg 1 = true ∧ s.tim.now < s.instantTime c.sec c.index + s.wdNs) ∧
    (∃ (_ : List MemErr) (_ : List SlowRecord) (s : State), (s.tck.proc.isSome = true ∨ s.openCols.head?.any (·.emitted) = false)) ∧
    (∃ (p : Proc) (s : State), s.tck.proc = some p ∧ p.windowEnd = none ∧ s.awake = true) ∧
    (∃ (p : Proc) (s : State), s.tck.proc = some p ∧ p.windowEnd.isSome = true ∧ s.awake = true) ∧
    (∃ (s : State), s.tck.proc = none) :=
  ⟨⟨[], [], { tick := 0, sec := 0, index := 0, emitted := true }, [], { grid with bsn := { grid.bsn with cols := [{ tick := 0, sec := 0, index := 0, emitted := true }] } }, by decide⟩,
   ⟨[], [], { tick := 0, sec := 0, index := 0, emitted := true }, [], { grid with bsn := { grid.bsn with cols := [{ tick := 0, sec := 0, index := 0, emitted := true }] } }, by decide⟩,
   ⟨[], [], busy, by decide⟩,
   ⟨{ tick := 0, sec := 0, index := 0, variant := 0, closeAt := 0 }, busy, by decide⟩,
   ⟨{ tick := 0, sec := 0, index := 0, variant := 0, closeAt := 0, windowEnd := some 0 }, { busy with tck := { busy.tck with proc := some { tick := 0, sec := 0, index := 0, variant := 0, closeAt := 0, windowEnd := some 0 } } }, by decide⟩,
   ⟨grid, by decide⟩⟩

theorem test_meets_operations_start_and_retire :
    (∃ (q : Fin 32) (p : Nat) (_ : List MemErr) (s : State), s.windowOpen = true ∧ s.logical q.val = some p) ∧
    (∃ (q : Fin 32) (p : Nat) (w : Work) (s : State), s.windowOpen = true ∧ s.logical q.val = some p ∧ (s.plot p).executing = some w) ∧
    (∃ (q : Fin 32) (p : Nat) (w : Work) (errs : List MemErr) (s : State), s.windowOpen = true ∧ s.logical q.val = some p ∧ (s.plot p).executing = some w ∧ storeHits errs ≠ []) ∧
    (∃ (_ : Fin 32) (_ : List MemErr) (s : State), s.windowOpen = false) :=
  ⟨⟨3, 0, [], busy, by decide⟩,
   ⟨3, 0, { op := 0, list := .reserve, args := [] }, busy, by decide⟩,
   ⟨3, 0, { op := 0, list := .reserve, args := [] }, [{ kind := .double, site := .plotStore 0 0 }], busy, by decide⟩,
   ⟨3, [], grid, by decide⟩⟩

theorem test_meets_engines_take_their_inputs :
    (∃ (p : Nat) (feed : ModFeed) (_ : List MemErr) (s : State), s.dueFeed = some (p, feed) ∧ s.windowOpen = true) ∧
    (∃ (_ : Nat) (p : Proc) (_ : List MemErr) (s : State), s.tck.proc = some p ∧ s.passDue = true ∧ s.windowOpen = true) ∧
    (∃ (e : AlarmEval) (rest : List AlarmEval) (s : State), s.tck.proc.isSome = true ∧ s.alm.sent = e :: rest) ∧
    (∃ (e : AlarmEval) (rest : List AlarmEval) (s : State), s.tck.proc.isSome = true ∧ s.alm.sent = [] ∧ s.alm.general = e :: rest) ∧
    (∃ (s : State), (s.tck.proc = none ∨ (s.alm.sent = [] ∧ s.alm.general = []))) ∧
    (∃ (n : Fin 32) (m : Nat) (s : State), (s.alm.template n.val).next = some m ∧ (s.alm.template n.val).stopped = false ∧ s.publishes = true ∧ s.imageActive = true ∧ s.awake = true) ∧
    (∃ (n : Fin 32) (s : State), ((s.alm.template n.val).next = none ∨ s.publishes = false)) :=
  ⟨⟨0, { group := 0, sent := false, words := [] }, [], { busy with mod := { busy.mod with queues := [[{ group := 0, sent := false, words := [] }], [], [], []] } }, by decide⟩,
   ⟨0, { tick := 0, sec := 0, index := 0, variant := 0, closeAt := 0 }, [], { busy with sch := { busy.sch with activeValid := true } }, by decide⟩,
   ⟨{ rule := 0, input := [] }, [], { busy with alm := { busy.alm with sent := [{ rule := 0, input := [] }] } }, by decide⟩,
   ⟨{ rule := 0, input := [] }, [], { busy with alm := { busy.alm with general := [{ rule := 0, input := [] }] } }, by decide⟩,
   ⟨live, by decide⟩,
   ⟨0, 5, { live with sch := { live.sch with activeValid := true }, alm := { live.alm with templates := [(0, { next := some 5 })] } }, by decide⟩,
   ⟨31, live, by decide⟩⟩

theorem test_meets_time_sources_are_followed :
    (∃ (th : Int) (_ : Nat) (s : State), s.awake = true ∧ s.tim.measured = some th) ∧
    (∃ (_ : Nat) (s : State), s.awake = false) ∧
    (∃ (a : Nat) (s : State), s.tim.source = .ptp ∧ s.tim.syncAt = some a ∧ s.tim.syncMissed < 2) ∧
    (∃ (a : Nat) (s : State), s.tim.source = .ptp ∧ s.tim.syncAt = some a ∧ 2 ≤ s.tim.syncMissed) ∧
    (∃ (m : Master) (s : State), s.tim.source = .ptp ∧ s.tim.parent = some m) ∧
    (∃ (s : State), s.tim.source ≠ .ptp) ∧
    (∃ (m : Nat) (s : State), s.tim.labelledAt = some m) ∧
    (∃ (falling : Bool) (_ : Nat) (s : State), s.gnssOn = true ∧ s.awake = true ∧ s.regBit Reg.timCfg 20 = falling) ∧
    (∃ (_ : Nat) (s : State), s.clk.domSrc.getD 3 .firc = .pllt) ∧
    (∃ (_ : Nat) (s : State), s.clk.domSrc.getD 3 .firc ≠ .pllt) ∧
    (∃ (falling : Bool) (_ : Nat) (s : State), (s.gnssOn = false ∨ s.regBit Reg.timCfg 20 ≠ falling)) ∧
    (∃ (d : TodIn) (u : Nat × Bool) (l : Nat × Bool) (edge : Nat) (m : Nat) (a : Nat) (stamp : Int) (s : State), s.gnssOn = true ∧ s.tim.edge = some (stamp, edge, m) ∧ s.tim.gnssOk = true ∧ 0 < s.tim.labelRun ∧ d.baud = s.regField Reg.timTod 1 0 ∧ edge + 10000000 ≤ d.at_ ∧ d.at_ ≤ edge + 900000000 ∧ nmeaSecond d.bytes = some u ∧ s.tim.label = some l ∧ ((u.2 = false ∧ u.1 = l.1 + 1) ∨ (u.2 = true ∧ l.2 = false ∧ u.1 = l.1)) ∧ s.tim.source = .gnss ∧ s.tim.labelledAt = some a) ∧
    (∃ (d : TodIn) (edge : Nat) (m : Nat) (stamp : Int) (s : State), s.tim.edge = some (stamp, edge, m) ∧ (d.baud ≠ s.regField Reg.timTod 1 0 ∨ d.at_ < edge + 10000000 ∨ edge + 900000000 < d.at_ ∨ nmeaSecond d.bytes = none)) :=
  ⟨⟨5, 0, { live with tim := { live.tim with measured := some 5 } }, by decide⟩,
   ⟨0, { live with pwr := { live.pwr with off := true } }, by decide⟩,
   ⟨0, { live with tim := { live.tim with source := .ptp, syncAt := some 0 } }, by decide⟩,
   ⟨0, { live with tim := { live.tim with source := .ptp, syncAt := some 0, syncMissed := 2 } }, by decide⟩,
   ⟨master, { live with tim := { live.tim with source := .ptp, parent := some master } }, by decide⟩,
   ⟨live, by decide⟩,
   ⟨0, { live with tim := { live.tim with labelledAt := some 0 } }, by decide⟩,
   ⟨false, 0, live, by decide⟩,
   ⟨64, { live with clk := { live.clk with domSrc := List.replicate 8 .pllt } }, by decide⟩,
   ⟨65, { live with clk := { live.clk with domSrc := List.replicate 8 .xta } }, by decide⟩,
   ⟨false, 0, State.reset, by decide⟩,
   ⟨{ bytes := zda, baud := live.regField Reg.timTod 1 0, at_ := 10000000 }, (5, false), (4, false), 0, 0, 0, 0, { live with tim := { live.tim with edge := some (0, 0, 0), gnssOk := true, labelRun := 1, label := some (4, false), source := .gnss, labelledAt := some 0 } }, by decide⟩,
   ⟨{ bytes := zda, baud := live.regField Reg.timTod 1 0, at_ := 900000001 }, 0, 0, 0, { live with tim := { live.tim with edge := some (0, 0, 0), gnssOk := true, labelRun := 1, label := some (4, false), source := .gnss, labelledAt := some 0 } }, by decide⟩⟩

theorem test_meets_timebase_moments :
    (∃ (th : Int) (b : Bool) (s : State), s.tim.pendingStep = some (th, b) ∧ s.slack = true ∧ s.awake = true) ∧
    (∃ (th : Int) (b : Bool) (s : State), s.tim.pendingStep = some (th, b) ∧ s.slack = false) ∧
    (∃ (k : Leap) (l : Nat) (s : State), s.tim.leap = some (k, l)) ∧
    (∃ (s : State), s.tim.state = .locked ∧ s.tim.offsetValid = true ∧ s.awake = true ∧ s.nowNs = 0) ∧
    (∃ (s : State), s.tim.state ≠ .locked) ∧
    (∃ (s : State), s.awake = true ∧ s.ppsDriven = true ∧ s.tim.state ≠ .bivouac) :=
  ⟨⟨5, true, { live with tim := { live.tim with pendingStep := some (5, true) } }, by decide⟩,
   ⟨5, true, { busy with tim := { busy.tim with pendingStep := some (5, true) } }, by decide⟩,
   ⟨.insert, 5, { live with tim := { live.tim with leap := some (.insert, 5) } }, by decide⟩,
   ⟨{ live with tim := { live.tim with state := .locked, offsetValid := true } }, by decide⟩,
   ⟨live, by decide⟩,
   ⟨withRegs live [(Reg.timPpsOut, 1)], by decide⟩⟩

theorem test_meets_host_link_and_interrupts :
    (∃ (n : Fin 64) (m : Nat) (s : State), (s.ring n.val).oldest = some m ∧ (s.ring n.val).armed = true ∧ 0 < (s.ring n.val).fresh ∧ s.regField (Reg.hifRingMod n.val) 27 16 ≠ 0) ∧
    (∃ (v : Fin 128) (s : State), s.hostUp = true ∧ s.hif.pba.getLsbD v.val = true ∧ s.functionMasked = false) ∧
    (∃ (v : Fin 128) (s : State), s.hostUp = true ∧ (s.hif.pba.getLsbD v.val = false ∨ s.functionMasked = true)) ∧
    (∃ (sp : Fin 5) (ln : Fin 9) (s : State), 9 ≤ s.sys.step ∧ s.awake = true ∧ s.hif.linkUp = false ∧ 1 ≤ sp.val ∧ (ln.val = 1 ∨ ln.val = 2 ∨ ln.val = 4 ∨ ln.val = 8)) ∧
    (∃ (_ : Fin 5) (_ : Fin 9) (s : State), s.sys.step < 9) ∧
    (∃ (h : CmdHdr) (c : CmdRef) (r : CmdResult) (rest : List (CmdRef × CmdResult)) (s : State), s.hif.finishing = (c, r) :: rest ∧ c.ring = h.ring.val ∧ c.tag = h.tag) :=
  ⟨⟨1, 0, withRegs { live with hif := { live.hif with rings := [(1, { enabled := true, armed := true, entries := [ent], fresh := 1 })] } } [(Reg.hifRingMod 1, 0x10001)], by decide⟩,
   ⟨127, { live with hif := { live.hif with pba := BitVec.allOnes 128 } }, by decide⟩,
   ⟨0, { live with hif := { live.hif with config := [(0x80, 0x40000000)], pba := 1 } }, by decide⟩,
   ⟨4, 8, live, by decide⟩,
   ⟨0, 0, State.reset, by decide⟩,
   ⟨hdr, ref, ({ status := 0 } : CmdResult), [], { live with hif := { live.hif with finishing := [(ref, ({ status := 0 } : CmdResult))] } }, by decide⟩⟩

theorem test_meets_link_comes_up_and_goes_down :
    (∃ (_ : Fin 2) (s : State), s.awake = true ∧ s.prt.serdes = true) ∧
    (∃ (_ : Fin 2) (s : State), (s.awake = false ∨ s.prt.serdes = false)) ∧
    (∃ (s : State), s.gzl.lane0 = true ∧ s.gzl.lane1 = true) ∧
    (∃ (s : State), s.gzlOn = true ∧ s.gzl.lane0 = true ∧ s.gzl.lane1 = false) ∧
    (∃ (s : State), s.gzlOn = true ∧ s.gzl.lane0 = false ∧ s.gzl.lane1 = true) ∧
    (∃ (s : State), s.gzl.linkUp = true) ∧
    (∃ (s : State), s.gzl.linkUp = false) ∧
    (∃ (s : State), s.linkHears = true) ∧
    (∃ (s : State), s.linkHears = true ∧ ((s.keySlot s.linkSlot).content s.linkSlot).isSome = true) ∧
    (∃ (s : State), s.linkHears = true ∧ ((s.keySlot s.linkSlot).content s.linkSlot).isSome = true ∧ s.gzl.badTags < 15) ∧
    (∃ (s : State), s.linkHears = true ∧ ((s.keySlot s.linkSlot).content s.linkSlot).isSome = true ∧ s.gzl.linkUp = true ∧ s.gzl.badTags = 15) ∧
    (∃ (_ : DiscardCause) (s : State), s.linkHears = false) :=
  ⟨⟨1, live, by decide⟩,
   ⟨0, State.reset, by decide⟩,
   ⟨live, by decide⟩,
   ⟨{ live with gzl := { live.gzl with lane1 := false } }, by decide⟩,
   ⟨{ live with gzl := { live.gzl with lane0 := false } }, by decide⟩,
   ⟨live, by decide⟩,
   ⟨State.reset, by decide⟩,
   ⟨live, by decide⟩,
   ⟨keyed live.gzl, by decide, keyed_content _⟩,
   ⟨keyed { live.gzl with badTags := 14 }, by decide, keyed_content _, by decide⟩,
   ⟨keyed { live.gzl with badTags := 15 }, by decide, keyed_content _, by decide, by decide⟩,
   ⟨.tag, State.reset, by decide⟩⟩

theorem test_meets_link_sends :
    (∃ (s : State), s.gzl.hello = true ∧ s.linkHears = true) ∧
    (∃ (s : State), s.gzl.linkUp = true ∧ s.linkHears = true) ∧
    (∃ (s : State), s.gzl.linkUp = true ∧ s.linkHears = true ∧ s.gzl.rxGap = true) ∧
    (∃ (s : State), s.gzl.linkUp = true ∧ s.linkHears = true) ∧
    (∃ (s : State), s.linkHears = false) :=
  ⟨⟨{ live with gzl := { live.gzl with hello := true } }, by decide⟩,
   ⟨live, by decide⟩,
   ⟨{ live with gzl := { live.gzl with rxGap := true } }, by decide⟩,
   ⟨live, by decide⟩,
   ⟨State.reset, by decide⟩⟩

theorem test_meets_fresh_frames_act :
    (∃ (hdr : LinkHdr) (s : State) (_ : HelloBody), s.linkHears = true ∧ s.gzl.rxCtr.all (fun c => decide (c < hdr.ctr)) = true ∧ ((s.keySlot s.linkSlot).content s.linkSlot).isSome = true ∧ (s.gzl.hello = true ∨ s.gzl.linkUp = true)) ∧
    (∃ (hdr : LinkHdr) (s : State) (_ : HelloBody), s.linkHears = true ∧ s.gzl.rxCtr.all (fun c => decide (c < hdr.ctr)) = true ∧ ((s.keySlot s.linkSlot).content s.linkSlot).isSome = true ∧ s.gzl.hello = true ∧ s.gzl.linkUp = false ∧ s.gzl.role = .standby) ∧
    (∃ (hdr : LinkHdr) (s : State) (_ : HelloBody), s.linkHears = true ∧ s.gzl.rxCtr.all (fun c => decide (c < hdr.ctr)) = true ∧ ((s.keySlot s.linkSlot).content s.linkSlot).isSome = true ∧ s.gzl.hello = false ∧ s.gzl.linkUp = false) ∧
    (∃ (hdr : LinkHdr) (s : State) (_ : Bool), s.linkHears = true ∧ s.gzl.rxCtr.all (fun c => decide (c < hdr.ctr)) = true ∧ ((s.keySlot s.linkSlot).content s.linkSlot).isSome = true) ∧
    (∃ (hdr : LinkHdr) (s : State) (b : HelloBody), s.linkHears = true ∧ s.gzl.rxCtr.all (fun c => decide (c < hdr.ctr)) = true ∧ ((s.keySlot s.linkSlot).content s.linkSlot).isSome = true ∧ s.gzl.linkUp = true ∧ s.gzl.role = .standby ∧ s.gzl.partnerSession = b.session) ∧
    (∃ (hdr : LinkHdr) (s : State) (b : HelloBody), s.linkHears = true ∧ s.gzl.rxCtr.all (fun c => decide (c < hdr.ctr)) = true ∧ ((s.keySlot s.linkSlot).content s.linkSlot).isSome = true ∧ s.gzl.linkUp = true ∧ s.gzl.role = .standby ∧ s.gzl.partnerSession ≠ b.session) ∧
    (∃ (hdr : LinkHdr) (s : State) (b : HeartbeatBody), s.linkHears = true ∧ s.gzl.rxCtr.all (fun c => decide (c < hdr.ctr)) = true ∧ ((s.keySlot s.linkSlot).content s.linkSlot).isSome = true ∧ s.gzl.linkUp = true ∧ s.gzl.role = .standby ∧ b.hasInstant = false) ∧
    (∃ (hdr : LinkHdr) (s : State), s.linkHears = true ∧ s.gzl.rxCtr.all (fun c => decide (c < hdr.ctr)) = true ∧ ((s.keySlot s.linkSlot).content s.linkSlot).isSome = true ∧ s.gzl.linkUp = true ∧ s.gzl.stalled = [] ∧ s.tck.proc = none) ∧
    (∃ (hdr : LinkHdr) (s : State), s.linkHears = true ∧ s.gzl.rxCtr.all (fun c => decide (c < hdr.ctr)) = true ∧ ((s.keySlot s.linkSlot).content s.linkSlot).isSome = true ∧ s.gzl.linkUp = true) ∧
    (∃ (hdr : LinkHdr) (s : State) (_ : StateBody) (_ : Bool), s.linkHears = true ∧ s.gzl.rxCtr.all (fun c => decide (c < hdr.ctr)) = true ∧ ((s.keySlot s.linkSlot).content s.linkSlot).isSome = true ∧ s.gzl.linkUp = true ∧ hdr.seq.toNat = s.gzl.rxSeq + 1 ∧ s.gzl.unacked < 15 ∧ s.gzl.role = .standby) ∧
    (∃ (hdr : LinkHdr) (s : State) (b : TickEndBody), s.linkHears = true ∧ s.gzl.rxCtr.all (fun c => decide (c < hdr.ctr)) = true ∧ ((s.keySlot s.linkSlot).content s.linkSlot).isSome = true ∧ s.gzl.linkUp = true ∧ hdr.seq.toNat = s.gzl.rxSeq + 1 ∧ s.gzl.unacked < 15 ∧ s.gzl.role = .standby ∧ b.complete = true ∧ (s.gzl.rx.filter fun x => decide (x.tick = b.tick)).length = b.frames ∧ b.imageSerial = s.activeSerial ∧ s.gzl.rxBad = false) ∧
    (∃ (hdr : LinkHdr) (s : State) (b : TickEndBody), s.linkHears = true ∧ s.gzl.rxCtr.all (fun c => decide (c < hdr.ctr)) = true ∧ ((s.keySlot s.linkSlot).content s.linkSlot).isSome = true ∧ s.gzl.linkUp = true ∧ hdr.seq.toNat = s.gzl.rxSeq + 1 ∧ s.gzl.unacked < 15 ∧ s.gzl.role = .standby ∧ b.complete = false) ∧
    (∃ (hdr : LinkHdr) (s : State) (_ : List (List Word)), s.linkHears = true ∧ s.gzl.rxCtr.all (fun c => decide (c < hdr.ctr)) = true ∧ ((s.keySlot s.linkSlot).content s.linkSlot).isSome = true ∧ s.gzl.linkUp = true ∧ hdr.seq.toNat = s.gzl.rxSeq + 1 ∧ s.gzl.unacked < 15) ∧
    (∃ (hdr : LinkHdr) (s : State) (_ : Word) (k : BitVec 64), s.linkHears = true ∧ s.gzl.rxCtr.all (fun c => decide (c < hdr.ctr)) = true ∧ ((s.keySlot s.linkSlot).content s.linkSlot).isSome = true ∧ s.gzl.linkUp = true ∧ hdr.seq.toNat = s.gzl.rxSeq + 1 ∧ s.gzl.unacked < 15 ∧ s.gzl.role = .standby ∧ s.gzl.stateValid = true ∧ s.gzl.stateFrom = k.toNat) ∧
    (∃ (hdr : LinkHdr) (s : State) (_ : StateBody) (_ : Bool), s.linkHears = true ∧ s.gzl.rxCtr.all (fun c => decide (c < hdr.ctr)) = true ∧ ((s.keySlot s.linkSlot).content s.linkSlot).isSome = true ∧ s.gzl.linkUp = true ∧ s.gzl.rxSeq + 1 < hdr.seq.toNat ∧ s.gzl.rxGap = false) :=
  ⟨⟨{ seq := 1, ctr := 1 }, keyed { live.gzl with role := .standby, linkUp := false, hello := true }, { serial := 0, unit := 1, session := 0, epoch := 0, role := .active, imageSerial := 0 }, by decide, by decide, keyed_content _, by decide⟩,
   ⟨{ seq := 1, ctr := 1 }, keyed { live.gzl with role := .standby, linkUp := false, hello := true }, { serial := 0, unit := 1, session := 0, epoch := 0, role := .active, imageSerial := 0 }, by decide, by decide, keyed_content _, by decide, by decide, by decide⟩,
   ⟨{ seq := 1, ctr := 1 }, keyed { live.gzl with role := .standby, linkUp := false, hello := false }, { serial := 0, unit := 1, session := 0, epoch := 0, role := .active, imageSerial := 0 }, by decide, by decide, keyed_content _, by decide, by decide⟩,
   ⟨{ seq := 1, ctr := 1 }, keyed { live.gzl with rxCtr := some 0, role := .standby }, true, by decide, by decide, keyed_content _⟩,
   ⟨{ seq := 1, ctr := 1 }, keyed { live.gzl with rxCtr := some 0, role := .standby }, { serial := 0, unit := 1, session := 0, epoch := 0, role := .active, imageSerial := 0 }, by decide, by decide, keyed_content _, by decide, by decide, by decide⟩,
   ⟨{ seq := 1, ctr := 1 }, keyed { live.gzl with rxCtr := some 0, role := .standby }, { serial := 0, unit := 1, session := 1, epoch := 0, role := .active, imageSerial := 0 }, by decide, by decide, keyed_content _, by decide, by decide, by decide⟩,
   ⟨{ seq := 1, ctr := 1 }, keyed { live.gzl with rxCtr := some 0, role := .standby }, { role := .active, epoch := 0, tick := 0, soc := 0, index := 0, hasInstant := false, imageSerial := 0, stateValid := true }, by decide, by decide, keyed_content _, by decide, by decide, by decide⟩,
   ⟨{ seq := 1, ctr := 1 }, keyed { live.gzl with rxCtr := some 0, role := .standby }, by decide, by decide, keyed_content _, by decide, by decide, by decide⟩,
   ⟨{ seq := 1, ctr := 1 }, keyed { live.gzl with rxCtr := some 0, role := .standby }, by decide, by decide, keyed_content _, by decide⟩,
   ⟨{ seq := 1, ctr := 1 }, keyed { live.gzl with rxCtr := some 0, role := .standby }, { region := 0, last := true, tick := 0, offset := 0, data := [] }, false, by decide, by decide, keyed_content _, by decide, by decide, by decide, by decide⟩,
   ⟨{ seq := 1, ctr := 1 }, keyed { live.gzl with rxCtr := some 0, role := .standby }, { tick := 0, soc := 0, index := 0, frames := 0, complete := true, imageSerial := 0, variant := 0 }, by decide, by decide, keyed_content _, by decide, by decide, by decide, by decide, by decide, by decide, by decide, by decide⟩,
   ⟨{ seq := 1, ctr := 1 }, keyed { live.gzl with rxCtr := some 0, role := .standby }, { tick := 0, soc := 0, index := 0, frames := 0, complete := false, imageSerial := 0, variant := 0 }, by decide, by decide, keyed_content _, by decide, by decide, by decide, by decide, by decide⟩,
   ⟨{ seq := 1, ctr := 1 }, keyed { live.gzl with rxCtr := some 0, role := .standby }, [], by decide, by decide, keyed_content _, by decide, by decide, by decide⟩,
   ⟨{ seq := 1, ctr := 1 }, keyed { live.gzl with rxCtr := some 0, role := .standby, stateValid := true }, 0, 0, by decide, by decide, keyed_content _, by decide, by decide, by decide, by decide, by decide, by decide⟩,
   ⟨{ seq := 2, ctr := 1 }, keyed { live.gzl with rxCtr := some 0, role := .standby }, { region := 0, last := true, tick := 0, offset := 0, data := [] }, false, by decide, by decide, keyed_content _, by decide, by decide, by decide⟩⟩

theorem test_meets_guy_lines_and_epoch :
    (∃ (s : State), s.pairRuns = true ∧ (s.runTo s.middleAt).gzl.linkUp = false) ∧
    (∃ (s : State), s.pairRuns = true ∧ (s.runTo s.middleAt).gzl.linkUp = true) ∧
    (∃ (w : BitVec 64) (s : State), s.pairRuns = true ∧ w.toNat % 256 = 0xA5 ∧ (guyCrc (w.toNat % 2 ^ 48)).toNat = w.toNat / 2 ^ 48) ∧
    (∃ (w : BitVec 64) (_ : State), (guyCrc (w.toNat % 2 ^ 48)).toNat ≠ w.toNat / 2 ^ 48) ∧
    (∃ (s : State), s.pairRuns = true) ∧
    (∃ (c : Claim) (s : State), s.gzl.claim = some c ∧ c.held = false ∧ s.awake = true) ∧
    (∃ (c : Claim) (s : State), s.gzl.claim = some c ∧ c.held = true) ∧
    (∃ (s : State), (s.gzl.claim = none ∨ s.awake = false)) :=
  ⟨⟨{ live with gzl := { live.gzl with linkUp := false } }, by decide⟩,
   ⟨live, by decide⟩,
   ⟨guyWordB, live, by decide +kernel⟩,
   ⟨0xA5, live, by decide +kernel⟩,
   ⟨live, by decide⟩,
   ⟨{ role := .active, epoch := 1, held := false }, { live with gzl := { live.gzl with claim := some { role := .active, epoch := 1, held := false } } }, by decide⟩,
   ⟨{ role := .active, epoch := 1, held := true }, { live with gzl := { live.gzl with claim := some { role := .active, epoch := 1, held := true } } }, by decide⟩,
   ⟨live, by decide⟩⟩

theorem test_meets_ports_take_frames :
    (∃ (n : Fin 4) (s : State), s.portReady n.val = true) ∧
    (∃ (n : Fin 4) (s : State), s.portReady n.val = false) ∧
    (∃ (n : Fin 4) (_ : Bool) (_ : Bool) (s : State), (s.port n.val).link = true ∧ (s.port n.val).busyUntil ≤ s.tim.mono) ∧
    (∃ (n : Fin 4) (_ : Bool) (_ : Bool) (s : State), (s.port n.val).link = false) ∧
    (∃ (n : Fin 4) (f : RxFrame) (_ : List MemErr) (s : State), s.portUp n.val = true ∧ s.inPair n.val = false ∧ f.fcsOk = true ∧ 64 ≤ f.bytes.length + 4 ∧ f.bytes.length + 4 ≤ s.frameLimit n.val) ∧
    (∃ (n : Fin 4) (f : RxFrame) (_ : List MemErr) (s : State), s.portUp n.val = true ∧ s.inPair n.val = false ∧ f.fcsOk = false ∧ 64 ≤ f.bytes.length + 4 ∧ f.bytes.length + 4 ≤ s.frameLimit n.val) ∧
    (∃ (n : Fin 4) (f : RxFrame) (_ : List MemErr) (s : State), s.portUp n.val = true ∧ s.inPair n.val = false ∧ f.bytes.length + 4 < 64) ∧
    (∃ (n : Fin 4) (f : RxFrame) (_ : List MemErr) (s : State), s.portUp n.val = true ∧ s.inPair n.val = false ∧ s.frameLimit n.val < f.bytes.length + 4) ∧
    (∃ (n : Fin 4) (_ : RxFrame) (_ : List MemErr) (s : State), s.portUp n.val = false) ∧
    (∃ (n : Nat) (k : Nat) (rest : List FlumeItem) (s : State), s.awake = true ∧ s.nextFlume = some n ∧ (s.flume n).items = .mark k :: rest) ∧
    (∃ (n : Nat) (i : Nat) (bs : List Block) (rest : List FlumeItem) (s : State), s.awake = true ∧ s.nextFlume = some n ∧ (s.flume n).items = .packet i bs :: rest) ∧
    (∃ (n : Fin 64) (d : InjDesc) (errs : List MemErr) (s : State) (r : CmdResult), s.awake = true ∧ 10 < s.sys.step ∧ s.sys.tampered = false ∧ (s.ring n.val).works = true ∧ s.ringType n.val = 4 ∧ (s.ring n.val).hostIdx ≠ (s.ring n.val).devIdx ∧ s.cqFree (s.ringCq n.val) = true ∧ (s.inject d errs).2 = some r) :=
  ⟨⟨2, live, by decide⟩,
   ⟨0, live, by decide⟩,
   ⟨2, true, false, live, by decide⟩,
   ⟨3, false, true, live, by decide⟩,
   ⟨2, { bytes := List.replicate 60 0 }, [], live, by decide⟩,
   ⟨2, { bytes := List.replicate 1518 0, fcsOk := false }, [], live, by decide +kernel⟩,
   ⟨2, { bytes := List.replicate 59 0 }, [], live, by decide⟩,
   ⟨2, { bytes := List.replicate 1519 0 }, [], live, by decide +kernel⟩,
   ⟨0, { bytes := List.replicate 60 0 }, [], live, by decide⟩,
   ⟨8, 5, [], onFlumes 8 [.mark 5], by decide⟩,
   ⟨0, 0, [], [], onFlumes 0 [.packet 0 []], by decide⟩,
   ⟨4, { words := [], frame := [], dmaErr := true }, [], live, { status := 0x16 }, by decide +kernel⟩⟩

theorem test_meets_ports_send_frames :
    (∃ (n : Fin 4) (x : TxItem) (s : State), s.portUp n.val = true ∧ nextFrame (((s.runToMono (s.port n.val).busyUntil).purgeMuted n.val).port n.val).queue = some x) ∧
    (∃ (n : Fin 4) (s : State), s.portUp n.val = false) ∧
    (∃ (s : State), s.pairActive = true ∧ s.awake = true) ∧
    (∃ (s : State), s.pairActive = false) ∧
    (∃ (n : Fin 4) (bs : List Byte) (rest : List (Nat × List Byte)) (s : State), s.prt.replies = (n.val, bs) :: rest) ∧
    (∃ (n : Fin 4) (_ : Fin 4) (s : State), s.ptpOn n.val = false) ∧
    (∃ (src : BitVec 48) (e : DdEntry) (s : State), s.prt.dd = [e] ∧ e.source = src ∧ s.tim.mono ≤ e.time + 400000000) :=
  ⟨⟨2, { kind := .general, bytes := [] }, { live with prt := { live.prt with ports := live.prt.ports.set 2 { link := true, queue := [{ kind := .general, bytes := [] }] } } }, by decide⟩,
   ⟨0, live, by decide⟩,
   ⟨withRegs live [(Reg.prtPairCfg, 1), (Reg.prtCfg 0, 1), (Reg.prtCfg 1, 1)], by decide⟩,
   ⟨live, by decide⟩,
   ⟨3, [], [], { live with prt := { live.prt with replies := [(3, [])] } }, by decide⟩,
   ⟨2, 0, live, by decide⟩,
   ⟨5, { source := 5, seen := [], time := 0 }, { live with prt := { live.prt with dd := [{ source := 5, seen := [], time := 0 }] } }, by decide⟩⟩

theorem test_meets_measurements_are_made :
    (∃ (k : Nat) (_ : List (List Bool)) (s : State), s.lmu.next = some k ∧ s.awake = true ∧ s.gate 38 = true) ∧
    (∃ (_ : List (List Bool)) (s : State), s.gate 38 = false) ∧
    (∃ (_ : Fin 4) (s : State), s.lmu.due = []) ∧
    (∃ (n : Fin 8) (m : Nat) (s : State), s.gate 39 = true ∧ (s.pulse n.val).phase = .active m) ∧
    (∃ (n : Fin 8) (m : Nat) (s : State), s.gate 39 = true ∧ (s.pulse n.val).phase = .gap m ∧ (s.pulse n.val).backlog = 0) ∧
    (∃ (n : Fin 8) (m : Nat) (s : State), s.gate 39 = true ∧ (s.pulse n.val).phase = .gap m ∧ 1 < (s.pulse n.val).backlog) ∧
    (∃ (n : Fin 8) (m : Nat) (s : State), s.gate 39 = true ∧ (s.pulse n.val).phase = .gap m ∧ (s.pulse n.val).backlog = 1) ∧
    (∃ (n : Fin 8) (s : State), (s.pulse n.val).phase = .idle) ∧
    (∃ (c : Fin 24) (m : Word) (s : State), (s.lmuCh c.val).mean = some m ∧ s.slackAt 6 = true ∧ s.regBit Reg.lmuTrk 0 = true) :=
  ⟨⟨5, [], { live with lmu := { live.lmu with next := some 5 } }, by decide⟩,
   ⟨[], { live with clk := { live.clk with gates := 0 } }, by decide⟩,
   ⟨0, live, by decide⟩,
   ⟨7, 5, { live with nrg := { live.nrg with pulses := List.replicate 8 { phase := .active 5, backlog := 0 } } }, by decide⟩,
   ⟨7, 5, { live with nrg := { live.nrg with pulses := List.replicate 8 { phase := .gap 5, backlog := 0 } } }, by decide⟩,
   ⟨0, 5, { live with nrg := { live.nrg with pulses := List.replicate 8 { phase := .gap 5, backlog := 2 } } }, by decide⟩,
   ⟨0, 5, { live with nrg := { live.nrg with pulses := List.replicate 8 { phase := .gap 5, backlog := 1 } } }, by decide⟩,
   ⟨0, live, by decide⟩,
   ⟨23, 5, (withRegs live [(Reg.lmuTrk, 1)]).onCh 23 fun x => { x with mean := some 5 }, by decide⟩⟩

theorem test_meets_capture_pins_act :
    (∃ (_ : Nat) (s : State), s.awake = true ∧ s.gate 37 = true ∧ s.cap.edge = none) ∧
    (∃ (_ : Nat) (e : CapEdge) (s : State), s.cap.edge = some e) ∧
    (∃ (_ : Bool) (e : CapEdge) (s : State), s.cap.edge = some e) ∧
    (∃ (_ : Bool) (s : State), s.cap.edge = none) ∧
    (∃ (s : State), s.cap.fires = []) ∧
    (∃ (m : Nat) (s : State), s.cap.driving = some m) ∧
    (∃ (s : State), s.capMaster = false ∧ s.awake = true ∧ s.gate 37 = true) ∧
    (∃ (_ : Nat) (s : State), s.capMaster = false ∧ s.awake = true ∧ s.gate 37 = true) ∧
    (∃ (_ : Bool) (_ : Nat) (s : State), s.capMaster = true) :=
  ⟨⟨0, live, by decide⟩,
   ⟨0, { stamp := 0, at_ := 0, units := [], stays := false }, { live with cap := { live.cap with edge := some { stamp := 0, at_ := 0, units := [], stays := false } } }, by decide⟩,
   ⟨true, { stamp := 0, at_ := 0, units := [], stays := false }, { live with cap := { live.cap with edge := some { stamp := 0, at_ := 0, units := [], stays := false } } }, by decide⟩,
   ⟨false, live, by decide⟩,
   ⟨live, by decide⟩,
   ⟨5, { live with cap := { live.cap with driving := some 5 } }, by decide⟩,
   ⟨live, by decide⟩,
   ⟨0, live, by decide⟩,
   ⟨true, 0, withRegs live [(Reg.capCfg, 0x80)], by decide⟩⟩

theorem test_meets_archive_moves_blocks :
    (∃ (tick : Nat) (dir : Byte) (rest : List (Nat × Byte)) (c : Column) (s : State), s.arc.queue = (tick, dir) :: rest ∧ s.column tick = some c ∧ s.gate 36 = true) ∧
    (∃ (_ : List MemErr) (s : State), (s.arc.queue = [] ∨ s.gate 36 = false)) ∧
    (∃ (b : ArcBlock) (bs : List Byte) (n : Nat) (rest : List ArcBlock) (s : State), s.arc.ended = b :: rest ∧ b.state = .done n bs ∧ s.arcReaches = true) ∧
    (∃ (s : State), s.arcReaches = false) ∧
    (∃ (b : ArcBlock) (rest : List ArcBlock) (s : State), s.arc.ended = b :: rest ∧ s.arcReaches = true ∧ b.state = .plain) ∧
    (∃ (b : ArcBlock) (rest : List ArcBlock) (s : State), s.arc.ended = b :: rest ∧ s.arcReaches = true ∧ b.state = .failed) ∧
    (∃ (b : ArcBlock) (rest : List ArcBlock) (s : State), s.arc.ended = b :: rest ∧ s.arcReaches = true) ∧
    (∃ (off : Nat) (n : Nat) (rest : List (Nat × Nat)) (s : State), s.arc.undrained = (off, n) :: rest ∧ s.gate 36 = true ∧ s.gate 46 = true ∧ s.canDeliver s.arcRing 6 = true) ∧
    (∃ (_ : Bool) (p : Nat × Nat) (rest : List (Nat × Nat)) (s : State), s.arc.undrained = p :: rest ∧ s.gate 36 = true ∧ s.gate 46 = true ∧ s.canDeliver s.arcRing 6 = false) ∧
    (∃ (_ : Bool) (s : State), (s.arc.undrained = [] ∨ s.gate 36 = false ∨ s.gate 46 = false)) ∧
    (∃ (r : ArcReplay) (s : State), s.arc.replay = some r ∧ s.gate 36 = true ∧ ((r.range.isSome = true → s.gate 46 = true)) ∧ r.overwritten = false ∧ r.aborted = false ∧ r.jobs = 0 ∧ s.canDeliver r.ring 6 = true) ∧
    (∃ (r : ArcReplay) (s : State), s.arc.replay = some r ∧ s.gate 36 = true ∧ ((r.range.isSome = true → s.gate 46 = true)) ∧ r.overwritten = true) ∧
    (∃ (r : ArcReplay) (_ : Bool) (s : State), s.arc.replay = some r ∧ r.range.isSome = true ∧ s.gate 46 = false) ∧
    (∃ (_ : Bool) (s : State), (s.arc.replay = none ∨ s.gate 36 = false)) :=
  ⟨⟨0, 0, [], { tick := 0, sec := 0, index := 0, emitted := true }, { live with arc := { live.arc with queue := [(0, 0)] }, bsn := { live.bsn with cols := [{ tick := 0, sec := 0, index := 0, emitted := true }] } }, by decide⟩,
   ⟨[], live, by decide⟩,
   ⟨(arcBlock (.done 0 [])), [], 0, [], { live with arc := { live.arc with ended := [(arcBlock (.done 0 []))] } }, by decide⟩,
   ⟨{ live with clk := { live.clk with gates := 0 } }, by decide⟩,
   ⟨(arcBlock (.plain)), [], { live with arc := { live.arc with ended := [(arcBlock (.plain))] } }, by decide⟩,
   ⟨(arcBlock (.failed)), [], { live with arc := { live.arc with ended := [(arcBlock (.failed))] } }, by decide⟩,
   ⟨(arcBlock (.waiting 1)), [], { live with arc := { live.arc with ended := [(arcBlock (.waiting 1))] } }, by decide⟩,
   ⟨0, 1, [], let s := withRegs (postTo 3) [(Reg.arcCfg, 0x300)]; { s with arc := { s.arc with undrained := [(0, 1)] } }, by decide⟩,
   ⟨false, (0, 1), [], { live with arc := { live.arc with undrained := [(0, 1)] } }, by decide⟩,
   ⟨true, live, by decide⟩,
   ⟨{ ref := ref, ring := 3, id := 0, bytes := [], range := none, jobs := 0 }, let s := withRegs (postTo 3) [(Reg.arcCfg, 0x300)]; { s with arc := { s.arc with replay := some { ref := ref, ring := 3, id := 0, bytes := [], range := none, jobs := 0 } } }, by decide⟩,
   ⟨{ ref := ref, ring := 3, id := 0, bytes := [], range := none, jobs := 0, overwritten := true }, { live with arc := { live.arc with replay := some { ref := ref, ring := 3, id := 0, bytes := [], range := none, jobs := 0, overwritten := true } } }, by decide⟩,
   ⟨{ ref := ref, ring := 3, id := 0, bytes := [], range := some (0, 0), jobs := 0 }, true, { live with arc := { live.arc with replay := some { ref := ref, ring := 3, id := 0, bytes := [], range := some (0, 0), jobs := 0 } }, clk := { live.clk with gates := 0 } }, by decide⟩,
   ⟨false, live, by decide⟩⟩

theorem test_meets_slack_work_is_done :
    (∃ (s : State), s.slack = true ∧ s.awake = true ∧ s.returnDue = true) ∧
    (∃ (g : Nat) (o : Bool) (_ : Bool) (s : State), s.clk.sluice = some (g, o) ∧ s.slack = true ∧ s.awake = true ∧ s.returnDue = false ∧ s.sluiceDue = true) ∧
    (∃ (s : State), s.slackAt 3 = true ∧ s.levelSet = true ∧ (s.gridOn = false ∨ s.pwr.retryWaits = false)) ∧
    (∃ (s : State), (s.levelSet = false ∨ (s.gridOn = true ∧ s.pwr.retryWaits = true))) ∧
    (∃ (s : State), s.slackAt 3 = true) ∧
    (∃ (n : Nat) (s : State), s.slackAt 6 = true ∧ s.scrubRoom ≠ 0 ∧ s.sys.scrubLine + min n s.scrubRoom < 1048576) ∧
    (∃ (_ : Nat) (_ : List MemErr) (s : State), s.scrubRoom = 0) ∧
    (∃ (n : Nat) (s : State), s.slackAt 6 = true ∧ s.scrubRoom ≠ 0 ∧ 1048576 ≤ s.sys.scrubLine + min n s.scrubRoom) ∧
    (∃ (_ : Nat) (_ : Nat) (s : State), s.slackAt 6 = true ∧ s.qualified .xta = true ∧ s.clk.calSec ≠ some s.nowSec) ∧
    (∃ (_ : List (BitVec 16)) (_ : List (BitVec 16)) (s : State), s.slackAt 6 = true ∧ s.gridOn = true ∧ s.pwr.sampled = false) ∧
    (∃ (_ : List (BitVec 16)) (_ : List (BitVec 16)) (s : State), s.gridOn = true ∧ s.pwr.sampled = true) ∧
    (∃ (s : State), s.slackAt 6 = true ∧ 6 ≤ s.sys.step) ∧
    (∃ (s : State), 64 ≤ s.evr.checked) :=
  ⟨⟨retDue, by decide⟩,
   ⟨46, false, true, { live with clk := { live.clk with sluice := some (46, false) } }, by decide⟩,
   ⟨{ live with pwr := { live.pwr with level := 0 } }, by decide⟩,
   ⟨{ grid with pwr := { grid.pwr with retryWaits := true } }, by decide⟩,
   ⟨live, by decide⟩,
   ⟨5, live, by decide⟩,
   ⟨5, [], { grid with sys := { grid.sys with scrubDone := grid.scrubQuantum } }, by decide⟩,
   ⟨1048576, { live with sys := { live.sys with scrubLine := 1048575 } }, by decide⟩,
   ⟨0, 0, qualifiedXta, by decide⟩,
   ⟨[], [], grid, by decide⟩,
   ⟨[], [], { grid with pwr := { grid.pwr with sampled := true } }, by decide⟩,
   ⟨live, by decide⟩,
   ⟨{ live with evr := { live.evr with checked := 64 } }, by decide⟩⟩

theorem test_meets_power_steps_brace_and_telemetry :
    (∃ (d : DvfsStep) (s : State), s.pwr.step = some d ∧ d.settled = false ∧ s.awake = true ∧ d.raise = false) ∧
    (∃ (d : DvfsStep) (s : State), s.pwr.step = some d ∧ d.settled = false ∧ s.awake = true ∧ d.raise = true ∧ (s.run 50000).slackAt 3 = true) ∧
    (∃ (d : DvfsStep) (s : State), s.pwr.step = some d ∧ d.settled = false ∧ s.awake = true ∧ d.raise = true ∧ (s.run 50000).slackAt 3 = false) ∧
    (∃ (d : DvfsStep) (s : State), s.pwr.step = some d ∧ d.settled = false ∧ s.awake = true) ∧
    (∃ (s : State), s.pwr.step = none) ∧
    (∃ (s : State), s.awake = true ∧ 3 ≤ s.sys.step ∧ s.pwr.brace = false) ∧
    (∃ (s : State), s.awake = true ∧ 3 ≤ s.sys.step ∧ s.pwr.brace = true) ∧
    (∃ (m : Nat) (s : State), s.pwr.senseHighAt = some m ∧ s.pwr.brace = true ∧ s.awake = true) ∧
    (∃ (mv : Nat) (s : State), s.awake = true ∧ mv < s.vwarnMv) ∧
    (∃ (mv : Nat) (s : State), s.awake = true ∧ s.vwarnMv ≤ mv ∧ s.pwr.brace = false) ∧
    (∃ (mv : Nat) (s : State), s.awake = true ∧ s.vreleaseMv < mv ∧ s.pwr.brace = true ∧ s.pwr.senseHighAt = none) ∧
    (∃ (mv : Nat) (s : State), s.awake = true ∧ s.vwarnMv ≤ mv ∧ mv ≤ s.vreleaseMv ∧ s.pwr.brace = true) ∧
    (∃ (n : Nat) (x : TelemSample) (s : State), s.pwr.telemRing = some n ∧ s.pwr.sample = some x ∧ s.awake = true ∧ s.pwr.deliveredSec ≠ some s.nowSec) ∧
    (∃ (s : State), (s.pwr.telemRing = none ∨ s.pwr.sample = none ∨ s.pwr.deliveredSec = some s.nowSec)) :=
  ⟨⟨{ target := 0, raise := false, sentAt := 0, requested := false }, { live with pwr := { live.pwr with step := some { target := 0, raise := false, sentAt := 0, requested := false } } }, by decide⟩,
   ⟨{ target := 0, raise := true, sentAt := 0, requested := false }, { live with pwr := { live.pwr with step := some { target := 0, raise := true, sentAt := 0, requested := false } } }, by decide⟩,
   ⟨{ target := 0, raise := true, sentAt := 0, requested := false }, { busy with pwr := { busy.pwr with step := some { target := 0, raise := true, sentAt := 0, requested := false } } }, by decide⟩,
   ⟨{ target := 0, raise := true, sentAt := 0, requested := false }, { live with pwr := { live.pwr with step := some { target := 0, raise := true, sentAt := 0, requested := false } } }, by decide⟩,
   ⟨live, by decide⟩,
   ⟨live, by decide⟩,
   ⟨{ live with pwr := { live.pwr with brace := true } }, by decide⟩,
   ⟨0, { live with pwr := { live.pwr with brace := true, senseHighAt := some 0 } }, by decide⟩,
   ⟨live.vwarnMv - 1, live, by decide⟩,
   ⟨live.vwarnMv, live, by decide⟩,
   ⟨live.vreleaseMv + 1, { live with pwr := { live.pwr with brace := true } }, by decide⟩,
   ⟨live.vreleaseMv, { live with pwr := { live.pwr with brace := true } }, by decide⟩,
   ⟨2, { words := [], near := 0 }, { live with pwr := { live.pwr with telemRing := some 2, sample := some { words := [], near := 0 } } }, by decide⟩,
   ⟨live, by decide⟩⟩

theorem test_meets_images_are_loaded_and_verified :
    (∃ (p : Pitch) (s : State), s.sch.pitch = some p ∧ p.state = .loading ∧ s.slackAt 4 = true ∧ s.gate 46 = true ∧ s.sys.step = 14) ∧
    (∃ (p : Pitch) (s : State), s.sch.pitch = some p ∧ p.state = .verifying ∧ s.slackAt 4 = true) ∧
    (∃ (_ : Bool) (s : State), (s.sch.pitch = none ∨ s.slackAt 4 = false)) :=
  ⟨⟨{ ref := ref, offset := 0, length := 256 }, { live with sch := { live.sch with pitch := some { ref := ref, offset := 0, length := 256 } } }, by decide⟩,
   ⟨{ ref := ref, offset := 0, length := 256, state := .verifying }, { live with sch := { live.sch with pitch := some { ref := ref, offset := 0, length := 256, state := .verifying } } }, by decide⟩,
   ⟨true, live, by decide⟩⟩

theorem test_meets_key_unit_works :
    (∃ (q : Word) (b : LinkBody) (s : State), s.nextJob = some (.link q b) ∧ s.awake = true) ∧
    (∃ (n : Nat) (s : State), s.awake = true ∧ s.nextJob = some (.wrap n)) ∧
    (∃ (n : Nat) (s : State), s.awake = true ∧ s.nextJob = some (.check n)) ∧
    (∃ (b : Nat) (s : State), s.nextJob = some (.segment b) ∧ s.awake = true) ∧
    (∃ (c : CmdRef) (p : Nat) (ctx : List Byte) (bs : List CmdRef) (s : State), s.nextJob = some (.derive c p ctx bs) ∧ s.awake = true) ∧
    (∃ (s : State), s.nextJob = none) ∧
    (∃ (w : SlotWrite) (b : List Byte) (s : State), s.nextCommit = some w ∧ w.buf = some b ∧ s.pwr.brace = false ∧ s.awake = true) ∧
    (∃ (w : SlotWrite) (s : State), s.nextCommit = some w ∧ w.buf = none ∧ s.pwr.brace = false ∧ s.awake = true) ∧
    (∃ (w : SlotWrite) (s : State), s.nextCommit = some w ∧ s.pwr.brace = true ∧ s.awake = true) ∧
    (∃ (s : State), (s.sec.writes = [] ∨ s.awake = false)) :=
  ⟨⟨0, .ack, { live with sec := { live.sec with jobs := [.link 0 .ack] } }, by decide⟩,
   ⟨15, { live with sec := { live.sec with jobs := [.wrap 15], writes := [{ ref := ref, slot := 15, buf := some [], stage := .accepted }] } }, by decide⟩,
   ⟨15, { live with sec := { live.sec with jobs := [.check 15], writes := [{ ref := ref, slot := 15, buf := some [], stage := .wrapped }] } }, by decide⟩,
   ⟨0, { live with sec := { live.sec with jobs := [.segment 0] } }, by decide⟩,
   ⟨ref, purposeArchive, [], [], { live with sec := { live.sec with jobs := [.derive ref purposeArchive [] []] } }, by decide⟩,
   ⟨live, by decide⟩,
   ⟨{ ref := ref, slot := 15, buf := some [], stage := .checked }, [], { live with sec := { live.sec with writes := [{ ref := ref, slot := 15, buf := some [], stage := .checked }] } }, by decide⟩,
   ⟨{ ref := ref, slot := 15, buf := none, stage := .accepted }, { live with sec := { live.sec with writes := [{ ref := ref, slot := 15, buf := none, stage := .accepted }] } }, by decide⟩,
   ⟨{ ref := ref, slot := 15, buf := some [], stage := .checked }, { live with sec := { live.sec with writes := [{ ref := ref, slot := 15, buf := some [], stage := .checked }] }, pwr := { live.pwr with brace := true } }, by decide⟩,
   ⟨live, by decide⟩⟩

theorem test_meets_tickets_and_tamper_inputs :
    (∃ (w : Word) (ws : List Word) (s : State), s.sec.verifying = some (w :: ws) ∧ s.awake = true ∧ s.pwr.brace = false) ∧
    (∃ (w : Word) (ws : List Word) (s : State), s.sec.verifying = some (w :: ws) ∧ s.awake = true ∧ s.pwr.brace = true) ∧
    (∃ (s : State), s.sec.verifying = none) ∧
    (∃ (_ : Bool) (_ : Bool) (s : State), s.nvm.fuses.tampEn = 0) ∧
    (∃ (_ : Bool) (s : State), s.nvm.fuses.tampEn = 1 ∧ s.aon.open0 = 3) ∧
    (∃ (_ : Bool) (s : State), s.nvm.fuses.tampEn = 1) ∧
    (∃ (_ : Bool) (s : State), s.nvm.fuses.tampEn = 2 ∧ s.aon.open1 = 3) ∧
    (∃ (_ : Bool) (s : State), s.nvm.fuses.tampEn = 2) ∧
    (∃ (a : Bool) (b : Bool) (s : State), s.nvm.fuses.tampEn = 3 ∧ s.aon.open0 = 3 ∧ s.aon.open1 = 3 ∧ ((a = true ∨ b = true))) ∧
    (∃ (_ : BitVec 2) (s : State), s.awake = false ∧ s.aon.tampLatch = 0) :=
  ⟨⟨0, [], { live with sec := { live.sec with verifying := some [0] } }, by decide⟩,
   ⟨0, [], { live with sec := { live.sec with verifying := some [0] }, pwr := { live.pwr with brace := true } }, by decide⟩,
   ⟨live, by decide⟩,
   ⟨true, true, live, by decide⟩,
   ⟨true, { live with nvm := { live.nvm with fuses := { lc := 1, tampEn := 1 } }, aon := { live.aon with open0 := 3 } }, by decide⟩,
   ⟨false, { live with nvm := { live.nvm with fuses := { lc := 1, tampEn := 1 } } }, by decide⟩,
   ⟨true, { live with nvm := { live.nvm with fuses := { lc := 1, tampEn := 2 } }, aon := { live.aon with open1 := 3 } }, by decide⟩,
   ⟨false, { live with nvm := { live.nvm with fuses := { lc := 1, tampEn := 2 } } }, by decide⟩,
   ⟨true, false, { live with nvm := { live.nvm with fuses := { lc := 1, tampEn := 3 } }, aon := { live.aon with open0 := 3, open1 := 3 } }, by decide⟩,
   ⟨3, { live with pwr := { live.pwr with off := true } }, by decide⟩⟩

theorem test_meets_sources_trip_and_return :
    (∃ (x : ClkSrc) (s : State), s.awake = true ∧ s.qualified x = false) ∧
    (∃ (x : ClkSrc) (s : State), s.awake = true ∧ s.qualified x = true ∧ ((s.noteTrip x).faultSwitches (tripped x) (List.range 8)).2 = none) ∧
    (∃ (x : ClkSrc) (z : ClkSrc) (d : Nat) (s : State), s.awake = true ∧ s.qualified x = true ∧ ((s.noteTrip x).faultSwitches (tripped x) (List.range 8)).2 = some (d, z)) ∧
    (∃ (x : ClkSrc) (s : State), s.awake = true ∧ s.canQualify x = true ∧ s.sys.step ≠ 7 ∧ s.sys.step ≠ 8) ∧
    (∃ (s : State), s.awake = true ∧ s.canQualify .xta = true ∧ s.sys.step = 7) ∧
    (∃ (x : ClkSrc) (s : State), s.awake = true ∧ s.canQualify x = true ∧ s.sys.step = 8) ∧
    (∃ (x : ClkSrc) (s : State), s.canQualify x = false) ∧
    (∃ (_ : BootIn) (s : State), s.clk.hold = true ∧ field s.aon.holdCause 5 4 = 0 ∧ field s.aon.holdCause 3 0 < 7) ∧
    (∃ (_ : BootIn) (s : State), s.clk.hold = true ∧ field s.aon.holdCause 5 4 = 0 ∧ field s.aon.holdCause 3 0 < 8) ∧
    (∃ (_ : Bool) (_ : BootIn) (s : State), (s.clk.hold = false ∨ field s.aon.holdCause 3 0 = 8)) :=
  ⟨⟨.pllc, live, by decide⟩,
   ⟨.xta, qualifiedXta, by decide⟩,
   ⟨.firc, .firc, 0, onlyFirc, by decide⟩,
   ⟨.xta, live, by decide⟩,
   ⟨{ live with sys := { live.sys with step := 7 } }, by decide⟩,
   ⟨.xta, { live with sys := { live.sys with step := 8 } }, by decide⟩,
   ⟨.xta, qualifiedXta, by decide⟩,
   ⟨{}, { live with clk := { live.clk with hold := true }, aon := { live.aon with holdCause := 6 } }, by decide⟩,
   ⟨{}, { live with clk := { live.clk with hold := true }, aon := { live.aon with holdCause := 7 } }, by decide⟩,
   ⟨true, {}, { live with clk := { live.clk with hold := true }, aon := { live.aon with holdCause := 8 } }, by decide⟩⟩

theorem test_meets_resets_start_the_device :
    (∃ (b : BootIn) (s : State), b.ordered = true ∧ s.aon.lost = false) ∧
    (∃ (b : BootIn) (s : State), b.ordered = true ∧ s.aon.lost = true) ∧
    (∃ (b : BootIn) (_ : State), b.ordered = false) ∧
    (∃ (_ : BootIn) (s : State), s.pwr.off = false) ∧
    (∃ (b : BootIn) (s : State), s.pwr.off = false ∧ s.pwr.unordered = false ∧ s.clk.hold = false ∧ (b.coreMv < s.vrstMv ∨ b.sramMv < 720 ∨ b.framMv < 1620)) ∧
    (∃ (_ : BootIn) (s : State), s.pwr.off = true) ∧
    (∃ (b : BootIn) (s : State), (s.clk.hold = true ∨ s.pwr.unordered = true ∨ (s.vrstMv ≤ b.coreMv ∧ 720 ≤ b.sramMv ∧ 1620 ≤ b.framMv))) ∧
    (∃ (s : State) (_ : Nat) (_ : Nat), s.aon.rtcSirc = false) ∧
    (∃ (i : TapInstr) (s : State), (s.sys.tampered = true ∨ s.nvm.fuses.state = 2 ∨ s.nvm.fuses.state = 4) ∧ i ≠ .idcode) ∧
    (∃ (s : State), s.jtag.state = .reset) :=
  ⟨⟨{}, live, by decide⟩,
   ⟨{}, { live with aon := { live.aon with lost := true } }, by decide⟩,
   ⟨{ ordered := false }, live, by decide⟩,
   ⟨{}, live, by decide⟩,
   ⟨{}, live, by decide⟩,
   ⟨{}, { live with pwr := { live.pwr with off := true } }, by decide⟩,
   ⟨{ coreMv := live.vrstMv, sramMv := 720, framMv := 1620 }, live, by decide⟩,
   ⟨live, 0, 0, by decide⟩,
   ⟨.extest, { live with sys := { live.sys with tampered := true } }, by decide⟩,
   ⟨live, by decide⟩⟩

theorem test_meets_dormant_mode_and_battery_loss :
    (∃ (s : State), s.pwr.dormantPending = true ∧ s.awake = true ∧ s.pwr.brace = false ∧ s.slack = true ∧ (s.gridOn = false ∨ s.pwr.dormantWaits = false)) ∧
    (∃ (s : State), s.pwr.brace = false ∧ (s.slack = false ∨ (s.gridOn = true ∧ s.pwr.dormantWaits = true))) ∧
    (∃ (s : State), s.pwr.dormantPending = true ∧ s.awake = true ∧ s.pwr.brace = true) ∧
    (∃ (s : State), s.pwr.dormantPending = false) ∧
    (∃ (src : BitVec 5) (_ : BootIn) (s : State), s.pwr.dormant = true ∧ src &&& (s.reg Reg.pwrWakeCfg).setWidth 5 ≠ 0 ∧ (src &&& (s.reg Reg.pwrWakeCfg).setWidth 5).getLsbD 1 = false) ∧
    (∃ (src : BitVec 5) (_ : BootIn) (s : State), s.pwr.dormant = true ∧ (src &&& (s.reg Reg.pwrWakeCfg).setWidth 5).getLsbD 1 = true) ∧
    (∃ (src : BitVec 5) (_ : BootIn) (s : State), (s.pwr.dormant = false ∨ src &&& (s.reg Reg.pwrWakeCfg).setWidth 5 = 0)) :=
  ⟨⟨{ live with pwr := { live.pwr with dormantPending := true } }, by decide⟩,
   ⟨{ grid with pwr := { grid.pwr with dormantPending := true, dormantWaits := true } }, by decide⟩,
   ⟨{ live with pwr := { live.pwr with dormantPending := true, brace := true } }, by decide⟩,
   ⟨live, by decide⟩,
   ⟨1, {}, withRegs { live with pwr := { live.pwr with dormant := true } } [(Reg.pwrWakeCfg, 0x1F)], by decide⟩,
   ⟨2, {}, withRegs { live with pwr := { live.pwr with dormant := true } } [(Reg.pwrWakeCfg, 0x1F)], by decide⟩,
   ⟨31, {}, live, by decide⟩⟩

theorem test_meets_start_up_waits_end :
    (∃ (p : PatchIn) (s : State), s.awake = true ∧ s.sys.step = 9 ∧ p.host = s.sys.patchWait ∧ (p.host = false ∨ s.sys.patchGo = true) ∧ p.dmaErr = false ∧ p.rests = false) ∧
    (∃ (p : PatchIn) (s : State), s.awake = true ∧ s.sys.step = 9 ∧ p.host = s.sys.patchWait ∧ (p.host = false ∨ s.sys.patchGo = true) ∧ p.dmaErr = false ∧ p.rests = true) ∧
    (∃ (p : PatchIn) (s : State), (s.sys.step ≠ 9 ∨ p.host ≠ s.sys.patchWait)) ∧
    (∃ (s : State), s.waitsBoot = true) ∧
    (∃ (s : State), s.waitsBoot = false) ∧
    (∃ (s : State), s.awake = true ∧ s.sys.step = 12 ∧ s.tim.mono ≤ s.acqEnd) ∧
    (∃ (s : State), s.sys.step ≠ 12) :=
  ⟨⟨{ host := false, bytes := [] }, { State.reset with sys := { State.reset.sys with step := 9 } }, by decide⟩,
   ⟨{ host := false, bytes := [], rests := true }, { State.reset with sys := { State.reset.sys with step := 9 } }, by decide⟩,
   ⟨{ host := true, bytes := [] }, live, by decide⟩,
   ⟨{ State.reset with sys := { State.reset.sys with step := 9, patchWait := true } }, by decide⟩,
   ⟨live, by decide⟩,
   ⟨{ State.reset with sys := { State.reset.sys with step := 12 } }, by decide⟩,
   ⟨live, by decide⟩⟩

/-! ### Hypotheses of the statements whose clauses share them -/

/-- A step from reset, from `live`, and one whose command is waiting. -/
theorem test_meets_lifecycle_never_moves_back :
    (∃ f : Fuses, f.lc = 0) ∧ (∃ f : Fuses, f.lc ≠ 0 ∧ f.state = 4) ∧ (∃ s t : State, step s = .next t) :=
  ⟨⟨{ lc := 0 }, by decide⟩, ⟨{ lc := 8 }, by decide⟩, ⟨live, after live, after_eq (by decide +kernel)⟩⟩

/-- A sealed device answers a command. -/
theorem test_meets_seal_lasts_until_reset :
    ∃ s t : State, s.isSealed = true ∧ s.pending.head?.all (fun c => !resetsDevice c) = true ∧ (s.pending = [] → s.bootRests = false) ∧ step s = .next t :=
  ⟨{ live with isSealed := true, pending := [.portLinkUp 0] }, after { live with isSealed := true, pending := [.portLinkUp 0] }, rfl, rfl, by decide,
    after_eq (by decide +kernel)⟩

/-- An empty queue. -/
theorem test_meets_stored_keys_and_epoch_change_only_by_their_commands_idle : ∃ s t : State, s.pending = [] ∧ step s = .next t :=
  ⟨live, after live, rfl, after_eq (by decide +kernel)⟩

/-- A register with access code RW. -/
theorem test_meets_register_writes_follow_access_codes_rw : live.hostUp = true ∧ (regRow 0x080000).map RegRow.acc = some .rw ∧ actsOnWrite 0x080000 = false := by
  decide

theorem test_meets_ring_indices_follow_their_layout_sizes :
    (idxValid (2 ^ 6) 63 = true ∧ idxValid (2 ^ 6) 32831 = true) ∧ (idxValid (2 ^ 12) 4095 = true ∧ idxValid (2 ^ 12) 36863 = true) ∧
    idxValid (2 ^ 6) 64 = false := by decide

/-- The last instant of a second. -/
theorem test_meets_grid_instants_lie_at_their_times_bounds :
    (239 < 240 ∧ 995833333 ≤ gridTime 240 0 239) ∧ (0 < 1 ∧ 0 ≤ gridTime 1 0 0) := by decide

/-- 384 bytes of 0 are 96 words of 0. -/
theorem zeroes_words : wordsOf ((List.replicate 384 (0 : Byte)).take 384) = List.replicate 96 0 := by decide +kernel

/-- A fade of all channel 0's coefficients from the soonest label on. -/
theorem test_meets_fade_from_soonest :
    ∃ (h : CmdHdr) (w1 w4 w5 w6 : Word) (buf : List Byte) (s : State) (l : Nat), s.serves h ∧ w1 ≠ 0 ∧ field w1 31 24 = 0 ∧
      (∀ c < 24, flag w1 c = true → s.chOn c = true ∧ s.fading c = false) ∧ (field w4 12 0 = 0 ∨ (64 ≤ field w4 12 0 ∧ field w4 12 0 ≤ 4096)) ∧
      h.dmaErr = false ∧ (wordsOf (buf.take 384)).length = 96 ∧ (∀ k ∈ wordsOf (buf.take 384), fpIsFinite k = true) ∧
      (∀ k < 96, wordAt (wordsOf (buf.take 384)) k = wordAt (wordsOf (buf.take 384)) (95 - k)) ∧ s.fadeStart w5 w6 = some l ∧
      s.hif.outstanding.length < 32 :=
  ⟨hdr, 1, 64, 0, 0, List.replicate 384 0, withRegs live [(Reg.lmuChCtl 0, 1)], 64, by decide +kernel, by decide, by decide, by decide +kernel,
    by decide, rfl, by rw [zeroes_words]; rfl, fun k hk => by rw [zeroes_words] at hk; rw [List.eq_of_mem_replicate hk]; decide, by rw [zeroes_words]; decide +kernel, by decide +kernel, by decide⟩

/-- A frame whose CTR is the last accepted one, as each of the eight types. -/
theorem test_meets_replayed_frames_are_discarded :
    ∃ (h : LinkHdr) (last : Nat) (s : State) (b : HelloBody), s.linkHears = true ∧ s.gzl.linkUp = true ∧ s.gzl.rxCtr = some last ∧ h.ctr ≤ last ∧
      ∃ c : Instr, c = .helloReceive h b :=
  ⟨{ seq := 1, ctr := 5 }, 5, { live with gzl := { live.gzl with rxCtr := some 5 } }, { serial := 0, unit := 1, session := 1, epoch := 0, role := .standby, imageSerial := 0 },
    by decide, by decide, by decide, by decide, _, rfl⟩

/-- A compute window. -/
theorem test_meets_slack_work_waits_for_slack : ∃ s : State, s.slack = false ∧ s.gridOn = true := ⟨busy, by decide⟩

/-- A key of 32 bytes in the cache. -/
theorem test_meets_key_unit_works_masks : ∃ s : State, s.awake = true ∧ s.sec.cache ≠ [] ∧ ∀ k ∈ s.sec.cache ++ s.sec.key.toList, k.key.length = 32 :=
  ⟨{ live with sec := { live.sec with cache :=
      [{ s := List.replicate 32 1, m := List.replicate 32 3, purpose := purposeArchive, ctx := [], slot := none }] } }, by decide +kernel⟩

/-- Three fires waiting, the second of which is the earliest, with the pin free and with the pin driven. -/
theorem test_meets_capture_pins_act_fires : ∃ (l r : List CapFire) (f : CapFire) (s z : State),
    s.cap.fires = l ++ f :: r ∧ z.cap.fires = l ++ f :: r ∧ l ≠ [] ∧ r ≠ [] ∧ (∀ g ∈ l, f.due < g.due) ∧ (∀ g ∈ r, f.due ≤ g.due) ∧ s.awake = true ∧ z.awake = true ∧
    ((s.runTo ((f.due + 65535) / 65536)).onCap fun c => { c with fires := l ++ r }).fireReady = true ∧
    ((z.runTo ((f.due + 65535) / 65536)).onCap fun c => { c with fires := l ++ r }).fireReady = false :=
  let a (n : Nat) : CapFire := { unit := 0, due := n, long := false, seq := 0 }
  ⟨[a 65537], [a 65536], a 65536, { live with cap := { live.cap with fires := [a 65537, a 65536, a 65536] } },
    { live with cap := { live.cap with fires := [a 65537, a 65536, a 65536], driving := some 5 } }, by decide⟩

/-- A frame for which no key can be had: the link's slot is empty. -/
theorem test_meets_link_comes_up_and_goes_down_no_key : ∃ y : State, live.linkHears = true ∧ DiscardCause.tag ≠ .staleCtr ∧
    live.frameKey (!live.gzl.linkUp) = (y, none) := by
  have h : (live.frameKey (!live.gzl.linkUp)).2 = none := by decide +kernel
  generalize live.frameKey (!live.gzl.linkUp) = q at h ⊢
  exact ⟨q.1, by decide, by decide, Prod.ext rfl h⟩

/-- The same for a frame that is to be sealed. -/
theorem test_meets_key_unit_works_no_key : ∃ y : State, live.frameKey (linkIsHello .ack) = (y, none) := by
  have h : (live.frameKey (linkIsHello .ack)).2 = none := by decide +kernel
  generalize live.frameKey (linkIsHello .ack) = q at h ⊢
  exact ⟨q.1, Prod.ext rfl h⟩

/-- A slot write whose wrapping key is derived. -/
theorem test_meets_key_unit_works_wrap : ∃ (n : Nat) (w : SlotWrite) (key : List Byte) (s y : State), s.firstWrite n = some w ∧
    s.loadKey purposeWrap [BitVec.ofNat 8 n] = (y, some key) := by
  have h (s : State) (h : s.keyUnitServes = true) := Option.isSome_iff_exists.mp (State.loadKey_isSome s purposeWrap [BitVec.ofNat 8 15] h (by simp [State.workingKey, purposeWrap, purposeGreaz, purposeArchive]))
  obtain ⟨key, hk⟩ := h { live with sec := { live.sec with writes := [{ ref := ref, slot := 15, buf := some [], stage := .accepted }] } } (by decide)
  exact ⟨15, _, key, _, _, by rfl, Prod.ext rfl hk⟩

/-- A supply reading on a device that is awake. -/
theorem test_meets_power_steps_supply : live.awake = true := by decide

/-- The label of an inserted second follows that of the second before it (R356), as does the next second's. -/
theorem test_inserted_second_follows : labelFollows (5, false) (5, true) = true ∧ labelFollows (5, true) (6, false) = true ∧
    labelFollows (5, true) (5, true) = false := by decide

/-- The link's key, for HELLO and for the other frames. -/
theorem test_meets_key_unit_works_frames : ∀ hello : Bool, ∃ (key : List Byte) (y : State), (keyed live.gzl).frameKey hello = (y, some key) := by
  intro hello
  obtain ⟨b, hb⟩ := Option.isSome_iff_exists.mp (keyed_content live.gzl)
  have hs : (keyed live.gzl).keyUnitServes = true := by decide +kernel
  generalize keyed live.gzl = k at hb hs ⊢
  obtain ⟨key, hk⟩ := Option.isSome_iff_exists.mp (State.loadKey_isSome k purposeGreaz (if hello then List.replicate 8 0 else k.linkCtx) hs
    (by simp [State.workingKey, hb]))
  exact ⟨key, _, Prod.ext rfl hk⟩

/-- Work of the last place outside slack. -/
theorem test_meets_slack_work_is_done_last_place : busy.slackAt 6 = false := by decide

/-- An RC register that is no peak register, and is not latched. -/
theorem test_meets_reads_clear_and_latch_counts : live.hostUp = true ∧ (regRow Reg.tckSlackMin).map RegRow.acc = some .rc ∧
    (∀ n : Fin 9, Reg.tckSlackMin ≠ Reg.flmPeak n.val) ∧ mapGet live.latched Reg.tckSlackMin = none := by decide

/-- A load that fills LIST memory's last byte, with the engines' gate open. -/
theorem test_meets_images_are_loaded_and_verified_error : ∃ (s : State) (p : Pitch), s.sch.pitch = some p ∧ p.state = .loading ∧ s.slackAt 4 = true ∧
    s.gate 46 = true ∧ s.sys.step = 14 :=
  ⟨{ live with sch := { live.sch with pitch := some { ref := ref, offset := 0, length := 256 } } }, { ref := ref, offset := 0, length := 256 }, by decide⟩

/-! ### What the outside world cannot send -/

theorem test_wf_refuses_register_widths : (Instr.registerWrite ⟨.bar0, 0⟩ 3 0).WellFormed = false ∧ (Instr.readClear ⟨.bar0, 0⟩ 16).WellFormed = false := by decide
theorem test_wf_refuses_short_frame : (Instr.frameReceive 0 { bytes := List.replicate 13 0 } []).WellFormed = false := by decide
theorem test_wf_refuses_injection_without_its_bytes :
    (Instr.hostInjection 0 { words := [0, 0, 0, 64, 0, 0, 0, 0], frame := [] } []).WellFormed = false := by decide
theorem test_wf_refuses_alarm_of_no_record : (Instr.alarmReceive { seq := 1, ctr := 1 } []).WellFormed = false := by decide
theorem test_wf_refuses_seven_sensors : (Instr.telemetrySample (List.replicate 7 0) (List.replicate 6 0)).WellFormed = false := by decide
theorem test_wf_refuses_label_of_one_pin : (Instr.lmuLabel [List.replicate 640 false]).WellFormed = false := by decide
theorem test_wf_refuses_three_lanes : (Instr.pcieLinkUp 1 3).WellFormed = false := by decide
theorem test_wf_refuses_wake_without_cause : (Instr.dormantWake 0 {}).WellFormed = false := by decide
theorem test_wf_accepts_a_register_write : (Instr.registerWrite ⟨.bar0, 0⟩ 4 0).WellFormed = true := by decide

/-! ### Single steps, with results from the spec -/

/-- The table gives its rows no bits. -/
theorem test_rows_have_no_words : decodeTableWord 32 0 = none := by decide

/-- The check value of CRC-32C over the nine digits, as its standard gives it. -/
theorem test_crc32c_check_value : crc32c [0x31, 0x32, 0x33, 0x34, 0x35, 0x36, 0x37, 0x38, 0x39] = 0xE3069283 := by decide +kernel

/-- R34: with FM = 12, instant 1 is 83,333,333 ns after the second. -/
theorem test_grid_instant_of_twelve : gridTime 12 0 1 = 83333333 := by decide

/-- R563: the key seals the device; one bit off does not. -/
theorem test_seal_key :
    (after { live with pending := [.sysSeal 0x5EA10880] }).isSealed = true ∧ (after { live with pending := [.sysSeal 0x5EA10881] }).isSealed = false := by decide +kernel

/-- A posted command leaves the queue when it is run, and its ring's device index moves past it (R394). -/
theorem test_command_is_taken :
    (after { live with pending := [.pitchAbort hdr] }).pending = [] ∧ ((after { live with pending := [.pitchAbort hdr] }).ring 0).devIdx = 1 := by decide +kernel

/-- Table HIF-10: the indices of a 64-entry ring past entry 62, past entry 63 and past entry 0, and the host index at which it would be full. -/
theorem test_ring_wraps : idxNext 64 0x003E = 0x003F ∧ idxNext 64 0x003F = 0x8000 ∧ idxNext 64 0x8000 = 0x8001 ∧ idxDist 64 0x0001 0x8001 = 64 := by decide

/-- The basin chapter's worked example: grid index 25 at FM = 60. -/
theorem test_grid_instant_of_sixty : gridTime 60 0 25 = 416666666 := by decide

/-- The conventions' worked example: a 64-bit total from its lowest address. -/
theorem test_total_lies_low_byte_first : leNat 8 0x0000000123456789 = [0x89, 0x67, 0x45, 0x23, 0x01, 0x00, 0x00, 0x00] := by decide


/-- Table HIF-4 and the worked example of Table HIF-10: FENCE_PLOT of Plot 19 with TAG 0x0102. -/
theorem test_descriptor_spells_fence_plot :
    commandOf 0 [0x01020003, 19, 0, 0, 0, 0, 0, 0] {} = .fencePlot { ring := 0, tag := 0x0102 } 19 := by decide

/-- The same example: it completes OK with PHASE 1 and INDEX 0x000B (Table HIF-6). -/
theorem test_completion_words : Completion.words { ent with index := 0x000B, tag := 0x0102 } = [0x8000000B, 0x00000102, 0, 0, 0, 0, 0, 0] := by decide

/-- R369: a ZDA sentence for the fifth second of 1970. -/
theorem test_zda_second : nmeaSecond zda = some (5, false) := by decide +kernel

end Sys2Proof.Tests.Slice0
end

section
/-! PROOFS. The step, the registers, and the host's reads and writes of them (chapters 00 and 13, Table SYS-4). -/
namespace Sys2Proof.Machine

/-! ### The step and the stored registers -/

/-- Settles O1: a step on a queue with a front command is, by definition, that command on the state with the rest. -/
theorem stepRunsFrontCommand : Obligations.StepRunsFrontCommand := fun _ _ _ => rfl

/-- A write keeps the registers in canonical form: the value listed is never the reset value. -/
theorem State.regsSound_setReg {s : State} (off : Nat) (v : Word) (h : s.regsSound) : (s.setReg off v).regsSound := by
  obtain ⟨hwf, hne⟩ := h
  unfold State.regsSound State.setReg
  dsimp only
  split
  next => exact ⟨mapWf_mapDel _ _ hwf, fun e he => hne e (mem_mapDel he)⟩
  next hv =>
    refine ⟨mapWf_mapSet _ _ _ hwf, fun e he => ?_⟩
    rcases mem_mapSet he with rfl | he
    · exact hv
    · exact hne e he

/-- Settles O8, by the read-after-write laws of `State.setReg` and its canonical form. -/
theorem registerHoldsWhatWasWritten : Obligations.RegisterHoldsWhatWasWritten := fun s off v =>
  ⟨s.reg_setReg_self off v, fun _ ho => s.reg_setReg_ne v ho, s.setReg_regs_only off v, State.regsSound_setReg off v⟩

/-! ### Places of registers -/

/-- An offset of a host space (R391) is that of its 24 bits. -/
theorem hostOffset_toNat {off : Nat} (h : off < 0x1000000) : (BitVec.ofNat 24 off).toNat = off := by
  rw [BitVec.toNat_ofNat, Nat.mod_eq_of_lt h]

/-- The registers at a base and a stride are exactly those that `regIdx` finds. -/
theorem regIdx_eq_some_iff {base stride n off i : Nat} (hs : 0 < stride) :
    regIdx base stride n off = some i ↔ i < n ∧ off = base + stride * i := by
  unfold regIdx
  constructor
  · intro h
    split at h
    next hc =>
      obtain ⟨hle, hmod, hlt⟩ := hc
      obtain rfl := Option.some.inj h
      have := Nat.div_add_mod (off - base) stride
      exact ⟨hlt, by omega⟩
    next => cases h
  · rintro ⟨hi, rfl⟩
    simp [Nat.mul_div_cancel_left _ hs, hi]

theorem regIdx_eq_none {base stride n off : Nat} (hs : 0 < stride) (h : ∀ i < n, off ≠ base + stride * i) :
    regIdx base stride n off = none := by
  cases hi : regIdx base stride n off with
  | none => rfl
  | some i =>
    obtain ⟨hlt, heq⟩ := (regIdx_eq_some_iff hs).1 hi
    exact absurd heq (h i hlt)

/-! ### Access codes of the registers that come in rows (Tables SYS-4 and SYS-20 to SYS-25) -/

theorem regAcc_flmPeak (n : Fin 9) : (regRow (Reg.flmPeak n.val)).map RegRow.acc = some .rc := by
  revert n
  decide

theorem regAcc_prtCfg (n : Fin 4) : (regRow (Reg.prtCfg n.val)).map RegRow.acc = some .rws := by
  revert n
  decide

theorem regAcc_prtCtl (n : Fin 4) : (regRow (Reg.prtCtl n.val)).map RegRow.acc = some .rw := by
  revert n
  decide

theorem regAcc_lmuChCtl (n : Fin 24) : (regRow (Reg.lmuChCtl n.val)).map RegRow.acc = some .rw := by
  revert n
  decide

theorem regAcc_lmuPtCfg (n : Fin 4) : (regRow (Reg.lmuPtCfg n.val)).map RegRow.acc = some .rws := by
  revert n
  decide

theorem regAcc_nrgPtCfg (n : Fin 4) : (regRow (Reg.nrgPtCfg n.val)).map RegRow.acc = some .rws := by
  revert n
  decide

theorem regAcc_nrgPlsCfg (n : Fin 8) : (regRow (Reg.nrgPlsCfg n.val)).map RegRow.acc = some .rws := by
  revert n
  decide

theorem regAcc_hifRingCtl (n : Fin 64) : (regRow (Reg.hifRingCtl n.val)).map RegRow.acc = some .rw := by
  revert n
  decide

theorem regAcc_hifRingMod (n : Fin 64) : (regRow (Reg.hifRingMod n.val)).map RegRow.acc = some .rw := by
  revert n
  decide

/-! ### Reads -/

/-- A 32-bit read of an aligned offset of BAR0 is one read of its register (R391). -/
theorem State.hostRead_bar0_word (s : State) {off : Nat} (hup : s.hostUp = true) (h4 : off % 4 = 0) :
    s.hostRead .bar0 off 4 = { (s.readReg off).2 with readData := leBytes (s.readReg off).1 } := by
  have hoff : 4 * (off / 4) = off := by omega
  have hn : (off + 4 + 3) / 4 - off / 4 = 1 := by omega
  simp only [State.hostRead, hup, State.spaceWords, hn, hoff, h4, State.readWords]
  rfl

theorem State.readReg_latched (s : State) {off : Nat} {v : Word} (h : mapGet s.latched off = some v) :
    s.readReg off = (v, { s with latched := (freedBy off).foldl mapDel s.latched }) := by
  simp only [State.readReg, h]

theorem State.readReg_unlatched (s : State) {off : Nat} (h : mapGet s.latched off = none) :
    s.readReg off = (s.view off,
      { s with latched := (latchedBy off).foldl (fun m o => mapSet m o (s.view o)) s.latched }.clearRead off) := by
  simp only [State.readReg, h]

/-- Latched halves: only the low words of the 64-bit pairs latch one, and no read clears them (R69, R389, R464). -/
theorem latchedBy_of_rc {off : Nat} (h : (regRow off).map RegRow.acc = some .rc) : latchedBy off = [] := by
  have hlow : ∀ o ∈ [Reg.tckTickIdLo, Reg.timNowNs, Reg.evrHeadLo, Reg.evrNextLo], (regRow o).map RegRow.acc ≠ some .rc := by decide
  have hne : ∀ o ∈ [Reg.tckTickIdLo, Reg.timNowNs, Reg.evrHeadLo, Reg.evrNextLo], off ≠ o := fun o ho e => hlow o ho (e ▸ h)
  simp only [List.forall_mem_cons] at hne
  obtain ⟨htick, hnow, hhead, hnext, -⟩ := hne
  simp only [latchedBy, htick, hnow, hhead, hnext, if_false]

/-- A read of an RC register that holds no latched half: the register begins anew and nothing is latched. -/
theorem exec_readClear_of_rc {a : BitVec 24} {off : Nat} {s : State} (ha : a.toNat = off) (hup : s.hostUp = true) (h4 : off % 4 = 0)
    (hacc : (regRow off).map RegRow.acc = some .rc) (hl : mapGet s.latched off = none) :
    exec (.readClear ⟨.bar0, a⟩ 4) s = .next { s.clearRead off with readData := leBytes (s.view off) } := by
  subst ha
  change Host.Outcome.next (s.hostRead .bar0 a.toNat 4) = _
  rw [s.hostRead_bar0_word hup h4, s.readReg_unlatched hl, latchedBy_of_rc hacc]
  rfl

/-- A read clears a register to its reset value, but for those that begin at a level (R10, R129, R464, R552). -/
theorem State.clearRead_of_rc (s : State) {off : Nat} (hacc : (regRow off).map RegRow.acc = some .rc) (htemp : off ≠ Reg.pwrTempPeak)
    (hqueue : off ≠ Reg.evrQueuePeak) (hpeak : ∀ n : Fin 9, off ≠ Reg.flmPeak n.val) : s.clearRead off = s.setReg off (regReset off) := by
  obtain ⟨r, hr, hrc⟩ := Option.map_eq_some_iff.1 hacc
  have hidx : regIdx (Reg.flmPeak 0) 4 9 off = none := regIdx_eq_none (by decide) fun i hi => hpeak ⟨i, hi⟩
  simp only [State.clearRead, hr, hrc, htemp, hqueue, hidx, ne_eq, not_true, if_false]

theorem State.clearRead_flmPeak (s : State) (n : Fin 9) :
    s.clearRead (Reg.flmPeak n.val) = s.setReg (Reg.flmPeak n.val) (w32 (s.flume n.val).level) := by
  obtain ⟨r, hr, hrc⟩ := Option.map_eq_some_iff.1 (regAcc_flmPeak n)
  have hidx : regIdx (Reg.flmPeak 0) 4 9 (Reg.flmPeak n.val) = some n.val := (regIdx_eq_some_iff (by decide)).2 ⟨n.isLt, rfl⟩
  have htemp : Reg.flmPeak n.val ≠ Reg.pwrTempPeak := by dsimp only [Reg.flmPeak, Reg.pwrTempPeak]; omega
  have hqueue : Reg.flmPeak n.val ≠ Reg.evrQueuePeak := by dsimp only [Reg.flmPeak, Reg.evrQueuePeak]; omega
  simp only [State.clearRead, hr, hrc, htemp, hqueue, hidx, ne_eq, not_true, if_false]

theorem State.clearRead_evrQueuePeak (s : State) : s.clearRead Reg.evrQueuePeak = s.setReg Reg.evrQueuePeak (w32 s.evr.queue.length) := rfl

theorem State.clearRead_pwrTempPeak (s : State) : s.clearRead Reg.pwrTempPeak = { s with pwr := { s.pwr with tempPeak := none } } := rfl

/-- The low word of the last closed tick ID, when read, latches the high word (R69). -/
theorem State.readReg_tckTickIdLo (s : State) (h : mapGet s.latched Reg.tckTickIdLo = none) :
    s.readReg Reg.tckTickIdLo = (lo32 s.lastTick, { s with latched := mapSet s.latched Reg.tckTickIdHi (hi32 s.lastTick) }) := by
  rw [s.readReg_unlatched h]
  rfl

/-- A latched high word is read as it was latched, and is free again (R69). -/
theorem State.readReg_tckTickIdHi (s : State) {v : Word} (h : mapGet s.latched Reg.tckTickIdHi = some v) :
    s.readReg Reg.tckTickIdHi = (v, { s with latched := mapDel s.latched Reg.tckTickIdHi }) :=
  s.readReg_latched h

theorem exec_latchedRead {a : BitVec 24} {off : Nat} {s : State} (ha : a.toNat = off) (hup : s.hostUp = true) (h4 : off % 4 = 0) :
    exec (.latchedRead a) s = .next { (s.readReg off).2 with readData := leBytes (s.readReg off).1 } :=
  ha ▸ congrArg Host.Outcome.next (s.hostRead_bar0_word hup (ha ▸ h4))

/-- Settles O25: a read of an RC register latches nothing and clears by `State.clearRead`; the tick ID's halves are the two cases of `State.readReg`. -/
theorem readsClearAndLatch : Obligations.ReadsClearAndLatch := by
  refine ⟨fun off s r hup h4 hr hrc htemp hqueue hpeak hl => ?clears, fun n s hup hl => ?flumePeak, fun s hup hl => ?queuePeak, fun s hup hl => ?tempPeak,
    fun s hup hl => ?tickLow, fun s v hup hl => ?tickHigh⟩
  case clears =>
    have hacc : (regRow off.toNat).map RegRow.acc = some .rc := by rw [hr, Option.map_some, hrc]
    refine ⟨_, exec_readClear_of_rc rfl hup h4 hacc hl, ?_⟩
    rw [s.clearRead_of_rc hacc htemp hqueue hpeak]
    exact ⟨rfl, s.reg_setReg_self _ _, fun o ho => s.reg_setReg_ne _ ho⟩
  case flumePeak =>
    rw [exec_readClear_of_rc (hostOffset_toNat (by dsimp only [Reg.flmPeak]; omega)) hup (by dsimp only [Reg.flmPeak]; omega) (regAcc_flmPeak n) hl,
      s.clearRead_flmPeak]
  case queuePeak => rw [exec_readClear_of_rc (hostOffset_toNat (by decide)) hup (by decide) (by decide) hl, s.clearRead_evrQueuePeak]
  case tempPeak => rw [exec_readClear_of_rc (hostOffset_toNat (by decide)) hup (by decide) (by decide) hl, s.clearRead_pwrTempPeak]
  case tickLow =>
    refine ⟨_, exec_latchedRead (off := Reg.tckTickIdLo) rfl hup (by decide), ?_⟩
    rw [s.readReg_tckTickIdLo hl]
    exact ⟨rfl, mapGet_mapSet_self _ _ _⟩
  case tickHigh =>
    refine ⟨_, exec_latchedRead (off := Reg.tckTickIdHi) rfl hup (by decide), ?_⟩
    rw [s.readReg_tckTickIdHi hl]
    exact ⟨rfl, mapGet_mapDel_self _ _⟩

/-! ### Writes by access code (R10) -/

theorem State.store_eq_setReg (s : State) {off : Nat} {r : RegRow} (v : Word) (hr : regRow off = some r) :
    s.store off v = s.setReg off ((v &&& r.mask) ||| (r.reset &&& ~~~r.mask)) := by
  simp only [State.store, hr]

theorem State.writeReg_of_none (s : State) {off : Nat} (v : Word) (hr : regRow off = none) : s.writeReg off v = s := by
  simp only [State.writeReg, hr]

theorem State.writeReg_of_readOnly (s : State) {off : Nat} (v : Word)
    (hacc : (regRow off).map RegRow.acc = some .ro ∨ (regRow off).map RegRow.acc = some .rc) : s.writeReg off v = s := by
  rcases hacc with h | h <;> obtain ⟨r, hr, ha⟩ := Option.map_eq_some_iff.1 h <;> simp only [State.writeReg, hr, ha]

theorem State.writeReg_of_w1c (s : State) {off : Nat} (v : Word) (hacc : (regRow off).map RegRow.acc = some .w1c) :
    s.writeReg off v = s.setReg off (s.reg off &&& ~~~v) := by
  obtain ⟨r, hr, ha⟩ := Option.map_eq_some_iff.1 hacc
  simp only [State.writeReg, hr, ha]

theorem State.writeReg_of_rw (s : State) {off : Nat} (v : Word) (hacc : (regRow off).map RegRow.acc = some .rw) :
    s.writeReg off v = s.actWrite off v := by
  obtain ⟨r, hr, ha⟩ := Option.map_eq_some_iff.1 hacc
  simp only [State.writeReg, hr, ha]

theorem State.writeReg_of_wo (s : State) {off : Nat} (v : Word) (hacc : (regRow off).map RegRow.acc = some .wo) :
    s.writeReg off v = s.actWrite off v := by
  obtain ⟨r, hr, ha⟩ := Option.map_eq_some_iff.1 hacc
  simp only [State.writeReg, hr, ha]

theorem State.writeReg_of_rws (s : State) {off : Nat} (v : Word) (hacc : (regRow off).map RegRow.acc = some .rws) :
    s.writeReg off v = if s.isSealed then s else s.actWrite off v := by
  obtain ⟨r, hr, ha⟩ := Option.map_eq_some_iff.1 hacc
  simp only [State.writeReg, hr, ha]

/-- The registers that take a host's bits: RW always, RWS while the device is not sealed (R564). -/
theorem State.writeReg_of_writable (s : State) {off : Nat} (v : Word)
    (hacc : (regRow off).map RegRow.acc = some .rw ∨ (regRow off).map RegRow.acc = some .rws ∧ s.isSealed = false) :
    s.writeReg off v = s.actWrite off v := by
  rcases hacc with h | ⟨h, hs⟩
  · exact s.writeReg_of_rw v h
  · rw [s.writeReg_of_rws v h, hs, if_neg Bool.false_ne_true]

theorem State.hostWrite_of_hostUp (s : State) (off : Nat) (v : Word) (hup : s.hostUp = true) : s.hostWrite off v = s.writeReg off v := by
  simp only [State.hostWrite, hup, if_true]

theorem State.hostWrite_of_host_down (s : State) (off : Nat) (v : Word) (hup : s.hostUp = false) : s.hostWrite off v = s := by
  simp only [State.hostWrite, hup, Bool.false_eq_true, if_false]

theorem State.hostWrite_of_rw (s : State) {off : Nat} (v : Word) (hacc : (regRow off).map RegRow.acc = some .rw) :
    s.hostWrite off v = if s.hostUp then s.actWrite off v else s := by
  rw [State.hostWrite, s.writeReg_of_rw v hacc]

theorem State.hostWrite_of_wo (s : State) {off : Nat} (v : Word) (hacc : (regRow off).map RegRow.acc = some .wo) :
    s.hostWrite off v = if s.hostUp then s.actWrite off v else s := by
  rw [State.hostWrite, s.writeReg_of_wo v hacc]

/-- A 32-bit write of an aligned BAR0 offset. -/
theorem exec_registerWrite_bar0 {a : BitVec 24} {off : Nat} (ha : a.toNat = off) (h4 : off % 4 = 0) (d : BitVec 64) (s : State) :
    exec (.registerWrite ⟨.bar0, a⟩ 4 d) s = .next (s.hostWrite off (lo32 d)) := by
  subst ha
  change Host.Outcome.next (s.barWrite .bar0 a.toNat 4 d) = _
  cases hup : s.hostUp <;> simp [State.barWrite, State.hostWrite, State.writeSpace, hup, h4]

theorem exec_registerWrite_of_writable {a : BitVec 24} {off : Nat} (ha : a.toNat = off) (h4 : off % 4 = 0) (d : BitVec 64) {s : State}
    (hup : s.hostUp = true) (hacc : (regRow off).map RegRow.acc = some .rw ∨ (regRow off).map RegRow.acc = some .rws ∧ s.isSealed = false) :
    exec (.registerWrite ⟨.bar0, a⟩ 4 d) s = .next (s.actWrite off (lo32 d)) := by
  rw [exec_registerWrite_bar0 ha h4, s.hostWrite_of_hostUp _ _ hup, s.writeReg_of_writable _ hacc]

/-- Before start-up step 9 no write of the host arrives (R537). -/
theorem exec_registerWrite_of_host_down (a : HostAddr) (width : Nat) (d : BitVec 64) {s : State} (hup : s.hostUp = false) :
    exec (.registerWrite a width d) s = .next s := by
  change Host.Outcome.next (s.barWrite a.space a.off.toNat width d) = _
  simp only [State.barWrite, hup, Bool.not_false, if_true]

/-- A write of a BAR that is neither 32 nor 64 bits wide, or not at a multiple of 4, is counted and nothing else (R391). -/
theorem State.barWrite_of_bad_access (s : State) {b : HostSpace} {off width : Nat} (d : DWord) (hup : s.hostUp = true) (hb : b ≠ .config)
    (hbad : off % 4 ≠ 0 ∨ (width ≠ 4 ∧ width ≠ 8)) : s.barWrite b off width d = s.inc Reg.hifBadAccCnt := by
  rcases hbad with h | ⟨h4, h8⟩
  · simp [State.barWrite, hup, hb, h]
  · simp [State.barWrite, hup, hb, h4, h8]

/-- A 64-bit write of BAR0 is two 32-bit writes, the lower first (R391). -/
theorem State.barWrite_bar0_dword (s : State) {off : Nat} (d : DWord) (hup : s.hostUp = true) (h4 : off % 4 = 0) :
    s.barWrite .bar0 off 8 d = (s.writeReg off (lo32 d)).writeReg (off + 4) (hi32 d) := by
  simp [State.barWrite, State.writeSpace, hup, h4]

/-- A host write of configuration space, of any width (R390). -/
theorem State.barWrite_config (s : State) (off width : Nat) (d : DWord) (hup : s.hostUp = true) :
    s.barWrite .config off width d = s.configWrite (off % 0x1000) width d := by
  simp [State.barWrite, hup]

/-! ### What the registers that act on a write do -/

/-- A register that does not act on its write stores it, block by block; TCK's registers do so while the grid does not run (R41). -/
theorem State.actWrite_plain (s : State) {off : Nat} (v : Word) (hplain : actsOnWrite off = false) (hgrid : off / 65536 = 0x02 → s.gridOn = false) :
    s.actWrite off v = s.store off v := by
  simp only [actsOnWrite, Bool.or_eq_false_iff, Option.isSome_eq_false_iff, Option.isNone_iff_eq_none, List.contains_eq_mem, decide_eq_false_iff_not,
    List.mem_cons, not_or] at hplain
  obtain ⟨⟨⟨⟨⟨⟨⟨⟨⟨⟨⟨hseal, hstart, hboot, htck, hstage, hpair, harc, hregion, htrk, hcap, htimCfg, hprio, hlock, hgzl, hlc, hsluice, hceil, hreq,
    hdormant, -⟩, hport⟩, hctl⟩, hsel⟩, hch⟩, hpt⟩, hpoint⟩, hpulse⟩, hbase⟩, hring⟩, hmod⟩ := hplain
  unfold State.actWrite
  split
  next => simp only [State.writeSys, hseal, hstart, hboot, if_false]
  next h => simp [State.writeTck, htck, hgrid h]
  next => simp only [hstage, if_false]
  next => simp only [State.writePrt, hport, hctl, hpair, if_false]
  next => simp only [hsel]
  next => simp only [harc, hregion, if_false]
  next => simp [State.writeLmu, hch, hpt, htrk]
  next => simp only [State.writeNrg, hpoint, hpulse]
  next => simp only [State.writeCap, hbase, hcap, if_false]
  next => simp [htimCfg, hprio, hlock]
  next => simp only [State.writeHif, hring, hmod]
  next => simp only [hgzl, if_false]
  next => simp only [hlc, if_false]
  next => simp only [hsluice, if_false]
  next => simp only [State.writePwr, hceil, hreq, hdormant, if_false]
  next => rfl

/-- While the grid runs, TCK's setup registers other than TCK_CFG ignore their writes (R41). -/
theorem State.hostWrite_tck_of_gridOn (s : State) {off : Nat} (v : Word) (hacc : (regRow off).map RegRow.acc = some .rws) (hslot : off / 65536 = 0x02)
    (hcfg : off ≠ Reg.tckCfg) (hgrid : s.gridOn = true) : s.hostWrite off v = s := by
  have hkept : s.actWrite off v = s := by simp only [State.actWrite, hslot, State.writeTck, hcfg, hgrid, if_false, if_true]
  rw [State.hostWrite, s.writeReg_of_rws v hacc, hkept, ite_self, ite_self]

theorem State.actWrite_hifRingCtl (s : State) (n : Fin 64) (v : Word) :
    s.actWrite (Reg.hifRingCtl n.val) v = if flag v 0 then s.enableRing n.val else s.disableRing n.val := by
  have hslot : Reg.hifRingCtl n.val / 65536 = 0x14 := by dsimp only [Reg.hifRingCtl]; omega
  have hctl : regIdx (Reg.hifRingCtl 0) 0x20 64 (Reg.hifRingCtl n.val) = some n.val := (regIdx_eq_some_iff (by decide)).2 ⟨n.isLt, rfl⟩
  simp only [State.actWrite, hslot, State.writeHif, hctl]

theorem State.actWrite_hifRingMod (s : State) (n : Fin 64) (v : Word) :
    s.actWrite (Reg.hifRingMod n.val) v = (s.store (Reg.hifRingMod n.val) v).checkFire n.val := by
  have hslot : Reg.hifRingMod n.val / 65536 = 0x14 := by dsimp only [Reg.hifRingMod]; omega
  have hctl : regIdx (Reg.hifRingCtl 0) 0x20 64 (Reg.hifRingMod n.val) = none :=
    regIdx_eq_none (by decide) fun i _ => by dsimp only [Reg.hifRingMod, Reg.hifRingCtl]; omega
  have hmod : regIdx (Reg.hifRingMod 0) 0x20 64 (Reg.hifRingMod n.val) = some n.val := (regIdx_eq_some_iff (by decide)).2 ⟨n.isLt, rfl⟩
  simp only [State.actWrite, hslot, State.writeHif, hctl, hmod]

theorem State.actWrite_prtCfg (s : State) (n : Fin 4) (v : Word) : s.actWrite (Reg.prtCfg n.val) v = s.writePrtCfg n.val v := by
  have hslot : Reg.prtCfg n.val / 65536 = 0x06 := by dsimp only [Reg.prtCfg]; omega
  have hcfg : regIdx (Reg.prtCfg 0) 0x1000 4 (Reg.prtCfg n.val) = some n.val := (regIdx_eq_some_iff (by decide)).2 ⟨n.isLt, rfl⟩
  simp only [State.actWrite, hslot, State.writePrt, hcfg]

theorem State.actWrite_prtCtl (s : State) (n : Fin 4) (v : Word) :
    s.actWrite (Reg.prtCtl n.val) v = (s.disablePort n.val (flag v 0)).store (Reg.prtCtl n.val) v := by
  have hslot : Reg.prtCtl n.val / 65536 = 0x06 := by dsimp only [Reg.prtCtl]; omega
  have hcfg : regIdx (Reg.prtCfg 0) 0x1000 4 (Reg.prtCtl n.val) = none :=
    regIdx_eq_none (by decide) fun i _ => by dsimp only [Reg.prtCfg, Reg.prtCtl]; omega
  have hctl : regIdx (Reg.prtCtl 0) 0x1000 4 (Reg.prtCtl n.val) = some n.val := (regIdx_eq_some_iff (by decide)).2 ⟨n.isLt, rfl⟩
  simp only [State.actWrite, hslot, State.writePrt, hcfg, hctl]

theorem State.actWrite_lmuChCtl (s : State) (c : Fin 24) (v : Word) : s.actWrite (Reg.lmuChCtl c.val) v = s.writeChannel c.val v := by
  have hslot : Reg.lmuChCtl c.val / 65536 = 0x10 := by dsimp only [Reg.lmuChCtl]; omega
  have hch : regIdx (Reg.lmuChCtl 0) 4 24 (Reg.lmuChCtl c.val) = some c.val := (regIdx_eq_some_iff (by decide)).2 ⟨c.isLt, rfl⟩
  simp only [State.actWrite, hslot, State.writeLmu, hch]

theorem State.actWrite_lmuPtCfg (s : State) (p : Fin 4) (v : Word) : s.actWrite (Reg.lmuPtCfg p.val) v = s.writeEstimator p.val v := by
  have hslot : Reg.lmuPtCfg p.val / 65536 = 0x10 := by dsimp only [Reg.lmuPtCfg]; omega
  have hch : regIdx (Reg.lmuChCtl 0) 4 24 (Reg.lmuPtCfg p.val) = none :=
    regIdx_eq_none (by decide) fun i _ => by dsimp only [Reg.lmuPtCfg, Reg.lmuChCtl]; omega
  have hpt : regIdx (Reg.lmuPtCfg 0) 0x10 4 (Reg.lmuPtCfg p.val) = some p.val := (regIdx_eq_some_iff (by decide)).2 ⟨p.isLt, rfl⟩
  simp only [State.actWrite, hslot, State.writeLmu, hch, hpt]

theorem State.actWrite_nrgPtCfg (s : State) (p : Fin 4) (v : Word) : s.actWrite (Reg.nrgPtCfg p.val) v = s.writePoint p.val v := by
  have hslot : Reg.nrgPtCfg p.val / 65536 = 0x11 := by dsimp only [Reg.nrgPtCfg]; omega
  have hpt : regIdx (Reg.nrgPtCfg 0) 0x40 4 (Reg.nrgPtCfg p.val) = some p.val := (regIdx_eq_some_iff (by decide)).2 ⟨p.isLt, rfl⟩
  simp only [State.actWrite, hslot, State.writeNrg, hpt]

theorem State.actWrite_nrgPlsCfg (s : State) (n : Fin 8) (v : Word) : s.actWrite (Reg.nrgPlsCfg n.val) v = s.writePulse n.val v := by
  have hslot : Reg.nrgPlsCfg n.val / 65536 = 0x11 := by dsimp only [Reg.nrgPlsCfg]; omega
  have hpt : regIdx (Reg.nrgPtCfg 0) 0x40 4 (Reg.nrgPlsCfg n.val) = none :=
    regIdx_eq_none (by decide) fun i _ => by dsimp only [Reg.nrgPtCfg, Reg.nrgPlsCfg]; omega
  have hpls : regIdx (Reg.nrgPlsCfg 0) 0x10 8 (Reg.nrgPlsCfg n.val) = some n.val := (regIdx_eq_some_iff (by decide)).2 ⟨n.isLt, rfl⟩
  simp only [State.actWrite, hslot, State.writeNrg, hpt, hpls]

theorem State.actWrite_sysStart (s : State) (v : Word) : s.actWrite Reg.sysStart v = if flag v 0 then s.startWritten else s := rfl

theorem State.actWrite_clkSluiceReq (s : State) (v : Word) : s.actWrite Reg.clkSluiceReq v = s.requestSluice (field v 5 0) (flag v 8) := rfl

theorem State.actWrite_pwrDormant (s : State) (v : Word) : s.actWrite Reg.pwrDormant v = s.requestDormant v := rfl

theorem State.actWrite_prtPairCfg (s : State) (v : Word) : s.actWrite Reg.prtPairCfg v = (s.store Reg.prtPairCfg v).portsAfter s := rfl

theorem State.actWrite_arcCfg (s : State) (v : Word) : s.actWrite Reg.arcCfg v = s.writeArcCfg v := rfl

theorem State.actWrite_lmuTrk_on (s : State) (v : Word) (hv : flag v 0 = true) : s.actWrite Reg.lmuTrk v = s.store Reg.lmuTrk v := by
  change (if (true && !flag v 0) = true then _ else s.store Reg.lmuTrk v) = _
  rw [hv]
  rfl

theorem State.actWrite_capCfg (s : State) (v : Word) : s.actWrite Reg.capCfg v = s.writeCapCfg v := rfl

theorem State.actWrite_timCfg (s : State) (v : Word) : s.actWrite Reg.timCfg v = s.writeTim Reg.timCfg v := rfl

theorem State.actWrite_timPrio (s : State) (v : Word) : s.actWrite Reg.timPrio v = s.writeTim Reg.timPrio v := rfl

theorem State.actWrite_timLock (s : State) (v : Word) : s.actWrite Reg.timLock v = (s.store Reg.timLock v).acquired := rfl

theorem State.actWrite_gzlCfg (s : State) (v : Word) : s.actWrite Reg.gzlCfg v = s.writeGzlCfg v := rfl

theorem State.actWrite_pwrDvfsCfg (s : State) (v : Word) : s.actWrite Reg.pwrDvfsCfg v = s.writeCeil v := rfl

/-! ### Registers that act, where they only store or take one branch -/

/-- A pulse output that is not enabled drops its backlog before its register takes the bits (R321). -/
theorem State.writePulse_off (s : State) (n : Nat) (v : Word) (hv : flag v 0 = false) :
    s.writePulse n v = (s.dropBacklog n fun _ => {}).setReg (Reg.nrgPlsCfg n) (v &&& 0x00FF07FE) := by
  have hw : flag (v &&& 0x00FF07FF) 0 = false := by
    simp only [flag, BitVec.getLsbD_and] at hv ⊢
    rw [hv, Bool.false_and]
  have hput : putFlag (v &&& 0x00FF07FF) 0 false = v &&& 0x00FF07FE := by
    change v &&& 0x00FF07FF &&& ~~~(bit 0) = _
    rw [BitVec.and_assoc]
    rfl
  simp only [State.writePulse, hw, Bool.false_and, Bool.false_eq_true, if_false, hput]

/-- ARC_CFG.EN stays 0 while DEST is 0 and the region is not valid (R276). -/
theorem State.writeArcCfg_eq (s : State) (v : Word) : s.writeArcCfg v =
    if flag ((s.store Reg.arcCfg v).reg Reg.arcCfg) 4 || (s.store Reg.arcCfg v).arcRegionOn then s.store Reg.arcCfg v
    else (s.store Reg.arcCfg v).setReg Reg.arcCfg (putFlag ((s.store Reg.arcCfg v).reg Reg.arcCfg) 0 false) := by
  unfold State.writeArcCfg State.arcEnFollows
  dsimp only
  cases flag ((s.store Reg.arcCfg v).reg Reg.arcCfg) 4 <;> cases (s.store Reg.arcCfg v).arcRegionOn <;> rfl

theorem State.writeGzlCfg_of_on_eq (s : State) (v : Word) (h : s.gzlOn = (s.store Reg.gzlCfg v).gzlOn) : s.writeGzlCfg v = s.store Reg.gzlCfg v := by
  simp only [State.writeGzlCfg, ← h, Bool.and_not_self, Bool.not_and_self, Bool.false_and, Bool.false_eq_true, if_false]

theorem State.writePrtCfg_of_no_template (s : State) (n : Nat) (v : Word) (h : s.templateOn n = false) :
    s.writePrtCfg n v = (s.store (Reg.prtCfg n) v).portsAfter s := by
  simp only [State.writePrtCfg, h, Bool.false_and, Bool.false_eq_true, if_false]

theorem State.writeEstimator_of_on (s : State) (p : Nat) (v : Word) (hv : flag v 0 = true) (hon : s.ptOn p = true) :
    s.writeEstimator p v = s.store (Reg.lmuPtCfg p) v := by
  simp only [State.writeEstimator, hv, hon, Bool.and_self, if_true]

theorem State.writeCapCfg_of_master_eq (s : State) (v : Word) (h : s.capMaster = (s.store Reg.capCfg v).capMaster) :
    s.writeCapCfg v = s.store Reg.capCfg v := by
  simp only [State.writeCapCfg, State.capMasterChanged, if_pos h]

theorem State.writeTim_of_no_gnss (s : State) (off : Nat) (v : Word) (h : s.tim.gnssOk = false) : s.writeTim off v = (s.store off v).runBmca := by
  simp only [State.writeTim, h, Bool.false_and, Bool.false_eq_true, if_false]

theorem State.writeCeil_of_no_image (s : State) (v : Word) (h : s.sch.activeValid = false) : s.writeCeil v = s.store Reg.pwrDvfsCfg v := by
  simp only [State.writeCeil, h, Bool.false_and, Bool.false_eq_true, if_false]

/-! ### The commands that are a write of one register -/

/-- A write of BAR0 is the command whose meaning is that host write. -/
theorem exec_registerWrite_eq_command {off : Nat} {d : BitVec 64} {s : State} {c : Instr} (hoff : off < 0x1000000 ∧ off % 4 = 0)
    (hc : exec c s = .next (s.hostWrite off (lo32 d))) : exec (.registerWrite ⟨.bar0, BitVec.ofNat 24 off⟩ 4 d) s = exec c s :=
  (exec_registerWrite_bar0 (hostOffset_toNat hoff.1) hoff.2 d s).trans hc.symm

theorem State.startWritten_of_host_down (s : State) (hup : s.hostUp = false) : s.startWritten = s := by
  simp only [State.startWritten, hup, Bool.false_and, Bool.false_eq_true, if_false]

theorem exec_startGo_eq_hostWrite (s : State) : exec .startGo s = .next (s.hostWrite Reg.sysStart 1) := by
  change Host.Outcome.next s.startWritten = _
  by_cases hup : s.hostUp = true
  · rw [s.hostWrite_of_wo 1 (by decide), if_pos hup, s.actWrite_sysStart, if_pos (by decide)]
  · have hdown := eq_false_of_ne_true hup
    rw [s.hostWrite_of_host_down _ _ hdown, s.startWritten_of_host_down hdown]

theorem State.hostWrite_sysStart_zero (s : State) : s.hostWrite Reg.sysStart 0 = s := by
  rw [s.hostWrite_of_wo 0 (by decide), s.actWrite_sysStart, if_neg (show ¬flag 0 0 = true by decide), ite_self]

theorem exec_dormantRequest_eq_hostWrite (s : State) (v : Word) : exec (.dormantRequest v) s = .next (s.hostWrite Reg.pwrDormant v) := by
  rw [s.hostWrite_of_wo v (by decide), s.actWrite_pwrDormant]
  exact (apply_ite Host.Outcome.next _ _ _).symm

theorem exec_sluiceRequest_eq_hostWrite (s : State) (g : BitVec 6) (o : Bool) (v : Word) (hg : field v 5 0 = g.toNat) (ho : flag v 8 = o) :
    exec (.sluiceRequest g o) s = .next (s.hostWrite Reg.clkSluiceReq v) := by
  rw [s.hostWrite_of_rw v (by decide), s.actWrite_clkSluiceReq, hg, ho]
  exact (apply_ite Host.Outcome.next _ _ _).symm

theorem sluiceWord_fields : ∀ (g : BitVec 6) (o : Bool),
    let v := lo32 (g.setWidth 64 ||| (if o then 0x100 else 0))
    field v 5 0 = g.toNat ∧ flag v 8 = o := by
  decide

theorem exec_pointEnable_eq_hostWrite (s : State) (n : Fin 4) (v : Word) : exec (.pointEnable n v) s = .next (s.hostWrite (Reg.nrgPtCfg n.val) v) := by
  change Host.Outcome.next (if s.isSealed || !s.hostUp then s else s.writePoint n.val v) = _
  rw [State.hostWrite, s.writeReg_of_rws v (regAcc_nrgPtCfg n), s.actWrite_nrgPtCfg]
  cases s.isSealed <;> cases s.hostUp <;> rfl

theorem exec_channelEnable_eq_hostWrite (s : State) (n : Fin 24) (v : Word) :
    exec (.channelEnable n v) s = .next (s.hostWrite (Reg.lmuChCtl n.val) v) := by
  rw [s.hostWrite_of_rw v (regAcc_lmuChCtl n), s.actWrite_lmuChCtl]
  rfl

theorem exec_ringEnable_eq_hostWrite (s : State) (n : Fin 64) : exec (.ringEnable n) s = .next (s.hostWrite (Reg.hifRingCtl n.val) 1) := by
  rw [s.hostWrite_of_rw 1 (regAcc_hifRingCtl n), s.actWrite_hifRingCtl, if_pos (show flag 1 0 = true by decide)]
  rfl

theorem exec_ringDisable_eq_hostWrite (s : State) (n : Fin 64) : exec (.ringDisable n) s = .next (s.hostWrite (Reg.hifRingCtl n.val) 0) := by
  rw [s.hostWrite_of_rw 0 (regAcc_hifRingCtl n), s.actWrite_hifRingCtl, if_neg (show ¬flag 0 0 = true by decide)]
  rfl

theorem State.hostWrite_prtCtl (s : State) (n : Fin 4) (v : Word) : s.hostWrite (Reg.prtCtl n.val) v =
    if s.hostUp then (s.disablePort n.val (flag v 0)).setReg (Reg.prtCtl n.val) (v &&& 1) else s := by
  have hrow : ∀ n : Fin 4, regRow (Reg.prtCtl n.val) = some ⟨0x06002C, 4, 0x1000, 1, 0x4, 0, .rw, 1⟩ := by decide
  rw [s.hostWrite_of_rw v (regAcc_prtCtl n), s.actWrite_prtCtl, State.store_eq_setReg _ v (hrow n)]
  simp only [BitVec.ofNat_eq_ofNat, BitVec.zero_and, BitVec.or_zero]

theorem exec_portEnable_eq_hostWrite (s : State) (n : Fin 4) : exec (.portDisable n .enable) s = .next (s.hostWrite (Reg.prtCtl n.val) 0) := by
  rw [s.hostWrite_prtCtl, show flag 0 0 = false by decide, show (0 : Word) &&& 1 = 0 by decide]
  cases hup : s.hostUp <;> simp only [exec, execPortDisable, hup] <;> rfl

theorem exec_portDisable_eq_hostWrite (s : State) (n : Fin 4) :
    exec (.portDisable n (.disable none)) s = .next (s.hostWrite (Reg.prtCtl n.val) 1) := by
  rw [s.hostWrite_prtCtl, show flag 1 0 = true by decide, show (1 : Word) &&& 1 = 1 by decide]
  cases hup : s.hostUp <;> simp only [exec, execPortDisable, hup] <;> rfl

/-! ### BAR2: doorbells and the MSI-X table (R391, R407, R410) -/

theorem exec_registerWrite_bar2 {off : Nat} (h4 : off % 4 = 0) (hlt : off < 0x10000) (d : BitVec 64) {s : State} (hup : s.hostUp = true) :
    exec (.registerWrite ⟨.bar2, BitVec.ofNat 24 off⟩ 4 d) s = .next (s.writeBar2 off (lo32 d)) := by
  change Host.Outcome.next (s.barWrite .bar2 (BitVec.ofNat 24 off).toNat 4 d) = _
  simp [State.barWrite, State.writeSpace, hup, h4, hostOffset_toNat (Nat.lt_trans hlt (by decide)), Nat.mod_eq_of_lt hlt]

theorem State.writeBar2_doorbell (s : State) (n : Fin 64) (v : Word) : s.writeBar2 (64 * n.val) v = s.hostIdxWord n.val v := by
  have hlow : 64 * n.val < 0x1000 := by omega
  simp [State.writeBar2, hlow]

theorem State.writeBar2_vectorControl (s : State) (v : Fin 128) (w : Word) :
    s.writeBar2 (0x2000 + 16 * v.val + 12) w = s.maskVector v.val (flag w 0) := by
  have hlow : ¬0x2000 + 16 * v.val + 12 < 0x1000 := by omega
  have hhigh : 0x2000 ≤ 0x2000 + 16 * v.val + 12 ∧ 0x2000 + 16 * v.val + 12 < 0x2800 := by omega
  have hword : (0x2000 + 16 * v.val + 12 - 0x2000) / 4 % 4 = 3 ∧ (0x2000 + 16 * v.val + 12 - 0x2000) / 4 / 4 = v.val := by omega
  simp only [State.writeBar2, State.writeMsix, hlow, hhigh, hword, decide_false, decide_true, Bool.false_and, Bool.and_self, Bool.false_eq_true,
    if_false, if_true]

theorem State.hostIdxWord_completion (s : State) (n : Nat) (v : Word) (h : s.ringType n = 2) :
    s.hostIdxWord n v = s.hostIdxWrite n (v.toNat % 65536) [] false := by
  simp only [State.hostIdxWord, h]
  rfl

/-- A host index written as a word posts descriptors whose words are free values (log 107). -/
theorem State.hostIdxWord_posts (s : State) (n : Nat) (v : Word) : ∃ (ds : List (List Word)) (t : State), t = { s with free := t.free } ∧
    s.hostIdxWord n v = t.hostIdxWrite n (v.toNat % 65536) ds false :=
  ⟨_, (s.freeWords (4 * if [1, 2, 4].contains (s.ringType n) then 0 else idxDist (s.ringSize n) (s.ring n).hostIdx (v.toNat % 65536))).2, rfl, rfl⟩

theorem State.sendPending_of_clear (s : State) {v : Nat} (h : s.hif.pba.getLsbD v = false) : s.sendPending v = s := by
  simp only [State.sendPending, h, Bool.false_and, Bool.false_eq_true, if_false]

theorem State.foldl_sendPending_of_pba_zero (s : State) (l : List Nat) (h : s.hif.pba = 0) : l.foldl State.sendPending s = s := by
  induction l with
  | nil => rfl
  | cons u l ih => rw [List.foldl_cons, s.sendPending_of_clear (by rw [h]; exact BitVec.getLsbD_zero), ih]

theorem vectorBit_getLsbD (v : Fin 128) (u : Nat) : ((1 : BitVec 128) <<< v.val).getLsbD u = decide (u = v.val) := by
  rw [BitVec.getLsbD_shiftLeft, BitVec.ofNat_eq_ofNat, BitVec.getLsbD_one, Bool.eq_iff_iff]
  simp only [Bool.and_eq_true, decide_eq_true_eq, Bool.not_eq_true', decide_eq_false_iff_not]
  omega

/-- The one message that is held, under no mask, is sent (R407). -/
theorem State.sendPending_of_one (s : State) (v : Fin 128) (hpba : s.hif.pba = (1 : BitVec 128) <<< v.val) (hmask : s.hif.masked = 0)
    (hfun : s.functionMasked = false) : s.sendPending v.val = (s.onHif fun h => { h with pba := 0 }).inc Reg.hifIntrCnt := by
  have hset : s.hif.pba.getLsbD v.val = true := by rw [hpba, vectorBit_getLsbD, decide_eq_true rfl]
  have hopen : s.hif.masked.getLsbD v.val = false := by rw [hmask]; exact BitVec.getLsbD_zero
  have hcleared : s.hif.pba &&& ~~~((1 : BitVec 128) <<< v.val) = 0 := by rw [hpba]; exact BitVec.and_not_self _
  simp only [State.sendPending, hset, hopen, hfun, State.onHif, hcleared]
  rfl

theorem State.foldl_sendPending_of_one (s : State) (v : Fin 128) {l : List Nat} (hv : v.val ∈ l) (hpba : s.hif.pba = (1 : BitVec 128) <<< v.val)
    (hmask : s.hif.masked = 0) (hfun : s.functionMasked = false) :
    l.foldl State.sendPending s = (s.onHif fun h => { h with pba := 0 }).inc Reg.hifIntrCnt := by
  induction l with
  | nil => cases hv
  | cons u l ih =>
    rw [List.foldl_cons]
    by_cases huv : u = v.val
    · rw [huv, s.sendPending_of_one v hpba hmask hfun, State.foldl_sendPending_of_pba_zero _ _ (by rw [State.inc_regs_only]; rfl)]
    · have hclear : s.hif.pba.getLsbD u = false := by rw [hpba, vectorBit_getLsbD]; exact decide_eq_false huv
      rw [s.sendPending_of_clear hclear, ih ((List.mem_cons.1 hv).resolve_left (Ne.symm huv))]

/-! ### Configuration space (R390, R407) -/

theorem wordLe_leBytes (w : Word) : wordLe (leBytes w) = w := by
  apply BitVec.eq_of_toNat_eq
  have := w.isLt
  simp only [wordLe, leBytes, byteOf, ofLe, ofBe, w32, List.take, List.reverse_cons, List.reverse_nil, List.nil_append, List.cons_append, List.foldl_cons,
    List.foldl_nil, BitVec.toNat_setWidth, BitVec.toNat_ushiftRight, BitVec.toNat_ofNat, Nat.shiftRight_eq_div_pow]
  omega

theorem State.writeConfig_of_pba_zero (s : State) (off : Nat) (v : Word) (h : s.hif.pba = 0) :
    s.writeConfig off v = { s with hif := { s.hif with config := (s.writeConfig off v).hif.config } } := by
  unfold State.writeConfig
  split
  next => rfl
  next r _ =>
    dsimp only
    rw [State.foldl_sendPending_of_pba_zero _ _ (by rw [State.onHif_hif]; exact h), ite_self]
    rfl

theorem State.configWrite_of_pba_zero (s : State) (off width : Nat) (d : DWord) (h : s.hif.pba = 0) :
    s.configWrite off width d = { s with hif := { s.hif with config := (s.configWrite off width d).hif.config } } := by
  unfold State.configWrite
  dsimp only
  split
  next => rfl
  next => exact s.writeConfig_of_pba_zero _ _ h

theorem State.configWrite_word (s : State) {off : Nat} (d : DWord) (h4 : off % 4 = 0) : s.configWrite off 4 d = s.writeConfig off (lo32 d) := by
  have hbytes : ∀ w : Word, ([] ++ (leBytes (lo32 d)).take 4 ++ (leBytes w).drop 4) = leBytes (lo32 d) := fun _ => rfl
  simp only [State.configWrite, h4, Nat.sub_zero, Nat.zero_add, Nat.lt_irrefl, if_false, List.take_zero, hbytes, wordLe_leBytes]

/-- What a write of the MSI-X capability's first word stores (R390). -/
def State.withMsixControl (s : State) (v : Word) : State :=
  let w : Word := (v &&& 0xC0000000) ||| (0x007F0011 &&& ~~~0xC0000000)
  s.onHif fun h => { h with config := if w = 0x007F0011 then mapDel h.config 0x80 else mapSet h.config 0x80 w }

theorem State.writeConfig_msixCapability (s : State) (v : Word) : s.writeConfig 0x80 v =
    if s.functionMasked && !(s.withMsixControl v).functionMasked then (List.range 128).foldl State.sendPending (s.withMsixControl v)
    else s.withMsixControl v := rfl

theorem State.functionMasked_withMsixControl (s : State) (v : Word) : (s.withMsixControl v).functionMasked = flag v 30 := by
  unfold State.withMsixControl State.functionMasked
  dsimp only [State.onHif_hif]
  split
  next hw =>
    rw [mapGet_mapDel_self]
    have := congrArg (fun x : Word => x.getLsbD 30) hw
    simpa [flag] using this.symm
  next =>
    rw [mapGet_mapSet_self]
    simp [flag]

/-- A write of the MSI-X capability that clears the Function Mask sends the one message that is held (R407). -/
theorem State.writeConfig_unmasks (s : State) (v : Fin 128) {w : Word} (hfun : s.functionMasked = true) (hclear : flag w 30 = false)
    (hpba : s.hif.pba = (1 : BitVec 128) <<< v.val) (hmask : s.hif.masked = 0) :
    s.writeConfig 0x80 w = ((s.withMsixControl w).onHif fun h => { h with pba := 0 }).inc Reg.hifIntrCnt := by
  have hopen : (s.withMsixControl w).functionMasked = false := (s.functionMasked_withMsixControl w).trans hclear
  rw [State.writeConfig_msixCapability, hfun, hopen, if_pos (by rfl),
    State.foldl_sendPending_of_one (s.withMsixControl w) v (List.mem_range.2 v.isLt) hpba hmask hopen]

/-! ### Register writes -/

/-- Settles O23: by access code (`State.writeReg`), then register by register through `State.actWrite`, and by the spaces of BAR2 and configuration. -/
theorem registerWritesFollowAccessCodes : Obligations.RegisterWritesFollowAccessCodes := by
  refine ⟨fun off d s r hup h4 hr => ⟨fun hacc hplain hgrid => ?stores, fun hw1c => ?clears, fun hro => ?ignores⟩, fun off d s hgrid hoff => ?gridRuns,
    fun d s => ?commands, fun off d s x r hup hr hs hx => ?acts, fun off d s hup h4 => ⟨fun hnone => ?noRegister, ?dword⟩,
    fun b off w d s hup hb hbad => ?badAccess, fun n d s hup => ⟨fun hcq => ?consumes, fun _ => ?posts⟩, fun v s hup => ?vector,
    fun off w d s hup hpba => ?config, fun v d s hup hfun hclear hpba hmask => ?unmasks, fun b off w d s hup => ?down⟩
  case stores =>
    have hrow : (regRow off.toNat).map RegRow.acc = some r.acc := by rw [hr]; rfl
    rw [exec_registerWrite_of_writable rfl h4 d hup (by simpa only [hrow, Option.some.injEq] using hacc), s.actWrite_plain _ hplain hgrid,
      s.store_eq_setReg _ hr]
  case clears =>
    rw [exec_registerWrite_bar0 rfl h4, s.hostWrite_of_hostUp _ _ hup, s.writeReg_of_w1c _ (by rw [hr, ← hw1c]; rfl)]
  case ignores =>
    have hrow : (regRow off.toNat).map RegRow.acc = some r.acc := by rw [hr]; rfl
    rw [exec_registerWrite_bar0 rfl h4, s.hostWrite_of_hostUp _ _ hup, s.writeReg_of_readOnly _ (by simpa only [hrow, Option.some.injEq] using hro)]
  case gridRuns =>
    rcases hoff with ho | ho
    · rw [exec_registerWrite_bar0 ho (by decide), s.hostWrite_tck_of_gridOn _ (by decide) (by decide) (by decide) hgrid]
    · rw [exec_registerWrite_bar0 ho (by decide), s.hostWrite_tck_of_gridOn _ (by decide) (by decide) (by decide) hgrid]
  case commands =>
    refine ⟨exec_registerWrite_eq_command (by decide) rfl, exec_registerWrite_eq_command (by decide) (exec_startGo_eq_hostWrite s), ?noStart,
      exec_registerWrite_eq_command (by decide) rfl, exec_registerWrite_eq_command (by decide) rfl,
      exec_registerWrite_eq_command (by decide) (exec_dormantRequest_eq_hostWrite s _), exec_registerWrite_eq_command (by decide) rfl,
      exec_registerWrite_eq_command (by decide) rfl, fun l => exec_registerWrite_eq_command (by decide) ?level,
      fun g o => exec_registerWrite_eq_command (by decide) ?sluice, fun n => exec_registerWrite_eq_command (by dsimp only [Reg.bsnOutRing]; omega) rfl,
      fun n => exec_registerWrite_eq_command ?region rfl,
      fun n => exec_registerWrite_eq_command (by dsimp only [Reg.nrgPtCfg]; omega) (exec_pointEnable_eq_hostWrite s n _),
      fun n => exec_registerWrite_eq_command (by dsimp only [Reg.lmuChCtl]; omega) (exec_channelEnable_eq_hostWrite s n _),
      fun n => ⟨exec_registerWrite_eq_command (by dsimp only [Reg.hifRingCtl]; omega) (exec_ringEnable_eq_hostWrite s n),
        exec_registerWrite_eq_command (by dsimp only [Reg.hifRingCtl]; omega) (exec_ringDisable_eq_hostWrite s n)⟩,
      fun n => ⟨exec_registerWrite_eq_command (by dsimp only [Reg.prtCtl]; omega) (exec_portEnable_eq_hostWrite s n),
        exec_registerWrite_eq_command (by dsimp only [Reg.prtCtl]; omega) (exec_portDisable_eq_hostWrite s n)⟩⟩
    case noStart => exact (exec_registerWrite_bar0 rfl (by decide) 0 s).trans (congrArg _ s.hostWrite_sysStart_zero)
    case level =>
      have hl : lo32 (l.setWidth 64) = l.setWidth 32 := BitVec.setWidth_setWidth_of_le _ (by decide)
      rw [hl]
      rfl
    case sluice =>
      obtain ⟨hg, ho⟩ := sluiceWord_fields g o
      exact exec_sluiceRequest_eq_hostWrite s g o _ hg ho
    case region =>
      have hoff : ∀ n : Fin 10, regionReg n.val < 0x1000000 ∧ regionReg n.val % 4 = 0 := by decide
      exact hoff n
  case acts =>
    rw [← s.store_eq_setReg _ hr] at hx
    have hw {o : Nat} (ho : off.toNat = o) (h4 : o % 4 = 0) (hacc : (regRow o).map RegRow.acc = some .rw ∨ (regRow o).map RegRow.acc = some .rws) :
        exec (.registerWrite ⟨.bar0, off⟩ 4 d) s = .next (s.actWrite o (lo32 d)) ∧ x = s.store o (lo32 d) :=
      ⟨exec_registerWrite_of_writable ho h4 d hup (hacc.imp_right fun h => ⟨h, hs⟩), ho ▸ hx⟩
    refine ⟨fun n ho => ?mod, fun n ho htpl => ?port, fun ho => ?pair, fun n ho hv => ?pulse, fun n ho hv hon => ?estimator, fun ho hv => ?tracking,
      fun ho hm => ?capture, fun ho => ?archive, fun ho hg => ?time, fun ho => ?lock, fun ho hg => ?greaz, fun ho ha => ?ceil⟩
    case mod =>
      obtain ⟨he, rfl⟩ := hw ho (by dsimp only [Reg.hifRingMod]; omega) (.inl (regAcc_hifRingMod n))
      rw [he, s.actWrite_hifRingMod]
    case port =>
      obtain ⟨he, rfl⟩ := hw ho (by dsimp only [Reg.prtCfg]; omega) (.inr (regAcc_prtCfg n))
      rw [he, s.actWrite_prtCfg, s.writePrtCfg_of_no_template _ _ htpl]
    case pair =>
      obtain ⟨he, rfl⟩ := hw ho (by decide) (by decide)
      rw [he, s.actWrite_prtPairCfg]
    case pulse =>
      obtain ⟨he, rfl⟩ := hw ho (by dsimp only [Reg.nrgPlsCfg]; omega) (.inr (regAcc_nrgPlsCfg n))
      rw [he, s.actWrite_nrgPlsCfg, s.writePulse_off _ _ hv, ho]
    case estimator =>
      obtain ⟨he, rfl⟩ := hw ho (by dsimp only [Reg.lmuPtCfg]; omega) (.inr (regAcc_lmuPtCfg n))
      rw [he, s.actWrite_lmuPtCfg, s.writeEstimator_of_on _ _ hv hon]
    case tracking =>
      obtain ⟨he, rfl⟩ := hw ho (by decide) (by decide)
      rw [he, s.actWrite_lmuTrk_on _ hv]
    case capture =>
      obtain ⟨he, rfl⟩ := hw ho (by decide) (by decide)
      rw [he, s.actWrite_capCfg, s.writeCapCfg_of_master_eq _ hm]
    case archive =>
      obtain ⟨he, rfl⟩ := hw ho (by decide) (by decide)
      rw [he, ho, s.actWrite_arcCfg, s.writeArcCfg_eq]
    case time =>
      rcases ho with ho | ho
      · obtain ⟨he, rfl⟩ := hw ho (by decide) (by decide)
        rw [he, s.actWrite_timCfg, s.writeTim_of_no_gnss _ _ hg]
      · obtain ⟨he, rfl⟩ := hw ho (by decide) (by decide)
        rw [he, s.actWrite_timPrio, s.writeTim_of_no_gnss _ _ hg]
    case lock =>
      obtain ⟨he, rfl⟩ := hw ho (by decide) (by decide)
      rw [he, s.actWrite_timLock]
    case greaz =>
      obtain ⟨he, rfl⟩ := hw ho (by decide) (by decide)
      rw [he, s.actWrite_gzlCfg, s.writeGzlCfg_of_on_eq _ hg]
    case ceil =>
      obtain ⟨he, rfl⟩ := hw ho (by decide) (by decide)
      rw [he, s.actWrite_pwrDvfsCfg, s.writeCeil_of_no_image _ ha]
  case noRegister => rw [exec_registerWrite_bar0 rfl h4, s.hostWrite_of_hostUp _ _ hup, s.writeReg_of_none _ hnone]
  case dword => exact congrArg Host.Outcome.next (s.barWrite_bar0_dword d hup h4)
  case badAccess => exact congrArg Host.Outcome.next (s.barWrite_of_bad_access d hup hb hbad)
  case consumes =>
    rw [exec_registerWrite_bar2 (by omega) (by omega) d hup, s.writeBar2_doorbell, s.hostIdxWord_completion _ _ hcq]
    exact congrArg Host.Outcome.next (if_pos hup).symm
  case posts =>
    obtain ⟨ds, t, ht, hposts⟩ := s.hostIdxWord_posts n.val (lo32 d)
    have htup : t.hostUp = true := by rw [ht]; exact hup
    refine ⟨ds, t, ht, ?_⟩
    rw [exec_registerWrite_bar2 (by omega) (by omega) d hup, s.writeBar2_doorbell, hposts]
    exact congrArg Host.Outcome.next (if_pos htup).symm
  case vector =>
    rw [exec_registerWrite_bar2 (by omega) (by omega) 1 hup, exec_registerWrite_bar2 (by omega) (by omega) 0 hup, s.writeBar2_vectorControl,
      s.writeBar2_vectorControl]
    exact ⟨rfl, congrArg Host.Outcome.next (if_pos hup).symm⟩
  case config =>
    exact congrArg Host.Outcome.next ((s.barWrite_config _ w d hup).trans (s.configWrite_of_pba_zero _ w d hpba))
  case unmasks =>
    refine ⟨((s.withMsixControl (lo32 d)).onHif fun h => { h with pba := 0 }).inc Reg.hifIntrCnt, ?_, ?_, ?_, State.reg_inc_self _ _,
      fun o ho => State.reg_inc_ne _ ho, State.inc_regs_only _ _⟩
    · exact congrArg Host.Outcome.next ((s.barWrite_config _ 4 d hup).trans
        ((s.configWrite_word d (by decide)).trans (s.writeConfig_unmasks v hfun hclear hpba hmask)))
    · rw [State.inc_regs_only]
      exact (s.functionMasked_withMsixControl _).trans hclear
    · rw [State.inc_regs_only]
      rfl
  case down => exact exec_registerWrite_of_host_down ⟨b, off⟩ w d hup

end Sys2Proof.Machine
end

section
/-! PROOFS. Work that waits for slack: the order of its places, nothing of it outside slack, and what each piece of it does in its turn (R26, Table SYS-14). -/
namespace Sys2Proof.Machine

/-! ### The places of R26 -/

theorem State.slackAt_three_iff (s : State) :
    s.slackAt 3 = true ↔ s.slackOpen = true ∧ s.returnDue = false ∧ s.sluiceDue = false := by
  simp [State.slackAt, and_assoc]

theorem State.slackAt_four_iff (s : State) : s.slackAt 4 = true ↔ s.slackAt 3 = true ∧ s.dvfsDue = false := by simp [State.slackAt]

theorem State.slackAt_five_iff (s : State) : s.slackAt 5 = true ↔ s.slackAt 4 = true ∧ s.pitchDue = false := by simp [State.slackAt]

theorem State.slackAt_six_iff (s : State) : s.slackAt 6 = true ↔ s.slackAt 5 = true ∧ s.storeDue = false := by simp [State.slackAt]

theorem State.slackAt_of_not_slack {s : State} (h : s.slack = false) (place : Nat) : s.slackAt place = false := by
  simp only [State.slackAt, State.slackOpen, h, Bool.false_and]

/-! ### What does nothing while its turn has not come -/

section
variable {s : State}

theorem exec_clockReturn_of_not_slack (h : s.slack = false) : exec .clockReturn s = .next s := by
  change execClockReturn s = _
  simp only [execClockReturn, h, Bool.false_and, Bool.false_eq_true, if_false]

theorem exec_sluiceChange_of_not_slack (q : Bool) (h : s.slack = false) : exec (.sluiceChange q) s = .next s := by
  change execSluiceChange q s = _
  unfold execSluiceChange
  cases s.clk.sluice with
  | none => rfl
  | some r => simp only [h, Bool.not_false, Bool.true_or, if_true]

theorem exec_dvfsStep_of_not_due (h : (s.slackAt 3 && s.levelSet && !(s.gridOn && s.pwr.retryWaits)) = false) : exec .dvfsStep s = .next s :=
  if_neg (ne_true_of_eq_false h)

theorem exec_loading_of_not_slackAt (e : Bool) (h : s.slackAt 4 = false) : exec (.loading e) s = .next s := by
  change execLoading e s = _
  unfold execLoading
  cases s.sch.pitch with
  | none => rfl
  | some p => simp only [h, Bool.and_false, Bool.false_and, Bool.false_eq_true, if_false]

theorem exec_verifying_of_not_slackAt (e : Bool) (h : s.slackAt 4 = false) : exec (.verifying e) s = .next s := by
  change execVerifying e s = _
  unfold execVerifying
  cases s.sch.pitch with
  | none => rfl
  | some p => simp only [h, Bool.and_false, Bool.false_eq_true, if_false]

theorem exec_tickIdStore_of_not_slackAt (h : s.slackAt 5 = false) : exec .tickIdStore s = .next s := by
  change execTickIdStore s = _
  simp only [execTickIdStore, h, Bool.false_and, Bool.false_eq_true, if_false]

theorem exec_timeStep_of_not_slack (h : s.slack = false) : exec .timeStep s = .next s := by
  change execTimeStep s = _
  unfold execTimeStep
  cases s.tim.pendingStep with
  | none => rfl
  | some p => simp only [h, Bool.false_and, Bool.false_eq_true, if_false]

/-- The commands of the last place of R26, behind the tick ID store (log 66). -/
def LastInSlack (c : Instr) : Prop :=
  (∃ n errs, c = .scrub n errs) ∨ (∃ f r, c = .fircCalibration f r) ∨ (∃ ts vs, c = .telemetrySample ts vs) ∨ (∃ u, c = .recorderHousekeeping u) ∨
    ∃ n, c = .offsetTracking n

theorem exec_of_lastInSlack {c : Instr} (hc : LastInSlack c) (h : s.slackAt 6 = false) : exec c s = .next s := by
  obtain ⟨n, errs, rfl⟩ | ⟨f, r, rfl⟩ | ⟨ts, vs, rfl⟩ | ⟨u, rfl⟩ | ⟨n, rfl⟩ := hc
  · change execScrub n errs s = _
    simp only [execScrub, h, Bool.not_false, Bool.true_or, if_true]
  · change execFircCalibration f r s = _
    simp only [execFircCalibration, h, Bool.not_false, Bool.true_or, if_true]
  · change execTelemetrySample ts vs s = _
    simp only [execTelemetrySample, h, Bool.not_false, Bool.true_or, if_true]
  · change execRecorderHousekeeping u s = _
    simp only [execRecorderHousekeeping, h, Bool.not_false, Bool.true_or, if_true]
  · change execOffsetTracking n s = _
    unfold execOffsetTracking
    cases (s.lmuCh n.val).mean with
    | none => rfl
    | some m => simp only [h, Bool.not_false, Bool.true_or, if_true]

end

/-- Settles O51: outside slack no place of R26 is open. -/
theorem slackWorkWaitsForSlack : Obligations.SlackWorkWaitsForSlack := by
  intro s c h hc
  have hclosed := State.slackAt_of_not_slack h
  obtain rfl | ⟨q, rfl⟩ | rfl | hlast | hlast | hlast | hlast | hlast | rfl | ⟨e, rfl⟩ | ⟨e, rfl⟩ | rfl := hc
  · exact exec_clockReturn_of_not_slack h
  · exact exec_sluiceChange_of_not_slack q h
  · exact exec_dvfsStep_of_not_due (by rw [hclosed 3, Bool.false_and, Bool.false_and])
  · exact exec_of_lastInSlack (.inl hlast) (hclosed 6)
  · exact exec_of_lastInSlack (.inr (.inl hlast)) (hclosed 6)
  · exact exec_of_lastInSlack (.inr (.inr (.inl hlast))) (hclosed 6)
  · exact exec_of_lastInSlack (.inr (.inr (.inr (.inl hlast)))) (hclosed 6)
  · exact exec_of_lastInSlack (.inr (.inr (.inr (.inr hlast)))) (hclosed 6)
  · exact exec_tickIdStore_of_not_slackAt (hclosed 5)
  · exact exec_loading_of_not_slackAt e (hclosed 4)
  · exact exec_verifying_of_not_slackAt e (hclosed 4)
  · exact exec_timeStep_of_not_slack h

/-! ### Where only registers change -/

/-- From s to t only registers change. -/
def RegsOnly (s t : State) : Prop := t = { s with regs := t.regs }

theorem RegsOnly.trans {s t u : State} (h : RegsOnly s t) (g : RegsOnly t u) : RegsOnly s u := by
  unfold RegsOnly at *
  rw [g, h]

theorem State.setReg_regsOnly (s : State) (off : Nat) (v : Word) : RegsOnly s (s.setReg off v) := s.setReg_regs_only off v

theorem State.inc_regsOnly (s : State) (off : Nat) : RegsOnly s (s.inc off) := s.inc_regs_only off

/-! ### What each piece of work does in its turn -/

section
variable {s : State}

theorem exec_clockReturn_of_due (hs : s.slack = true) (ha : s.awake = true) (hr : s.returnDue = true) :
    exec .clockReturn s = .next ((s.drive 0 .pllc).drive 1 .pllc) := by
  change execClockReturn s = _
  simp only [execClockReturn, hs, ha, hr, Bool.and_self, if_true]

theorem exec_sluiceChange_of_due {g : Nat} {o : Bool} (q : Bool) (hg : s.clk.sluice = some (g, o)) (hs : s.slack = true) (ha : s.awake = true)
    (hr : s.returnDue = false) (hd : s.sluiceDue = true) :
    exec (.sluiceChange q) s = .next (if s.sluiceResult g o q = sluiceDone
      then (s.onClk fun c => { c with sluice := none, sluiceResult := s.sluiceResult g o q }).setGate g o
      else s.onClk fun c => { c with sluice := none, sluiceResult := s.sluiceResult g o q }) := by
  change execSluiceChange q s = _
  simp only [execSluiceChange, hg, hs, ha, hr, hd, Bool.not_true, Bool.or_self, Bool.false_eq_true, if_false]

theorem exec_dvfsStep_of_due (h3 : s.slackAt 3 = true) (hl : s.levelSet = true) (hw : s.gridOn = false ∨ s.pwr.retryWaits = false) :
    exec .dvfsStep s = .next s.dvfsStep := by
  have hretry : (s.gridOn && s.pwr.retryWaits) = false := Bool.and_eq_false_iff.2 hw
  change execDvfsStep s = _
  simp only [execDvfsStep, h3, hl, hretry, Bool.and_self, Bool.not_false, if_true]

/-! ### Scrubbing (R27) -/

theorem exec_scrub_of_no_room (n : Nat) (errs : List MemErr) (h : s.scrubRoom = 0) : exec (.scrub n errs) s = .next s := by
  change execScrub n errs s = _
  simp only [execScrub, h, decide_true, Bool.or_true, if_true]

theorem exec_scrub_within_pass (n : Nat) (h6 : s.slackAt 6 = true) (hr : s.scrubRoom ≠ 0)
    (hlt : s.sys.scrubLine + min n s.scrubRoom < 1048576) : exec (.scrub n []) s = .next
      { s with sys := { s.sys with scrubLine := s.sys.scrubLine + min n s.scrubRoom, scrubDone := s.sys.scrubDone + min n s.scrubRoom } } := by
  change execScrub n [] s = _
  simp only [execScrub, h6, hr, hlt, decide_false, Bool.not_true, Bool.or_self, Bool.false_eq_true, if_false, if_true]
  rfl

theorem State.reg_onSys (s : State) (g : Sys → Sys) (o : Nat) : (s.onSys g).reg o = s.reg o := rfl

/-- The state after a pass of the scrubber that ends n lines on. -/
def State.passScrubbed (s : State) (n : Nat) : State :=
  (((s.onSys fun y => { y with scrubDone := y.scrubDone + n }).setReg Reg.sysScrubPeriodMs (w32 ((s.tim.mono - s.sys.scrubAt) / 1000000))).inc
    Reg.sysScrubCnt).onSys fun y => { y with scrubLine := s.sys.scrubLine + n - 1048576, scrubAt := s.tim.mono }

theorem exec_scrub_ends_pass (n : Nat) (h6 : s.slackAt 6 = true) (hr : s.scrubRoom ≠ 0)
    (hge : 1048576 ≤ s.sys.scrubLine + min n s.scrubRoom) : exec (.scrub n []) s = .next (s.passScrubbed (min n s.scrubRoom)) := by
  change execScrub n [] s = _
  simp only [execScrub, h6, hr, Nat.not_lt.2 hge, decide_false, Bool.not_true, Bool.or_self, Bool.false_eq_true, if_false]
  rfl

theorem State.passScrubbed_period (s : State) (n : Nat) :
    (s.passScrubbed n).reg Reg.sysScrubPeriodMs = w32 ((s.tim.mono - s.sys.scrubAt) / 1000000) := by
  unfold State.passScrubbed
  rw [State.reg_onSys, State.reg_inc_ne _ (by decide), State.reg_setReg_self]

theorem State.passScrubbed_count (s : State) (n : Nat) : (s.passScrubbed n).reg Reg.sysScrubCnt = s.reg Reg.sysScrubCnt + 1 := by
  unfold State.passScrubbed
  rw [State.reg_onSys, State.reg_inc_self, State.reg_setReg_ne _ _ (by decide), State.reg_onSys]

theorem State.passScrubbed_reg_ne (s : State) (n : Nat) {o : Nat} (hp : o ≠ Reg.sysScrubPeriodMs) (hc : o ≠ Reg.sysScrubCnt) :
    (s.passScrubbed n).reg o = s.reg o := by
  unfold State.passScrubbed
  rw [State.reg_onSys, State.reg_inc_ne _ hc, State.reg_setReg_ne _ _ hp, State.reg_onSys]

theorem State.passScrubbed_frame (s : State) (n : Nat) : s.passScrubbed n = { s with regs := (s.passScrubbed n).regs, sys := { s.sys with
    scrubLine := s.sys.scrubLine + n - 1048576, scrubDone := s.sys.scrubDone + n, scrubAt := s.tim.mono } } := by
  unfold State.passScrubbed
  rw [State.inc_regs_only]
  rfl

/-! ### Calibration (R506) -/

/-- A count over 2^20 cycles of XTA as a frequency in Hz, rounded to nearest. -/
def calHz (count : Nat) : Nat := (count * 25000000 + 524288) / 1048576

/-- The state after a calibration with these counts of FIRC and SIRC. -/
def State.calibrated (s : State) (f r : Nat) : State :=
  ((((s.rtcMark.onClk fun c => { c with calSec := some s.nowSec }).setReg Reg.clkFircHz (w32 (calHz f))).setReg Reg.clkSircHz
    (w32 (calHz r))).setReg Reg.clkFircTrim (w32 (trimmed (s.reg Reg.clkFircTrim).toNat (calHz f)))).inc Reg.clkCalCnt

theorem exec_fircCalibration_of_due (f r : Nat) (h6 : s.slackAt 6 = true) (hx : s.qualified .xta = true) (hc : s.clk.calSec ≠ some s.nowSec) :
    exec (.fircCalibration f r) s = .next (s.calibrated f r) := by
  change execFircCalibration f r s = _
  simp only [execFircCalibration, h6, hx, hc, decide_false, Bool.not_true, Bool.or_self, Bool.false_eq_true, if_false]
  rfl

/-- The RTC's mark changes the always-on domain only. -/
theorem State.onClk_rtcMark (s : State) (g : Clk → Clk) : s.rtcMark.onClk g = { s with aon := s.rtcMark.aon, clk := g s.clk } := by
  unfold State.rtcMark
  split <;> rfl

theorem State.reg_onClk_rtcMark (s : State) (g : Clk → Clk) (o : Nat) : (s.rtcMark.onClk g).reg o = s.reg o := by
  rw [State.onClk_rtcMark]
  rfl

theorem State.calibrated_fircHz (s : State) (f r : Nat) : (s.calibrated f r).reg Reg.clkFircHz = w32 (calHz f) := by
  unfold State.calibrated
  rw [State.reg_inc_ne _ (by decide), State.reg_setReg_ne _ _ (by decide), State.reg_setReg_ne _ _ (by decide), State.reg_setReg_self]

theorem State.calibrated_sircHz (s : State) (f r : Nat) : (s.calibrated f r).reg Reg.clkSircHz = w32 (calHz r) := by
  unfold State.calibrated
  rw [State.reg_inc_ne _ (by decide), State.reg_setReg_ne _ _ (by decide), State.reg_setReg_self]

theorem State.calibrated_count (s : State) (f r : Nat) : (s.calibrated f r).reg Reg.clkCalCnt = s.reg Reg.clkCalCnt + 1 := by
  unfold State.calibrated
  rw [State.reg_inc_self, State.reg_setReg_ne _ _ (by decide), State.reg_setReg_ne _ _ (by decide), State.reg_setReg_ne _ _ (by decide),
    State.reg_onClk_rtcMark]

theorem State.calibrated_reg_ne (s : State) (f r : Nat) {o : Nat} (hf : o ≠ Reg.clkFircHz) (hs : o ≠ Reg.clkSircHz) (ht : o ≠ Reg.clkFircTrim)
    (hc : o ≠ Reg.clkCalCnt) : (s.calibrated f r).reg o = s.reg o := by
  unfold State.calibrated
  rw [State.reg_inc_ne _ hc, State.reg_setReg_ne _ _ ht, State.reg_setReg_ne _ _ hs, State.reg_setReg_ne _ _ hf, State.reg_onClk_rtcMark]

theorem State.calibrated_frame (s : State) (f r : Nat) : s.calibrated f r =
    { s with regs := (s.calibrated f r).regs, aon := s.rtcMark.aon, clk := { s.clk with calSec := some s.nowSec } } := by
  have hregs : RegsOnly (s.rtcMark.onClk fun c => { c with calSec := some s.nowSec }) (s.calibrated f r) :=
    (((State.setReg_regsOnly _ _ _).trans (State.setReg_regsOnly _ _ _)).trans (State.setReg_regsOnly _ _ _)).trans (State.inc_regsOnly _ _)
  rw [State.onClk_rtcMark] at hregs
  exact hregs

/-! ### Telemetry and recorder housekeeping (R461, R519) -/

theorem exec_telemetrySample_of_due (ts vs : List (BitVec 16)) (h6 : s.slackAt 6 = true) (hg : s.gridOn = true) (hn : s.pwr.sampled = false) :
    exec (.telemetrySample ts vs) s = .next
      ((s.sampleTaken ts vs).onPwr fun p => { p with sampled := true, sampledAt := some s.tim.mono }) := by
  change execTelemetrySample ts vs s = _
  simp only [execTelemetrySample, h6, hg, hn, Bool.not_true, Bool.and_false, Bool.or_self, Bool.false_eq_true, if_false, if_true]

theorem exec_telemetrySample_of_sampled (ts vs : List (BitVec 16)) (hg : s.gridOn = true) (hn : s.pwr.sampled = true) :
    exec (.telemetrySample ts vs) s = .next s := by
  change execTelemetrySample ts vs s = _
  simp only [execTelemetrySample, hg, hn, Bool.and_self, Bool.or_true, if_true]

theorem exec_recorderHousekeeping_of_due (h6 : s.slackAt 6 = true) (hstep : 6 ≤ s.sys.step) : exec (.recorderHousekeeping []) s = .next
    (State.checkRecords (min (64 - s.evr.checked) s.evrCount) s.evr.cursor
      (s.onEvr fun e => { e with checked := e.checked + min (64 - s.evr.checked) s.evrCount })) := by
  change execRecorderHousekeeping [] s = _
  simp only [execRecorderHousekeeping, h6, Nat.not_lt.2 hstep, decide_false, Bool.not_true, Bool.or_self, Bool.false_eq_true, if_false]
  rfl

/-- 64 records of a slack have been checked: the next check waits for another slack. -/
theorem exec_recorderHousekeeping_of_all_checked (h : 64 ≤ s.evr.checked) : exec (.recorderHousekeeping []) s = .next s := by
  have hnone : min (64 - s.evr.checked) s.evrCount = 0 := by omega
  cases h6 : s.slackAt 6 with
  | false => exact exec_of_lastInSlack (.inr (.inr (.inr (.inl ⟨[], rfl⟩)))) h6
  | true =>
    by_cases hstep : 6 ≤ s.sys.step
    · rw [exec_recorderHousekeeping_of_due h6 hstep, hnone]
      rfl
    · change execRecorderHousekeeping [] s = _
      simp only [execRecorderHousekeeping, Nat.not_le.1 hstep, decide_true, Bool.or_true, if_true]

end

/-- Settles O52, from what each command does in its turn and the order of the places. -/
theorem slackWorkIsDone : Obligations.SlackWorkIsDone := by
  refine ⟨?returns, ?sluice, ?level, ?levelWaits, ?order, ?last, ?scrub, ?scrubFull, ?pass, ?calibration, ?telemetry, ?sampled, ?records, ?checked⟩
  case returns => exact fun _ => exec_clockReturn_of_due
  case sluice => exact fun _ _ q _ => exec_sluiceChange_of_due q
  case level => exact fun _ => exec_dvfsStep_of_due
  case levelWaits =>
    rintro s (hl | ⟨hg, hw⟩)
    · exact exec_dvfsStep_of_not_due (by rw [hl, Bool.and_false, Bool.false_and])
    · exact exec_dvfsStep_of_not_due (by rw [hg, hw, Bool.and_self, Bool.not_true, Bool.and_false])
  case order => exact fun s => ⟨s.slackAt_three_iff.1, s.slackAt_four_iff.1, s.slackAt_five_iff.1, s.slackAt_six_iff.1⟩
  case last => exact fun _ _ h hc => exec_of_lastInSlack hc h
  case scrub => exact fun n _ => exec_scrub_within_pass n
  case scrubFull => exact fun n errs _ => exec_scrub_of_no_room n errs
  case pass =>
    intro n s h6 hr hge
    exact ⟨_, exec_scrub_ends_pass n h6 hr hge, s.passScrubbed_period _, s.passScrubbed_count _, fun _ => s.passScrubbed_reg_ne _,
      s.passScrubbed_frame _⟩
  case calibration =>
    intro f r s h6 hx hc
    exact ⟨_, exec_fircCalibration_of_due f r h6 hx hc, s.calibrated_fircHz f r, s.calibrated_sircHz f r, s.calibrated_count f r,
      fun _ => s.calibrated_reg_ne f r, s.calibrated_frame f r⟩
  case telemetry => exact fun ts vs _ => exec_telemetrySample_of_due ts vs
  case sampled => exact fun ts vs _ => exec_telemetrySample_of_sampled ts vs
  case records => exact fun _ => exec_recorderHousekeeping_of_due
  case checked => exact fun _ => exec_recorderHousekeeping_of_all_checked

end Sys2Proof.Machine
end

section
/-! PROOFS. Ports: link, received frames, the Basin writer's reads of the Flumes and host injection (chapter 04, R110, R126, R127). -/
namespace Sys2Proof.Machine

section
variable {s : State}

/-! ### Link (R32, R109) -/

theorem exec_portLinkUp_of_ready {n : Fin 4} (h : s.portReady n.val = true) : exec (.portLinkUp n) s = .next
    (s.onPort n.val fun p => { p with link := true, localFault := false, remoteFault := false, fecLock := decide (s.fec n.val ≠ 0) }) :=
  if_pos h

theorem exec_portLinkUp_of_not_ready {n : Fin 4} (h : s.portReady n.val = false) : exec (.portLinkUp n) s = .next s :=
  if_neg (ne_true_of_eq_false h)

/-- A port that sends no frame has none to abort. -/
theorem State.abortFrame_of_idle {n : Nat} (h : (s.port n).busyUntil ≤ s.tim.mono) : s.abortFrame n = s := if_neg (Nat.not_lt.2 h)

theorem State.linkLost_of_idle {n : Nat} (hl : (s.port n).link = true) (hb : (s.port n).busyUntil ≤ s.tim.mono) :
    s.linkLost n = ((s.dropQueue n).onPort n fun p => { p with link := false, fecLock := false }).inc (Reg.prtLinkDownCnt n) := by
  simp only [State.linkLost, State.portDown, State.abortFrame_of_idle hb, hl, Bool.not_true, Bool.false_eq_true, if_false]

theorem State.linkLost_of_down {n : Nat} (hl : (s.port n).link = false) : s.linkLost n = s := by
  simp only [State.linkLost, hl, Bool.not_false, if_true]

theorem exec_portLinkDown (n : Fin 4) (lf rf : Bool) (s : State) : exec (.portLinkDown ⟨n, lf, rf⟩) s = .next
    ((s.linkLost n.val).onPort n.val fun p => { p with localFault := lf, remoteFault := rf }) := rfl

/-! ### Received frames (R110) -/

/-- Whether a port belongs to the active pair rests on the modes of ports 0 and 1 and on that of the pair (R104). -/
theorem State.inPair_congr {t : State} (n : Nat) (hp : t.reg Reg.prtPairCfg = s.reg Reg.prtPairCfg)
    (h0 : t.reg (Reg.prtCfg 0) = s.reg (Reg.prtCfg 0)) (h1 : t.reg (Reg.prtCfg 1) = s.reg (Reg.prtCfg 1)) : t.inPair n = s.inPair n := by
  have hmode : t.pairMode = s.pairMode := by unfold State.pairMode State.regField; rw [hp]
  have hmatch : t.pairMatches = s.pairMatches := by unfold State.pairMatches State.speed State.fec State.regField; rw [h0, h1]
  unfold State.inPair State.pairActive
  rw [hmode, hmatch]

/-- The three counters of a port's received frames. -/
def rxCounters (n : Nat) : List Nat := [Reg.prtRxGoodCnt n, Reg.prtRxFcsCnt n, Reg.prtRxLenCnt n]

theorem rxCounters_ne_mode (n : Fin 4) : ∀ off ∈ rxCounters n.val, off ≠ Reg.prtPairCfg ∧ off ≠ Reg.prtCfg 0 ∧ off ≠ Reg.prtCfg 1 := by
  revert n
  decide

theorem State.inPair_inc_rxCounter (n : Fin 4) {off : Nat} (h : off ∈ rxCounters n.val) : (s.inc off).inPair n.val = s.inPair n.val := by
  obtain ⟨hp, h0, h1⟩ := rxCounters_ne_mode n off h
  exact State.inPair_congr n.val (State.reg_inc_ne s hp.symm) (State.reg_inc_ne s h0.symm) (State.reg_inc_ne s h1.symm)

theorem State.receiveOn_of_single {n : Nat} (h : s.inPair n = false) (f : RxFrame) (good : Bool) (errs : List MemErr) :
    s.receiveOn n f good errs = s.disposition n f.bytes f good errs := by
  simp only [State.receiveOn, h, Bool.not_false, if_true]

/-- A frame counted on a port of no pair goes to rows 4 to 10 as it is. -/
theorem State.receiveOn_inc_of_single {n : Fin 4} {off : Nat} (h : s.inPair n.val = false) (hoff : off ∈ rxCounters n.val) (f : RxFrame) (good : Bool)
    (errs : List MemErr) : (s.inc off).receiveOn n.val f good errs = (s.inc off).disposition n.val f.bytes f good errs :=
  State.receiveOn_of_single ((State.inPair_inc_rxCounter n hoff).trans h) f good errs

theorem State.le_frameLimit (s : State) (n : Nat) : 1522 ≤ s.frameLimit n := by
  unfold State.frameLimit
  split <;> omega

theorem exec_frameReceive_of_down {n : Fin 4} (f : RxFrame) (errs : List MemErr) (h : s.portUp n.val = false) :
    exec (.frameReceive n f errs) s = .next s := by
  change execFrameReceive n f errs s = _
  simp only [execFrameReceive, h, Bool.not_false, if_true]

/-- A frame of an accepted length counts by its FCS. -/
theorem exec_frameReceive_of_length_ok {n : Fin 4} {f : RxFrame} (errs : List MemErr) (hup : s.portUp n.val = true)
    (hpair : s.inPair n.val = false) (hmin : 64 ≤ f.bytes.length + 4) (hmax : f.bytes.length + 4 ≤ s.frameLimit n.val) :
    exec (.frameReceive n f errs) s = .next
      ((s.inc (if f.fcsOk then Reg.prtRxGoodCnt n.val else Reg.prtRxFcsCnt n.val)).disposition n.val f.bytes f f.fcsOk errs) := by
  change execFrameReceive n f errs s = _
  simp only [execFrameReceive, hup, Nat.not_lt.2 hmin, Nat.not_lt.2 hmax, decide_false, Bool.or_self, Bool.not_true, Bool.not_false,
    Bool.true_and, Bool.false_eq_true, if_false]
  cases f.fcsOk
  · exact congrArg _ (State.receiveOn_inc_of_single hpair (by simp [rxCounters]) f false errs)
  · exact congrArg _ (State.receiveOn_inc_of_single hpair (by simp [rxCounters]) f true errs)

theorem exec_frameReceive_of_short {n : Fin 4} {f : RxFrame} (errs : List MemErr) (hup : s.portUp n.val = true) (hpair : s.inPair n.val = false)
    (hlen : f.bytes.length + 4 < 64) :
    exec (.frameReceive n f errs) s = .next ((s.inc (Reg.prtRxLenCnt n.val)).disposition n.val f.bytes f false errs) := by
  have hmax : ¬s.frameLimit n.val < f.bytes.length + 4 := by have := s.le_frameLimit n.val; omega
  change execFrameReceive n f errs s = _
  simp only [execFrameReceive, hup, hlen, hmax, decide_true, Bool.true_or, Bool.not_true, Bool.false_and, Bool.false_eq_true, if_false, if_true]
  exact congrArg _ (State.receiveOn_inc_of_single hpair (by simp [rxCounters]) f false errs)

theorem exec_frameReceive_of_long {n : Fin 4} {f : RxFrame} (errs : List MemErr) (hup : s.portUp n.val = true) (hpair : s.inPair n.val = false)
    (hlen : s.frameLimit n.val < f.bytes.length + 4) :
    exec (.frameReceive n f errs) s = .next ((s.inc (Reg.prtRxLenCnt n.val)).disposition n.val
      (f.bytes.take (s.frameLimit n.val)) { f with bytes := f.bytes.take (s.frameLimit n.val) } false errs) := by
  change execFrameReceive n f errs s = _
  simp only [execFrameReceive, hup, hlen, decide_true, Bool.or_true, Bool.not_true, Bool.false_and, Bool.false_eq_true, if_false, if_true]
  exact congrArg _ (State.receiveOn_inc_of_single hpair (by simp [rxCounters]) _ false errs)

/-! ### The Basin writer (R127, R128) -/

theorem exec_basinWrite_mark {n k : Nat} {rest : List FlumeItem} (ha : s.awake = true) (hn : s.nextFlume = some n)
    (hi : (s.flume n).items = .mark k :: rest) :
    exec (.basinWrite []) s = .next (((s.takeItem n).add (Reg.flmMarkCnt n) k).onFlume n fun f => { f with gap := true }) := by
  change execBasinWrite [] s = _
  simp only [execBasinWrite, hn, ha, hi, List.head?_cons, Bool.not_true, Bool.false_eq_true, if_false]
  rfl

theorem exec_basinWrite_packet {n i : Nat} {bs : List Block} {rest : List FlumeItem} (ha : s.awake = true) (hn : s.nextFlume = some n)
    (hi : (s.flume n).items = .packet i bs :: rest) :
    exec (.basinWrite []) s = .next ((s.takeItem n).writePacket n i (bs.map fun b => { b with bad := [] }) (s.flume n).gap) := by
  change execBasinWrite [] s = _
  simp only [execBasinWrite, hn, ha, hi, List.head?_cons, Bool.not_true, Bool.false_eq_true, if_false]
  rfl

/-! ### Host injection (R126) -/

theorem exec_hostInjection_of_taken {n : Fin 64} {d : InjDesc} {errs : List MemErr} {r : CmdResult} (ha : s.awake = true) (hstep : 10 < s.sys.step)
    (ht : s.sys.tampered = false) (hw : (s.ring n.val).works = true) (htype : s.ringType n.val = 4)
    (hidx : (s.ring n.val).hostIdx ≠ (s.ring n.val).devIdx) (hcq : s.cqFree (s.ringCq n.val) = true) (hr : (s.inject d errs).2 = some r) :
    exec (.hostInjection n d errs) s = .next
      (((s.inject d errs).1.setRing n.val { (s.inject d errs).1.ring n.val with devIdx := idxNext (s.ringSize n.val) (s.ring n.val).devIdx }).post
        (s.ringCq n.val)
        { index := (s.ring n.val).devIdx, src := n.val, phase := false, tag := (wordAt d.words 0 >>> 16).setWidth 16, status := r.status, detail := 0,
          length := 0, result := [], data := [], addr := 0, time := 0 }) := by
  have htaken : s.inject d errs = ((s.inject d errs).1, some r) := Prod.ext rfl hr
  change execHostInjection n d errs s = _
  unfold execHostInjection
  rw [htaken]
  simp only [ha, hstep, ht, hw, htype, hidx, hcq, decide_true, Bool.not_false, Bool.and_self, Bool.not_true, Bool.false_eq_true, if_false, ne_eq,
    not_false_eq_true]

end

/-- Settles O46, by the length and the FCS of a frame and by the head of the Flume served next. -/
theorem portsTakeFrames : Obligations.PortsTakeFrames := by
  refine ⟨?up, ?notReady, ?lost, ?wasDown, ?good, ?fcs, ?short, ?long, ?down, ?mark, ?packet, ?injection⟩
  case up => exact fun _ _ => exec_portLinkUp_of_ready
  case notReady => exact fun _ _ => exec_portLinkUp_of_not_ready
  case lost =>
    intro n lf rf s hl hb
    rw [exec_portLinkDown, State.linkLost_of_idle hl hb]
  case wasDown =>
    intro n lf rf s hl
    rw [exec_portLinkDown, State.linkLost_of_down hl]
  case good =>
    intro n f errs s hup hpair hfcs hmin hmax
    rw [exec_frameReceive_of_length_ok errs hup hpair hmin hmax, hfcs, if_pos rfl]
  case fcs =>
    intro n f errs s hup hpair hfcs hmin hmax
    rw [exec_frameReceive_of_length_ok errs hup hpair hmin hmax, hfcs, if_neg Bool.false_ne_true]
  case short => exact fun _ _ errs _ => exec_frameReceive_of_short errs
  case long => exact fun _ _ errs _ => exec_frameReceive_of_long errs
  case down => exact fun _ f errs _ => exec_frameReceive_of_down f errs
  case mark => exact fun _ _ _ _ => exec_basinWrite_mark
  case packet => exact fun _ _ _ _ _ => exec_basinWrite_packet
  case injection => exact fun _ _ _ _ _ => exec_hostInjection_of_taken

end Sys2Proof.Machine
end

section
/-! PROOFS. The grid and the columns: a counter, the grid's instants, its start, the columns' opening, close and end, the tick ID store (chapter 02,
R33 to R44, R69, R158). -/
namespace Sys2Proof.Machine

/-- Settles O9, by the laws of `State.inc`. -/
theorem counterCountsByOne : Obligations.CounterCountsByOne := fun s off =>
  ⟨s.reg_inc_self off, fun _ ho => s.reg_inc_ne ho, s.inc_regs_only off⟩

/-! ### The order of the grid's instants (R34) -/

/-- Every instant of a second lies in it. -/
theorem gridTime_lt_nextSecond {fm i : Nat} (sec : Nat) (hi : i < fm) : gridTime fm sec i < (sec + 1) * 1000000000 := by
  have hlt : i * 1000000000 / fm < 1000000000 :=
    Nat.div_lt_of_lt_mul (Nat.mul_lt_mul_of_pos_right hi (by decide))
  unfold gridTime nsPerSec
  omega

theorem nextSecond_le_gridTime {sec sec' : Nat} (fm i : Nat) (h : sec < sec') : (sec + 1) * 1000000000 ≤ gridTime fm sec' i := by
  have hmul : (sec + 1) * 1000000000 ≤ sec' * 1000000000 := Nat.mul_le_mul_right _ h
  exact Nat.le_trans hmul (Nat.le_add_right _ _)

theorem gridTime_zero (fm sec : Nat) : gridTime fm sec 0 = sec * 1000000000 := by
  unfold gridTime nsPerSec
  rw [Nat.zero_mul, Nat.zero_div, Nat.add_zero]

theorem gridTime_mono (fm sec : Nat) {i j : Nat} (h : i ≤ j) : gridTime fm sec i ≤ gridTime fm sec j :=
  Nat.add_le_add_left (Nat.div_le_div_right (Nat.mul_le_mul_right _ h)) _

theorem gridNext_of_lt {fm sec i : Nat} (h : i + 1 < fm) : gridNext fm (sec, i) = (sec, i + 1) := if_pos h

theorem gridNext_of_last {fm sec i : Nat} (h : ¬i + 1 < fm) : gridNext fm (sec, i) = (sec + 1, 0) := if_neg h

/-- After the last instant of a second comes the next second. -/
theorem gridTime_gridNext_of_last {fm sec i : Nat} (h : ¬i + 1 < fm) :
    gridTime fm (gridNext fm (sec, i)).1 (gridNext fm (sec, i)).2 = (sec + 1) * 1000000000 := by
  rw [← gridTime_zero fm (sec + 1), gridNext_of_last h]

theorem gridNext_index_lt {fm : Nat} (p : Nat × Nat) (hfm : 0 < fm) : (gridNext fm p).2 < fm := by
  unfold gridNext
  split
  · assumption
  · exact hfm

/-- Instants are at least a nanosecond apart, the rate being at most 10^9. -/
theorem gridTime_lt_gridNext {fm i : Nat} (sec : Nat) (hle : fm ≤ 1000000000) (hi : i < fm) :
    gridTime fm sec i < gridTime fm (gridNext fm (sec, i)).1 (gridNext fm (sec, i)).2 := by
  by_cases h : i + 1 < fm
  · have hstep : i * 1000000000 / fm + 1 ≤ (i + 1) * 1000000000 / fm := by
      rw [← Nat.add_div_right _ (Nat.zero_lt_of_lt hi), Nat.succ_mul]
      exact Nat.div_le_div_right (Nat.add_le_add_left hle _)
    rw [gridNext_of_lt h]
    exact Nat.add_lt_add_left hstep _
  · rw [gridTime_gridNext_of_last h]
    exact gridTime_lt_nextSecond sec hi

/-- The instant that follows one is the earliest of the later ones. -/
theorem gridTime_gridNext_le {fm sec i sec' j : Nat} (hj : j < fm) (h : gridTime fm sec i < gridTime fm sec' j) :
    gridTime fm (gridNext fm (sec, i)).1 (gridNext fm (sec, i)).2 ≤ gridTime fm sec' j := by
  have hsec : sec ≤ sec' := by
    refine Nat.le_of_not_lt fun hlt => ?_
    have hnext := nextSecond_le_gridTime fm i hlt
    have := gridTime_lt_nextSecond sec' hj
    omega
  rcases Nat.lt_or_eq_of_le hsec with hlt | rfl
  · refine Nat.le_trans ?_ (nextSecond_le_gridTime fm j hlt)
    by_cases hn : i + 1 < fm
    · rw [gridNext_of_lt hn]
      exact Nat.le_of_lt (gridTime_lt_nextSecond sec hn)
    · exact Nat.le_of_eq (gridTime_gridNext_of_last hn)
  · have hij : i < j := Nat.lt_of_not_le fun hle => Nat.not_le.2 h (gridTime_mono fm sec hle)
    rw [gridNext_of_lt (Nat.lt_of_le_of_lt hij hj)]
    exact gridTime_mono fm sec hij

/-! ### The first instant that has not passed (R34, R36) -/

/-- The last instant of a second that is not after a moment of it. -/
def gridAtOrBefore (fm t : Nat) : Nat × Nat := (t / 1000000000, t % 1000000000 * fm / 1000000000)

theorem gridAtOrBefore_index_lt {fm : Nat} (t : Nat) (hfm : 0 < fm) : (gridAtOrBefore fm t).2 < fm :=
  Nat.div_lt_of_lt_mul (Nat.mul_lt_mul_of_pos_right (Nat.mod_lt _ (by decide)) hfm)

theorem gridTime_gridAtOrBefore_le (fm t : Nat) :
    gridTime fm (gridAtOrBefore fm t).1 (gridAtOrBefore fm t).2 ≤ t := by
  have hle : t % 1000000000 * fm / 1000000000 * 1000000000 / fm ≤ t % 1000000000 :=
    Nat.div_le_of_le_mul (Nat.le_trans (Nat.div_mul_le_self _ _) (Nat.le_of_eq (Nat.mul_comm _ _)))
  unfold gridTime gridAtOrBefore nsPerSec
  dsimp only
  omega

theorem le_gridTime_after_gridAtOrBefore {fm : Nat} (t : Nat) (hfm : 0 < fm) :
    t ≤ gridTime fm (gridNext fm (gridAtOrBefore fm t)).1 (gridNext fm (gridAtOrBefore fm t)).2 := by
  unfold gridAtOrBefore
  by_cases h : t % 1000000000 * fm / 1000000000 + 1 < fm
  · have hle : t % 1000000000 ≤ (t % 1000000000 * fm / 1000000000 + 1) * 1000000000 / fm :=
      (Nat.le_div_iff_mul_le hfm).2 (by omega)
    rw [gridNext_of_lt h]
    unfold gridTime nsPerSec
    dsimp only
    omega
  · rw [gridTime_gridNext_of_last h]
    omega

theorem gridAtOrAfter_eq (fm t : Nat) : gridAtOrAfter fm t =
    if gridTime fm (gridAtOrBefore fm t).1 (gridAtOrBefore fm t).2 ≥ t then gridAtOrBefore fm t else gridNext fm (gridAtOrBefore fm t) := rfl

theorem gridAtOrAfter_index_lt {fm : Nat} (t : Nat) (hfm : 0 < fm) : (gridAtOrAfter fm t).2 < fm := by
  rw [gridAtOrAfter_eq]
  split
  · exact gridAtOrBefore_index_lt t hfm
  · exact gridNext_index_lt _ hfm

theorem le_gridTime_gridAtOrAfter {fm : Nat} (t : Nat) (hfm : 0 < fm) : t ≤ gridTime fm (gridAtOrAfter fm t).1 (gridAtOrAfter fm t).2 := by
  rw [gridAtOrAfter_eq]
  split
  · assumption
  · exact le_gridTime_after_gridAtOrBefore t hfm

/-- No instant that has not passed lies before the first one: it lies at the moment itself, or follows the last instant before the moment. -/
theorem gridTime_gridAtOrAfter_le {fm t sec i : Nat} (hi : i < fm) (h : t ≤ gridTime fm sec i) :
    gridTime fm (gridAtOrAfter fm t).1 (gridAtOrAfter fm t).2 ≤ gridTime fm sec i := by
  have hfm : 0 < fm := Nat.zero_lt_of_lt hi
  rw [gridAtOrAfter_eq]
  split
  case isTrue => exact Nat.le_trans (gridTime_gridAtOrBefore_le fm t) h
  case isFalse hlt => exact gridTime_gridNext_le hi (Nat.lt_of_lt_of_le (Nat.not_le.1 hlt) h)

/-! ### The rate, and what leaves it (R33) -/

theorem State.reg_congr {s t : State} (h : t.regs = s.regs) (off : Nat) : t.reg off = s.reg off := by unfold State.reg; rw [h]

theorem State.fm_congr {s t : State} (h : t.reg Reg.tckFm = s.reg Reg.tckFm) : t.fm = s.fm := by unfold State.fm State.regField; rw [h]

theorem State.instantTime_congr {s t : State} (h : t.reg Reg.tckFm = s.reg Reg.tckFm) (sec i : Nat) :
    t.instantTime sec i = s.instantTime sec i := by unfold State.instantTime; rw [State.fm_congr h]

@[simp] theorem State.fm_runTo (s : State) (m : Nat) : (s.runTo m).fm = s.fm :=
  State.fm_congr (State.reg_congr (s.runTo_regs m) _)

@[simp] theorem State.utcOffset_runTo (s : State) (m : Nat) : (s.runTo m).tim.utcOffset = s.tim.utcOffset := by rw [State.runTo_tim]

/-- LEAP_SECOND changes nothing when none is announced, else it runs to the start of the announced second and moves the UTC offset (R357). -/
theorem exec_leapSecond_cases {s t : State} (h : exec .leapSecond s = .next t) : s.tim.leap = none ∧ t = s ∨ ∃ (m : Nat) (k : Leap) (l : Nat),
    s.tim.leap = some (k, l) ∧ m = l * nsPerSec ∧ t = (s.runTo m).onTim fun x =>
      { x with utcOffset := x.utcOffset + k.delta, leap := none, leapPtp := false, lastLeap := some (k, l), leapDone := some (k, l) } := by
  change execLeapSecond s = _ at h
  unfold execLeapSecond at h
  split at h
  case h_1 hn => exact .inl ⟨hn, (Host.Outcome.next.inj h).symm⟩
  case h_2 k l hk => exact .inr ⟨_, k, l, hk, rfl, (Host.Outcome.next.inj h).symm⟩

/-- A leap second leaves the sequencer and the registers, and moves the UTC offset by at most one second. -/
theorem exec_leapSecond_offset {s t : State} (h : exec .leapSecond s = .next t) : t.tck = s.tck ∧ t.regs = s.regs ∧
    (t.tim.utcOffset = s.tim.utcOffset ∨ t.tim.utcOffset = s.tim.utcOffset + 1 ∨ t.tim.utcOffset = s.tim.utcOffset - 1) := by
  obtain ⟨-, rfl⟩ | ⟨m, k, l, -, -, rfl⟩ := exec_leapSecond_cases h
  · exact ⟨rfl, rfl, .inl rfl⟩
  · simp only [State.onTim_tck, State.onTim_regs, State.onTim_tim, State.runTo_tck, State.runTo_regs, State.utcOffset_runTo, true_and]
    cases k with
    | insert => exact .inr (.inl (congrArg _ (show Leap.insert.delta = 1 from rfl)))
    | delete => exact .inr (.inr (congrArg _ (show Leap.delete.delta = -1 from rfl)))

/-- Settles O33, by the order of the grid's instants and the last of them that is not after a moment. -/
theorem gridInstantsLieAtTheirTimes : Obligations.GridInstantsLieAtTheirTimes := by
  refine ⟨fun fm hfm hle => ⟨fun sec i hi => ⟨rfl, gridTime_lt_gridNext sec (by omega) hi, rfl⟩, fun t => ?first⟩, fun s t h => ?leap⟩
  case first =>
    exact ⟨gridAtOrAfter_index_lt t hfm, le_gridTime_gridAtOrAfter t hfm, fun sec i => gridTime_gridAtOrAfter_le⟩
  case leap =>
    obtain ⟨htck, hregs, hoffset⟩ := exec_leapSecond_offset h
    exact ⟨htck, State.instantTime_congr (State.reg_congr hregs _), hoffset⟩

/-! ### The grid starts (R33, R36, R39) -/

theorem State.actWrite_tckCfg (s : State) (v : Word) : s.actWrite Reg.tckCfg v = s.writeTckCfg v := rfl

/-- What GRID_ENABLE writes: EN and, at will, EARLY. -/
def gridEnableWord (early : Bool) : Word := 1 ||| placeB early 1

theorem exec_gridEnable_of_unsealed (early : Bool) {s : State} (hup : s.hostUp = true) (hs : s.isSealed = false) :
    exec (.gridEnable early) s = .next (s.writeTckCfg (gridEnableWord early)) := by
  change Host.Outcome.next (s.hostWrite Reg.tckCfg (gridEnableWord early)) = _
  rw [s.hostWrite_of_hostUp _ _ hup, s.writeReg_of_writable _ (.inr ⟨by decide, hs⟩), s.actWrite_tckCfg]

theorem State.writeTckCfg_starts {s : State} {v : Word} (hv : flag v 0 = true) (hg : s.gridOn = false) (hok : s.gridCfgOk = true)
    (ht : s.sys.tampered = false) : s.writeTckCfg v = (s.setReg Reg.tckCfg (v &&& 2 ||| 1)).startGrid := by
  simp only [State.writeTckCfg, hv, hg, hok, ht, Bool.not_false, Bool.and_self, Bool.false_eq_true, if_false, if_true]

theorem State.writeTckCfg_of_bad_setup {s : State} (v : Word) (hg : s.gridOn = false) (hok : s.gridCfgOk = false) :
    s.writeTckCfg v = s.setReg Reg.tckCfg (v &&& 2) := by
  simp only [State.writeTckCfg, hg, hok, Bool.and_false, Bool.false_and, Bool.false_eq_true, if_false]

/-- Starting the grid sets what is emitted and what is opened next, to the same instant and tick ID. -/
theorem State.startGrid_eq (s : State) : s.startGrid = { s with tck := { s.tck with
    nextId := (s.nvm.tickId.map (· + 65536)).getD 0, nextInstant := gridAtOrAfter s.fm s.tim.now
    openId := (s.nvm.tickId.map (· + 65536)).getD 0, openInstant := gridAtOrAfter s.fm s.tim.now } } := rfl

theorem State.gridOn_setReg_tckCfg (s : State) (v : Word) : (s.setReg Reg.tckCfg v).gridOn = flag v 0 := by
  unfold State.gridOn State.regBit
  rw [State.reg_setReg_self]

theorem State.fm_setReg_tckCfg (s : State) (v : Word) : (s.setReg Reg.tckCfg v).fm = s.fm :=
  State.fm_congr (s.reg_setReg_ne v (by decide))

/-- Settles O26, by what a write of TCK_CFG does. -/
theorem gridEnableStartsTheGrid : Obligations.GridEnableStartsTheGrid := by
  refine ⟨fun early s hup hs hg hok ht => ?starts, fun early s hup hs hg hok => ?stays⟩
  case starts =>
    have hen : flag (gridEnableWord early) 0 = true := by cases early <;> decide
    have hword : gridEnableWord early &&& 2 ||| 1 = if early then 3 else 1 := by cases early <;> decide
    have hon : flag (if early then 3 else 1 : Word) 0 = true := by cases early <;> decide
    refine ⟨_, by rw [exec_gridEnable_of_unsealed early hup hs, State.writeTckCfg_starts hen hg hok ht, hword], ?_⟩
    rw [State.startGrid_eq, State.fm_setReg_tckCfg]
    exact ⟨(s.gridOn_setReg_tckCfg _).trans hon, s.reg_setReg_self _ _, rfl, rfl, fun _ ho => s.reg_setReg_ne _ ho⟩
  case stays =>
    have hoff : flag (gridEnableWord early &&& 2) 0 = false := by cases early <;> decide
    refine ⟨_, by rw [exec_gridEnable_of_unsealed early hup hs, State.writeTckCfg_of_bad_setup _ hg hok], ?_⟩
    exact ⟨(s.gridOn_setReg_tckCfg _).trans hoff, s.setReg_regs_only _ _⟩

/-! ### Instants, columns and the tick ID store (R35, R36, R158) -/

section
variable {s : State}

theorem exec_gridInstant_of_on (hg : s.gridOn = true) (ha : s.awake = true) :
    exec .gridInstant s = .next (s.runTo (s.instantTime s.tck.nextInstant.1 s.tck.nextInstant.2)).emitInstant := by
  change execGridInstant s = _
  simp only [execGridInstant, hg, ha, Bool.not_true, Bool.or_self, Bool.false_eq_true, if_false]

theorem exec_columnOpen_of_slotFree (hg : s.gridOn = true) (ha : s.awake = true) (hf : s.slotFree s.tck.openId = true) :
    exec .columnOpen s = .next (s.runTo (s.openTime s.tck.openInstant)).openColumn := by
  change Host.Outcome.next (execOpen s) = _
  simp only [execOpen, hg, ha, hf, Bool.not_true, Bool.or_self, Bool.false_eq_true, if_false]

theorem State.storeDue_of_new_second (hg : s.gridOn = true) (hn : s.tck.storedSec ≠ some s.nowSec) (hl : s.tck.lastInstant.isSome = true) :
    s.storeDue = true := by
  simp only [State.storeDue, hg, hn, hl, ne_eq, not_false_eq_true, decide_true, Bool.and_self]

theorem State.nvmWrite_of_no_brace (w : NvmWrite) (h : s.pwr.brace = false) : s.nvmWrite w = s.applyNvm w := by
  simp only [State.nvmWrite, h, Bool.false_eq_true, if_false]

theorem exec_tickIdStore_of_due (h5 : s.slackAt 5 = true) (hd : s.storeDue = true) (hb : s.pwr.brace = false) : exec .tickIdStore s = .next
    ((s.onTck fun t => { t with storedSec := some s.nowSec }).applyNvm (.tickId (s.tck.nextId - 1))) := by
  change execTickIdStore s = _
  rw [← State.nvmWrite_of_no_brace (s := s.onTck _) _ hb]
  simp only [execTickIdStore, h5, hd, Bool.and_self, if_true]

/-- Emitting an instant at a moment is emitting it from the sequencer and the Basin of before, the clocks brought to the moment. -/
theorem State.emitInstant_runTo_eq (s : State) (m : Nat) : (s.runTo m).emitInstant = { s with
    tim := { s.tim with
      now := (s.runTo m).tim.now, mono := (s.runTo m).tim.mono, tickRise := (s.runTo m).emitInstant.tim.tickRise }
    tck := { s.tck with lastInstant := some s.tck.nextInstant, nextId := s.tck.nextId + 1, nextInstant := gridNext s.fm s.tck.nextInstant }
    bsn := { s.bsn with cols := s.bsn.cols.map fun c => if c.tick = s.tck.nextId then { c with emitted := true } else c }
    lmu := (s.runTo m).emitInstant.lmu } := by
  conv => lhs; rw [State.emitInstant_eq, State.fm_runTo]
  generalize (s.runTo m).emitInstant = e
  rw [State.runTo_eq]

theorem State.emitInstant_runTo_now (s : State) (m : Nat) : (s.runTo m).emitInstant.tim.now = (s.runTo m).tim.now := by
  rw [State.emitInstant_runTo_eq]

theorem State.emitInstant_runTo_tck (s : State) (m : Nat) : (s.runTo m).emitInstant.tck =
    { s.tck with lastInstant := some s.tck.nextInstant, nextId := s.tck.nextId + 1, nextInstant := gridNext s.fm s.tck.nextInstant } := by
  rw [State.emitInstant_runTo_eq]

theorem State.emitInstant_runTo_bsn (s : State) (m : Nat) : (s.runTo m).emitInstant.bsn =
    { s.bsn with cols := s.bsn.cols.map fun c => if c.tick = s.tck.nextId then { c with emitted := true } else c } := by
  rw [State.emitInstant_runTo_eq]

theorem State.emitInstant_runTo_tim (s : State) (m : Nat) : (s.runTo m).emitInstant.tim = { s.tim with
    now := (s.runTo m).emitInstant.tim.now, mono := (s.runTo m).emitInstant.tim.mono, tickRise := (s.runTo m).emitInstant.tim.tickRise } := by
  rw [State.emitInstant_runTo_eq]

theorem State.emitInstant_runTo_frame (s : State) (m : Nat) : (s.runTo m).emitInstant = { s with
    tim := (s.runTo m).emitInstant.tim, tck := (s.runTo m).emitInstant.tck, bsn := (s.runTo m).emitInstant.bsn
    lmu := (s.runTo m).emitInstant.lmu } := by
  have heq := s.emitInstant_runTo_eq m
  conv => lhs; rw [heq]
  rw [heq]

/-- Opening a column at a moment: the sequencer and the Basin are those of before. -/
theorem State.openColumn_runTo_eq (s : State) (m : Nat) : ∃ c : Column, (s.runTo m).openColumn = { s with
    tim := (s.runTo m).tim
    tck := { s.tck with openId := s.tck.openId + 1, openInstant := gridNext s.fm s.tck.openInstant, afterStep := false }
    bsn := { s.bsn with cols := (s.bsn.cols.filter fun y => decide (s.tck.openId < y.tick + 24)) ++ [c] } } ∧
    c.tick = s.tck.openId ∧ c.sec = s.tck.openInstant.1 ∧ c.index = s.tck.openInstant.2 ∧ c.closed = false ∧ c.ended = false := by
  obtain ⟨c, heq, hc⟩ := (s.runTo m).openColumn_eq
  rw [State.fm_runTo] at heq
  refine ⟨c, ?_, by simpa only [State.runTo_tck] using hc⟩
  rw [heq, State.runTo_eq]

end

/-- Settles O34, from what emitting, opening and storing change. -/
theorem instantsColumnsAndTickIds : Obligations.InstantsColumnsAndTickIds := by
  refine ⟨fun s hg ha => ?instant, fun s hg ha hf => ?column, fun s h5 hg hn hl hb => ?store⟩
  case instant =>
    refine ⟨_, exec_gridInstant_of_on hg ha, ?_⟩
    generalize s.instantTime s.tck.nextInstant.1 s.tck.nextInstant.2 = m
    exact ⟨s.emitInstant_runTo_tck m, fun hlt hmod => (s.emitInstant_runTo_now m).trans (s.runTo_now m hlt hmod),
      fun hle => (s.emitInstant_runTo_now m).trans (congrArg (·.tim.now) (s.runTo_of_le m hle)), s.emitInstant_runTo_bsn m,
      s.emitInstant_runTo_tim m, s.emitInstant_runTo_frame m⟩
  case column =>
    obtain ⟨c, heq, htick, hsec, hindex, hclosed, hended⟩ := s.openColumn_runTo_eq (s.openTime s.tck.openInstant)
    refine ⟨_, c, exec_columnOpen_of_slotFree hg ha hf, ?_⟩
    rw [heq]
    exact ⟨rfl, htick, hsec, hindex, hclosed, hended, rfl, rfl⟩
  case store => exact exec_tickIdStore_of_due h5 (State.storeDue_of_new_second hg hn hl) hb

/-! ### The close of a column (R17, R40) -/

section
variable {s : State}

theorem State.closable_of_emitted {c : Column} {rest : List Column} (hg : s.gridOn = true) (ha : s.awake = true) (hp : s.tck.proc = none)
    (ho : s.openCols = c :: rest) (he : c.emitted = true) : s.closable = some c := by
  simp only [State.closable, State.nextToClose, hg, ha, hp, ho, he, Option.isNone_none, Bool.and_self, if_true, List.head?_cons, Option.filter_some]

theorem State.closable_of_waiting (h : s.tck.proc.isSome = true ∨ s.openCols.head?.any (·.emitted) = false) : s.closable = none := by
  unfold State.closable State.nextToClose
  rcases h with hp | he
  · rw [Option.isNone_eq_false_iff.2 hp, Bool.and_false, if_neg Bool.false_ne_true]
  · split
    · cases hc : s.openCols.head? with
      | none => rfl
      | some c =>
        rw [hc] at he
        exact if_neg (ne_true_of_eq_false he)
    · rfl

theorem exec_deadlineClose_of_closable {c : Column} (errs : List MemErr) (slow : List SlowRecord) (h : s.closable = some c) :
    exec (.deadlineClose ⟨errs, slow⟩) s = .next ((s.runTo (s.instantTime c.sec c.index + s.wdNs)).closeColumn c false errs slow) := by
  change execDeadlineClose ⟨errs, slow⟩ s = _
  simp only [execDeadlineClose, h]

theorem exec_earlyClose_of_closable {c : Column} (errs : List MemErr) (slow : List SlowRecord) (h : s.closable = some c)
    (hr : s.earlyReady = true) (ht : s.tim.now < s.instantTime c.sec c.index + s.wdNs) :
    exec (.earlyClose ⟨errs, slow⟩) s = .next (s.closeColumn c true errs slow) := by
  change execEarlyClose ⟨errs, slow⟩ s = _
  simp only [execEarlyClose, h, hr, ht, decide_true, Bool.and_self, if_true]

theorem exec_close_of_not_closable (found : CloseIn) (h : s.closable = none) :
    exec (.deadlineClose found) s = .next s ∧ exec (.earlyClose found) s = .next s := by
  change execDeadlineClose found s = _ ∧ execEarlyClose found s = _
  simp only [execDeadlineClose, execEarlyClose, h, and_self]

theorem State.earlyReady_of_full {c : Column} {rest : List Column} (ho : s.openCols = c :: rest) (he : c.emitted = true) (hf : c.full = true)
    (hr : s.regBit Reg.tckCfg 1 = true) : s.earlyReady = true := by
  simp only [State.earlyReady, State.nextToClose, ho, he, hf, hr, List.head?_cons, Bool.and_self]

/-! ### The limits of the column in process (R42, R43) -/

theorem exec_overrunLimit_of_windowOpen {p : Proc} (hp : s.tck.proc = some p) (hw : p.windowEnd = none) (ha : s.awake = true) :
    exec .overrunLimit s = .next (s.runTo (s.overrunAt p)).overrun := by
  change execOverrunLimit s = _
  simp only [execOverrunLimit, State.windowOpen, hp, hw, ha, Option.isNone_none, Bool.and_self, if_true]

theorem exec_copyLimit_of_copying {p : Proc} (hp : s.tck.proc = some p) (hw : p.windowEnd.isSome = true) (ha : s.awake = true) :
    exec .copyLimit s = .next ((((s.runTo (s.copyLimitAt p)).addCause causeCopy).abandonCopy p).endCopy) := by
  change execCopyLimit s = _
  simp only [execCopyLimit, hp, Option.isNone_eq_false_iff.2 hw, ha, Bool.not_true, Bool.or_self, Bool.false_eq_true, if_false]

theorem exec_limits_of_no_proc (hp : s.tck.proc = none) : exec .overrunLimit s = .next s ∧ exec .copyLimit s = .next s := by
  change execOverrunLimit s = _ ∧ execCopyLimit s = _
  simp only [execOverrunLimit, execCopyLimit, hp, and_self]

/-! ### The end of a state copy leaves no column in process (R43, R44) -/

theorem RecordsOnly.tck {t : State} (h : RecordsOnly s t) : t.tck = s.tck := by rw [h]

/-- Releasing slots posts the records that are cut off and counts them (R158, R178). -/
theorem State.releaseSlots_records (s : State) : RecordsOnly s s.releaseSlots := by
  refine RecordsOnly.trans (t := s.onBsn _) rfl (State.foldl_records _ (fun x c => ?_) _ _)
  split
  · exact (x.inc_records _).trans (State.post_host _ _ _).records
  · exact (State.post_host _ _ _).records

theorem State.countColumn_tck (s : State) (p : Proc) (done : Bool) : (s.countColumn p done).tck = s.tck := by
  unfold State.countColumn
  split
  · rw [State.setReg_tck, State.inc_tck]
    rfl
  · split
    · exact s.inc_tck _
    · rfl

theorem State.pump_tck (n : Nat) (s : State) : (State.pump n s).tck = s.tck := by
  induction n generalizing s with
  | zero => rfl
  | succ n ih =>
    unfold State.pump
    split
    · rfl
    · split
      · rfl
      · exact ih _

theorem State.sendSeq_tck (s : State) (b : LinkBody) : (s.sendSeq b).tck = s.tck := by
  unfold State.sendSeq
  split
  · rfl
  · exact State.pump_tck _ _

theorem State.swapSends_tck (s : State) (tick : Nat) : (s.swapSends tick).tck = s.tck := by
  unfold State.swapSends
  split
  · rw [(State.gateFrom_records _ s).tck, State.sendSeq_tck]
    rfl
  · rfl

theorem State.endCopy_proc (s : State) : s.endCopy.tck.proc = none := by
  unfold State.endCopy
  split
  case h_1 hp => exact hp
  case h_2 =>
    rw [State.swapSends_tck, State.onTck_tck, State.countColumn_tck, (State.releaseSlots_records _).tck]
    rfl

end

/-- Settles O35, from which column can close, when it closes and what the two limits do. -/
theorem columnsCloseAndEnd : Obligations.ColumnsCloseAndEnd := by
  refine ⟨?deadline, ?early, ?waits, ?overrun, ?copy, fun _ => exec_limits_of_no_proc⟩
  case deadline =>
    intro errs slow c rest s hg ha hp ho he
    exact exec_deadlineClose_of_closable errs slow (State.closable_of_emitted hg ha hp ho he)
  case early =>
    intro errs slow c rest s hg ha hp ho he hf hr ht
    exact exec_earlyClose_of_closable errs slow (State.closable_of_emitted hg ha hp ho he) (State.earlyReady_of_full ho he hf hr) ht
  case waits => exact fun errs slow s h => exec_close_of_not_closable ⟨errs, slow⟩ (State.closable_of_waiting h)
  case overrun =>
    intro p s hp hw ha
    rw [exec_overrunLimit_of_windowOpen hp hw ha, State.overrunAt]
  case copy =>
    intro p s hp hw ha
    exact ⟨_, exec_copyLimit_of_copying hp hw ha, by rw [State.copyLimitAt], State.endCopy_proc _⟩

end Sys2Proof.Machine
end

section
/-! PROOFS. Pitching an image: PITCH and PITCH_ABORT, loading and verification (chapter 02, R55 to R63). -/
namespace Sys2Proof.Machine

section
variable {s : State}

/-! ### PITCH and PITCH_ABORT (R56, R62, R63) -/

theorem exec_pitch_of_accepted {h : CmdHdr} {offset length : Word} (image : List Byte) (hs : s.serves h) (hp : s.sch.pitch = none)
    (hin : s.inService = true) (hstage : s.regBit Reg.schStage 31 = true) (hplace : pitchPlaceOk offset length = true)
    (hl : s.hif.outstanding.length < 32) :
    exec (.pitch h offset length image) s = .next (s.begun h ((s.commandTaken h).onSch fun y =>
      { y with
        staging0 := if offset = 0 then image else y.staging0
        staging1 := if offset = 0 then y.staging1 else image, shadowValid := false
        pitch := some { ref := s.refOf h, offset := offset.toNat, length := length.toNat }, lastSwitched := false })) := by
  have hidle : (s.commandTaken h).sch.pitch.isSome = false := Option.isSome_eq_false_iff.2 (Option.isNone_iff_eq_none.2 hp)
  have hserved : (s.commandTaken h).inService = true := hin
  have hstaged : (s.commandTaken h).regBit Reg.schStage 31 = true := hstage
  refine congrArg Host.Outcome.next (s.command_long h false _ hs.1 (.inl hs.2) hl _ ?_)
  simp only [hidle, hserved, hstaged, hplace, Bool.not_true, Bool.or_self, Bool.false_eq_true, if_false]

theorem exec_pitch_of_busy {h : CmdHdr} (offset length : Word) (image : List Byte) (hs : s.serves h) (hp : s.sch.pitch.isSome = true) :
    exec (.pitch h offset length image) s = .next (s.done h { status := stBusy } (s.commandTaken h)) :=
  congrArg Host.Outcome.next (s.command_done h false _ hs.1 (.inl hs.2) _ _ (if_pos hp))

theorem exec_pitchAbort_of_pitch {h : CmdHdr} (hs : s.serves h) (hp : s.sch.pitch.isSome = true) : exec (.pitchAbort h) s = .next
    (s.done h { status := stOk } ((s.commandTaken h).pitchEnds { status := stAborted } false)) :=
  congrArg Host.Outcome.next (s.command_done h false _ hs.1 (.inl hs.2) _ _ (if_pos hp))

theorem exec_pitchAbort_of_no_pitch {h : CmdHdr} (hs : s.serves h) (hp : s.sch.pitch = none) : exec (.pitchAbort h) s = .next
    (s.done h { status := if s.sch.lastSwitched then stTooLate else stIdle } (s.commandTaken h)) := by
  have hidle : (s.commandTaken h).sch.pitch.isSome = false := Option.isSome_eq_false_iff.2 (Option.isNone_iff_eq_none.2 hp)
  have hlast : (s.commandTaken h).sch.lastSwitched = s.sch.lastSwitched := rfl
  refine congrArg Host.Outcome.next (s.command_done h false _ hs.1 (.inl hs.2) _ _ ?_)
  simp only [hidle, hlast, Bool.false_eq_true, if_false]
  cases s.sch.lastSwitched <;> rfl

theorem State.finish_sch (s : State) (c : CmdRef) (r : CmdResult) : (s.finish c r).sch = s.sch := by
  unfold State.finish
  rw [State.complete_hif]
  rfl

/-- A PITCH that ends is no longer in progress. -/
theorem State.pitchEnds_pitch (s : State) (r : CmdResult) (switched : Bool) : (s.pitchEnds r switched).sch.pitch = none := by
  unfold State.pitchEnds
  split
  case h_1 hp => exact hp
  case h_2 => rw [State.finish_sch]; rfl

/-! ### Loading and verification (R55, R57, R58, R510) -/

/-- With no PITCH in progress there is nothing to load or to verify. -/
theorem exec_loading_verifying_of_no_pitch (e : Bool) (hp : s.sch.pitch = none) :
    exec (.loading e) s = .next s ∧ exec (.verifying e) s = .next s := by
  change execLoading e s = _ ∧ execVerifying e s = _
  simp only [execLoading, execVerifying, hp, and_self]

theorem exec_loading_of_due {p : Pitch} (e : Bool) (hp : s.sch.pitch = some p) (hst : p.state = .loading) (h4 : s.slackAt 4 = true)
    (hg : s.gate 46 = true) (hstep : s.sys.step = 14) : exec (.loading e) s = .next
      (if e then s.openEngines.pitchRefused 0x12
      else (s.openEngines.onSch fun x => { x with shadow := s.stagedImage p }).pitchState .verifying) := by
  change execLoading e s = _
  simp only [execLoading, hp, hst, h4, hg, hstep, decide_true, Bool.and_self, if_true]
  cases e <;> rfl

theorem exec_verifying_of_due {p : Pitch} (e : Bool) (hp : s.sch.pitch = some p) (hst : p.state = .verifying) (h4 : s.slackAt 4 = true) :
    exec (.verifying e) s = .next (if e then s.schedError .double false else s.verified p) := by
  change execVerifying e s = _
  simp only [execVerifying, hp, hst, h4, decide_true, Bool.and_self, if_true]

theorem State.pitchState_of_pitch {p : Pitch} (st : PitchState) (hp : s.sch.pitch = some p) :
    s.pitchState st = { s with sch := { s.sch with pitch := some { p with state := st } } } := by
  simp only [State.pitchState, State.onSch, hp, Option.map_some]

theorem State.openEngines_gate (s : State) : s.openEngines.gate 33 = true ∧ s.openEngines.gate 34 = true ∧ s.openEngines.gate 35 = true := by
  have hmask : ((7 <<< 33 : Nat) : BitVec 47).getLsbD 33 = true ∧ ((7 <<< 33 : Nat) : BitVec 47).getLsbD 34 = true ∧
      ((7 <<< 33 : Nat) : BitVec 47).getLsbD 35 = true := by decide
  obtain ⟨h33, h34, h35⟩ := hmask
  simp only [State.gate, State.openEngines, State.onClk_clk, BitVec.getLsbD_or, h33, h34, h35, Bool.or_true, and_self]

/-- A verified image becomes ARMED or RAISING when it is sound, and is refused with its reason when it is not. -/
theorem State.verified_eq {p : Pitch} (hp : s.sch.pitch = some p) : s.verified p =
    match s.imageReason s.sch.shadow p.length with
    | none => { s with sch := { s.sch with
        pitch := some { p with state := if s.levelReaches (imgMinLevel s.sch.shadow) then .armed else .raising } } }
    | some r => s.pitchRefused r := by
  unfold State.verified
  cases s.imageReason s.sch.shadow p.length with
  | none => exact State.pitchState_of_pitch _ hp
  | some r => rfl

end

/-- Settles O14, by whether a PITCH is in progress. -/
theorem pitchIsBegunAndAborted : Obligations.PitchIsBegunAndAborted := by
  refine ⟨?begun, ?busy, ?aborted, fun _ _ => exec_pitchAbort_of_no_pitch⟩
  case begun => exact fun _ _ _ image _ => exec_pitch_of_accepted image
  case busy => exact fun _ offset length image _ => exec_pitch_of_busy offset length image
  case aborted => exact fun h s p hs hp => ⟨exec_pitchAbort_of_pitch hs (Option.isSome_of_eq_some hp), State.pitchEnds_pitch _ _ _⟩

/-- Settles O54, by the state of the PITCH in progress and the result of the image check. -/
theorem imagesAreLoadedAndVerified : Obligations.ImagesAreLoadedAndVerified := by
  refine ⟨?loads, ?loadError, ?verifyError, ?verifies, ?waits⟩
  case loads =>
    intro p s hp hst h4 hg hstep
    refine ⟨_, exec_loading_of_due false hp hst h4 hg hstep, ?_⟩
    have hstaged : (s.openEngines.onSch fun x => { x with shadow := s.stagedImage p }).sch.pitch = some p := hp
    obtain ⟨h33, h34, h35⟩ := s.openEngines_gate
    rw [if_neg Bool.false_ne_true, State.pitchState_of_pitch _ hstaged]
    exact ⟨rfl, h33, h34, h35, rfl⟩
  case loadError => exact fun p s hp hst h4 hg hstep => exec_loading_of_due true hp hst h4 hg hstep
  case verifyError => exact fun p s hp hst h4 => exec_verifying_of_due true hp hst h4
  case verifies => exact fun p s hp hst h4 => (exec_verifying_of_due false hp hst h4).trans (congrArg _ (State.verified_eq hp))
  case waits =>
    rintro e s (hp | h4)
    · exact exec_loading_verifying_of_no_pitch e hp
    · exact ⟨exec_loading_of_not_slackAt e h4, exec_verifying_of_not_slackAt e h4⟩

end Sys2Proof.Machine
end

section
/-! PROOFS. The dispatcher and its Plots: fences, and the start and the retirement of operations (chapter 03, R80, R87, R93, R97, R98). -/
namespace Sys2Proof.Machine

section
variable {s : State}

/-! ### FENCE_PLOT and UNFENCE_PLOT (R97, R98) -/

/-- A step that is a command, served and completed at once. -/
theorem State.next_command_of_serves {h : CmdHdr} {body : CmdRef → State → State × CmdEnd} {t : State} {r : CmdResult} (hs : s.serves h)
    (hb : body (s.refOf h) (s.commandTaken h) = (t, .done r)) : (.next (s.command h false body) : Answer) = .next (s.done h r t) :=
  congrArg Host.Outcome.next (s.command_done h false body hs.1 (.inl hs.2) t r hb)

/-- No Plot has a number above 31. -/
theorem exec_fences_of_no_plot {h : CmdHdr} {p : Byte} (hs : s.serves h) (hp : 31 < p.toNat) :
    exec (.fencePlot h p) s = .next (s.done h { status := stBadArg } (s.commandTaken h)) ∧
    exec (.unfencePlot h p) s = .next (s.done h { status := stBadArg } (s.commandTaken h)) :=
  ⟨State.next_command_of_serves hs (if_pos hp), State.next_command_of_serves hs (if_pos hp)⟩

section
variable {h : CmdHdr} {p : Byte} (hs : s.serves h) (hp : p.toNat < 32)
include hs hp

theorem exec_fencePlot_of_pending (hf : s.dpx.fencePend.getLsbD p.toNat = true) :
    exec (.fencePlot h p) s = .next (s.done h { status := stOk } (s.commandTaken h)) :=
  State.next_command_of_serves hs ((if_neg (by omega)).trans (if_pos hf))

/-- The fence that FENCE_PLOT registers is not a poison fence. -/
theorem exec_fencePlot_of_not_pending (hf : s.dpx.fencePend.getLsbD p.toNat = false) :
    exec (.fencePlot h p) s = .next (s.done h { status := stOk } ((s.commandTaken h).fencePlot p.toNat false)) :=
  State.next_command_of_serves hs ((if_neg (by omega)).trans (if_neg (Bool.eq_false_iff.1 hf)))

theorem exec_unfencePlot_of_gated (hg : s.plotGate p.toNat = false) :
    exec (.unfencePlot h p) s = .next (s.done h { status := stGated } (s.commandTaken h)) :=
  State.next_command_of_serves hs ((if_neg (by omega)).trans (if_pos (congrArg not hg)))

/-- Behind an open sluice, UNFENCE_PLOT registers only where a fence is pending. -/
theorem exec_unfencePlot_of_open (hg : s.plotGate p.toNat = true) : exec (.unfencePlot h p) s = .next (s.done h { status := stOk }
    (if s.dpx.fencePend.getLsbD p.toNat then (s.commandTaken h).unfencePlot p.toNat else s.commandTaken h)) := by
  have hgate : (s.commandTaken h).plotGate p.toNat = true := hg
  have hpend : (s.commandTaken h).dpx = s.dpx := rfl
  refine State.next_command_of_serves hs ((if_neg (by omega)).trans ?_)
  rw [hgate, hpend]
  cases s.dpx.fencePend.getLsbD p.toNat <;> rfl

end

/-! ### OPERATION_START and OPERATION_RETIRE (R80, R87, R93) -/

theorem exec_operationStart_of_windowOpen {q : Fin 32} {p : Nat} (errs : List MemErr) (hw : s.windowOpen = true) (hl : s.logical q.val = some p) :
    exec (.operationStart q errs) s = .next (s.startOn p errs) := by
  change execOperationStart q errs s = _
  simp only [execOperationStart, hl, hw, if_true]

theorem exec_operationRetire_of_windowOpen {q : Fin 32} {p : Nat} {w : Work} (errs : List MemErr) (hw : s.windowOpen = true)
    (hl : s.logical q.val = some p) (he : (s.plot p).executing = some w) :
    exec (.operationRetire ⟨q, errs⟩) s = .next (s.retireOn p w errs) := by
  change execOperationRetire ⟨q, errs⟩ s = _
  simp only [execOperationRetire, hl, he, hw, if_true]

theorem exec_operationStart_of_not_windowOpen (q : Fin 32) (errs : List MemErr) (hw : s.windowOpen = false) :
    exec (.operationStart q errs) s = .next s := by
  change execOperationStart q errs s = _
  cases hl : s.logical q.val <;> simp only [execOperationStart, hl, hw, Bool.false_eq_true, if_false]

theorem exec_operationRetire_of_not_windowOpen (q : Fin 32) (errs : List MemErr) (hw : s.windowOpen = false) :
    exec (.operationRetire ⟨q, errs⟩) s = .next s := by
  change execOperationRetire ⟨q, errs⟩ s = _
  cases hl : s.logical q.val with
  | none => simp only [execOperationRetire, hl]
  | some p => cases he : (s.plot p).executing <;> simp only [execOperationRetire, hl, he, hw, Bool.false_eq_true, if_false]

/-- With no memory error met, the operation that retires delivers its result or its hand-over, unflagged. -/
theorem State.retireOn_nil (s : State) (p : Nat) (w : Work) : s.retireOn p w [] =
    (((s.onPlot p fun x => { x with executing := none }).completeOp w).markRetired w.op 0).afterRetire w.op p := rfl

/-- An uncorrectable error in a local-store read poisons the operation that retires. -/
theorem State.retireOn_of_storeHits (p : Nat) (w : Work) {errs : List MemErr} (hh : storeHits errs ≠ []) : s.retireOn p w errs =
    ((s.memErrors errs).onPlot p fun x => { x with executing := none }).poisoned w.op p (argHit s.img s.opVariant w.op (storeHits errs)) w.args :=
  if_neg fun h => hh (List.isEmpty_iff.1 h)

end

/-- Settles O15, by the Plot's number, its sluice and its bit in DPX_FENCE_PEND. -/
theorem fencesAreRegistered : Obligations.FencesAreRegistered := by
  refine ⟨?fences, ?unfences, ?noPlot, ?fenced, ?gated, ?unfenced⟩
  case fences => exact fun _ _ _ => exec_fencePlot_of_not_pending
  case unfences => exact fun _ _ _ hs hp hg hf => (exec_unfencePlot_of_open hs hp hg).trans (by rw [if_pos hf]; rfl)
  case noPlot => exact fun _ _ _ => exec_fences_of_no_plot
  case fenced => exact fun _ _ _ => exec_fencePlot_of_pending
  case gated => exact fun _ _ _ => exec_unfencePlot_of_gated
  case unfenced => exact fun _ _ _ hs hp hg hf => (exec_unfencePlot_of_open hs hp hg).trans (by rw [if_neg (Bool.eq_false_iff.1 hf)])

/-- Settles O36, by whether the compute window is open and whether the reads of the execution met an uncorrectable error. -/
theorem operationsStartAndRetire : Obligations.OperationsStartAndRetire := by
  refine ⟨?starts, ?retires, ?poisoned, ?closed⟩
  case starts => exact fun _ _ errs _ => exec_operationStart_of_windowOpen errs
  case retires =>
    intro q p w s hw hl he
    rw [exec_operationRetire_of_windowOpen [] hw hl he, State.retireOn_nil]
  case poisoned =>
    intro q p w errs s hw hl he hh
    rw [exec_operationRetire_of_windowOpen errs hw hl he, State.retireOn_of_storeHits p w hh]
  case closed => exact fun q errs _ hw => ⟨exec_operationStart_of_not_windowOpen q errs hw, exec_operationRetire_of_not_windowOpen q errs hw⟩

end Sys2Proof.Machine
end

section
/-! PROOFS. Ports: their controls, the channel controls that share their obligation, the frames they send and the end of a duplicate-discard entry
(chapter 04, R107 to R110, R130, R136; R290, R291; R362). -/
namespace Sys2Proof.Machine

section
variable {s : State}

/-! ### PRT_CTLn.DISABLE (R109) -/

theorem modifyAt_modifyAt {α : Type} (f g : α → α) (l : List α) (n : Nat) :
    modifyAt (modifyAt l n f) n g = modifyAt l n fun a => g (f a) := by
  induction l generalizing n with
  | nil => rfl
  | cons a l ih =>
    cases n with
    | zero => rfl
    | succ n => exact congrArg (a :: ·) (ih n)

theorem State.onPort_onPort (s : State) (n : Nat) (f g : Port → Port) : (s.onPort n f).onPort n g = s.onPort n fun p => g (f p) := by
  simp only [State.onPort, State.onPrt, modifyAt_modifyAt]

/-- A port that sends no frame has only its queue to discard when it is disabled. -/
theorem State.disablePort_of_idle {n : Nat} (hb : (s.port n).busyUntil ≤ s.tim.mono) :
    s.disablePort n true = (s.dropQueue n).onPort n fun p => { p with link := false, fecLock := false, disabled := true } := by
  rw [State.disablePort, if_pos rfl, State.portDown, State.abortFrame_of_idle hb, State.onPort_onPort]

theorem exec_portDisable_of_idle {n : Fin 4} (hup : s.hostUp = true) (hb : (s.port n.val).busyUntil ≤ s.tim.mono) :
    exec (.portDisable n (.disable none)) s = .next (((s.dropQueue n.val).onPort n.val fun p =>
      { p with link := false, fecLock := false, disabled := true }).setReg (Reg.prtCtl n.val) 1) := by
  rw [exec_portDisable_eq_hostWrite, s.hostWrite_prtCtl, if_pos hup, show flag 1 0 = true by decide, State.disablePort_of_idle hb,
    show (1 : Word) &&& 1 = 1 by decide]

theorem exec_portEnable_of_hostUp {n : Fin 4} (hup : s.hostUp = true) :
    exec (.portDisable n .enable) s = .next ((s.onPort n.val fun p => { p with disabled := false }).setReg (Reg.prtCtl n.val) 0) := by
  rw [exec_portEnable_eq_hostWrite, s.hostWrite_prtCtl, if_pos hup, show flag 0 0 = false by decide, State.disablePort,
    if_neg Bool.false_ne_true, show (0 : Word) &&& 1 = 0 by decide]

/-! ### LMU_CHc_CTL (R290, R291) -/

/-- EN and SRC lie within the seven bits of LMU_CHc_CTL. -/
theorem channelCtl_fields (v : Word) : flag (v &&& 0x7F) 0 = flag v 0 ∧ field (v &&& 0x7F) 5 1 = field v 5 1 := by
  constructor
  · simp [flag]
  · have hmask : (v &&& 0x7F).toNat = v.toNat % 128 := by
      rw [BitVec.toNat_and]
      exact Nat.and_two_pow_sub_one_eq_mod v.toNat 7
    simp only [field, hmask, Nat.shiftRight_eq_div_pow]
    omega

/-- A channel that was off takes its configuration and its bank at the first label after the write. -/
theorem State.writeChannel_starts {c : Nat} {v : Word} (hv : flag v 0 = true) (hsrc : field v 5 1 ≤ 23) (hoff : s.chOn c = false) :
    s.writeChannel c v = (s.setReg (Reg.lmuChCtl c) (v &&& 0x7F)).changeChannel c (v &&& 0x7F)
      (some (s.reg (Reg.lmuChCfg c), s.coefBank (s.reg (Reg.lmuChCfg c)))) true := by
  obtain ⟨hen, hfield⟩ := channelCtl_fields v
  have hold : flag (s.reg (Reg.lmuChCtl c)) 0 = false := hoff
  simp only [State.writeChannel, hen, hfield, hv, hold, Nat.not_lt.2 hsrc, decide_false, Bool.and_false, Bool.not_false, Bool.and_self,
    Bool.false_eq_true, if_false, if_true]

/-- On a channel that is off, EN = 0 is a plain write. -/
theorem State.writeChannel_stays_off {c : Nat} {v : Word} (hv : flag v 0 = false) (hoff : s.chOn c = false) :
    s.writeChannel c v = s.setReg (Reg.lmuChCtl c) (v &&& 0x7F) := by
  have hold : flag (s.reg (Reg.lmuChCtl c)) 0 = false := hoff
  simp only [State.writeChannel, (channelCtl_fields v).1, hv, hold, Bool.false_and, Bool.and_false, Bool.false_eq_true, if_false]

theorem State.writeChannel_of_bad_source {c : Nat} {v : Word} (hv : flag v 0 = true) (hsrc : 23 < field v 5 1) : s.writeChannel c v = s := by
  obtain ⟨hen, hfield⟩ := channelCtl_fields v
  simp only [State.writeChannel, hen, hfield, hv, hsrc, decide_true, Bool.and_self, if_true]

theorem exec_channelEnable_of_hostUp (c : Fin 24) (v : Word) (hup : s.hostUp = true) :
    exec (.channelEnable c v) s = .next (s.writeChannel c.val v) :=
  congrArg Host.Outcome.next (if_pos hup)

theorem exec_channelEnable_of_bad_source {c : Fin 24} {v : Word} (hv : flag v 0 = true) (hsrc : 23 < field v 5 1) :
    exec (.channelEnable c v) s = .next s := by
  change Host.Outcome.next (if s.hostUp then s.writeChannel c.val v else s) = _
  rw [State.writeChannel_of_bad_source hv hsrc, ite_self]

/-! ### FRAME_TRANSMIT (R130, R136) -/

/-- The state in which port n chooses its next frame: the frame before has left, and what mutes is purged. -/
def State.txTurn (s : State) (n : Nat) : State := (s.runToMono (s.port n).busyUntil).purgeMuted n

/-- Frame x leaves the queue of port n, with the timestamp that it needs, and counts as transmitted. -/
def State.frameLeaves (z : State) (n : Nat) (x : TxItem) : State :=
  let r := (z.onPort n fun p => { p with queue := p.queue.erase x }).ptpEgress n x
  (r.2.onPort n fun p => { p with sent := some { x with bytes := r.1 }, busyUntil := z.tim.mono + z.frameTime n r.1.length }).inc (Reg.prtTxCnt n)

theorem exec_frameTransmit_of_queued {n : Fin 4} {x : TxItem} (hup : s.portUp n.val = true)
    (hx : nextFrame ((s.txTurn n.val).port n.val).queue = some x) : exec (.frameTransmit n) s = .next ((s.txTurn n.val).frameLeaves n.val x) := by
  change execFrameTransmit n s = _
  unfold State.txTurn at hx
  simp only [execFrameTransmit, hup, hx, Bool.not_true, Bool.false_eq_true, if_false]
  rfl

theorem exec_frameTransmit_of_down {n : Fin 4} (h : s.portUp n.val = false) : exec (.frameTransmit n) s = .next s :=
  if_pos (congrArg not h)

/-! ### SUPERVISION_FRAME, ARP_REPLY and PTP_MESSAGE_SEND (R108, R110, R362) -/

/-- The node's supervision frame is sent, and the next one is due 2 s from now. -/
def State.supervises (y : State) : State :=
  (y.send 0 { kind := .general, bytes := y.supervision }).onPrt fun p => { p with supSeq := (p.supSeq + 1) % 65536, supAt := some y.tim.mono }

theorem exec_supervisionFrame_of_pair (hp : s.pairActive = true) (ha : s.awake = true) :
    exec .supervisionFrame s = .next (s.runToMono s.supervisionAt).supervises :=
  if_pos (Bool.and_eq_true_iff.2 ⟨hp, ha⟩)

theorem exec_supervisionFrame_of_no_pair (hp : s.pairActive = false) : exec .supervisionFrame s = .next s := by
  change execSupervisionFrame s = _
  simp only [execSupervisionFrame, hp, Bool.false_and, Bool.false_eq_true, if_false]

/-- The oldest reply owed is that of its port. -/
theorem exec_arpReply_of_oldest {n : Fin 4} {bs : List Byte} {rest : List (Nat × List Byte)} (h : s.prt.replies = (n.val, bs) :: rest) :
    exec (.arpReply n) s = .next ((s.onPrt fun p => { p with replies := rest }).send n.val { kind := .general, bytes := bs }) := by
  have htaken : (s.onPrt fun p => { p with replies := p.replies.erase (n.val, bs) }) = s.onPrt fun p => { p with replies := rest } := by
    simp only [State.onPrt, h, List.erase_cons_head]
  change execArpReply n s = _
  simp only [execArpReply, h, List.find?_cons_of_pos, decide_true, htaken]

theorem exec_ptpMessageSend (n k : Fin 4) (s : State) : exec (.ptpMessageSend n k) s = .next (s.ptpSend n.val k.val) := rfl

theorem State.ptpSend_of_off {n : Nat} (kind : Nat) (h : s.ptpOn n = false) : s.ptpSend n kind = s := if_pos (congrArg not h)

/-! ### DD_ENTRY_EXPIRE (R107) -/

/-- The one entry of the table is forgotten 400 ms after its last frame. -/
theorem exec_ddEntryExpire_of_only {src : BitVec 48} {e : DdEntry} (hdd : s.prt.dd = [e]) (hsrc : e.source = src) :
    exec (.ddEntryExpire src) s = .next ((s.runToMono (e.time + 400000000)).onPrt fun p => { p with dd := [] }) := by
  have hdue : ¬(s.runToMono (e.time + 400000000)).tim.mono < e.time + 400000000 := by
    rw [s.runToMono_mono]
    omega
  change execDdEntryExpire src s = _
  simp [execDdEntryExpire, State.onPrt, hdd, hsrc, hdue]

end

/-- Settles O31, by the write of PRT_CTLn or LMU_CHc_CTL that each command is. -/
theorem portAndChannelControls : Obligations.PortAndChannelControls := by
  refine ⟨?disables, ?enables, ?starts, ?staysOff, ?badSource⟩
  case disables => exact fun _ _ => exec_portDisable_of_idle
  case enables => exact fun _ _ => exec_portEnable_of_hostUp
  case starts =>
    intro c v s hup hv hsrc hoff
    rw [exec_channelEnable_of_hostUp c v hup, State.writeChannel_starts hv hsrc hoff]
    rfl
  case staysOff =>
    intro c v s hup hv hoff
    rw [exec_channelEnable_of_hostUp c v hup, State.writeChannel_stays_off hv hoff]
  case badSource => exact fun _ _ _ => exec_channelEnable_of_bad_source

/-- Settles O47, by what each kind of frame that leaves does to its port. -/
theorem portsSendFrames : Obligations.PortsSendFrames := by
  refine ⟨?transmits, ?down, ?supervision, ?noPair, ?reply, ?ptp, ?ptpOff, ?expires⟩
  case transmits => exact fun _ _ _ hup hx => ⟨_, _, rfl, rfl, exec_frameTransmit_of_queued hup hx⟩
  case down => exact fun _ _ => exec_frameTransmit_of_down
  case supervision => exact fun _ hp ha => ⟨_, rfl, exec_supervisionFrame_of_pair hp ha⟩
  case noPair => exact fun _ => exec_supervisionFrame_of_no_pair
  case reply => exact fun _ _ _ _ => exec_arpReply_of_oldest
  case ptp => exact exec_ptpMessageSend
  case ptpOff =>
    intro n k s hoff
    rw [exec_ptpMessageSend, State.ptpSend_of_off k.val hoff]
  case expires =>
    intro src e s hdd hsrc hle
    refine ⟨_, exec_ddEntryExpire_of_only hdd hsrc, ?_, ?_, ?_⟩
    · rw [State.onPrt_prt, s.runToMono_eq]
    · rw [State.onPrt_tim, s.runToMono_mono, Nat.max_eq_right hle]
    · rw [s.runToMono_eq]
      rfl

end Sys2Proof.Machine
end

section
/-! PROOFS. Enables that are checked: output selections (R184), metering points (R325) and the LPDDR5 regions (R25, R278, R352, R581). -/
namespace Sys2Proof.Machine

section
variable {s : State}

/-! ### Masked register values -/

/-- A register whose reset value is 0 takes the bits within its mask. -/
theorem State.store_eq_setReg_masked (s : State) {off : Nat} {mask : Word} (v : Word)
    (hrow : (regRow off).map (fun r => (r.mask, r.reset)) = some (mask, 0)) : s.store off v = s.setReg off (v &&& mask) := by
  obtain ⟨r, hr, heq⟩ := Option.map_eq_some_iff.1 hrow
  obtain ⟨rfl, hreset⟩ := Prod.mk.inj heq
  simp only [s.store_eq_setReg v hr, hreset, BitVec.ofNat_eq_ofNat, BitVec.zero_and, BitVec.or_zero]

/-- A flag that lies within the mask is kept by it. -/
theorem flag_and_of_mask (v : Word) {mask : Word} {i : Nat} (hm : flag mask i = true) : flag (v &&& mask) i = flag v i := by
  unfold flag at hm ⊢
  rw [BitVec.getLsbD_and, hm, Bool.and_true]

/-- Clearing a flag of a masked value is masking without it. -/
theorem putFlag_and_false (v mask : Word) (i : Nat) : putFlag (v &&& mask) i false = v &&& putFlag mask i false := BitVec.and_assoc ..

theorem flag_putFlag_31_false (w : Word) : flag (putFlag w 31 false) 31 = false := by
  change (w &&& ~~~(bit 31)).getLsbD 31 = false
  rw [BitVec.getLsbD_and, show (~~~(bit 31)).getLsbD 31 = false by decide, Bool.and_false]

/-! ### The commands' writes -/

theorem regAcc_bsnOutRing (n : Fin 8) : (regRow (Reg.bsnOutRing n.val)).map RegRow.acc = some .rws := by
  revert n
  decide

theorem regAcc_regionReg (n : Fin 10) : (regRow (regionReg n.val)).map RegRow.acc = some .rws := by
  revert n
  decide

theorem State.actWrite_bsnOutRing (s : State) (n : Fin 8) (v : Word) : s.actWrite (Reg.bsnOutRing n.val) v = s.writeSelection n.val v := by
  have hslot : Reg.bsnOutRing n.val / 65536 = 0x0A := by dsimp only [Reg.bsnOutRing]; omega
  have hring : regIdx (Reg.bsnOutRing 0) 8 8 (Reg.bsnOutRing n.val) = some n.val := (regIdx_eq_some_iff (by decide)).2 ⟨n.isLt, rfl⟩
  simp only [State.actWrite, hslot, hring]

theorem State.actWrite_schStage (s : State) (v : Word) : s.actWrite Reg.schStage v = s.writeRegion 0 v := rfl

theorem State.actWrite_arcRegion (s : State) (v : Word) : s.actWrite Reg.arcRegion v = (s.writeRegion 1 v).arcEnFollows := rfl

theorem State.actWrite_capUBase (s : State) (u : Fin 8) (v : Word) : s.actWrite (Reg.capUBase u.val) v = s.writeRegion (2 + u.val) v := by
  have hslot : Reg.capUBase u.val / 65536 = 0x12 := by dsimp only [Reg.capUBase]; omega
  have hbase : regIdx (Reg.capUBase 0) 0x40 8 (Reg.capUBase u.val) = some u.val := (regIdx_eq_some_iff (by decide)).2 ⟨u.isLt, rfl⟩
  simp only [State.actWrite, hslot, State.writeCap, hbase]

theorem exec_selectionEnable_of_writable {n : Fin 8} {v : Word} (hup : s.hostUp = true) (hs : s.isSealed = false) :
    exec (.selectionEnable n v) s = .next (s.writeSelection n.val v) := by
  change Host.Outcome.next (s.hostWrite (Reg.bsnOutRing n.val) v) = _
  rw [s.hostWrite_of_hostUp _ v hup, s.writeReg_of_writable v (.inr ⟨regAcc_bsnOutRing n, hs⟩), s.actWrite_bsnOutRing]

theorem exec_pointEnable_of_writable {p : Fin 4} {v : Word} (hup : s.hostUp = true) (hs : s.isSealed = false) :
    exec (.pointEnable p v) s = .next (s.writePoint p.val v) := by
  rw [exec_pointEnable_eq_hostWrite, s.hostWrite_of_hostUp _ v hup, s.writeReg_of_writable v (.inr ⟨regAcc_nrgPtCfg p, hs⟩), s.actWrite_nrgPtCfg]

theorem exec_regionEnable_of_writable {n : Fin 10} {v : Word} (hup : s.hostUp = true) (hs : s.isSealed = false) :
    exec (.regionEnable n v) s = .next (s.actWrite (regionReg n.val) v) := by
  change Host.Outcome.next (s.hostWrite (regionReg n.val) v) = _
  rw [s.hostWrite_of_hostUp _ v hup, s.writeReg_of_writable v (.inr ⟨regAcc_regionReg n, hs⟩)]

theorem exec_regionEnable_archive {v : Word} (hup : s.hostUp = true) (hs : s.isSealed = false) :
    exec (.regionEnable 1 v) s = .next (s.writeRegion 1 v).arcEnFollows :=
  (exec_regionEnable_of_writable hup hs).trans (congrArg Host.Outcome.next (s.actWrite_arcRegion v))

/-- The staging region and those of the capture units have no enable that follows theirs. -/
theorem exec_regionEnable_of_ne_one {n : Fin 10} {v : Word} (hup : s.hostUp = true) (hs : s.isSealed = false) (hn : n.val ≠ 1) :
    exec (.regionEnable n v) s = .next (s.writeRegion n.val v) := by
  rw [exec_regionEnable_of_writable hup hs]
  obtain ⟨n, hlt⟩ := n
  match n with
  | 0 => exact congrArg Host.Outcome.next (s.actWrite_schStage v)
  | 1 => exact absurd rfl hn
  | u + 2 =>
    have hwrite := s.actWrite_capUBase ⟨u, by omega⟩ v
    rw [Nat.add_comm] at hwrite
    exact congrArg Host.Outcome.next hwrite

/-! ### Selections and points -/

/-- The check of an output selection (R184), as a proposition. -/
theorem State.writeSelection_eq (s : State) (n : Fin 8) (v : Word) :
    s.writeSelection n.val v = s.setReg (Reg.bsnOutRing n.val) ((if
      field (s.reg (Reg.bsnOutSel n.val)) 29 16 ≠ 0 ∧ field (s.reg (Reg.bsnOutSel n.val)) 12 0 + field (s.reg (Reg.bsnOutSel n.val)) 29 16 ≤ 8192 ∧
      1 ≤ field v 15 8 ∧ field v 15 8 ≤ 24 ∧ s.fm % field v 15 8 = 0
      then v else putFlag v 31 false) &&& 0x8000FF3F) := by
  have hrow : ∀ n : Fin 8, (regRow (Reg.bsnOutRing n.val)).map (fun r => (r.mask, r.reset)) = some (0x8000FF3F, 0) := by decide
  simp only [State.writeSelection, s.store_eq_setReg_masked _ (hrow n), Bool.and_eq_true, decide_eq_true_eq, and_assoc]

theorem State.writePoint_starts {p : Nat} {v : Word} (hv : flag v 0 = true) (hok : s.pointCfgOk p = true) (hoff : s.nrgOn p = false) :
    s.writePoint p v = ((s.setReg (Reg.nrgPtCfg p) (v &&& 0xFFFF000F)).onPt p fun x => { x with cfgErr := false }).startPoint p := by
  have hen : flag (v &&& 0xFFFF000F) 0 = true := (flag_and_of_mask v (by decide)).trans hv
  simp only [State.writePoint, hen, hok, hoff, Bool.false_eq_true, if_true, if_false]

theorem State.writePoint_refused {p : Nat} {v : Word} (hv : flag v 0 = true) (hok : s.pointCfgOk p = false) :
    s.writePoint p v = (s.setReg (Reg.nrgPtCfg p) (v &&& 0xFFFF000E)).onPt p fun x => { x with cfgErr := true } := by
  have hen : flag (v &&& 0xFFFF000F) 0 = true := (flag_and_of_mask v (by decide)).trans hv
  have hmask : v &&& 0xFFFF000F &&& ~~~1 = v &&& 0xFFFF000E := BitVec.and_assoc ..
  simp only [State.writePoint, hen, hok, hmask, Bool.false_eq_true, if_true, if_false]

/-! ### What is changed outside the registers -/

/-- Nothing but registers and the archive changes. -/
def RegsArcOnly (s t : State) : Prop := t = { s with regs := t.regs, arc := t.arc }

theorem RegsOnly.regsArcOnly {t : State} (h : RegsOnly s t) : RegsArcOnly s t := by
  unfold RegsOnly at h
  rw [h]
  rfl

theorem RegsArcOnly.trans {t u : State} (h : RegsArcOnly s t) (g : RegsArcOnly t u) : RegsArcOnly s u := by
  unfold RegsArcOnly at *
  rw [g, h]

theorem State.onArc_regsArcOnly (s : State) (f : Arc → Arc) : RegsArcOnly s (s.onArc f) := rfl

theorem State.arcEnFollows_regsOnly (s : State) : RegsOnly s s.arcEnFollows := by
  unfold State.arcEnFollows
  dsimp only
  split
  · exact s.setReg_regsOnly _ _
  · rfl

theorem State.arcEnFollows_reg_arcRegion (s : State) : s.arcEnFollows.reg Reg.arcRegion = s.reg Reg.arcRegion := by
  unfold State.arcEnFollows
  dsimp only
  split
  · exact s.reg_setReg_ne _ (by decide)
  · rfl

theorem State.arcEnFollows_arc (s : State) : s.arcEnFollows.arc = s.arc := by
  rw [s.arcEnFollows_regsOnly]

theorem State.arcEnFollows_of_on (h : s.arcRegionOn = true) : s.arcEnFollows = s := by
  simp only [State.arcEnFollows, h, Bool.not_true, Bool.and_false, Bool.false_eq_true, if_false]

/-! ### A write of a region's register -/

/-- The bits of region r's register that a write reaches: EN, FIRST and, but for the staging region, COUNT. -/
def regionMask (r : Nat) : Word := if r = 0 then 0x80001FFF else 0x87FFFFFF

theorem regionMask_of_ne_zero {r : Nat} (h : r ≠ 0) : regionMask r = 0x87FFFFFF := if_neg h

theorem regionReg_of_capture {r u : Nat} (h : r = u + 2) : regionReg r = Reg.capUBase u := by
  subst h
  simp [regionReg]

theorem State.store_regionReg (s : State) {r : Nat} (hr : r < 10) (v : Word) :
    s.store (regionReg r) v = s.setReg (regionReg r) (v &&& regionMask r) := by
  have hrow : ∀ n : Fin 10, (regRow (regionReg n.val)).map (fun r => (r.mask, r.reset)) = some (regionMask n.val, 0) := by decide
  exact s.store_eq_setReg_masked v (hrow ⟨r, hr⟩)

/-- EN lies within every region's mask. -/
theorem flag_and_regionMask (v : Word) (r : Nat) : flag (v &&& regionMask r) 31 = flag v 31 := by
  refine flag_and_of_mask v ?_
  unfold regionMask
  split <;> decide

/-- COUNT lies within the archive region's mask. -/
theorem field_and_regionMask_archive (v : Word) : field (v &&& regionMask 1) 26 13 = field v 26 13 := by
  have hmask : (regionMask 1).toNat >>> 13 % 2 ^ 14 = 2 ^ 14 - 1 := by decide
  simp only [field, BitVec.toNat_and, Nat.shiftRight_and_distrib, Nat.and_mod_two_pow, hmask, Nat.and_two_pow_sub_one_eq_mod, Nat.mod_mod]

/-- Region r with the bits of a write in its register, EN taken back. -/
def State.regionRefused (s : State) (r : Nat) (v : Word) : State :=
  (s.setReg (regionReg r) (v &&& regionMask r)).setReg (regionReg r) (putFlag (v &&& regionMask r) 31 false)

theorem State.regionRefused_reg (s : State) (r : Nat) (v : Word) :
    (s.regionRefused r v).reg (regionReg r) = v &&& putFlag (regionMask r) 31 false := by
  rw [State.regionRefused, State.reg_setReg_self, putFlag_and_false]

theorem State.regionRefused_off (s : State) (r : Nat) (v : Word) : flag ((s.regionRefused r v).reg (regionReg r)) 31 = false := by
  rw [State.regionRefused, State.reg_setReg_self, flag_putFlag_31_false]

theorem State.regionRefused_regsOnly (s : State) (r : Nat) (v : Word) : RegsOnly s (s.regionRefused r v) := rfl

section
variable {r : Nat} {v : Word} (hr : r < 10)
include hr

theorem State.writeRegion_of_disable (hv : flag v 31 = false) : s.writeRegion r v =
    if r = 1 then (s.setReg (regionReg r) (v &&& regionMask r)).onArc fun a => { a with regionErr := false }
    else s.setReg (regionReg r) (v &&& regionMask r) := by
  simp only [State.writeRegion, s.store_regionReg hr, State.reg_setReg_self, flag_and_regionMask, hv, Bool.not_false, if_true]

/-- A region that overlaps another stays disabled, with a record (R25). -/
theorem State.writeRegion_of_overlap (hv : flag v 31 = true) (hov : s.regionOverlaps r (v &&& regionMask r) = true) : s.writeRegion r v =
    (if r = 1 then (s.regionRefused r v).onArc fun a => { a with regionErr := true } else s.regionRefused r v).overlapRecord r := by
  simp only [State.writeRegion, State.regionRefused, s.store_regionReg hr, State.reg_setReg_self, flag_and_regionMask, hv, hov, Bool.not_true,
    Bool.false_eq_true, if_false, if_true]

/-- A region that overlaps none is enabled while the memory works (R25). -/
theorem State.writeRegion_enables (hne : r ≠ 1) (hv : flag v 31 = true) (hddr : s.sys.boot.ddrOk = true)
    (hov : s.regionOverlaps r (v &&& regionMask r) = false) : s.writeRegion r v = s.setReg (regionReg r) (v &&& regionMask r) := by
  simp only [State.writeRegion, s.store_regionReg hr, State.reg_setReg_self, flag_and_regionMask, hv, hddr, hov, hne, decide_false, Bool.false_and,
    Bool.not_true, Bool.false_eq_true, if_false]

/-- Without the memory a region stays disabled (R581); of the archive region the span is still judged (R278). -/
theorem State.writeRegion_of_no_memory (hv : flag v 31 = true) (hddr : s.sys.boot.ddrOk = false)
    (hov : s.regionOverlaps r (v &&& regionMask r) = false) : s.writeRegion r v =
      if r = 1 then (s.regionRefused r v).onArc fun a => { a with regionErr := decide (field v 26 13 < 32) } else s.regionRefused r v := by
  by_cases h1 : r = 1
  · subst h1
    by_cases hsize : field v 26 13 < 32 <;>
      simp [State.writeRegion, State.regionRefused, s.store_regionReg hr, flag_and_regionMask, field_and_regionMask_archive, hv, hddr, hov, hsize]
  · simp [State.writeRegion, State.regionRefused, s.store_regionReg hr, flag_and_regionMask, hv, hddr, hov, h1]

/-- Whatever is written without the memory, EN is 0 afterwards, and beyond the registers only the archive can change. -/
theorem State.writeRegion_off_of_no_memory (hddr : s.sys.boot.ddrOk = false) (hov : s.regionOverlaps r (v &&& regionMask r) = false) :
    ∃ (x : State) (f : Arc → Arc), s.writeRegion r v = (if r = 1 then x.onArc f else x) ∧ flag (x.reg (regionReg r)) 31 = false ∧ RegsOnly s x := by
  cases hv : flag v 31 with
  | false =>
    refine ⟨_, _, State.writeRegion_of_disable hr hv, ?_, s.setReg_regsOnly _ _⟩
    rw [State.reg_setReg_self, flag_and_regionMask, hv]
  | true => exact ⟨_, _, State.writeRegion_of_no_memory hr hv hddr hov, s.regionRefused_off r v, s.regionRefused_regsOnly r v⟩

end

/-- An archive region that overlaps none and spans 64 MiB or more is enabled while the memory works, empty where its register is new (R278, log 8). -/
theorem State.writeRegion_archive_enables {v : Word} (hv : flag v 31 = true) (hddr : s.sys.boot.ddrOk = true) (hsize : 32 ≤ field v 26 13)
    (hov : s.regionOverlaps 1 (v &&& regionMask 1) = false) : s.writeRegion 1 v =
      if s.reg Reg.arcRegion = v &&& regionMask 1 then s.setReg Reg.arcRegion (v &&& regionMask 1)
      else (s.setReg Reg.arcRegion (v &&& regionMask 1)).freshArchive := by
  simp only [State.writeRegion, s.store_regionReg (show 1 < 10 by decide), State.reg_setReg_self, flag_and_regionMask, field_and_regionMask_archive, hv,
    hddr, hov, Nat.not_lt.2 hsize, decide_true, decide_false, Bool.and_false, Bool.not_true, Bool.false_eq_true, if_false, if_true]
  rfl

/-- An archive region below 64 MiB stays disabled (R278). -/
theorem State.writeRegion_archive_too_small {v : Word} (hv : flag v 31 = true) (hsize : field v 26 13 < 32)
    (hov : s.regionOverlaps 1 (v &&& regionMask 1) = false) :
    s.writeRegion 1 v = (s.regionRefused 1 v).onArc fun a => { a with regionErr := true } := by
  simp only [State.writeRegion, State.regionRefused, s.store_regionReg (show 1 < 10 by decide), State.reg_setReg_self, flag_and_regionMask,
    field_and_regionMask_archive, hv, hov, hsize, decide_true, Bool.and_self, Bool.not_true, Bool.false_eq_true, if_false, if_true]

/-! ### The REGION_OVERLAP record (Table EVR-2) -/

theorem State.overlapRecord_stage (s : State) : s.overlapRecord 0 = s.event 0x0104 clsNotice [0] := rfl

theorem State.overlapRecord_archive (s : State) : s.overlapRecord 1 = s.event 0x0104 clsNotice [place 1 0] := rfl

theorem State.overlapRecord_capture (s : State) (u : Nat) : s.overlapRecord (u + 2) = s.event 0x0104 clsNotice [place 2 0 ||| place u 8] := by
  rw [State.overlapRecord, Nat.min_eq_right (Nat.le_add_left 2 u), Nat.add_sub_cancel]

/-! ### REGION_ENABLE, outcome by outcome -/

section
variable {n : Fin 10} {v : Word} (hup : s.hostUp = true) (hs : s.isSealed = false)
include hup hs

theorem exec_regionEnable_enables (hne : n.val ≠ 1) (hv : flag v 31 = true) (hddr : s.sys.boot.ddrOk = true)
    (hov : s.regionOverlaps n.val (v &&& regionMask n.val) = false) :
    exec (.regionEnable n v) s = .next (s.setReg (regionReg n.val) (v &&& regionMask n.val)) := by
  rw [exec_regionEnable_of_ne_one hup hs hne, State.writeRegion_enables n.isLt hne hv hddr hov]

theorem exec_regionEnable_of_overlap (hne : n.val ≠ 1) (hv : flag v 31 = true) (hov : s.regionOverlaps n.val (v &&& regionMask n.val) = true) :
    exec (.regionEnable n v) s = .next ((s.regionRefused n.val v).overlapRecord n.val) := by
  rw [exec_regionEnable_of_ne_one hup hs hne, State.writeRegion_of_overlap n.isLt hv hov, if_neg hne]

theorem exec_regionEnable_of_no_memory (hne : n.val ≠ 1) (hddr : s.sys.boot.ddrOk = false)
    (hov : s.regionOverlaps n.val (v &&& regionMask n.val) = false) :
    ∃ t : State, exec (.regionEnable n v) s = .next t ∧ flag (t.reg (regionReg n.val)) 31 = false ∧ RegsOnly s t := by
  obtain ⟨x, f, hx, hoff, honly⟩ := State.writeRegion_off_of_no_memory n.isLt hddr hov
  rw [if_neg hne] at hx
  exact ⟨x, hx ▸ exec_regionEnable_of_ne_one hup hs hne, hoff, honly⟩

/-- An archive region that is enabled lets ARC_CFG.EN stay as it is (R276). -/
theorem exec_regionEnable_archive_enables (hv : flag v 31 = true) (hddr : s.sys.boot.ddrOk = true) (hsize : 32 ≤ field v 26 13)
    (hov : s.regionOverlaps 1 (v &&& regionMask 1) = false) : exec (.regionEnable 1 v) s = .next
      (if s.reg Reg.arcRegion = v &&& regionMask 1 then s.setReg Reg.arcRegion (v &&& regionMask 1)
      else (s.setReg Reg.arcRegion (v &&& regionMask 1)).freshArchive) := by
  have hon : (s.setReg Reg.arcRegion (v &&& regionMask 1)).arcRegionOn = true := by
    rw [State.arcRegionOn, State.regBit, State.reg_setReg_self, flag_and_regionMask, hv]
  rw [exec_regionEnable_archive hup hs, State.writeRegion_archive_enables hv hddr hsize hov]
  split
  · rw [State.arcEnFollows_of_on hon]
  · exact congrArg Host.Outcome.next (State.arcEnFollows_of_on hon)

theorem exec_regionEnable_archive_too_small (hv : flag v 31 = true) (hsize : field v 26 13 < 32)
    (hov : s.regionOverlaps 1 (v &&& regionMask 1) = false) :
    exec (.regionEnable 1 v) s = .next ((s.regionRefused 1 v).onArc fun a => { a with regionErr := true }).arcEnFollows := by
  rw [exec_regionEnable_archive hup hs, State.writeRegion_archive_too_small hv hsize hov]

theorem exec_regionEnable_archive_of_overlap (hv : flag v 31 = true) (hov : s.regionOverlaps 1 (v &&& regionMask 1) = true) :
    exec (.regionEnable 1 v) s =
      .next (((s.regionRefused 1 v).onArc fun a => { a with regionErr := true }).event 0x0104 clsNotice [place 1 0]).arcEnFollows := by
  rw [exec_regionEnable_archive hup hs, State.writeRegion_of_overlap (by decide) hv hov, if_pos rfl, State.overlapRecord_archive]

theorem exec_regionEnable_archive_of_no_memory (hddr : s.sys.boot.ddrOk = false) (hov : s.regionOverlaps 1 (v &&& regionMask 1) = false) :
    ∃ t : State, exec (.regionEnable 1 v) s = .next t ∧ flag (t.reg Reg.arcRegion) 31 = false ∧ RegsArcOnly s t := by
  obtain ⟨x, f, hx, hoff, honly⟩ := State.writeRegion_off_of_no_memory (show 1 < 10 by decide) hddr hov
  rw [if_pos rfl] at hx
  refine ⟨_, exec_regionEnable_archive hup hs, ?_, ?_⟩
  · rw [hx, State.arcEnFollows_reg_arcRegion]
    exact hoff
  · rw [hx]
    exact (honly.regsArcOnly.trans (x.onArc_regsArcOnly f)).trans (x.onArc f).arcEnFollows_regsOnly.regsArcOnly

end

end

/-- Settles O32, by the checks that each write makes and, for a region, the outcome that they leave. -/
theorem enablesAreChecked : Obligations.EnablesAreChecked := by
  refine ⟨?selection, ?pointStarts, ?pointRefused, ?stageOn, ?stageOverlaps, ?captureOn, ?captureOverlaps, ?archiveOn, ?archiveSmall, ?archiveOverlaps,
    ?noMemory, ?stageNoMemory⟩
  case selection =>
    intro n v s hup hs
    rw [exec_selectionEnable_of_writable hup hs, s.writeSelection_eq]
  case pointStarts =>
    intro p v s hup hs hv hok hoff
    rw [exec_pointEnable_of_writable hup hs, State.writePoint_starts hv hok hoff]
  case pointRefused =>
    intro p v s hup hs hv hok
    rw [exec_pointEnable_of_writable hup hs, State.writePoint_refused hv hok]
  case stageOn => exact fun v s hup hs => exec_regionEnable_enables (n := 0) hup hs (by decide)
  case stageOverlaps =>
    exact fun v s hup hs hv _ hov =>
      ⟨_, exec_regionEnable_of_overlap hup hs (by decide) hv hov, s.regionRefused_reg 0 v, s.regionRefused_regsOnly 0 v⟩
  case captureOn =>
    intro u n v s hup hs hn hv hddr hov
    have hmask : regionMask n.val = 0x87FFFFFF := regionMask_of_ne_zero (by omega)
    rw [← hmask] at hov ⊢
    rw [exec_regionEnable_enables hup hs (by omega) hv hddr hov, regionReg_of_capture hn]
  case captureOverlaps =>
    intro u n v s hup hs hn hv hov
    have hmask : regionMask n.val = 0x87FFFFFF := regionMask_of_ne_zero (by omega)
    rw [← hmask] at hov
    refine ⟨s.regionRefused n.val v, ?_, ?_, s.regionRefused_regsOnly n.val v⟩
    · rw [exec_regionEnable_of_overlap hup hs (by omega) hv hov, hn, State.overlapRecord_capture]
    · rw [← regionReg_of_capture hn, s.regionRefused_reg, hmask]
      rfl
  case archiveOn =>
    intro v s hup hs hv hddr hsize hov
    refine ⟨_, exec_regionEnable_archive_enables hup hs hv hddr hsize hov, ?_⟩
    split
    next heq => exact ⟨s.reg_setReg_self _ _, fun o ho => s.reg_setReg_ne _ ho, fun hne => absurd heq hne, rfl⟩
    next => exact ⟨s.reg_setReg_self _ _, fun o ho => s.reg_setReg_ne _ ho, fun _ => rfl, rfl⟩
  case archiveSmall =>
    intro v s hup hs hv hsize hov
    refine ⟨_, exec_regionEnable_archive_too_small hup hs hv hsize hov, ?_, State.arcEnFollows_arc _, ?_⟩
    · rw [State.arcEnFollows_reg_arcRegion]
      exact s.regionRefused_reg 1 v
    · exact ((s.regionRefused_regsOnly 1 v).regsArcOnly.trans (State.onArc_regsArcOnly _ _)).trans (State.arcEnFollows_regsOnly _).regsArcOnly
  case archiveOverlaps =>
    exact fun v s hup hs hv hov =>
      ⟨_, exec_regionEnable_archive_of_overlap hup hs hv hov, s.regionRefused_reg 1 v, s.regionRefused_regsOnly 1 v⟩
  case noMemory =>
    intro n v s hup hs hddr hov hn
    rw [← regionMask_of_ne_zero hn] at hov
    by_cases h1 : n.val = 1
    · obtain rfl : n = 1 := Fin.ext h1
      exact exec_regionEnable_archive_of_no_memory hup hs hddr hov
    · obtain ⟨t, ht, hoff, honly⟩ := exec_regionEnable_of_no_memory hup hs h1 hddr hov
      exact ⟨t, ht, hoff, honly.regsArcOnly⟩
  case stageNoMemory => exact fun v s hup hs => exec_regionEnable_of_no_memory (n := 0) hup hs (by decide)

end Sys2Proof.Machine
end

section
/-! PROOFS. The inputs that the engines take: modal feeds, topology passes, alarm inputs, and the retransmission of GOOSE frames (chapters 06
and 07, R202, R204, R225, R231, R239). -/
namespace Sys2Proof.Machine

section
variable {s : State}

/-! ### MODAL_FEED_PROCESSED and TOPOLOGY_PASS (R202, R204, R225) -/

theorem exec_modalFeedProcessed_of_due {p : Nat} {feed : ModFeed} (errs : List MemErr) (hd : s.dueFeed = some (p, feed)) (hw : s.windowOpen = true) :
    exec (.modalFeedProcessed errs) s = .next ((s.memErrors errs).completeFeed p feed) := by
  change execModalFeedProcessed errs s = _
  simp only [execModalFeedProcessed, hd, hw, if_true]

theorem exec_topologyPass_of_due {p : Proc} (n : Nat) (errs : List MemErr) (hp : s.tck.proc = some p) (hd : s.passDue = true)
    (hw : s.windowOpen = true) : exec (.topologyPass n errs) s = .next ((s.memErrors errs).completePass p.tick n) := by
  change execTopologyPass n errs s = _
  simp only [execTopologyPass, hp, hd, hw, Bool.and_self, if_true]

/-! ### ALARM_EVALUATE (R231) -/

theorem State.evaluateNext_of_sent {e : AlarmEval} {rest : List AlarmEval} (h : s.alm.sent = e :: rest) :
    s.evaluateNext = (s.onAlm fun m => { m with sent := rest }).evaluate e := by
  simp only [State.evaluateNext, h]

/-- The general queue is served only while the Sentinel queue is empty. -/
theorem State.evaluateNext_of_general {e : AlarmEval} {rest : List AlarmEval} (hs : s.alm.sent = []) (h : s.alm.general = e :: rest) :
    s.evaluateNext = (s.onAlm fun m => { m with general := rest }).evaluate e := by
  simp only [State.evaluateNext, hs, h]

theorem State.evaluateNext_of_empty (hs : s.alm.sent = []) (hg : s.alm.general = []) : s.evaluateNext = s := by
  simp only [State.evaluateNext, hs, hg]

theorem exec_alarmEvaluate_of_column (h : s.tck.proc.isSome = true) : exec (.alarmEvaluate []) s = .next s.evaluateNext :=
  congrArg Host.Outcome.next (if_pos h)

theorem exec_alarmEvaluate_of_no_column (h : s.tck.proc = none) : exec (.alarmEvaluate []) s = .next s :=
  congrArg Host.Outcome.next (if_neg (by simp [h]))

theorem exec_alarmEvaluate_of_empty (hs : s.alm.sent = []) (hg : s.alm.general = []) : exec (.alarmEvaluate []) s = .next s := by
  cases hp : s.tck.proc with
  | none => exact exec_alarmEvaluate_of_no_column hp
  | some p => rw [exec_alarmEvaluate_of_column (by rw [hp]; rfl), State.evaluateNext_of_empty hs hg]

/-! ### GOOSE_RETRANSMIT (R239) -/

@[simp] theorem State.runToMono_img (s : State) (m : Nat) : (s.runToMono m).img = s.img := by
  simp only [State.img, State.runToMono_sch]

/-- Template state g after the retransmission that was due at m, for a template of longest interval t0: the interval doubles up to it. -/
def Goose.retransmitted (g : Goose) (t0 m : Nat) : Goose :=
  { g with
    sqNum := (g.sqNum + 1) % 2 ^ 32, interval := min (2 * g.interval) t0, next := some (m + min (2 * g.interval) t0 * 1000000) }

/-- The state in which template t has taken on g, with the frame that g makes queued as a new one. -/
def State.gooseRepeats (s : State) (t : Nat) (g : Goose) : State :=
  (s.onAlm fun x => { x with templates := mapSet x.templates t g }).gooseSend t (gooseFrame s.img t g) false

theorem exec_gooseRetransmit_of_due {n : Fin 32} {m : Nat} (hn : (s.alm.template n.val).next = some m)
    (hst : (s.alm.template n.val).stopped = false) (hpub : s.publishes = true) (hi : s.imageActive = true) (ha : s.awake = true) :
    exec (.gooseRetransmit n) s =
      .next ((s.runToMono m).gooseRepeats n.val ((s.alm.template n.val).retransmitted (tplT0 s.img n.val) m)) := by
  have hready : ((s.alm.template n.val).stopped || !s.publishes || !s.imageActive && !s.alm.fail || !s.awake) = false := by
    simp only [hst, hpub, hi, ha, Bool.not_true, Bool.false_and, Bool.or_self]
  change execGooseRetransmit n s = _
  simp only [execGooseRetransmit, State.gooseRepeats, State.runToMono_img, hn, hready, Bool.false_eq_true, if_false]
  rfl

theorem exec_gooseRetransmit_of_unscheduled {n : Fin 32} (hn : (s.alm.template n.val).next = none) : exec (.gooseRetransmit n) s = .next s := by
  change execGooseRetransmit n s = _
  simp only [execGooseRetransmit, hn]

/-- A device that does not publish retransmits nothing, whatever is scheduled. -/
theorem exec_gooseRetransmit_of_not_publishes (n : Fin 32) (hpub : s.publishes = false) : exec (.gooseRetransmit n) s = .next s := by
  cases hn : (s.alm.template n.val).next with
  | none => exact exec_gooseRetransmit_of_unscheduled hn
  | some m =>
    change execGooseRetransmit n s = _
    simp only [execGooseRetransmit, hn, hpub, Bool.not_false, Bool.or_true, Bool.true_or, if_true]

end

/-- Settles O37, by the input that each engine finds due: the pipeline's feed, the column's pass, the head of the Sentinel queue before that of the
general one, and the template's schedule. -/
theorem enginesTakeTheirInputs : Obligations.EnginesTakeTheirInputs := by
  refine ⟨?feed, ?pass, ?sent, ?general, ?noInput, ?retransmits, ?silent⟩
  case feed => exact fun _ _ errs _ => exec_modalFeedProcessed_of_due errs
  case pass => exact fun n _ errs _ => exec_topologyPass_of_due n errs
  case sent =>
    intro e rest s hp hs
    rw [exec_alarmEvaluate_of_column hp, State.evaluateNext_of_sent hs]
  case general =>
    intro e rest s hp hs hg
    rw [exec_alarmEvaluate_of_column hp, State.evaluateNext_of_general hs hg]
  case noInput =>
    rintro s (hp | ⟨hs, hg⟩)
    · exact exec_alarmEvaluate_of_no_column hp
    · exact exec_alarmEvaluate_of_empty hs hg
  case retransmits =>
    intro n m s hn hst hpub hi ha
    refine ⟨_, _, exec_gooseRetransmit_of_due hn hst hpub hi ha, rfl, ?_⟩
    rw [State.gooseRepeats, State.runToMono_img]
    rfl
  case silent =>
    rintro n s (hn | hpub)
    · exact exec_gooseRetransmit_of_unscheduled hn
    · exact exec_gooseRetransmit_of_not_publishes n hpub

end Sys2Proof.Machine
end

section
/-! PROOFS. The archive: columns, blocks, drains and replays (chapter 08, R261, R267, R269 to R272, R507), with ARC_REPLAY and the commands that share its
obligation (R293, R294, R408, R540). -/
namespace Sys2Proof.Machine

section
variable {s : State}

/-! ### ARCHIVE_COMPRESS (R261) -/

theorem exec_archiveCompress_of_column {tick : Nat} {dir : Byte} {rest : List (Nat × Byte)} {c : Column} (hq : s.arc.queue = (tick, dir) :: rest)
    (hc : s.column tick = some c) (hg : s.gate 36 = true) : exec (.archiveCompress []) s =
      .next (((List.range 128).filter s.arcGroup).foldl (fun (x : State) g => x.arcTake c dir g) (s.onArc fun a => { a with queue := rest })) := by
  have hcol : (s.onArc fun a => { a with queue := rest }).column tick = some c := hc
  change execArchiveCompress [] s = _
  simp only [execArchiveCompress, hq, hg, hcol, List.foldl_nil, Bool.not_true, Bool.false_eq_true, if_false]
  rfl

theorem exec_archiveCompress_of_idle (errs : List MemErr) (h : s.arc.queue = [] ∨ s.gate 36 = false) :
    exec (.archiveCompress errs) s = .next s := by
  change execArchiveCompress errs s = _
  unfold execArchiveCompress
  split
  · rfl
  · next hq =>
    have hg : s.gate 36 = false := h.resolve_left (by simp [hq])
    simp only [hg, Bool.not_false, if_true]

/-! ### ARCHIVE_BLOCK_COMPLETE (R267, R269, R507) -/

theorem State.arcReaches_iff : s.arcReaches = true ↔ s.gate 36 = true ∧ (s.regBit Reg.arcCfg 4 = true ∨ s.gate 46 = true) := by
  simp only [State.arcReaches, Bool.and_eq_true, Bool.or_eq_true]

theorem exec_archiveBlockComplete_of_not_reaches (h : s.arcReaches = false) : exec .archiveBlockComplete s = .next s := by
  change execArchiveBlockComplete s = _
  unfold execArchiveBlockComplete
  split
  · rfl
  · simp only [h, Bool.not_false, if_true]

/-- What becomes of the oldest ended block is decided by its sealing. -/
theorem exec_archiveBlockComplete_of_reaches {b : ArcBlock} {rest : List ArcBlock} (he : s.arc.ended = b :: rest) (hr : s.arcReaches = true) :
    exec .archiveBlockComplete s = .next (match b.state with
      | .waiting _ => s
      | .failed => (s.onArc fun a => { a with ended := rest }).inc Reg.arcSealFailCnt
      | .plain => (s.onArc fun a => { a with ended := rest }).arcFinish b b.plainBytes
      | .done _ bs => (s.onArc fun a => { a with ended := rest }).arcFinish b bs) := by
  change execArchiveBlockComplete s = _
  simp only [execArchiveBlockComplete, he, hr, Bool.not_true, Bool.false_eq_true, if_false]
  cases b.state <;> rfl

/-! ### ARCHIVE_DRAIN (R270, R271, R396, R399) -/

theorem exec_archiveDrain_of_idle (e : Bool) (h : s.arc.undrained = [] ∨ s.gate 36 = false ∨ s.gate 46 = false) :
    exec (.archiveDrain e) s = .next s := by
  change execArchiveDrain e s = _
  unfold execArchiveDrain
  split
  · rfl
  · next hu =>
    have hg : (!s.gate 36 || !s.gate 46) = true := by
      rcases h.resolve_left (by simp [hu]) with hg | hg <;> simp [hg]
    simp only [hg, if_true]

/-- The result words of a drained block (R270): the unit at which it lies in the region, and its type. -/
def State.drainWords (s : State) (off n : Nat) : List Word := [w32 off, w32 (field (hdrWord (s.regionRead off n) 0) 7 0), 0]

theorem exec_archiveDrain_of_open {off n : Nat} {rest : List (Nat × Nat)} (e : Bool) (hu : s.arc.undrained = (off, n) :: rest)
    (ha : s.gate 36 = true) (hd : s.gate 46 = true) : exec (.archiveDrain e) s = .next
      (if s.canDeliver s.arcRing 6 then
        if e then ((s.onArc fun a => { a with undrained := rest }).deliverFail s.arcRing 6 stMemError (s.drainWords off n)).inc Reg.arcUeCnt
        else (s.onArc fun a => { a with undrained := rest }).deliverOr s.arcRing 6 (s.regionRead off n) (s.drainWords off n) Reg.arcDropCnt
      else (s.onArc fun a => { a with undrained := rest }).inc Reg.arcDropCnt) := by
  change execArchiveDrain e s = _
  simp only [execArchiveDrain, hu, ha, hd, Bool.not_true, Bool.or_self, Bool.false_eq_true, if_false]
  cases s.canDeliver s.arcRing 6 <;> cases e <;> rfl

/-! ### REPLAY_COMPLETE (R271, R272, R507) -/

theorem exec_replayComplete_of_none (e : Bool) (h : s.arc.replay = none) : exec (.replayComplete e) s = .next s := by
  change execReplayComplete e s = _
  simp only [execReplayComplete, h]

/-- The sluices that a replay needs are open (R507): that of the archive, and that of the memory for a block of the region. -/
def State.replayReaches (s : State) (r : ArcReplay) : Bool := s.gate 36 && (!r.range.isSome || s.gate 46)

theorem State.replayReaches_iff {r : ArcReplay} :
    s.replayReaches r = true ↔ s.gate 36 = true ∧ (r.range.isSome = true → s.gate 46 = true) := by
  simp only [State.replayReaches, Bool.and_eq_true, Bool.or_eq_true, Bool.not_eq_true', ← Bool.not_eq_true, ← Decidable.imp_iff_not_or]

theorem State.not_replayReaches (r : ArcReplay) : (!s.replayReaches r) = (!s.gate 36 || r.range.isSome && !s.gate 46) := by
  simp only [State.replayReaches, Bool.not_and, Bool.not_or, Bool.not_not]

section
variable {r : ArcReplay} (hr : s.arc.replay = some r)
include hr

theorem exec_replayComplete_of_not_reaches (e : Bool) (h : s.replayReaches r = false) : exec (.replayComplete e) s = .next s := by
  change execReplayComplete e s = _
  simp only [execReplayComplete, hr, ← State.not_replayReaches, h, Bool.not_false, if_true]

variable (h : s.replayReaches r = true)
include h

theorem exec_replayComplete_of_overwritten (ho : r.overwritten = true) : exec (.replayComplete false) s = .next (s.endReplay r stOverwritten 0) := by
  change execReplayComplete false s = _
  simp only [execReplayComplete, hr, ← State.not_replayReaches, h, ho, Bool.not_true, Bool.false_and, Bool.false_eq_true, if_false, if_true]

variable (ho : r.overwritten = false) (ha : r.aborted = false) (hj : r.jobs = 0)
include ho ha hj

theorem exec_replayComplete_of_failed {st : Nat} {x : State} (hdec : s.decodeReplay r = (.failed st, x)) :
    exec (.replayComplete false) s = .next (x.endReplay r st 0) := by
  change execReplayComplete false s = _
  simp only [execReplayComplete, hr, ← State.not_replayReaches, h, ho, ha, hj, hdec, Bool.not_true, Bool.false_and, Bool.false_eq_true, Nat.lt_irrefl,
    if_false]

/-- A decoded record is delivered to a ring that can take it. -/
theorem exec_replayComplete_of_record {type : Nat} {data : List Byte} {x : State} (hc : s.canDeliver r.ring 6 = true)
    (hdec : s.decodeReplay r = (.record type data, x)) : exec (.replayComplete false) s =
      .next ((x.deliverOr r.ring 6 data [0xFFFFFFFF, w32 type, r.ref.tag.setWidth 32] Reg.arcDropCnt).endReplay r stOk type) := by
  change execReplayComplete false s = _
  simp only [execReplayComplete, hr, ← State.not_replayReaches, h, ho, ha, hj, hc, hdec, Bool.not_true, Bool.and_false, Bool.false_and,
    Bool.false_eq_true, Nat.lt_irrefl, if_false]

end

/-! ### Commands on the state in which their descriptor is read (R397, R405) -/

/-- Reading a descriptor moves the device's index of its ring, and nothing else of any ring. -/
theorem State.ring_commandTaken (s : State) (h : CmdHdr) (n : Nat) :
    (s.commandTaken h).ring n = { s.ring n with devIdx := ((s.commandTaken h).ring n).devIdx } := by
  unfold State.commandTaken
  by_cases hn : n = h.ring.val
  · rw [hn, State.ring_setRing_self]
  · rw [State.ring_setRing_ne s _ hn]

/-- A step that is a command, served and begun as one of the long commands. -/
theorem State.next_command_of_begins {h : CmdHdr} {body : CmdRef → State → State × CmdEnd} {t : State} (hs : s.serves h)
    (hl : s.hif.outstanding.length < 32) (hb : body (s.refOf h) (s.commandTaken h) = (t, .long)) :
    (.next (s.command h false body) : Answer) = .next (s.begun h t) :=
  congrArg Host.Outcome.next (s.command_long h false body hs.1 (.inl hs.2) hl t hb)

/-! ### ARC_REPLAY (R272) -/

/-- A block that the host supplies is replayed to a ring of TYPE 6 while no other replay is in progress. -/
theorem exec_arcReplay_of_host {h : CmdHdr} {w1 w4 : Word} (w2 w3 : Word) (block : List Byte) (hs : s.serves h)
    (hw : (s.ring (field w1 13 8)).works = true) (ht : s.ringType (field w1 13 8) = 6) (hhost : flag w1 0 = true) (hr : s.arc.replay = none)
    (hd : h.dmaErr = false) (hl : s.hif.outstanding.length < 32) : exec (.arcReplay h w1 w2 w3 w4 block) s =
      .next (s.begun h ((s.commandTaken h).startReplay (s.refOf h) (field w1 13 8) (block.take w4.toNat) none)) := by
  have hworks : ((s.commandTaken h).ring (field w1 13 8)).works = true := by rw [State.ring_commandTaken]; exact hw
  have htype : (s.commandTaken h).ringType (field w1 13 8) = 6 := ht
  have hidle : (s.commandTaken h).arc.replay = none := hr
  refine State.next_command_of_begins hs hl ?_
  simp only [hworks, htype, hidle, hhost, hd, decide_true, Bool.and_self, Bool.not_true, Bool.false_and, Bool.and_false, Option.isSome_none,
    Bool.false_eq_true, if_false, if_true]

/-! ### LMU_XFADE (R293, R294) -/

/-- The channels that LMU_XFADE names. -/
theorem mem_fadeChannels {w1 : Word} {c : Nat} : c ∈ (List.range 24).filter (fun k => flag w1 k) ↔ c < 24 ∧ flag w1 c = true := by
  rw [List.mem_filter, List.mem_range]

theorem exec_lmuXfade_of_accepted {h : CmdHdr} {w1 w4 w5 w6 : Word} (addr : BitVec 64) {buf : List Byte} {l : Nat} (hs : s.serves h) (hw : w1 ≠ 0)
    (hhigh : field w1 31 24 = 0) (hch : ∀ c < 24, flag w1 c = true → s.chOn c = true ∧ s.fading c = false)
    (hlen : field w4 12 0 = 0 ∨ (64 ≤ field w4 12 0 ∧ field w4 12 0 ≤ 4096)) (hd : h.dmaErr = false)
    (hn : (wordsOf (buf.take 384)).length = 96) (hfin : ∀ k ∈ wordsOf (buf.take 384), fpIsFinite k = true)
    (hsym : ∀ k < 96, wordAt (wordsOf (buf.take 384)) k = wordAt (wordsOf (buf.take 384)) (95 - k)) (hstart : s.fadeStart w5 w6 = some l)
    (hl : s.hif.outstanding.length < 32) :
    exec (.lmuXfade h w1 addr w4 w5 w6 buf) s = .next (s.begun h ((s.commandTaken h).onLmu fun m =>
      { m with
        fades := m.fades ++ [{ ref := s.refOf h, mask := w1.setWidth 24, coefs := wordsOf (buf.take 384), len := field w4 12 0, start := l }] })) := by
  have hon : (((List.range 24).filter fun k => flag w1 k).any fun k => !(s.commandTaken h).chOn k) = false :=
    List.any_eq_false.2 fun c hc => by
      obtain ⟨hlt, hf⟩ := mem_fadeChannels.1 hc
      have honC : (s.commandTaken h).chOn c = true := (hch c hlt hf).1
      rw [honC]
      decide
  have hfree : (((List.range 24).filter fun k => flag w1 k).any (s.commandTaken h).fading) = false :=
    List.any_eq_false.2 fun c hc => by
      obtain ⟨hlt, hf⟩ := mem_fadeChannels.1 hc
      exact Bool.eq_false_iff.1 (hch c hlt hf).2
  have hspan : (decide (field w4 12 0 ≠ 0) && (decide (field w4 12 0 < 64) || decide (4096 < field w4 12 0))) = false := by
    rw [← Bool.not_eq_true]
    simp only [Bool.and_eq_true, Bool.or_eq_true, decide_eq_true_eq]
    omega
  have hfinite : ((wordsOf (buf.take 384)).any fun k => !fpIsFinite k) = false :=
    List.any_eq_false.2 fun k hk => by rw [hfin k hk]; decide
  have hmirror : ((List.range 96).any fun k => decide (wordAt (wordsOf (buf.take 384)) k ≠ wordAt (wordsOf (buf.take 384)) (95 - k))) = false :=
    List.any_eq_false.2 fun k hk => by simpa using hsym k (List.mem_range.1 hk)
  have hlabel : (s.commandTaken h).fadeStart w5 w6 = some l := hstart
  have hnot : decide (w1 = 0) = false := decide_eq_false hw
  refine State.next_command_of_begins hs hl ?_
  simp only [hnot, hhigh, hon, hfree, hspan, hfinite, hmirror, hlabel, hd, hn, ne_eq, not_true_eq_false, decide_false, Nat.lt_irrefl, Bool.or_self,
    Bool.false_eq_true, if_false]

/-! ### TELEM_CFG and opcodes that are not listed (R408, R540) -/

theorem exec_telemCfg_of_ring {h : CmdHdr} {w1 : Word} (hc : s.canAccept h = true) (hf : flag w1 8 = true)
    (he : (s.ring (field w1 5 0)).enabled = true) (ht : s.ringType (field w1 5 0) = 9) : exec (.telemCfg h w1) s =
      .next (s.done h { status := stOk } ((s.commandTaken h).onPwr fun p => { p with telemRing := some (field w1 5 0) })) := by
  have hon : ((s.commandTaken h).ring (field w1 5 0)).enabled = true := by rw [State.ring_commandTaken]; exact he
  have htype : (s.commandTaken h).ringType (field w1 5 0) = 9 := ht
  refine congrArg Host.Outcome.next (s.command_done h true _ hc (.inr rfl) _ _ ?_)
  simp only [hf, hon, htype, decide_true, Bool.and_self, Bool.not_true, Bool.false_eq_true, if_false, if_true]

theorem exec_telemCfg_of_off {h : CmdHdr} {w1 : Word} (hc : s.canAccept h = true) (hf : flag w1 8 = false) :
    exec (.telemCfg h w1) s = .next (s.done h { status := stOk } ((s.commandTaken h).onPwr fun p => { p with telemRing := none })) :=
  congrArg Host.Outcome.next (s.command_done h true _ hc (.inr rfl) _ _ (if_pos (congrArg not hf)))

theorem exec_badOpcode_of_unlisted {h : CmdHdr} {op : Byte} (hs : s.serves h) (ho : opcodes.contains op.toNat = false) :
    exec (.badOpcode h op) s = .next (s.done h { status := stBadOpcode } (s.commandTaken h)) :=
  (if_neg (Bool.eq_false_iff.1 ho)).trans (State.next_command_of_serves hs rfl)

end

/-- Settles O50, by the sluices, the sealing of the oldest ended block, the room of the archive ring and the state of the replay. -/
theorem archiveMovesBlocks : Obligations.ArchiveMovesBlocks := by
  refine ⟨?takes, ?idle, ?sealed, ?reaches, ?ended, ?drains, ?drops, ?undrained, ?replays, ?overwritten, ?noMemory, ?noReplay⟩
  case takes => exact fun _ _ _ _ _ => exec_archiveCompress_of_column
  case idle => exact fun errs _ => exec_archiveCompress_of_idle errs
  case sealed =>
    intro b bs n rest s he hb hr
    rw [exec_archiveBlockComplete_of_reaches he hr, hb]
  case reaches => exact fun _ => ⟨State.arcReaches_iff, exec_archiveBlockComplete_of_not_reaches⟩
  case ended =>
    intro b rest s he hr
    rw [exec_archiveBlockComplete_of_reaches he hr]
    refine ⟨fun hb => ?_, fun hb => ?_, fun n hb => ?_⟩ <;> rw [hb]
  case drains =>
    intro off n rest s hu ha hd hc
    refine ⟨_, rfl, ?_, ?_⟩ <;> rw [exec_archiveDrain_of_open _ hu ha hd, if_pos hc] <;> rfl
  case drops =>
    intro e p rest s hu ha hd hc
    rw [exec_archiveDrain_of_open e hu ha hd, if_neg (Bool.eq_false_iff.1 hc)]
  case undrained => exact fun e _ => exec_archiveDrain_of_idle e
  case replays =>
    intro r s hr ha hd ho hab hj hc
    have hreach := State.replayReaches_iff.2 ⟨ha, hd⟩
    rcases hdec : s.decodeReplay r with ⟨⟨type, data⟩ | st, x⟩
    · exact exec_replayComplete_of_record hr hreach ho hab hj hc hdec
    · exact exec_replayComplete_of_failed hr hreach ho hab hj hdec
  case overwritten => exact fun r s hr ha hd => exec_replayComplete_of_overwritten hr (State.replayReaches_iff.2 ⟨ha, hd⟩)
  case noMemory =>
    intro r e s hr hsome hd
    exact exec_replayComplete_of_not_reaches hr e (by simp only [State.replayReaches, hsome, hd, Bool.not_true, Bool.or_self, Bool.and_false])
  case noReplay =>
    rintro e s (hr | ha)
    · exact exec_replayComplete_of_none e hr
    · cases hr : s.arc.replay with
      | none => exact exec_replayComplete_of_none e hr
      | some r => exact exec_replayComplete_of_not_reaches hr e (by simp only [State.replayReaches, ha, Bool.false_and])

/-- Settles O22, by what each command checks on the state in which its descriptor is read. -/
theorem replayFadeTelemetryAndBadOpcode : Obligations.ReplayFadeTelemetryAndBadOpcode := by
  refine ⟨?replay, ?fade, ?telemOn, ?telemOff, ?badOpcode⟩
  case replay => exact fun _ _ w2 w3 _ block _ => exec_arcReplay_of_host w2 w3 block
  case fade => exact fun _ _ _ _ _ addr _ _ _ => exec_lmuXfade_of_accepted addr
  case telemOn => exact fun _ _ _ => exec_telemCfg_of_ring
  case telemOff => exact fun _ _ _ => exec_telemCfg_of_off
  case badOpcode => exact fun _ _ _ => exec_badOpcode_of_unlisted

end Sys2Proof.Machine
end

section
/-! PROOFS. Local measurement and pulse outputs: labels, estimates, the timer of a pulse output and the tracking of offsets (chapters 09 and 10, R285, R296,
R298, R321). -/
namespace Sys2Proof.Machine

section
variable {s : State}

/-! ### LMU_LABEL and LOCAL_ESTIMATE (R285, R298) -/

/-- The state in which metering and then the capture units have taken a label's row. -/
def State.labelTaken (label : Nat) (x : State × List LmuSample) : State := (x.1.nrgLabel label x.2).capLabel label x.2

theorem exec_lmuLabel_of_due {label : Nat} (bits : List (List Bool)) (hn : s.lmu.next = some label) (ha : s.awake = true) (hg : s.gate 38 = true) :
    exec (.lmuLabel bits) s = .next (State.labelTaken label ((s.runTo (label * 78125 + 1100000)).lmuAdvance label bits)) := by
  have hready : ¬ (!s.awake || !s.gate 38) = true := by rw [ha, hg]; decide
  change execLmuLabel bits s = _
  unfold execLmuLabel
  split
  next hnone => cases hn.symm.trans hnone
  next l hl =>
    cases hn.symm.trans hl
    rw [if_neg hready]
    -- The row is made a variable: comparing the two sides with it in place would have the kernel evaluate the run up to the label's moment.
    generalize (s.runTo (label * 78125 + 1100000)).lmuAdvance label bits = x
    obtain ⟨t, row⟩ := x
    rfl

theorem exec_lmuLabel_of_gate_closed (bits : List (List Bool)) (hg : s.gate 38 = false) : exec (.lmuLabel bits) s = .next s := by
  change execLmuLabel bits s = _
  unfold execLmuLabel
  split
  next => rfl
  next => rw [if_pos (by rw [hg, Bool.not_false, Bool.or_true])]

theorem State.localEstimate_of_none_due (p : Nat) (late : State → Nat → Nat → List (Nat × Cell) → State) (h : s.lmu.due = []) :
    s.localEstimate p late = s := by
  simp only [State.localEstimate, h, List.find?_nil]

theorem exec_localEstimate (p : Fin 4) (s : State) :
    exec (.localEstimate p) s = .next (s.localEstimate p.val fun x f tick cells => x.lateBlock f tick cells) := rfl

/-! ### PULSE_TIMER (R321) -/

/-- The state in which pulse output n has taken the next owed pulse off its backlog and started it. -/
def State.owedPulseStarts (s : State) (n : Nat) : State :=
  (s.onPulse n fun y => { y with backlog := y.backlog - 1, peak := if y.backlog = 1 then 0 else y.peak }).pulseStart n

section
variable {n : Fin 8} {m : Nat}

theorem exec_pulseTimer_of_active (hg : s.gate 39 = true) (hp : (s.pulse n.val).phase = .active m) : exec (.pulseTimer n) s =
    .next ((s.runToMono m).onPulse n.val fun y => { y with phase := .gap (m + s.pulseWidth n.val) }) := by
  change execPulseTimer n s = _
  simp only [execPulseTimer, hg, hp, Bool.not_true, Bool.false_eq_true, if_false]

/-- What follows a gap is decided by the backlog. -/
theorem exec_pulseTimer_of_gap (hg : s.gate 39 = true) (hp : (s.pulse n.val).phase = .gap m) : exec (.pulseTimer n) s = .next
    (if (s.pulse n.val).backlog = 0 then (s.runToMono m).onPulse n.val fun y => { y with phase := .idle }
    else if (s.pulse n.val).backlog = 1 then ((s.runToMono m).owedPulseStarts n.val).nrgRecord 4 (s.regField (Reg.nrgPlsCfg n.val) 3 2) n.val
      s.nrg.label fpNaN (s.pulse n.val).peak
    else (s.runToMono m).owedPulseStarts n.val) := by
  change execPulseTimer n s = _
  simp only [execPulseTimer, State.owedPulseStarts, hg, hp, Bool.not_true, Bool.false_eq_true, if_false]
  exact (apply_ite Host.Outcome.next _ _ _).symm

/-- An idle output has no timer to end, whatever its gate. -/
theorem exec_pulseTimer_of_idle (hp : (s.pulse n.val).phase = .idle) : exec (.pulseTimer n) s = .next s := by
  change execPulseTimer n s = _
  simp only [execPulseTimer, hp, ite_self]

end

/-! ### OFFSET_TRACKING (R296) -/

/-- An offset moved towards a mean by the tracking factor of LMU_TRK. -/
def State.trackedOffset (s : State) (mean offset : Word) : Word :=
  fpAdd offset (fpMul (fpSub mean offset) (fpPow2 (-(s.regField Reg.lmuTrk 4 1 : Nat))))

/-- The state in which channel c has used up its mean, which was m. -/
def State.offsetTracked (s : State) (c : Nat) (m : Word) : State :=
  (s.onCh c fun x => { x with mean := none }).setReg (Reg.lmuChOffset c) (s.trackedOffset m (s.reg (Reg.lmuChOffset c)))

theorem exec_offsetTracking_of_due {c : Fin 24} {m : Word} (hm : (s.lmuCh c.val).mean = some m) (h6 : s.slackAt 6 = true)
    (ht : s.regBit Reg.lmuTrk 0 = true) : exec (.offsetTracking c) s = .next (s.offsetTracked c.val m) := by
  change execOffsetTracking c s = _
  simp only [execOffsetTracking, State.offsetTracked, State.trackedOffset, hm, h6, ht, Bool.not_true, Bool.or_self, Bool.false_eq_true, if_false]

theorem State.reg_onCh (s : State) (c : Nat) (f : LmuCh → LmuCh) (o : Nat) : (s.onCh c f).reg o = s.reg o := rfl

theorem State.offsetTracked_offset (s : State) (c : Nat) (m : Word) :
    (s.offsetTracked c m).reg (Reg.lmuChOffset c) = s.trackedOffset m (s.reg (Reg.lmuChOffset c)) := by
  rw [State.offsetTracked, State.reg_setReg_self]

theorem State.offsetTracked_reg_ne (s : State) (c : Nat) (m : Word) {o : Nat} (ho : o ≠ Reg.lmuChOffset c) :
    (s.offsetTracked c m).reg o = s.reg o := by
  rw [State.offsetTracked, State.reg_setReg_ne _ _ ho, State.reg_onCh]

theorem State.offsetTracked_frame (s : State) (c : Nat) (m : Word) : s.offsetTracked c m =
    { s with regs := (s.offsetTracked c m).regs, lmu := (s.onCh c fun x => { x with mean := none }).lmu } :=
  State.setReg_regs_only _ _ _

end

/-- Settles O48, by the label that is next, the phase and backlog of the pulse output, and the mean that waits for slack. -/
theorem measurementsAreMade : Obligations.MeasurementsAreMade := by
  refine ⟨?label, ?closed, ?estimate, ?noneDue, ?widthEnds, ?gapEnds, ?nextOwed, ?lastOwed, ?idle, ?tracks⟩
  case label => exact fun _ bits _ hn ha hg => ⟨_, rfl, exec_lmuLabel_of_due bits hn ha hg⟩
  case closed => exact fun bits _ => exec_lmuLabel_of_gate_closed bits
  case estimate => exact exec_localEstimate
  case noneDue =>
    intro p s hdue
    rw [exec_localEstimate, State.localEstimate_of_none_due _ _ hdue]
  case widthEnds => exact fun _ _ _ => exec_pulseTimer_of_active
  case gapEnds =>
    intro n m s hg hp hb
    rw [exec_pulseTimer_of_gap hg hp, if_pos hb]
  case nextOwed =>
    intro n m s hg hp hb
    rw [exec_pulseTimer_of_gap hg hp, if_neg (by omega), if_neg (by omega), State.owedPulseStarts]
  case lastOwed =>
    intro n m s hg hp hb
    rw [exec_pulseTimer_of_gap hg hp, if_neg (by omega), if_pos hb, State.owedPulseStarts]
  case idle => exact fun _ _ => exec_pulseTimer_of_idle
  case tracks =>
    intro c m s hm h6 ht
    exact ⟨_, exec_offsetTracking_of_due hm h6 ht, s.offsetTracked_offset c.val m, fun _ => s.offsetTracked_reg_ne c.val m,
      s.offsetTracked_frame c.val m⟩

end Sys2Proof.Machine
end

section
/-! PROOFS. Capture: CAP_ARM, CAP_DISARM and CAP_READ, and the pins of the cross-device bus (chapter 11, R335, R341, R344, R347). -/
namespace Sys2Proof.Machine

section
variable {s : State}

/-! ### CAP_ARM and CAP_DISARM (R335, R341, R344) -/

section
variable {h : CmdHdr} {w1 : Word} (hs : s.serves h)
include hs

theorem exec_capArm_of_armable (hbus : flag w1 8 = false) (hok : (capUnits w1).all (s.commandTaken h).capArmOk = true) :
    exec (.capArm h w1) s = .next (s.done h { status := stOk }
      ((capUnits w1).foldl (fun (y : State) u => y.capArm u (flag w1 9)) (s.commandTaken h))) := by
  refine State.next_command_of_serves hs ?_
  simp only [hbus, hok, Bool.false_and, Bool.not_true, Bool.false_eq_true, if_false]

theorem exec_capDisarm_of_no_bus (hbus : flag w1 8 = false) : exec (.capDisarm h w1) s =
    .next (s.done h { status := stOk } ((capUnits w1).foldl State.capDisarm (s.commandTaken h))) := by
  refine State.next_command_of_serves hs ?_
  simp only [hbus, Bool.false_and, Bool.false_eq_true, if_false]

/-- Only the master drives CAP_ARM. -/
theorem exec_capArm_capDisarm_of_not_master (hbus : flag w1 8 = true) (hm : s.capMaster = false) :
    exec (.capArm h w1) s = .next (s.done h { status := stNotMaster } (s.commandTaken h)) ∧
    exec (.capDisarm h w1) s = .next (s.done h { status := stNotMaster } (s.commandTaken h)) := by
  have hrefused : (flag w1 8 && !(s.commandTaken h).capMaster) = true := by
    rw [hbus, show (s.commandTaken h).capMaster = false from hm]
    rfl
  exact ⟨State.next_command_of_serves hs (if_pos hrefused), State.next_command_of_serves hs (if_pos hrefused)⟩

end

/-! ### CAP_READ (R347) -/

theorem exec_capRead_of_done {h : CmdHdr} {w1 offset length : Word} (addr : BitVec 64) (hs : s.serves h)
    (hd : (s.capUnit (field w1 2 0)).state = .done) (halign : offset.toNat % 64 = 0)
    (hfits : ((s.commandTaken h).capRecord (field w1 2 0)).length ≤ offset.toNat + length.toNat)
    (hin : offset.toNat < ((s.commandTaken h).capRecord (field w1 2 0)).length) (hbuf : 64 ≤ length.toNat) (hkeep : flag w1 8 = false)
    (hl : s.hif.outstanding.length < 32) :
    exec (.capRead h w1 offset length addr false) s = .next (s.begun h ((s.commandTaken h).onHif fun x =>
      { x with finishing := x.finishing ++ [(s.refOf h,
        { status := stOk, length := (((s.commandTaken h).capRecord (field w1 2 0)).drop offset.toNat).length
          data := ((s.commandTaken h).capRecord (field w1 2 0)).drop offset.toNat, addr := addr })] })) := by
  have hdone : ((s.commandTaken h).capUnit (field w1 2 0)).state = .done := hd
  have hrest : (((s.commandTaken h).capRecord (field w1 2 0)).drop offset.toNat).isEmpty = false := by
    rw [List.isEmpty_eq_false_iff, ne_eq, List.drop_eq_nil_iff]
    omega
  have hwhole : (((s.commandTaken h).capRecord (field w1 2 0)).drop offset.toNat).length ≤ length.toNat := by
    rw [List.length_drop]
    omega
  refine State.next_command_of_begins hs hl ?_
  simp only [hdone, hrest, halign, hwhole, hkeep, Nat.not_lt.2 hbuf, ne_eq, not_true_eq_false, decide_false, Bool.or_self, Bool.false_eq_true,
    if_false, if_true, State.deliverLater]

theorem exec_capRead_of_not_done {h : CmdHdr} {w1 : Word} (offset length : Word) (addr : BitVec 64) (e : Bool) (hs : s.serves h)
    (hd : (s.capUnit (field w1 2 0)).state ≠ .done) :
    exec (.capRead h w1 offset length addr e) s = .next (s.done h { status := stEmpty } (s.commandTaken h)) :=
  State.next_command_of_serves hs (if_pos hd)

/-! ### CAP_FIRE as an input: its falling edge and its sample (R341) -/

/-- The state in which a falling edge of CAP_FIRE, detected at d, waits for its sample; `stays` says that the pulse of another device outlasts 100 µs. -/
def State.fireEdgeTaken (s : State) (d : Nat) (stays : Bool) : State :=
  s.onCap fun c =>
    { c with
      edge := some { stamp := s.tbReading d * 1024, at_ := s.tim.mono, stays := stays
                     units := (List.range 8).filter fun u => s.capFlag u 7 && decide ((s.capUnit u).state = .armed) }
      highAt := if c.driving.isSome then c.highAt else some (s.tim.mono + 100000) }

theorem exec_capFireEdge_of_ready (d : Nat) (ha : s.awake = true) (hg : s.gate 37 = true) (he : s.cap.edge = none) :
    ∃ stays, exec (.capFireEdge d) s = .next { s.fireEdgeTaken d stays with free := s.free + 1 } := by
  have hready : ¬ (!s.awake || !s.gate 37 || s.cap.edge.isSome) = true := by rw [ha, hg, he]; decide
  exact ⟨_, if_neg hready⟩

/-- An edge that already waits for its sample takes no other. -/
theorem exec_capFireEdge_of_edge (d : Nat) {e : CapEdge} (he : s.cap.edge = some e) : exec (.capFireEdge d) s = .next s :=
  if_pos (by rw [he, Option.isSome_some, Bool.or_true])

theorem exec_fireSample_of_edge (hi : Bool) {e : CapEdge} {x : State} (he : s.cap.edge = some e)
    (hx : x = (s.runToMono (e.at_ + 200000)).onCap fun c =>
      { c with edge := none, highAt := if hi || c.driving.isSome then c.highAt else some (e.at_ + 300000) }) :
    exec (.fireSample hi) s = .next ((e.units.filter fun u => decide ((x.capUnit u).state = .armed)).foldl (fun (y : State) u =>
      ((y.capTrigger u 4 (e.stamp - ((if hi then 1250000 else s.capColDelay * 1000000) + s.capWire) * 65536)).onUnit u CapUnit.placeLate).capSettle u)
      x) := by
  change execFireSample hi s = _
  subst hx
  simp only [execFireSample, he]

theorem exec_fireSample_of_no_edge (hi : Bool) (he : s.cap.edge = none) : exec (.fireSample hi) s = .next s := by
  change execFireSample hi s = _
  simp only [execFireSample, he]

/-! ### CAP_FIRE as an output: the owed pulse that is due first (R341) -/

theorem minOf_eq_min? (l : List Nat) : minOf l = l.min? := by
  induction l with
  | nil => rfl
  | cons x xs ih =>
    rw [minOf, ih, List.min?_cons]
    cases xs.min? <;> rfl

section
variable {l r : List CapFire} {f : CapFire} (hl : ∀ g ∈ l, f.due < g.due)
include hl

theorem minOf_due_of_first (hr : ∀ g ∈ r, f.due ≤ g.due) : minOf ((l ++ f :: r).map (·.due)) = some f.due := by
  rw [minOf_eq_min?, List.min?_eq_some_iff]
  refine ⟨by simp, fun d hd => ?_⟩
  obtain ⟨g, hg, rfl⟩ := List.mem_map.1 hd
  rcases List.mem_append.1 hg with hg | hg
  · exact Nat.le_of_lt (hl g hg)
  · rcases List.mem_cons.1 hg with rfl | hg
    · exact Nat.le_refl _
    · exact hr g hg

theorem find?_due_of_first : (l ++ f :: r).find? (fun g => decide (g.due = f.due)) = some f :=
  List.find?_eq_some_iff_append.2 ⟨decide_eq_true rfl, l, r, rfl, fun g hg => by
    rw [decide_eq_false (Nat.ne_of_gt (hl g hg))]
    rfl⟩

theorem erase_of_first : (l ++ f :: r).erase f = l ++ r := by
  rw [List.erase_append_right _ fun hf => Nat.lt_irrefl _ (hl f hf), List.erase_cons_head]

end

/-- The state at the due time of pulse f, which no longer waits: the others are `rest`. -/
def State.fireDue (s : State) (f : CapFire) (rest : List CapFire) : State :=
  (s.runTo ((f.due + 65535) / 65536)).onCap fun c => { c with fires := rest }

/-- CAP_FIRE is driven low for the width of pulse f. -/
def State.fireDriven (s : State) (f : CapFire) : State :=
  s.onCap fun c =>
    { c with
      driving := some (s.tim.mono + (if f.long then 300000 else 100000)), highAt := some (s.tim.mono + (if f.long then 300000 else 100000)) }

/-- Pulse f is skipped and counted, which the capture that it belongs to shows if the unit still holds it. -/
def State.fireSkipped (s : State) (f : CapFire) : State :=
  (s.onUnit f.unit fun x => if s.capHolds x f then { x with skipped := true } else x).inc Reg.capFireSkipCnt

theorem State.fireDue_of_first {l r : List CapFire} {f : CapFire} (hf : s.cap.fires = l ++ f :: r) (hl : ∀ g ∈ l, f.due < g.due) :
    ((s.runTo ((f.due + 65535) / 65536)).onCap fun c => { c with fires := c.fires.erase f }) = s.fireDue f (l ++ r) := by
  simp only [State.fireDue, State.onCap, runTo_cap, hf, erase_of_first hl]

/-- Of the waiting pulses the one that is due first is driven or skipped, as CAP_FIRE has been high long enough or not. -/
theorem exec_fireDrive_of_first {l r : List CapFire} {f : CapFire} (hf : s.cap.fires = l ++ f :: r) (hl : ∀ g ∈ l, f.due < g.due)
    (hr : ∀ g ∈ r, f.due ≤ g.due) (ha : s.awake = true) : exec .fireDrive s = .next
      (if (s.fireDue f (l ++ r)).fireReady then (s.fireDue f (l ++ r)).fireDriven f else (s.fireDue f (l ++ r)).fireSkipped f) := by
  have hmin : minOf (s.cap.fires.map (·.due)) = some f.due := by rw [hf, minOf_due_of_first hl hr]
  have hfind : s.cap.fires.find? (fun g => decide (g.due = f.due)) = some f := by rw [hf, find?_due_of_first hl]
  change execFireDrive s = _
  simp only [execFireDrive, hmin, hfind, ha, Bool.not_true, Bool.false_eq_true, if_false, State.fireDue_of_first hf hl]
  exact (apply_ite Host.Outcome.next _ _ _).symm

theorem exec_fireDrive_of_no_fires (hf : s.cap.fires = []) : exec .fireDrive s = .next s := by
  change execFireDrive s = _
  simp only [execFireDrive, hf, List.map_nil, minOf]

theorem exec_fireRelease_of_driving {m : Nat} (hd : s.cap.driving = some m) :
    exec .fireRelease s = .next ((s.runToMono m).onCap fun c => { c with driving := none }) := by
  change execFireRelease s = _
  simp only [execFireRelease, hd]

/-! ### CAP_ARM and CAP_REF on a device that is not the master (R341) -/

theorem exec_capArmEdge_of_ready (rising : Bool) (hm : s.capMaster = false) (ha : s.awake = true) (hg : s.gate 37 = true) :
    exec (.capArmEdge rising) s = .next (if rising then
      (((List.range 8).filter fun u => s.capFlag u 5).filter s.capArmOk).foldl (fun (y : State) u => y.capArm u false)
        (s.onCap fun c => { c with armPin := rising })
    else (((List.range 8).filter fun u => s.capFlag u 5).filter fun u => decide ((s.capUnit u).state = .armed)).foldl State.capDisarm
        (s.onCap fun c => { c with armPin := rising })) :=
  if_neg (by rw [hm, ha, hg]; decide)

/-- The offset that a rising edge of CAP_REF, detected at `stamp`, measures: from the nearest multiple of 10 ms, less the wire. -/
def State.refOffsetAt (s : State) (stamp : Nat) : Int :=
  Int.ofNat ((s.tbReading stamp + 32) / 64) - Int.ofNat (((s.tbReading stamp + 32) / 64 + 5000000) / 10000000 * 10000000) - Int.ofNat s.capWire

/-- The state that has measured an offset: the register shows it, and the last eight are kept. -/
def State.refMeasured (s : State) (off : Int) : State :=
  (s.onCap fun c => { c with refs := (off :: c.refs).take 8 }).setReg Reg.capRefOffset (wInt off)

theorem exec_capRefEdge_of_ready (stamp : Nat) (hm : s.capMaster = false) (ha : s.awake = true) (hg : s.gate 37 = true) :
    exec (.capRefEdge stamp) s = .next (s.refMeasured (s.refOffsetAt stamp)) :=
  if_neg (by rw [hm, ha, hg]; decide)

theorem State.refMeasured_offset (s : State) (off : Int) : (s.refMeasured off).reg Reg.capRefOffset = wInt off :=
  State.reg_setReg_self _ _ _

theorem State.refMeasured_reg_ne (s : State) (off : Int) {o : Nat} (ho : o ≠ Reg.capRefOffset) : (s.refMeasured off).reg o = s.reg o :=
  State.reg_setReg_ne _ _ ho

theorem State.refMeasured_frame (s : State) (off : Int) : s.refMeasured off =
    { s with regs := (s.refMeasured off).regs, cap := { s.cap with refs := (off :: s.cap.refs).take 8 } } :=
  State.setReg_regs_only _ _ _

/-- The master drives CAP_ARM and CAP_REF itself and takes no edge of theirs. -/
theorem exec_bus_edges_of_master (rising : Bool) (stamp : Nat) (hm : s.capMaster = true) :
    exec (.capArmEdge rising) s = .next s ∧ exec (.capRefEdge stamp) s = .next s :=
  have hdriven : (s.capMaster || !s.awake || !s.gate 37) = true := by rw [hm, Bool.true_or, Bool.true_or]
  ⟨if_pos hdriven, if_pos hdriven⟩

end

/-- Settles O21, by what each command checks on the state in which its descriptor is read. -/
theorem captureCommands : Obligations.CaptureCommands := by
  refine ⟨?arms, ?disarms, ?notMaster, ?reads, ?empty⟩
  case arms => exact fun _ _ _ => exec_capArm_of_armable
  case disarms => exact fun _ _ _ => exec_capDisarm_of_no_bus
  case notMaster => exact fun _ _ _ => exec_capArm_capDisarm_of_not_master
  case reads => exact fun _ _ _ _ addr _ => exec_capRead_of_done addr
  case empty => exact fun _ _ offset length addr e _ => exec_capRead_of_not_done offset length addr e

/-- Settles O49, by the edge that waits for its sample, the pulse that is due first and the device that is master. -/
theorem capturePinsAct : Obligations.CapturePinsAct := by
  refine ⟨?edge, ?edgeWaits, ?sample, ?noSample, ?fire, ?noFire, ?release, ?arms, ?measures, ?master⟩
  case edge =>
    intro d s ha hg he
    obtain ⟨stays, hexec⟩ := exec_capFireEdge_of_ready d ha hg he
    exact ⟨_, stays, hexec, rfl, rfl⟩
  case edgeWaits => exact fun d _ _ => exec_capFireEdge_of_edge d
  case sample => exact fun hi _ _ he => ⟨_, rfl, exec_fireSample_of_edge hi he rfl⟩
  case noSample => exact fun hi _ => exec_fireSample_of_no_edge hi
  case fire =>
    intro l r f s hf hl hr ha
    refine ⟨s.fireDue f (l ++ r), rfl, fun hready => ⟨_, ?_, rfl⟩, fun hready => ?_⟩
    · rw [exec_fireDrive_of_first hf hl hr ha, if_pos hready, State.fireDriven]
    · rw [exec_fireDrive_of_first hf hl hr ha, if_neg (Bool.eq_false_iff.1 hready), State.fireSkipped]
  case noFire => exact fun _ => exec_fireDrive_of_no_fires
  case release => exact fun _ _ => exec_fireRelease_of_driving
  case arms => exact fun _ hm ha hg => ⟨exec_capArmEdge_of_ready true hm ha hg, exec_capArmEdge_of_ready false hm ha hg⟩
  case measures =>
    intro stamp s hm ha hg
    exact ⟨_, s.refOffsetAt stamp, exec_capRefEdge_of_ready stamp hm ha hg, rfl, s.refMeasured_offset _, fun _ => s.refMeasured_reg_ne _,
      s.refMeasured_frame _⟩
  case master => exact fun rising stamp _ => exec_bus_edges_of_master rising stamp

end Sys2Proof.Machine
end

section
/-! PROOFS. The device by itself: the cycle of the timebase that a step on an empty queue counts, and the start-up work that it ends (chapters 12, 17 and 18,
R355, R472, R504, R536). -/
namespace Sys2Proof.Machine

section
variable {s : State}

/-! ### The cycle of the timebase (R355, R504) -/

/-- A cycle of FIRC counts 10 or 11 ns, at every place in its run of 96. -/
theorem fircStep_eq_ten_or_eleven (k : Nat) : fircStep k = 10 ∨ fircStep k = 11 := by
  unfold fircStep
  omega

/-- What the timebase counts in its present cycle, ns. -/
def State.cycleNs (s : State) : Nat :=
  match s.clk.domSrc.getD 3 .firc with
  | .pllt => 4
  | .xta => 40
  | _ => fircStep s.clk.tbPhase

theorem State.cycleNs_of_pllt (h : s.clk.domSrc.getD 3 .firc = .pllt) : s.cycleNs = 4 := by simp only [State.cycleNs, h]

theorem State.cycleNs_of_xta (h : s.clk.domSrc.getD 3 .firc = .xta) : s.cycleNs = 40 := by simp only [State.cycleNs, h]

theorem State.cycleNs_of_firc (h : s.clk.domSrc.getD 3 .firc = .firc) : s.cycleNs = fircStep s.clk.tbPhase := by simp only [State.cycleNs, h]

/-- A cycle moves the two clocks by its length, and beside them only the place in the run of FIRC. -/
theorem State.idleCycle_eq (s : State) : s.idleCycle =
    { s.run s.cycleNs with clk := { s.clk with tbPhase := s.idleCycle.clk.tbPhase } } := by
  unfold State.idleCycle State.cycleNs
  cases s.clk.domSrc.getD 3 .firc <;> rfl

/-! ### The step on an empty queue (logs 1 and 6) -/

theorem step_of_empty_queue (h : s.pending = []) : step s = .next s.idle := by simp only [step, h]

/-- A start-up step under way ends; what brace holds back is the wipe that is owed at step 5 alone. -/
theorem State.idle_of_bootRests (h : s.bootRests = true) (hb : s.pwr.brace = false) : s.idle = s.bootOn 6 := by
  simp only [State.idle, h, hb, Bool.false_and, Bool.false_eq_true, if_true, if_false]

theorem State.idle_of_checking {p : PatchIn} (h : s.bootRests = false) (hc : s.sys.checking = some p) : s.idle = s.patchChecked p := by
  simp only [State.idle, h, hc, Bool.false_eq_true, if_false]

theorem State.idle_of_nothing_under_way (h : s.bootRests = false) (hc : s.sys.checking = none) : s.idle = s.idleCycle := by
  simp only [State.idle, h, hc, Bool.false_eq_true, if_false]

end

/-- Settles O2, by what is under way when the queue is empty and by the source that drives the timebase. -/
theorem emptyQueueCountsOneCycle : Obligations.EmptyQueueCountsOneCycle := by
  refine ⟨?cycle, ?startUp, ?check⟩
  case cycle =>
    intro s hp hr hc
    refine ⟨s.idleCycle, s.cycleNs, ?_, ?_, ?_, ?_, State.cycleNs_of_pllt, State.cycleNs_of_xta, fun hf => ?_⟩
    · rw [step_of_empty_queue hp, State.idle_of_nothing_under_way hr hc]
    · rw [s.idleCycle_eq]
      rfl
    · rw [s.idleCycle_eq]
      rfl
    · rw [s.idleCycle_eq]
    · rw [State.cycleNs_of_firc hf]
      exact fircStep_eq_ten_or_eleven _
  case startUp =>
    intro s hp hr hb
    rw [step_of_empty_queue hp, State.idle_of_bootRests hr hb]
  case check =>
    intro s p hp hr hc
    rw [step_of_empty_queue hp, State.idle_of_checking hr hc, State.patchChecked]

end Sys2Proof.Machine
end

section
/-! PROOFS. TIME_SET: the UTC offset that it gives, its leap announcement, and the step or slew of the time (chapter 12, R356, R357, R374). -/
namespace Sys2Proof.Machine

section
variable {s : State}

/-! ### The UTC offset that is given (R356, R357) -/

theorem State.offsetAt_of_leap {k : Leap} {l : Nat} (sec : Nat) (h : s.tim.leap = some (k, l)) :
    s.offsetAt sec = if l ≤ sec then s.tim.utcOffset + k.delta else s.tim.utcOffset := by simp only [State.offsetAt, h]

theorem State.offsetAt_of_no_leap (sec : Nat) (hn : s.tim.leap = none) (hl : s.tim.lastLeap = none) : s.offsetAt sec = s.tim.utcOffset := by
  simp only [State.offsetAt, hn, hl]

/-- An offset that is given is in force in the second for which it is given, whatever leap second is announced or has come. -/
theorem State.giveOffset_offsetAt (s : State) (offset : Int) (sec : Nat) : (s.giveOffset offset sec).offsetAt sec = offset := by
  unfold State.giveOffset
  extract_lets before forget
  split
  next hleap =>
    split
    next hsame =>
      obtain ⟨hoff, -⟩ := Bool.and_eq_true_iff.1 hsame
      exact of_decide_eq_true hoff
    next => exact State.offsetAt_of_no_leap sec hleap rfl
  next k l hleap =>
    split
    next hsame => exact hsame
    next =>
      extract_lets l1
      rw [State.offsetAt_of_leap sec rfl, State.onTim_tim]
      by_cases hpast : l1 ≤ sec
      · simp only [hpast, if_true, Int.sub_add_cancel]
      · simp only [hpast, if_false]

/-- Giving an offset announces no leap second and takes none back: it moves the second of the one announced. -/
theorem State.giveOffset_leap_kind (s : State) (offset : Int) (sec : Nat) :
    (s.giveOffset offset sec).tim.leap.map Prod.fst = s.tim.leap.map Prod.fst := by
  unfold State.giveOffset
  extract_lets before forget
  split
  next => split <;> rfl
  next k l hleap =>
    split
    next => rfl
    next =>
      rw [hleap]
      rfl

/-- From `s` to `t` only the UTC offset, its validity and the leap seconds change. -/
def OffsetOnly (s t : State) : Prop := t = { s with tim := { s.tim with
  utcOffset := t.tim.utcOffset, offsetValid := t.tim.offsetValid, leap := t.tim.leap, leapPtp := t.tim.leapPtp, leapDone := t.tim.leapDone
  lastLeap := t.tim.lastLeap } }

theorem State.giveOffset_frame (s : State) (offset : Int) (sec : Nat) : s.giveOffset offset sec = { s with tim := { s.tim with
    utcOffset := (s.giveOffset offset sec).tim.utcOffset, lastLeap := (s.giveOffset offset sec).tim.lastLeap
    leap := (s.giveOffset offset sec).tim.leap, leapDone := (s.giveOffset offset sec).tim.leapDone } } := by
  unfold State.giveOffset
  extract_lets before forget
  split
  next => split <;> rfl
  next => split <;> rfl

/-- Without a leap argument the announcement stays (log 34). -/
theorem State.applyOffset_of_no_leap {w4 : Word} (sec : Nat) (h : field w4 18 17 = 0) :
    s.applyOffset w4 sec = (s.giveOffset (signed 16 (field w4 15 0)) sec).onTim fun t => { t with offsetValid := flag w4 16 } := by
  simp only [State.applyOffset, h, leapArg]

theorem State.applyOffset_offsetOnly (s : State) (w4 : Word) (sec : Nat) : OffsetOnly s (s.applyOffset w4 sec) := by
  unfold OffsetOnly State.applyOffset
  extract_lets off s1
  have h1 : OffsetOnly s s1 := by
    unfold OffsetOnly s1
    rw [s.giveOffset_frame off sec]
    rfl
  split
  next => exact h1
  next =>
    rw [h1]
    rfl

/-! ### The step or the slew (R367, R374) -/

/-- The state to which a TIME_SET has applied its offset for second `sec` and, in BIVOUAC, its error estimate, and whose time it has yet to set. -/
def State.timeGiven (s : State) (w4 w5 : Word) (sec : Nat) : State :=
  if s.tim.state = .bivouac then
    (s.applyOffset w4 sec).onTim fun t => { t with bivouacAt := t.mono, bivouacE0 := fpOfInt w5.toNat, errEst := some (fpOfInt w5.toNat) }
  else s.applyOffset w4 sec

/-- What a TIME_SET gives before it sets the time: of the timebase only the UTC offset, the leap seconds and the error estimate change. -/
theorem State.timeGiven_frame (s : State) (w4 w5 : Word) (sec : Nat) : s.timeGiven w4 w5 sec = { s with tim := { s.tim with
    utcOffset := (s.timeGiven w4 w5 sec).tim.utcOffset, offsetValid := (s.timeGiven w4 w5 sec).tim.offsetValid
    leap := (s.timeGiven w4 w5 sec).tim.leap, leapPtp := (s.timeGiven w4 w5 sec).tim.leapPtp
    leapDone := (s.timeGiven w4 w5 sec).tim.leapDone, lastLeap := (s.timeGiven w4 w5 sec).tim.lastLeap
    bivouacAt := (s.timeGiven w4 w5 sec).tim.bivouacAt, bivouacE0 := (s.timeGiven w4 w5 sec).tim.bivouacE0
    errEst := if s.tim.state = .bivouac then some (fpOfInt w5.toNat) else s.tim.errEst } } := by
  have hoff := s.applyOffset_offsetOnly w4 sec
  unfold OffsetOnly at hoff
  unfold State.timeGiven
  split
  next =>
    rw [hoff]
    rfl
  next => rw [hoff]

/-- What the time is off by where a TIME_SET names second `sec` and its nanosecond `ns`. -/
def State.timeOff (s : State) (sec ns : Nat) : Int := (s.tim.now : Int) - Int.ofNat (sec * nsPerSec + ns)

theorem State.setTime_steps {sec ns : Nat} (w4 w5 : Word) (h : 1000000 ≤ (s.timeOff sec ns).natAbs) : s.setTime sec ns w4 w5 =
    ((s.timeGiven w4 w5 sec).onTim fun t => { t with pendingStep := some (s.timeOff sec ns, true), theta := s.timeOff sec ns },
      { status := stOk, result := [satInt32 (s.timeOff sec ns), 1] }) := if_pos h

/-- The state whose time is slewed until `theta` is made up: the rate is the integral plus the proportional term. -/
def State.slewed (s : State) (theta : Int) : State :=
  s.onTim fun t =>
    { t with
      freqAdj := fpAdd t.integ (s.servoP theta).2, slewing := decide ((s.servoP theta).1 ≠ (s.servoP theta).2), theta := theta
      slewEnd := some (t.mono + slewTime theta (s.servoP theta).2) }

theorem State.setTime_slews {sec ns : Nat} (w4 w5 : Word) (h : (s.timeOff sec ns).natAbs < 1000000) : s.setTime sec ns w4 w5 =
    ((s.timeGiven w4 w5 sec).slewed (s.timeOff sec ns), { status := stOk, result := [satInt32 (s.timeOff sec ns), 0] }) :=
  if_neg (Nat.not_le.2 h)

/-- The proportional part is formed of registers alone. -/
theorem State.servoP_congr {t : State} (h : t.regs = s.regs) (theta : Int) : t.servoP theta = s.servoP theta := by
  simp only [State.servoP, State.slewPpb, State.regField, State.reg, h]

theorem State.timeGiven_servoP (s : State) (w4 w5 : Word) (sec : Nat) (theta : Int) : (s.timeGiven w4 w5 sec).servoP theta = s.servoP theta :=
  State.servoP_congr (by rw [s.timeGiven_frame]) theta

/-! ### What TIME_SET checks (R374) -/

section
variable {h : CmdHdr} {w3 w4 : Word} (w1 w2 w5 : Word) (hs : s.serves h)
include hs

theorem exec_timeSet_of_bad_argument (hbad : nsPerSec ≤ w3.toNat ∨ field w4 18 17 = 3) :
    exec (.timeSet h w1 w2 w3 w4 w5) s = .next (s.done h { status := stBadArg } (s.commandTaken h)) :=
  State.next_command_of_serves hs (if_pos (by simpa only [Bool.or_eq_true, decide_eq_true_eq] using hbad))

variable (hns : w3.toNat < nsPerSec) (hleap : field w4 18 17 ≠ 3)
include hns hleap

theorem exec_timeSet_of_source_active (hsrc : s.tim.state = .locked ∨ s.tim.state = .acquiring) (hforce : flag w4 19 = false) :
    exec (.timeSet h w1 w2 w3 w4 w5) s = .next (s.done h { status := stSourceActive } (s.commandTaken h)) := by
  have hactive : (decide ((s.commandTaken h).tim.state = .acquiring) || decide ((s.commandTaken h).tim.state = .locked)) = true := by
    rw [Bool.or_eq_true, decide_eq_true_eq, decide_eq_true_eq]
    exact hsrc.symm
  refine State.next_command_of_serves hs ?_
  simp only [Nat.not_le.2 hns, hleap, hactive, hforce, decide_false, Bool.or_self, Bool.not_false, Bool.and_self, Bool.false_eq_true, if_false, if_true]

variable (hfree : flag w4 19 = true ∨ (s.tim.state ≠ .locked ∧ s.tim.state ≠ .acquiring))
include hfree

/-- A TIME_SET that is accepted gives the offset alone, or sets the time too. -/
theorem exec_timeSet_of_accepted : exec (.timeSet h w1 w2 w3 w4 w5) s =
    if flag w4 20 then .next (s.done h { status := stOk, result := [0, 0] } ((s.commandTaken h).applyOffset w4 s.nowSec))
    else .next (s.done h ((s.commandTaken h).setTime (field w2 15 0 * 2 ^ 32 + w1.toNat) w3.toNat w4 w5).2
      ((s.commandTaken h).setTime (field w2 15 0 * 2 ^ 32 + w1.toNat) w3.toNat w4 w5).1) := by
  have hidle : ((decide ((s.commandTaken h).tim.state = .acquiring) || decide ((s.commandTaken h).tim.state = .locked)) && !flag w4 19) = false := by
    rcases hfree with hforce | ⟨hlocked, hacquiring⟩
    · rw [hforce, Bool.not_true, Bool.and_false]
    · rw [show (s.commandTaken h).tim = s.tim from rfl, decide_eq_false hacquiring, decide_eq_false hlocked, Bool.or_self, Bool.false_and]
  split
  next honly =>
    refine State.next_command_of_serves hs ?_
    simp only [Nat.not_le.2 hns, hleap, hidle, honly, decide_false, Bool.or_self, Bool.false_eq_true, if_false, if_true]
    rfl
  next honly =>
    refine State.next_command_of_serves hs ?_
    simp only [Nat.not_le.2 hns, hleap, hidle, honly, decide_false, Bool.or_self, Bool.false_eq_true, if_false]

end

end

/-- Settles O17, by the checks of TIME_SET and the frames of the offset, the step and the slew. -/
theorem timeIsSet : Obligations.TimeIsSet := by
  refine ⟨?badArg, ?sourceActive, ?offsetOnly, ?steps, ?slews⟩
  case badArg => exact fun _ w1 w2 _ _ w5 _ => exec_timeSet_of_bad_argument w1 w2 w5
  case sourceActive => exact fun _ w1 w2 _ _ w5 _ => exec_timeSet_of_source_active w1 w2 w5
  case offsetOnly =>
    intro h w1 w2 w3 w4 w5 s hs hns hleap hfree honly
    refine ⟨(s.commandTaken h).applyOffset w4 s.nowSec, ?_, ?_⟩
    · rw [exec_timeSet_of_accepted w1 w2 w5 hs hns (by rw [hleap]; decide) hfree, if_pos honly]
    · rw [State.applyOffset_of_no_leap _ hleap]
      refine ⟨State.giveOffset_offsetAt _ _ _, rfl, State.giveOffset_leap_kind _ _ _, ?_⟩
      rw [State.giveOffset_frame]
      rfl
  case steps =>
    intro h w1 w2 w3 w4 w5 s θ hs hns hleap hfree htime hθ hlarge
    have hoff : (s.commandTaken h).timeOff (field w2 15 0 * 2 ^ 32 + w1.toNat) w3.toNat = θ := hθ.symm
    have hexec := exec_timeSet_of_accepted w1 w2 w5 hs hns hleap hfree
    rw [if_neg (Bool.eq_false_iff.1 htime), State.setTime_steps w4 w5 (hoff ▸ hlarge), hoff, State.timeGiven_frame] at hexec
    exact ⟨_, hexec, rfl, rfl, rfl, rfl, rfl, rfl⟩
  case slews =>
    intro h w1 w2 w3 w4 w5 s θ hs hns hleap hfree htime hθ hsmall
    have hoff : (s.commandTaken h).timeOff (field w2 15 0 * 2 ^ 32 + w1.toNat) w3.toNat = θ := hθ.symm
    have hrate : (s.commandTaken h).servoP θ = s.servoP θ := State.servoP_congr rfl θ
    have hexec := exec_timeSet_of_accepted w1 w2 w5 hs hns hleap hfree
    rw [if_neg (Bool.eq_false_iff.1 htime), State.setTime_slews w4 w5 (hoff ▸ hsmall), hoff, State.slewed, State.timeGiven_servoP, hrate,
      State.timeGiven_frame] at hexec
    exact ⟨_, hexec, rfl, rfl, rfl, rfl, rfl, rfl⟩

end Sys2Proof.Machine
end

section
/-! PROOFS. The sources of time: measurements, missed messages, lost sources, and the edges and sentences of GNSS (chapter 12, R364 to R371). -/
namespace Sys2Proof.Machine

section
variable {s : State}

/-! ### Measurements (R364, R367) -/

theorem State.handOver_of_measured {th : Int} (h : s.tim.measured = some th) :
    s.handOver = ({ s with tim := { s.tim with measured := none } } : State).measure th := by
  simp only [State.handOver, h]
  rfl

theorem exec_servoMeasurement_of_measured {th : Int} (m : Nat) (ha : s.awake = true) (h : s.tim.measured = some th) :
    exec (.servoMeasurement m) s =
      .next (({ s.runToMono m with tim := { (s.runToMono m).tim with measured := none } } : State).measure th).acquired := by
  have hm : (s.runToMono m).tim.measured = some th := by rw [State.runToMono_tim, h]
  change execServoMeasurement m s = _
  rw [execServoMeasurement, if_pos ha, State.handOver_of_measured hm]

theorem exec_servoMeasurement_of_not_awake (m : Nat) (ha : s.awake = false) : exec (.servoMeasurement m) s = .next s :=
  if_neg (Bool.eq_false_iff.1 ha)

/-! ### Missed messages and lost sources (R370, R371) -/

/-- The state in which the Sync that follows the present misses, the last Sync having come at `a`, is missed and counted. -/
def State.syncMissCounted (s : State) (a : Nat) : State :=
  ((s.runToMono (a + (s.tim.syncMissed + 1) * intervalNs s.tim.syncLog + intervalNs s.tim.syncLog / 2)).inc Reg.timSyncMissCnt).onTim
    fun t => { t with syncMissed := s.tim.syncMissed + 1 }

/-- A Sync of a PTP source is missed: the third in a row loses the source. -/
theorem exec_syncMiss_of_ptp {a : Nat} (hp : s.tim.source = .ptp) (ha : s.tim.syncAt = some a) : exec .syncMiss s =
    .next (if 2 ≤ s.tim.syncMissed then (s.syncMissCounted a).loseSource else s.syncMissCounted a) := by
  have hthird : (3 ≤ s.tim.syncMissed + 1) = (2 ≤ s.tim.syncMissed) := propext Nat.succ_le_succ_iff
  change execSyncMiss s = _
  simp only [execSyncMiss, State.syncMiss, hp, ha, hthird]
  rfl

theorem exec_announceTimeout_of_ptp {m : Master} (hp : s.tim.source = .ptp) (hm : s.tim.parent = some m) :
    exec .announceTimeout s = .next (s.runToMono (m.time + 3 * intervalNs m.logInterval)).loseSource := by
  change execAnnounceTimeout s = _
  simp only [execAnnounceTimeout, hp, hm]

theorem exec_announceTimeout_of_not_ptp (hp : s.tim.source ≠ .ptp) : exec .announceTimeout s = .next s := by
  change execAnnounceTimeout s = _
  unfold execAnnounceTimeout
  split
  next hsrc _ => exact absurd hsrc hp
  next => rfl

theorem exec_gnssLoss_of_labelled {m : Nat} (h : s.tim.labelledAt = some m) : exec .gnssLoss s = .next
    (((s.runToMono (m + 3500000000)).add Reg.timSyncMissCnt ((s.runToMono (m + 3500000000)).ppsMissesTo (s.runToMono (m + 3500000000)).tim.mono)).onTim
      fun t => { t with labelledAt := none, label := none }).gnssLost := by
  change execGnssLoss s = _
  simp only [execGnssLoss, h]

/-! ### Edges of PPS_IN (R365, R504) -/

theorem exec_ppsInEdge_of_selected (d : Nat) {falling : Bool} (hg : s.gnssOn = true) (ha : s.awake = true) (hf : s.regBit Reg.timCfg 20 = falling) :
    exec (.ppsInEdge falling d) s = .next { s with tim := { s.tim with
      edge := some ((s.tbReading d : Int) * 1024 - signed 16 (s.regField Reg.timGnss 15 0) * 65536, s.tbReading d / 64, s.tim.mono) } } :=
  if_pos (by rw [hg, ha, hf, decide_eq_true rfl]; rfl)

theorem exec_ppsInEdge_of_not_selected (d : Nat) {falling : Bool} (h : s.gnssOn = false ∨ s.regBit Reg.timCfg 20 ≠ falling) :
    exec (.ppsInEdge falling d) s = .next s := by
  refine if_neg (Bool.eq_false_iff.1 ?_)
  rcases h with hg | hf
  · rw [hg, Bool.false_and, Bool.false_and]
  · rw [decide_eq_false hf.symm, Bool.and_false]

/-- The timebase in step with its source reads every moment as it is. -/
theorem State.tbReading_of_pllt (d : Nat) (h : s.clk.domSrc.getD 3 .firc = .pllt) : s.tbReading d = d :=
  if_pos (decide_eq_true h)

/-- On a fallback the timebase reads whole ns, and no moment before its time. -/
theorem State.tbReading_of_not_pllt (d : Nat) (h : s.clk.domSrc.getD 3 .firc ≠ .pllt) : s.tbReading d % 64 = 0 ∧ s.tbReading d ≤ d := by
  have heq : s.tbReading d = (d / 64 - s.tbBehind (d / 64)) * 64 := if_neg (Bool.eq_false_iff.1 (decide_eq_false h))
  rw [heq]
  omega

/-! ### Time-of-day sentences (R369) -/

theorem State.todLabel_of_in_time {d : TodIn} {edge : Nat} (hg : s.gnssOn = true) (hb : d.baud = s.regField Reg.timTod 1 0)
    (h10 : edge + 10000000 ≤ d.at_) (h900 : d.at_ ≤ edge + 900000000) : s.todLabel d edge = nmeaSecond d.bytes := by
  simp only [State.todLabel, hg, hb, Nat.not_lt.2 h10, Nat.not_lt.2 h900, ne_eq, not_true_eq_false, decide_false, Bool.not_true, Bool.or_self,
    Bool.false_eq_true, if_false]

/-- A sentence at another rate, before 10 ms or after 900 ms, or that names no second labels nothing. -/
theorem State.todLabel_eq_none {d : TodIn} {edge : Nat} (h : d.baud ≠ s.regField Reg.timTod 1 0 ∨ d.at_ < edge + 10000000 ∨
    edge + 900000000 < d.at_ ∨ nmeaSecond d.bytes = none) : s.todLabel d edge = none := by
  unfold State.todLabel
  split
  next => rfl
  next hin =>
    simp only [Bool.or_eq_true, decide_eq_true_eq, not_or] at hin
    obtain ⟨⟨⟨-, hb⟩, h10⟩, h900⟩ := hin
    rcases h with hrate | hearly | hlate | hnone
    · exact absurd hrate hb
    · exact absurd hearly h10
    · exact absurd hlate h900
    · exact hnone

theorem exec_todSentence_of_no_label {d : TodIn} {stamp : Int} {edge m : Nat} (he : s.tim.edge = some (stamp, edge, m))
    (hl : s.todLabel d edge = none) : exec (.todSentence d) s = .next s := by
  change execTodSentence d s = _
  simp only [execTodSentence, State.todSentence, he, hl]

/-- A label follows the one before it by a second, or is that of an inserted second, which repeats it (log 33). -/
theorem labelFollows_of {u l : Nat × Bool} (h : (u.2 = false ∧ u.1 = l.1 + 1) ∨ (u.2 = true ∧ l.2 = false ∧ u.1 = l.1)) :
    labelFollows l u = true := by
  rcases h with ⟨hu, hn⟩ | ⟨hu, hl, hn⟩
  · simp only [labelFollows, hu, hn, decide_true, Bool.false_eq_true, if_false]
  · simp only [labelFollows, hu, hl, hn, decide_true, Bool.not_false, Bool.and_self, if_true]

/-- The misses counted from a labelled edge at `a` to a device time, while GNSS is the source. -/
theorem State.ppsMissesTo_of_gnss {a : Nat} (m : Nat) (hs : s.tim.source = .gnss) (ha : s.tim.labelledAt = some a) :
    s.ppsMissesTo m = min 3 ((m - a + 500000000) / nsPerSec - 1) := by
  simp only [State.ppsMissesTo, hs, ha]

/-- The state in which the edge that came at device time m with timestamp `stamp` has the label u, which follows that of the edge before it. -/
def State.labelledInRow (s : State) (u : Nat × Bool) (stamp : Int) (m : Nat) : State :=
  (s.add Reg.timSyncMissCnt (s.ppsMissesTo m)).onTim fun t =>
    { t with
      edge := none, label := some u, labelledAt := some m, labelRun := s.tim.labelRun + 1
      measured := some (gnssTheta stamp u.1 (s.offsetAt s.nowSec)) }

/-- The label that follows in a row of labels leaves a qualified GNSS qualified: no source is lost and none is chosen anew. -/
theorem exec_todSentence_in_row {d : TodIn} {u l : Nat × Bool} {edge m : Nat} {stamp : Int} (he : s.tim.edge = some (stamp, edge, m))
    (hu : s.todLabel d edge = some u) (hl : s.tim.label = some l) (hf : labelFollows l u = true) (hrun : 0 < s.tim.labelRun)
    (hok : s.tim.gnssOk = true) (hs : s.tim.source = .gnss) : exec (.todSentence d) s = .next (s.labelledInRow u stamp m) := by
  have hnext : (s.tim.labelRun + 1 = 1) = False := eq_false (by omega)
  have htim (n : Nat) : (s.add Reg.timSyncMissCnt n).tim = s.tim := by rw [State.add_regs_only]
  change execTodSentence d s = _
  simp only [execTodSentence, State.todSentence, he, hu, hl, hf, hnext, hok, hs, htim, State.onTim_tim, decide_false, Bool.false_and, Bool.true_or,
    Bool.false_eq_true, if_false, if_true]
  simp only [State.labelledInRow, State.onTim, htim, hok, hs, Bool.true_or, if_true]

theorem State.labelledInRow_tim (s : State) (u : Nat × Bool) (stamp : Int) (m : Nat) : (s.labelledInRow u stamp m).tim = { s.tim with
    edge := none, label := some u, labelledAt := some m, labelRun := s.tim.labelRun + 1
    measured := some (gnssTheta stamp u.1 (s.offsetAt s.nowSec)) } := by
  unfold State.labelledInRow
  rw [State.add_regs_only]
  rfl

theorem State.labelledInRow_reg (s : State) (u : Nat × Bool) (stamp : Int) (m o : Nat) :
    (s.labelledInRow u stamp m).reg o = (s.add Reg.timSyncMissCnt (s.ppsMissesTo m)).reg o := rfl

theorem State.labelledInRow_frame (s : State) (u : Nat × Bool) (stamp : Int) (m : Nat) :
    s.labelledInRow u stamp m = { s with regs := (s.labelledInRow u stamp m).regs, tim := (s.labelledInRow u stamp m).tim } := by
  unfold State.labelledInRow
  rw [State.add_regs_only]
  rfl

end

/-- Settles O38, by the source in use, the edge that waits for its label and the label that follows in its row. -/
theorem timeSourcesAreFollowed : Obligations.TimeSourcesAreFollowed := by
  refine ⟨?measured, ?asleep, ?missed, ?thirdMissed, ?announce, ?noPtp, ?gnss, ?edge, ?reading, ?otherEdge, ?sentence, ?noLabel⟩
  case measured => exact fun _ m _ => exec_servoMeasurement_of_measured m
  case asleep => exact fun m _ => exec_servoMeasurement_of_not_awake m
  case missed =>
    intro a s hp ha hfew
    rw [exec_syncMiss_of_ptp hp ha, if_neg (Nat.not_le.2 hfew), State.syncMissCounted]
  case thirdMissed =>
    intro a s hp ha htwo
    rw [exec_syncMiss_of_ptp hp ha, if_pos htwo, State.syncMissCounted]
  case announce => exact fun _ _ => exec_announceTimeout_of_ptp
  case noPtp => exact fun _ => exec_announceTimeout_of_not_ptp
  case gnss => exact fun _ _ => exec_gnssLoss_of_labelled
  case edge => exact fun _ d _ => exec_ppsInEdge_of_selected d
  case reading => exact fun d _ => ⟨State.tbReading_of_pllt d, State.tbReading_of_not_pllt d⟩
  case otherEdge => exact fun _ d _ => exec_ppsInEdge_of_not_selected d
  case sentence =>
    intro d u l edge m a stamp s hg he hok hrun hb h10 h900 hu hl hf hs ha
    have hlabel : s.todLabel d edge = some u := by rw [State.todLabel_of_in_time hg hb h10 h900, hu]
    refine ⟨_, exec_todSentence_in_row he hlabel hl (labelFollows_of hf) hrun hok hs, s.labelledInRow_tim u stamp m, ?_, fun o ho => ?_,
      s.labelledInRow_frame u stamp m⟩
    · rw [State.labelledInRow_reg, State.reg_add_self, State.ppsMissesTo_of_gnss m hs ha]
    · rw [State.labelledInRow_reg, State.reg_add_ne _ _ ho]
  case noLabel => exact fun _ _ _ _ _ he h => exec_todSentence_of_no_label he (State.todLabel_eq_none h)

end Sys2Proof.Machine
end

section
/-! PROOFS. The moments of the timebase: its steps, leap seconds, loads of the RTC and second boundaries (chapter 12, R357, R358, R373, R376, R377). -/
namespace Sys2Proof.Machine

section
variable {s : State}

/-! ### Steps and leap seconds (R357, R358, R373) -/

theorem exec_timeStep_of_slack {theta : Int} {bySet : Bool} (hp : s.tim.pendingStep = some (theta, bySet)) (hs : s.slack = true)
    (ha : s.awake = true) : exec .timeStep s = .next (s.timeStep theta bySet) := by
  change execTimeStep s = _
  simp only [execTimeStep, hp, hs, ha, Bool.and_self, if_true]

/-- The timebase after a leap second of kind k at the start of second l: beside its clocks, the offset and the leap seconds have changed. -/
def Tim.afterLeap (t : Tim) (k : Leap) (l : Nat) : Tim :=
  { t with utcOffset := t.utcOffset + k.delta, leap := none, leapPtp := false, lastLeap := some (k, l), leapDone := some (k, l) }

theorem exec_leapSecond_of_pending {k : Leap} {l : Nat} (h : s.tim.leap = some (k, l)) :
    exec .leapSecond s = .next { s with tim := (s.runTo (l * nsPerSec)).tim.afterLeap k l } := by
  change execLeapSecond s = _
  simp only [execLeapSecond, h]
  rw [State.runTo_eq]
  rfl

/-! ### Loads of the RTC (R377) -/

theorem exec_rtcLoad_at_second (hl : s.tim.state = .locked) (hv : s.tim.offsetValid = true) (ha : s.awake = true) (hn : s.nowNs = 0) :
    exec .rtcLoad s = .next { s with aon := { s.aon with
      rtcTicks := (s.soc s.nowSec).toNat * 32768, rtcAt := s.tim.mono, rtcOffset := s.offsetAt s.nowSec, rtcValid := true } } := by
  change execRtcLoad s = _
  simp only [execRtcLoad, hl, hv, ha, hn, decide_true, Bool.and_self, if_true]
  rfl

theorem exec_rtcLoad_of_not_locked (h : s.tim.state ≠ .locked) : exec .rtcLoad s = .next s := by
  change execRtcLoad s = _
  simp only [execRtcLoad, h, decide_false, Bool.false_and, Bool.false_eq_true, if_false]

/-! ### Second boundaries (R368, R376) -/

/-- The state at the next second boundary, whose work is done; what PPS_OUT does there is left out. -/
def State.atSecond (s : State) : State := (s.runTo s.nextSecond).onTim fun t => { t with secondDone := some (t.now / nsPerSec) }

theorem State.atSecond_now (s : State) : s.atSecond.tim.now = (s.runTo s.nextSecond).tim.now := rfl

theorem State.atSecond_secondDone (s : State) : s.atSecond.tim.secondDone = some (s.atSecond.tim.now / nsPerSec) := by
  rw [State.atSecond, State.onTim_tim]

/-- Coming to a second boundary moves the two clocks and marks the second. -/
theorem State.atSecond_frame (s : State) : s.atSecond = { s with tim := { s.tim with
    now := s.atSecond.tim.now, mono := s.atSecond.tim.mono, secondDone := some (s.atSecond.tim.now / nsPerSec) } } := by
  unfold State.atSecond
  rw [State.runTo_eq]
  rfl

theorem State.holdoverNow_of_not_bivouac (h : s.tim.state ≠ .bivouac) : s.holdoverNow = s := by
  simp only [State.holdoverNow, h, decide_false, Bool.false_and, Bool.false_eq_true, if_false]

theorem State.ppsDriven_congr {t : State} (hr : t.regs = s.regs) (hs : t.tim.state = s.tim.state) : t.ppsDriven = s.ppsDriven := by
  simp only [State.ppsDriven, State.regBit, State.reg, hr, hs]

theorem exec_timebaseSecondBoundary_of_driven (ha : s.awake = true) (hp : s.ppsDriven = true) (hb : s.tim.state ≠ .bivouac) :
    exec .timebaseSecondBoundary s = .next (s.atSecond.onTim fun t => { t with ppsRise := some t.now }) := by
  have hstate : s.atSecond.tim.state = s.tim.state := by rw [s.atSecond_frame]
  have hdriven : s.atSecond.ppsDriven = true := by rw [State.ppsDriven_congr (by rw [s.atSecond_frame]) hstate, hp]
  have hhold : s.atSecond.holdoverNow = s.atSecond := State.holdoverNow_of_not_bivouac (hstate ▸ hb)
  unfold State.atSecond at hdriven hhold
  change execTimebaseSecondBoundary s = _
  simp only [execTimebaseSecondBoundary, ha, hhold, hdriven, Bool.not_true, Bool.false_eq_true, if_false, if_true]
  rfl

end

/-- Settles O39, by what each moment does to the timebase and the RTC. -/
theorem timebaseMoments : Obligations.TimebaseMoments := by
  refine ⟨?step, ?noSlack, ?leap, ?load, ?noLoad, ?second⟩
  case step => exact fun _ _ _ => exec_timeStep_of_slack
  case noSlack => exact fun _ _ _ _ => exec_timeStep_of_not_slack
  case leap =>
    intro k l s h
    have hoffset : (s.runTo (l * nsPerSec)).tim.utcOffset = s.tim.utcOffset := by rw [State.runTo_tim]
    refine ⟨_, exec_leapSecond_of_pending h, ?_, rfl, rfl, ?_⟩ <;> rw [Tim.afterLeap, hoffset]
  case load => exact fun _ => exec_rtcLoad_at_second
  case noLoad => exact fun _ => exec_rtcLoad_of_not_locked
  case second =>
    intro s ha hp hb
    refine ⟨_, exec_timebaseSecondBoundary_of_driven ha hp hb, ?_, ?_, ?_, ?_⟩
    · rw [State.onTim_tim, s.atSecond_now]
    · rw [State.onTim_tim]
    · rw [State.onTim_tim, s.atSecond_secondDone]
    · rw [s.atSecond_frame]
      rfl

end Sys2Proof.Machine
end

section
/-! PROOFS. What each command keeps of the queue, the seal, the fuses, the stored keys and the stored epoch, and the four invariants of every step that
follow (chapters 16, 19: R434, R467, R481 to R483, R564). -/
namespace Sys2Proof.Machine

/-! ### The commands that keep all five -/

/-- The answer is a next state that keeps the queue, the seal, the fuses, the stored keys and the stored epoch. -/
def Keeps (a : Answer) (s : State) : Prop := ∃ t, a = .next t ∧ t.kept = s.kept

theorem Keeps.next {s t : State} (h : t.kept = s.kept) : Keeps (.next t) s := ⟨t, rfl, h⟩

theorem Keeps.same (s : State) : Keeps (.next s) s := .next rfl

theorem Keeps.ite {c : Prop} [Decidable c] {a b : Answer} {s : State} (ha : Keeps a s) (hb : Keeps b s) : Keeps (if c then a else b) s := by
  split
  · exact ha
  · exact hb

theorem execAlarmEvaluate_kept (errs : List MemErr) (s : State) : Keeps (execAlarmEvaluate errs s) s := by
  unfold execAlarmEvaluate
  extract_lets s1
  have h1 : s1.kept = s.kept := foldl_kept _ (fun x e => by
    split
    · exact State.almError_kept _ _ _ _
    · exact State.almError_kept _ _ _ _
    · rfl) errs s
  exact .next (ite_to ((State.evaluateNext_kept _).trans h1) h1)

theorem execAnnounceTimeout_kept (s : State) : Keeps (execAnnounceTimeout s) s := by
  unfold execAnnounceTimeout
  split
  · exact .next ((State.loseSource_kept _).trans (State.runToMono_kept _ _))
  · exact .same s

theorem execArcReplay_kept (h : CmdHdr) (w1 w2 w3 w4 : Word) (block : List Byte) (s : State) : Keeps (execArcReplay h w1 w2 w3 w4 block s) s := by
  refine .next (State.command_kept _ _ _ _ fun c x => ?_)
  exact fst_ite_to rfl <| fst_ite_to rfl <| fst_ite_to rfl <| fst_ite_to (State.dmaError_kept _) <|
    fst_ite_to (State.startReplay_kept ..) (State.startReplay_kept ..)

theorem execArchiveBlockComplete_kept (s : State) : Keeps (execArchiveBlockComplete s) s := by
  unfold execArchiveBlockComplete
  split
  · exact .same s
  · extract_lets s1
    have h1 : s1.kept = s.kept := State.onArc_kept _ _
    refine .ite (.same s) ?_
    split
    · exact .same s
    · exact .next ((State.inc_kept _ _).trans h1)
    · exact .next ((State.arcFinish_kept _ _ _).trans h1)
    · exact .next ((State.arcFinish_kept _ _ _).trans h1)

theorem execArchiveCompress_kept (errs : List MemErr) (s : State) : Keeps (execArchiveCompress errs s) s := by
  unfold execArchiveCompress
  split
  · exact .same s
  · refine .ite (.same s) ?_
    extract_lets s1
    have h1 : s1.kept = s.kept := (foldl_kept _ (fun x e => by
      split
      · exact State.cellError_kept _ _ _ _ _
      · exact State.arcError_kept _ _ _
      · rfl) errs _).trans (State.onArc_kept _ _)
    split
    · exact .next h1
    · exact .next ((foldl_kept _ (fun x g => State.arcTake_kept _ _ _ _) _ _).trans h1)

theorem execArchiveDrain_kept (memErr : Bool) (s : State) : Keeps (execArchiveDrain memErr s) s := by
  unfold execArchiveDrain
  split
  · exact .same s
  · extract_lets s1
    have h1 : s1.kept = s.kept := State.onArc_kept _ _
    exact .ite (.same s) <| .ite (.next ((State.inc_kept _ _).trans h1)) <|
      .ite (.next ((State.inc_kept _ _).trans ((State.deliverFail_kept _ _ _ _ _).trans h1))) (.next ((State.deliverOr_kept _ _ _ _ _ _).trans h1))

theorem execArpReply_kept (n : Fin 4) (s : State) : Keeps (execArpReply n s) s := by
  unfold execArpReply
  split
  · exact .same s
  · exact .next ((State.send_kept _ _ _).trans (State.onPrt_kept _ _))

theorem execDdEntryExpire_kept (source : BitVec 48) (s : State) : Keeps (execDdEntryExpire source s) s := by
  unfold execDdEntryExpire
  split
  · exact .same s
  · exact .next ((State.onPrt_kept _ _).trans (State.runToMono_kept _ _))

theorem execFrameReceive_kept (n : Fin 4) (f : RxFrame) (errs : List MemErr) (s : State) : Keeps (execFrameReceive n f errs s) s := by
  unfold execFrameReceive
  refine .ite (.same s) (.next ((State.receiveOn_kept _ _ _ _ _).trans ?_))
  exact ite_to (State.inc_kept _ _) (ite_to (State.inc_kept _ _) (State.inc_kept _ _))

theorem execFrameTransmit_kept (n : Fin 4) (s : State) : Keeps (execFrameTransmit n s) s := by
  unfold execFrameTransmit
  extract_lets n s1
  have h1 : s1.kept = s.kept := (State.purgeMuted_kept _ _).trans (State.runToMono_kept _ _)
  refine .ite (.same s) ?_
  split
  · exact .next h1
  · exact .next ((State.inc_kept _ _).trans ((State.onPort_kept _ _ _).trans ((State.ptpEgress_kept _ _ _).trans ((State.onPort_kept _ _ _).trans h1))))

theorem execGnssLoss_kept (s : State) : Keeps (execGnssLoss s) s := by
  unfold execGnssLoss
  split
  · exact .same s
  · exact .next ((State.gnssLost_kept _).trans ((State.onTim_kept _ _).trans ((State.add_kept _ _ _).trans (State.runToMono_kept _ _))))

theorem execGooseRetransmit_kept (t : Fin 32) (s : State) : Keeps (execGooseRetransmit t s) s := by
  unfold execGooseRetransmit
  extract_lets g
  split
  · exact .same s
  · exact .ite (.same s) (.next ((State.gooseSend_kept _ _ _ _).trans ((State.onAlm_kept _ _).trans (State.runToMono_kept _ _))))

theorem execHostInjection_kept (n : Fin 64) (d : InjDesc) (errs : List MemErr) (s : State) : Keeps (execHostInjection n d errs s) s := by
  unfold execHostInjection
  have h := State.inject_kept s d errs
  refine .ite (.same s) ?_
  generalize s.inject d errs = q at h
  obtain ⟨s1, _ | c⟩ := q
  · exact .same s
  · exact .next ((State.post_kept _ _ _).trans ((State.setRing_kept _ _ _).trans h))

theorem execLeapSecond_kept (s : State) : Keeps (execLeapSecond s) s := by
  unfold execLeapSecond
  split
  · exact .same s
  · exact .next ((State.onTim_kept _ _).trans (State.runTo_kept _ _))

theorem execPortDisable_kept (n : Fin 4) (ctl : PortCtl) (s : State) : Keeps (execPortDisable n ctl s) s := by
  unfold execPortDisable
  refine .ite (.same s) ?_
  split
  · exact .next ((State.setReg_kept _ _ _).trans (State.disablePort_kept _ _ _))
  · extract_lets s1
    have h1 : s1.kept = s.kept := by
      unfold s1
      split
      · exact ite_to (State.receiveOn_kept _ _ _ _ _) rfl
      · rfl
    exact .next ((State.setReg_kept _ _ _).trans ((State.disablePort_kept _ _ _).trans h1))

theorem execPortLinkDown_kept (loss : LinkLoss) (s : State) : Keeps (execPortLinkDown loss s) s :=
  .next ((State.onPort_kept _ _ _).trans (State.linkLost_kept _ _))

theorem execPortLinkUp_kept (n : Fin 4) (s : State) : Keeps (execPortLinkUp n s) s :=
  .ite (.next (State.onPort_kept _ _ _)) (.same s)

theorem execPpsInEdge_kept (falling : Bool) (detect : Nat) (s : State) : Keeps (execPpsInEdge falling detect s) s :=
  .ite (.next (State.onTim_kept _ _)) (.same s)

theorem execReplayComplete_kept (memErr : Bool) (s : State) : Keeps (execReplayComplete memErr s) s := by
  unfold execReplayComplete
  split
  · exact .same s
  · rename_i r _
    refine .ite (.same s) <| .ite (.next ((State.endReplay_kept _ _ _ _).trans (State.inc_kept _ _))) <|
      .ite (.next (State.endReplay_kept _ _ _ _)) <| .ite (.next (State.endReplay_kept _ _ _ _)) <| .ite (.same s) ?_
    have h := State.decodeReplay_kept s r
    generalize s.decodeReplay r = q at h
    obtain ⟨_ | _, s1⟩ := q
    · exact .ite (.same s) (.next ((State.endReplay_kept _ _ _ _).trans ((State.deliverOr_kept _ _ _ _ _ _).trans h)))
    · exact .next ((State.endReplay_kept _ _ _ _).trans h)

theorem execRtcLoad_kept (s : State) : Keeps (execRtcLoad s) s := by
  unfold execRtcLoad
  exact .ite (.next ((State.onAon_kept _ _).trans (ite_to rfl (State.runTo_kept _ _)))) (.same s)

theorem execSupervisionFrame_kept (s : State) : Keeps (execSupervisionFrame s) s := by
  unfold execSupervisionFrame
  exact .ite (.next ((State.onPrt_kept _ _).trans ((State.send_kept _ _ _).trans (State.runToMono_kept _ _)))) (.same s)

/-- The four ends of a TIME_SET, apart from their conditions: the kernel must not evaluate those, which compare with nsPerSec. -/
theorem fst_of_timeSet_ends {x y : State} {r : State × CmdResult} {bad busy only : Bool} {e1 e2 e3 : CmdEnd} (hy : y.kept = x.kept) (hr : r.1.kept = x.kept) :
    (if bad then (x, e1) else if busy then (x, e2) else if only then (y, e3) else (r.1, CmdEnd.done r.2)).1.kept = x.kept :=
  fst_ite_to rfl <| fst_ite_to rfl <| fst_ite_to hy hr

theorem execTimeSet_kept (h : CmdHdr) (w1 w2 w3 w4 w5 : Word) (s : State) : Keeps (execTimeSet h w1 w2 w3 w4 w5 s) s := by
  unfold execTimeSet
  exact .next (State.command_kept _ _ _ _ fun c x => fst_of_timeSet_ends (State.applyOffset_kept _ _ _) (State.setTime_kept _ _ _ _ _))

theorem execTimebaseSecondBoundary_kept (s : State) : Keeps (execTimebaseSecondBoundary s) s := by
  unfold execTimebaseSecondBoundary
  refine .ite (.same s) ?_
  extract_lets s1
  have h1 : s1.kept = s.kept := (State.holdoverNow_kept _).trans ((State.onTim_kept _ _).trans (State.runTo_kept _ _))
  exact .next (ite_to ((State.onTim_kept _ _).trans h1) h1)

end Sys2Proof.Machine
end

section
/-! PROOFS. The four invariants of every step: a next state and the queue, the lifecycle, the seal, the stored keys and the stored epoch (chapters 13,
16 and 19: R405, R434, R467, R481 to R483, R564). -/
namespace Sys2Proof.Machine

/-! ### What one command can do to the five (one inversion lemma for all commands) -/

/-- What a command does to the queue, the seal, the fuses, the stored keys and the stored epoch: it keeps all five, or is one of the few that do not. -/
inductive Touches (c : Instr) (s t : State) : Prop where
  | seals (h : Seals s t)
  | slots (hc : c = .slotCommit ∨ ∃ h w, c = .keySlotClear h w) (h : Slots s t)
  | copies (hc : c = .keyJob) (h : Copies s t)
  | epoch (hc : c = .epochWriteComplete) (h : Stays s t) (hs : t.nvm.slots = s.nvm.slots)
  | brace (hc : c = .braceEnd ∨ c = .brace ∨ ∃ p, c = .pwrSenseChange p) (h : Stays s t)
  | dormant (hc : c = .dormantEntry) (hp : t.pending = s.pending) (hf : t.nvm.fuses = s.nvm.fuses)
  | starts (hc : resetsDevice c = true) (h : Starts s t)

/-- The answer is a next state, which the command has touched as it may. -/
def Runs (c : Instr) (a : Answer) (s : State) : Prop := ∃ t, a = .next t ∧ Touches c s t

section
variable {c : Instr} {a : Answer} {s : State}

theorem Runs.of_keeps : Keeps a s → Runs c a s | ⟨t, ht, h⟩ => ⟨t, ht, .seals (.of_kept h)⟩

theorem Runs.of_seals {t : State} (h : Seals s t) : Runs c (.next t) s := ⟨t, rfl, .seals h⟩

theorem Runs.of_slots (hc : c = .slotCommit ∨ ∃ h w, c = .keySlotClear h w) : (∃ t, a = .next t ∧ Slots s t) → Runs c a s
  | ⟨t, ht, h⟩ => ⟨t, ht, .slots hc h⟩

theorem Runs.of_copies (hc : c = .keyJob) : (∃ t, a = .next t ∧ Copies s t) → Runs c a s
  | ⟨t, ht, h⟩ => ⟨t, ht, .copies hc h⟩

theorem Runs.of_epoch (hc : c = .epochWriteComplete) : (∃ t, a = .next t ∧ Stays s t ∧ t.nvm.slots = s.nvm.slots) → Runs c a s
  | ⟨t, ht, h, hs⟩ => ⟨t, ht, .epoch hc h hs⟩

theorem Runs.of_brace (hc : c = .braceEnd ∨ c = .brace ∨ ∃ p, c = .pwrSenseChange p) : (∃ t, a = .next t ∧ Stays s t) → Runs c a s
  | ⟨t, ht, h⟩ => ⟨t, ht, .brace hc h⟩

theorem Runs.of_dormant (hc : c = .dormantEntry) : (∃ t, a = .next t ∧ t.pending = s.pending ∧ t.nvm.fuses = s.nvm.fuses) → Runs c a s
  | ⟨t, ht, hp, hf⟩ => ⟨t, ht, .dormant hc hp hf⟩

theorem Runs.of_starts (hc : resetsDevice c = true) : (∃ t, a = .next t ∧ Starts s t) → Runs c a s
  | ⟨t, ht, h⟩ => ⟨t, ht, .starts hc h⟩

end

/-- Every command answers a next state, and touches the five as it may. -/
theorem exec_runs : ∀ (c : Instr) (s : State), Runs c (exec c s) s
  | .pitch h offset length image, s => .of_keeps (execPitch_kept h offset length image s)
  | .pitchAbort h, s => .of_keeps (execPitchAbort_kept h s)
  | .fencePlot h plot, s => .of_keeps (execFencePlot_kept h plot s)
  | .unfencePlot h plot, s => .of_keeps (execUnfencePlot_kept h plot s)
  | .roleSet h role, s => .of_keeps (execRoleSet_kept h role s)
  | .roleSwap h, s => .of_keeps (execRoleSwap_kept h s)
  | .timeSet h w1 w2 w3 w4 w5, s => .of_keeps (execTimeSet_kept h w1 w2 w3 w4 w5 s)
  | .recFreeze h, s => .of_keeps (execRecFreeze_kept h s)
  | .recThaw h, s => .of_keeps (execRecThaw_kept h s)
  | .recRead h first count addr len, s => .of_keeps (execRecRead_kept h first count addr len s)
  | .recErase h upTo, s => .of_keeps (execRecErase_kept h upTo s)
  | .keyDerive h purpose ctx, s => .of_keeps (execKeyDerive_kept h purpose ctx s)
  | .keySlotWrite h w1 addr len buf, s => .of_keeps (execKeySlotWrite_kept h w1 addr len buf s)
  | .keySlotClear h w1, s => .of_slots (.inr ⟨h, w1, rfl⟩) (execKeySlotClear_slots h w1 s)
  | .nrgSnapshot h w1 addr len, s => .of_keeps (execNrgSnapshot_kept h w1 addr len s)
  | .capArm h w1, s => .of_keeps (execCapArm_kept h w1 s)
  | .capDisarm h w1, s => .of_keeps (execCapDisarm_kept h w1 s)
  | .capRead h w1 offset length addr memErr, s => .of_keeps (execCapRead_kept h w1 offset length addr memErr s)
  | .arcReplay h w1 w2 w3 w4 block, s => .of_keeps (execArcReplay_kept h w1 w2 w3 w4 block s)
  | .lmuXfade h w1 addr w4 w5 w6 buf, s => .of_keeps (execLmuXfade_kept h w1 addr w4 w5 w6 buf s)
  | .telemCfg h w1, s => .of_keeps (execTelemCfg_kept h w1 s)
  | .badOpcode h opcode, s => .of_keeps (execBadOpcode_kept h opcode s)
  | .registerWrite _ _ _, s => .of_seals (State.barWrite_seals s _ _ _ _)
  | .readClear a width, s => .of_keeps (execReadClear_kept a width s)
  | .latchedRead off, s => .of_keeps (execLatchedRead_kept off s)
  | .sysSeal _, s => .of_seals (State.hostWrite_seals s _ _)
  | .gridEnable _, s => .of_seals (State.hostWrite_seals s _ _)
  | .startGo, s => .of_keeps (execStartGo_kept s)
  | .bootGo, s => .of_keeps (execBootGo_kept s)
  | .bootNone, s => .of_keeps (execBootNone_kept s)
  | .apply, s => .of_seals (State.hostWrite_seals s _ _)
  | .cancel, s => .of_seals (State.hostWrite_seals s _ _)
  | .dormantRequest value, s => .of_keeps (execDormantRequest_kept value s)
  | .dvfsRequest _, s => .of_seals (State.hostWrite_seals s _ _)
  | .sluiceRequest gate open_, s => .of_keeps (execSluiceRequest_kept gate open_ s)
  | .ringEnable n, s => .of_keeps (execRingEnable_kept n s)
  | .ringDisable n, s => .of_keeps (execRingDisable_kept n s)
  | .doorbell n idx descs readErr, s => .of_keeps (execDoorbell_kept n idx descs readErr s)
  | .completionConsume n idx, s => .of_keeps (execCompletionConsume_kept n idx s)
  | .portDisable n ctl, s => .of_keeps (execPortDisable_kept n ctl s)
  | .channelEnable c value, s => .of_keeps (execChannelEnable_kept c value s)
  | .selectionEnable _ _, s => .of_seals (State.hostWrite_seals s _ _)
  | .pointEnable p value, s => .of_keeps (execPointEnable_kept p value s)
  | .regionEnable _ _, s => .of_seals (State.hostWrite_seals s _ _)
  | .gridInstant, s => .of_keeps (execGridInstant_kept s)
  | .columnOpen, s => .of_keeps (execColumnOpen_kept s)
  | .deadlineClose found, s => .of_keeps (execDeadlineClose_kept found s)
  | .earlyClose found, s => .of_keeps (execEarlyClose_kept found s)
  | .overrunLimit, s => .of_keeps (execOverrunLimit_kept s)
  | .copyLimit, s => .of_keeps (execCopyLimit_kept s)
  | .operationStart plot errs, s => .of_keeps (execOperationStart_kept plot errs s)
  | .operationRetire x, s => .of_keeps (execOperationRetire_kept x s)
  | .modalFeedProcessed errs, s => .of_keeps (execModalFeedProcessed_kept errs s)
  | .topologyPass passNs errs, s => .of_keeps (execTopologyPass_kept passNs errs s)
  | .alarmEvaluate errs, s => .of_keeps (execAlarmEvaluate_kept errs s)
  | .gooseRetransmit t, s => .of_keeps (execGooseRetransmit_kept t s)
  | .clockReturn, s => .of_keeps (execClockReturn_kept s)
  | .sluiceChange quiescent, s => .of_keeps (execSluiceChange_kept quiescent s)
  | .dvfsStep, s => .of_keeps (execDvfsStep_kept s)
  | .vdone, s => .of_keeps (execVdone_kept s)
  | .avsTimeout, s => .of_keeps (execAvsTimeout_kept s)
  | .loading memErr, s => .of_keeps (execLoading_kept memErr s)
  | .verifying memErr, s => .of_keeps (execVerifying_kept memErr s)
  | .tickIdStore, s => .of_keeps (execTickIdStore_kept s)
  | .scrub lines errs, s => .of_keeps (execScrub_kept lines errs s)
  | .fircCalibration fircCount sircCount, s => .of_keeps (execFircCalibration_kept fircCount sircCount s)
  | .offsetTracking c, s => .of_keeps (execOffsetTracking_kept c s)
  | .telemetrySample temps vmons, s => .of_keeps (execTelemetrySample_kept temps vmons s)
  | .telemetryDelivery, s => .of_keeps (execTelemetryDelivery_kept s)
  | .recorderHousekeeping upset, s => .of_keeps (execRecorderHousekeeping_kept upset s)
  | .frameReceive port f errs, s => .of_keeps (execFrameReceive_kept port f errs s)
  | .hostInjection n d errs, s => .of_keeps (execHostInjection_kept n d errs s)
  | .basinWrite errs, s => .of_keeps (execBasinWrite_kept errs s)
  | .portLinkDown loss, s => .of_keeps (execPortLinkDown_kept loss s)
  | .portLinkUp port, s => .of_keeps (execPortLinkUp_kept port s)
  | .frameTransmit port, s => .of_keeps (execFrameTransmit_kept port s)
  | .supervisionFrame, s => .of_keeps (execSupervisionFrame_kept s)
  | .ddEntryExpire source, s => .of_keeps (execDdEntryExpire_kept source s)
  | .arpReply port, s => .of_keeps (execArpReply_kept port s)
  | .ptpMessageSend _ _, s => .of_keeps (.next (State.ptpSend_kept s _ _))
  | .lmuLabel bits, s => .of_keeps (execLmuLabel_kept bits s)
  | .pulseTimer n, s => .of_keeps (execPulseTimer_kept n s)
  | .localEstimate p, s => .of_keeps (execLocalEstimate_kept p s)
  | .capFireEdge detect, s => .of_keeps (execCapFireEdge_kept detect s)
  | .fireSample high, s => .of_keeps (execFireSample_kept high s)
  | .fireDrive, s => .of_keeps (execFireDrive_kept s)
  | .capArmEdge rising, s => .of_keeps (execCapArmEdge_kept rising s)
  | .capRefEdge stamp, s => .of_keeps (execCapRefEdge_kept stamp s)
  | .archiveCompress errs, s => .of_keeps (execArchiveCompress_kept errs s)
  | .archiveBlockComplete, s => .of_keeps (execArchiveBlockComplete_kept s)
  | .archiveDrain memErr, s => .of_keeps (execArchiveDrain_kept memErr s)
  | .replayComplete memErr, s => .of_keeps (execReplayComplete_kept memErr s)
  | .servoMeasurement at_, s => .of_keeps (execServoMeasurement_kept at_ s)
  | .syncMiss, s => .of_keeps (.next (State.syncMiss_kept s))
  | .announceTimeout, s => .of_keeps (execAnnounceTimeout_kept s)
  | .ppsInEdge falling detect, s => .of_keeps (execPpsInEdge_kept falling detect s)
  | .todSentence _, s => .of_keeps (.next (State.todSentence_kept s _))
  | .gnssLoss, s => .of_keeps (execGnssLoss_kept s)
  | .timeStep, s => .of_keeps (execTimeStep_kept s)
  | .leapSecond, s => .of_keeps (execLeapSecond_kept s)
  | .rtcLoad, s => .of_keeps (execRtcLoad_kept s)
  | .hostLinkReset, s => .of_keeps (execHostLinkReset_kept s)
  | .interruptTimer n, s => .of_keeps (execInterruptTimer_kept n s)
  | .laneLock lane, s => .of_keeps (execLaneLock_kept lane s)
  | .laneLoss lane, s => .of_keeps (execLaneLoss_kept lane s)
  | .linkSilence, s => .of_keeps (execLinkSilence_kept s)
  | .helloSend, s => .of_keeps (execHelloSend_kept s)
  | .helloReceive hdr b, s => .of_keeps (execHelloReceive_kept hdr b s)
  | .heartbeatReceive hdr b, s => .of_keeps (execHeartbeatReceive_kept hdr b s)
  | .ackReceive hdr, s => .of_keeps (execAckReceive_kept hdr s)
  | .nakReceive hdr, s => .of_keeps (execNakReceive_kept hdr s)
  | .stateReceive hdr b memErr, s => .of_keeps (execStateReceive_kept hdr b memErr s)
  | .tickEndReceive hdr b, s => .of_keeps (execTickEndReceive_kept hdr b s)
  | .alarmReceive hdr records, s => .of_keeps (execAlarmReceive_kept hdr records s)
  | .swapReceive hdr epoch tick, s => .of_keeps (execSwapReceive_kept hdr epoch tick s)
  | .linkFrameDiscard cause, s => .of_keeps (execLinkFrameDiscard_kept cause s)
  | .ackSend, s => .of_keeps (execAckSend_kept s)
  | .nakRepeat, s => .of_keeps (execNakRepeat_kept s)
  | .retransmitTimeout, s => .of_keeps (execRetransmitTimeout_kept s)
  | .heartbeatSend, s => .of_keeps (execHeartbeatSend_kept s)
  | .guyLineBWord word, s => .of_keeps (execGuyLineBWord_kept word s)
  | .guyLineIntervalEnd, s => .of_keeps (execGuyLineIntervalEnd_kept s)
  | .epochWriteComplete, s => .of_epoch rfl (execEpochWriteComplete_stays s)
  | .evrWrite, s => .of_keeps (execEvrWrite_kept s)
  | .freezeTimeout, s => .of_keeps (execFreezeTimeout_kept s)
  | .ticketVerified, s => .of_keeps (execTicketVerified_kept s)
  | .keyMaskRefresh, s => .of_keeps (execKeyMaskRefresh_kept s)
  | .keyJob, s => .of_copies rfl (execKeyJob_copies s)
  | .slotCommit, s => .of_slots (.inl rfl) (execSlotCommit_slots s)
  | .tamperSample open0 open1, s => .of_keeps (execTamperSample_kept open0 open1 s)
  | .monitorTrip src, s => .of_starts rfl (execMonitorTrip_starts src s)
  | .sourceQualified src, s => .of_keeps (execSourceQualified_kept src s)
  | .holdAttempt ok b, s => .of_starts rfl (execHoldAttempt_starts ok b s)
  | .brace, s => .of_brace (.inr (.inl rfl)) (execBrace_stays s)
  | .braceEnd, s => .of_brace (.inl rfl) (execBraceEnd_stays s)
  | .brownout b, s => .of_starts rfl (execBrownout_starts b s)
  | .pinReset b, s => .of_starts rfl (execPinReset_starts b s)
  | .powerOn b, s => .of_starts rfl (execPowerOn_starts b s)
  | .dormantEntry, s => .of_dormant rfl (execDormantEntry_stays s)
  | .dormantWake sources b, s => .of_starts rfl (execDormantWake_starts sources b s)
  | .vbatLoss, s => .of_starts rfl (execVbatLoss_starts s)
  | .patchLoaded p, s => .of_keeps (execPatchLoaded_kept p s)
  | .patchWaitTimeout, s => .of_keeps (execPatchWaitTimeout_kept s)
  | .acquisitionTimeout, s => .of_keeps (execAcquisitionTimeout_kept s)
  | .pcieLinkUp speed lanes, s => .of_keeps (execPcieLinkUp_kept speed lanes s)
  | .longCommandComplete h, s => .of_keeps (execLongCommandComplete_kept h s)
  | .vectorUnmask v, s => .of_keeps (execVectorUnmask_kept v s)
  | .pwrSenseChange supply, s => .of_brace (.inr (.inr ⟨supply, rfl⟩)) (execPwrSenseChange_stays supply s)
  | .timebaseSecondBoundary, s => .of_keeps (execTimebaseSecondBoundary_kept s)
  | .fireRelease, s => .of_keeps (execFireRelease_kept s)

/-! ### What that comes to for each of the five -/

theorem Seals.kept_but_seal {s t : State} (h : Seals s t) : t.pending = s.pending ∧ (s.isSealed = true → t.isSealed = true) ∧
    t.nvm.fuses = s.nvm.fuses ∧ t.nvm.slots = s.nvm.slots ∧ t.nvm.epoch = s.nvm.epoch := by
  obtain ⟨b, hb⟩ := h
  simp only [State.kept, State.keptAs, Prod.mk.injEq] at hb
  obtain ⟨hp, hb, hf, hs, he⟩ := hb
  exact ⟨hp, fun h => by rw [hb, h, Bool.true_or], hf, hs, he⟩

section
variable {s t : State}

theorem Stays.sealed (h : Stays s t) : t.isSealed = s.isSealed := h.2.1

theorem Stays.fuses (h : Stays s t) : t.nvm.fuses = s.nvm.fuses := h.2.2

variable {c : Instr}

theorem Touches.pending (h : Touches c s t) : t.pending = s.pending := by
  cases h with
  | seals h => exact h.kept_but_seal.1
  | slots _ h => exact h.stays.1
  | copies _ h => exact h.1.stays.1
  | epoch _ h _ => exact h.1
  | brace _ h => exact h.1
  | dormant _ hp _ => exact hp
  | starts _ h => exact h.1

theorem Touches.fuses_le (h : Touches c s t) : s.nvm.fuses.le t.nvm.fuses := by
  have of_eq (hf : t.nvm.fuses = s.nvm.fuses) : s.nvm.fuses.le t.nvm.fuses := hf ▸ Fuses.le_refl _
  cases h with
  | seals h =>
    obtain ⟨_, _, hf, _⟩ := h.kept_but_seal
    exact of_eq hf
  | slots _ h => exact of_eq h.stays.fuses
  | copies _ h => exact of_eq h.1.stays.fuses
  | epoch _ h _ => exact of_eq h.fuses
  | brace _ h => exact of_eq h.fuses
  | dormant _ _ hf => exact of_eq hf
  | starts _ h => exact h.2.1

theorem Touches.seal_lasts (h : Touches c s t) (hc : resetsDevice c = false) (hs : s.isSealed = true) : t.isSealed = true := by
  cases h with
  | seals h =>
    obtain ⟨_, hseal, _⟩ := h.kept_but_seal
    exact hseal hs
  | slots _ h => exact h.stays.sealed.trans hs
  | copies _ h => exact h.1.stays.sealed.trans hs
  | epoch _ h _ => exact h.sealed.trans hs
  | brace _ h => exact h.sealed.trans hs
  | dormant hd _ _ =>
    subst hd
    cases hc
  | starts hr _ => rw [hr] at hc; cases hc

theorem Touches.slots_change (h : Touches c s t) : t.nvm.slots = s.nvm.slots ∨ c = .slotCommit ∨ (∃ h w, c = .keySlotClear h w) ∨
    (c = .keyJob ∧ t.nvm.slots.map KeySlot.marker = s.nvm.slots.map KeySlot.marker) ∨ c = .braceEnd ∨ c = .brace ∨ (∃ p, c = .pwrSenseChange p) ∨
    c = .dormantEntry ∨ (resetsDevice c = true ∧ t.nvm.slots = List.replicate 16 KeySlot.empty) := by
  cases h with
  | seals h =>
    obtain ⟨_, _, _, hs, _⟩ := h.kept_but_seal
    exact .inl hs
  | slots hc _ =>
    rcases hc with hc | hc
    · exact .inr (.inl hc)
    · exact .inr (.inr (.inl hc))
  | copies hc h =>
    obtain ⟨_, hm⟩ := h
    tauto
  | epoch _ _ hs => exact .inl hs
  | brace hc _ => tauto
  | dormant hc _ _ => tauto
  | starts hc h =>
    obtain ⟨_, _, hs, _⟩ := h
    tauto

theorem Touches.epoch_change (h : Touches c s t) : t.nvm.epoch = s.nvm.epoch ∨ c = .epochWriteComplete ∨ c = .braceEnd ∨ c = .brace ∨
    (∃ p, c = .pwrSenseChange p) ∨ c = .dormantEntry := by
  cases h with
  | seals h =>
    obtain ⟨_, _, _, _, he⟩ := h.kept_but_seal
    exact .inl he
  | slots _ h =>
    obtain ⟨_, _, _, he⟩ := h
    exact .inl he
  | copies _ h =>
    obtain ⟨⟨_, _, _, he⟩, _⟩ := h
    exact .inl he
  | epoch hc _ _ => exact .inr (.inl hc)
  | brace hc _ => exact .inr (.inr (by tauto))
  | dormant hc _ _ => tauto
  | starts _ h =>
    obtain ⟨_, _, _, he⟩ := h
    exact .inl he

end

/-- A step touches the five as its command may, or as the device does by itself. -/
theorem step_runs (s : State) : ∃ t, step s = .next t ∧ t.pending = s.pending.tail ∧ s.nvm.fuses.le t.nvm.fuses := by
  unfold step
  split
  next hp =>
    have h := s.idle_starts
    exact ⟨_, rfl, by rw [h.1, hp]; rfl, h.2.1⟩
  next c rest hp =>
    obtain ⟨t, ht, h⟩ := exec_runs c { s with pending := rest }
    exact ⟨t, ht, by rw [h.pending, hp]; rfl, h.fuses_le⟩

/-- Settles O3: every command is a run (`exec_runs`), and a step is the run of the front command or the device by itself. -/
theorem everyCommandAnswersAndQueueIsFifo : Obligations.EveryCommandAnswersAndQueueIsFifo := by
  refine ⟨fun c s => ?_, fun s => ?_⟩
  · obtain ⟨t, ht, h⟩ := exec_runs c s
    exact ⟨t, ht, h.pending⟩
  · obtain ⟨t, ht, hp, _⟩ := step_runs s
    exact ⟨t, ht, hp⟩

/-! ### The lifecycle (R467) -/

/-- The state of a lifecycle is the highest n whose bit n − 1 is blown. -/
theorem Fuses.state_spec (f : Fuses) : (f.lc = 0 → f.state = 0) ∧ (f.lc ≠ 0 → 1 ≤ f.state ∧ f.state ≤ 4 ∧ f.lc.getLsbD (f.state - 1) = true) ∧
    ∀ n, f.state < n → f.lc.getLsbD (n - 1) = false := by
  have hbits : ∀ lc : BitVec 4, (lc = 0 → (Fuses.mk lc 0 0 []).state = 0) ∧
      (lc ≠ 0 → 1 ≤ (Fuses.mk lc 0 0 []).state ∧ (Fuses.mk lc 0 0 []).state ≤ 4 ∧ lc.getLsbD ((Fuses.mk lc 0 0 []).state - 1) = true) ∧
      ∀ n < 5, (Fuses.mk lc 0 0 []).state < n → lc.getLsbD (n - 1) = false := by decide
  obtain ⟨hzero, hblown, hbelow⟩ := hbits f.lc
  refine ⟨hzero, hblown, fun n hn => ?_⟩
  by_cases h5 : n < 5
  · exact hbelow n h5 hn
  · exact BitVec.getLsbD_of_ge _ _ (by omega)

theorem Fuses.state_le {f g : Fuses} (h : f.le g) : f.state ≤ g.state := by
  by_contra hlt
  obtain ⟨hzero, hblown, _⟩ := f.state_spec
  have hne : f.lc ≠ 0 := fun h0 => hlt (hzero h0 ▸ Nat.zero_le _)
  have hset := (hblown hne).2.2
  rw [← h.1, BitVec.getLsbD_and, g.state_spec.2.2 _ (Nat.lt_of_not_le hlt), Bool.and_false] at hset
  cases hset

/-- Settles O4, by the fuses that each step leaves blown. -/
theorem lifecycleNeverMovesBack : Obligations.LifecycleNeverMovesBack := by
  refine ⟨Fuses.state_spec, fun s t ht => ?_⟩
  obtain ⟨t', ht', _, hle⟩ := step_runs s
  obtain rfl : t' = t := Host.Outcome.next.inj (ht'.symm.trans ht)
  exact ⟨hle, Fuses.state_le hle⟩

/-! ### The seal (R564) -/

theorem State.idle_sealed {s : State} (h : s.bootRests = false) : s.idle.isSealed = s.isSealed := by
  have hkept : s.idle.kept = s.kept := by
    unfold State.idle
    rw [h, if_neg Bool.false_ne_true]
    split
    · exact State.patchChecked_kept _ _
    · exact State.idleCycle_kept _
  exact (kept_iff.1 hkept).2.1

/-- Settles O5: no command but those that reset the device takes the seal back, nor does the device by itself while no start-up rests. -/
theorem sealLastsUntilReset : Obligations.SealLastsUntilReset := by
  intro s t hs hfront hrests ht
  unfold step at ht
  split at ht
  next hp =>
    obtain rfl := Host.Outcome.next.inj ht
    exact (State.idle_sealed (hrests hp)).trans hs
  next c rest hp =>
    obtain ⟨t', ht', h⟩ := exec_runs c { s with pending := rest }
    obtain rfl : t' = t := Host.Outcome.next.inj (ht'.symm.trans ht)
    rw [hp] at hfront
    exact h.seal_lasts (by simpa using hfront) hs

/-! ### The stored keys and the stored epoch (R434, R481 to R483, R522) -/

theorem State.finishWrites_of_none {s : State} (hclaim : s.gzl.claim = none) (hcommit : s.nextCommit = none) : s.finishWrites = s := by
  simp only [State.finishWrites, hclaim, Option.any_none, Bool.false_eq_true, if_false, hcommit]

/-- Settles O6, by the commands that are runs of another kind than keeping all. -/
theorem storedKeysAndEpochChangeOnlyByTheirCommands : Obligations.StoredKeysAndEpochChangeOnlyByTheirCommands := by
  refine ⟨fun c s t ht => ?_, fun s t hp ht => ?_, fun s => State.finishWrites_of_none⟩
  · obtain ⟨t', ht', h⟩ := exec_runs c s
    obtain rfl : t' = t := Host.Outcome.next.inj (ht'.symm.trans ht)
    exact ⟨h.slots_change, h.epoch_change⟩
  · simp only [step, hp] at ht
    obtain rfl := Host.Outcome.next.inj ht
    exact s.idle_starts.2.2

end Sys2Proof.Machine
end

section
/-! PROOFS. Rings: their indices, how they are enabled and stopped, and what a host index does to them (chapter 13, R394 to R398, R406, R407). -/
namespace Sys2Proof.Machine

/-! ### Ring indices (R394) -/

/-- An index as its place on the two rounds that the wrap bit tells apart. -/
def idxPlace (size i : Nat) : Nat := (if idxWrap i then size else 0) + idxPos i

theorem idxDist_eq (size a b : Nat) : idxDist size a b = (idxPlace size b + 2 * size - idxPlace size a) % (2 * size) := rfl

/-- A number below two moduli is reduced by at most one of them. -/
theorem mod_of_lt_two_mul {x m : Nat} (h : x < 2 * m) : x % m = if x < m then x else x - m := by
  split
  next hlt => exact Nat.mod_eq_of_lt hlt
  next hge =>
    rw [Nat.mod_eq_sub_mod (Nat.le_of_not_lt hge), Nat.mod_eq_of_lt (by omega)]

theorem idxValid_iff {size i : Nat} : idxValid size i = true ↔ i % 4096 < size ∧ i / 4096 % 8 = 0 := by
  rw [idxValid, Bool.and_eq_true, decide_eq_true_eq, decide_eq_true_eq, idxPos, and_comm]

section
variable {size : Nat}

/-- A valid index is its position on the first round or on the second. -/
theorem idxValid_cases {i : Nat} (hi : i < 65536) (h : idxValid size i = true) :
    (∃ p < size, i = p ∧ idxPlace size i = p) ∨ ∃ p < size, i = 32768 + p ∧ idxPlace size i = size + p := by
  obtain ⟨hpos, hzero⟩ := idxValid_iff.1 h
  by_cases hw : i / 32768 % 2 = 1
  · exact .inr ⟨i % 4096, hpos, by omega, by simp only [idxPlace, idxWrap, idxPos, hw, decide_true, if_true]⟩
  · exact .inl ⟨i % 4096, hpos, by omega, by simp only [idxPlace, idxWrap, idxPos, hw, decide_false, Bool.false_eq_true, if_false, Nat.zero_add]⟩

theorem idxPlace_lt {i : Nat} (hi : i < 65536) (h : idxValid size i = true) : idxPlace size i < 2 * size := by
  rcases idxValid_cases hi h with ⟨p, hp, _, hplace⟩ | ⟨p, hp, _, hplace⟩ <;> omega

variable (hmax : size ≤ 4096)
include hmax

theorem idxNext_of_valid {i : Nat} (hi : i < 65536) (h : idxValid size i = true) :
    idxNext size i = if i % 4096 + 1 < size then i + 1 else if i < 32768 then 32768 else 0 := by
  unfold idxNext idxPos
  split
  · rfl
  · rcases idxValid_cases hi h with ⟨p, hp, rfl, _⟩ | ⟨p, hp, rfl, _⟩
    · have hw : idxWrap i = false := decide_eq_false (by omega)
      rw [hw, if_neg Bool.false_ne_true, if_pos (by omega)]
    · have hw : idxWrap (32768 + p) = true := decide_eq_true (by omega)
      rw [hw, if_pos rfl, if_neg (by omega)]

/-- The next index is valid, and one place on. -/
theorem idxNext_valid (hmin : 0 < size) {i : Nat} (hi : i < 65536) (h : idxValid size i = true) :
    idxValid size (idxNext size i) = true ∧ idxNext size i < 65536 ∧ idxPlace size (idxNext size i) = (idxPlace size i + 1) % (2 * size) := by
  have hplace (p : Nat) (hp : p < 4096) : idxPlace size p = p ∧ idxPlace size (32768 + p) = size + p := by
    have h0 : idxWrap p = false := decide_eq_false (by omega)
    have h1 : idxWrap (32768 + p) = true := decide_eq_true (by omega)
    simp only [idxPlace, idxPos, h0, h1, Bool.false_eq_true, if_false, if_true]
    omega
  have hlt := idxPlace_lt hi h
  rw [idxNext_of_valid hmax hi h, mod_of_lt_two_mul (x := idxPlace size i + 1) (by omega), idxValid_iff]
  rcases idxValid_cases hi h with ⟨p, hp, rfl, hpl⟩ | ⟨p, hp, rfl, hpl⟩
  · rw [hpl]
    by_cases hlast : i % 4096 + 1 < size
    · rw [if_pos hlast, if_pos (by omega), (hplace (i + 1) (by omega)).1]
      omega
    · rw [if_neg hlast, if_pos (by omega : i < 32768), (hplace 0 (by omega)).2, if_pos (by omega)]
      omega
  · rw [hpl]
    by_cases hlast : (32768 + p) % 4096 + 1 < size
    · rw [if_pos hlast, if_pos (by omega), Nat.add_assoc, (hplace (p + 1) (by omega)).2]
      omega
    · rw [if_neg hlast, if_neg (by omega : ¬ 32768 + p < 32768), (hplace 0 (by omega)).1, if_neg (by omega)]
      omega

theorem idxAdd_valid (hmin : 0 < size) (n : Nat) {i : Nat} (hi : i < 65536) (h : idxValid size i = true) :
    idxValid size (idxAdd size i n) = true ∧ idxAdd size i n < 65536 ∧ idxPlace size (idxAdd size i n) = (idxPlace size i + n) % (2 * size) := by
  induction n generalizing i with
  | zero => exact ⟨h, hi, (Nat.mod_eq_of_lt (idxPlace_lt hi h)).symm⟩
  | succ n ih =>
    obtain ⟨hv, hlt, hnext⟩ := idxNext_valid hmax hmin hi h
    obtain ⟨hvn, hltn, hplace⟩ := ih hlt hv
    refine ⟨hvn, hltn, hplace.trans ?_⟩
    rw [hnext, Nat.mod_add_mod, Nat.add_assoc, Nat.add_comm 1 n]

theorem idxDist_eq_zero_iff {i j : Nat} (hi : i < 65536) (hj : j < 65536) (hvi : idxValid size i = true) (hvj : idxValid size j = true) :
    idxDist size i j = 0 ↔ i = j := by
  have h1 := idxPlace_lt hi hvi
  have h2 := idxPlace_lt hj hvj
  rw [idxDist_eq, mod_of_lt_two_mul (by omega)]
  rcases idxValid_cases hi hvi with ⟨p, hp, rfl, hpl⟩ | ⟨p, hp, rfl, hpl⟩ <;> rcases idxValid_cases hj hvj with ⟨q, hq, rfl, hql⟩ | ⟨q, hq, rfl, hql⟩ <;>
    rw [hpl, hql] <;> split <;> omega

theorem idxDist_eq_size_iff {i j : Nat} (hi : i < 65536) (hj : j < 65536) (hvi : idxValid size i = true) (hvj : idxValid size j = true) :
    idxDist size i j = size ↔ i % 4096 = j % 4096 ∧ i / 32768 ≠ j / 32768 := by
  have h1 := idxPlace_lt hi hvi
  have h2 := idxPlace_lt hj hvj
  rw [idxDist_eq, mod_of_lt_two_mul (by omega)]
  rcases idxValid_cases hi hvi with ⟨p, hp, rfl, hpl⟩ | ⟨p, hp, rfl, hpl⟩ <;> rcases idxValid_cases hj hvj with ⟨q, hq, rfl, hql⟩ | ⟨q, hq, rfl, hql⟩ <;>
    rw [hpl, hql] <;> split <;> omega

theorem idxDist_idxAdd {i n : Nat} (hmin : 0 < size) (hi : i < 65536) (h : idxValid size i = true) (hn : n ≤ size) :
    idxDist size i (idxAdd size i n) = n := by
  have hlt := idxPlace_lt hi h
  obtain ⟨_, _, hplace⟩ := idxAdd_valid hmax hmin n hi h
  rw [idxDist_eq, hplace, mod_of_lt_two_mul (by omega : idxPlace size i + n < 2 * (2 * size))]
  split
  · rw [mod_of_lt_two_mul (by omega)]
    split <;> omega
  · rw [mod_of_lt_two_mul (by omega)]
    split <;> omega

end

/-! ### Rings are enabled and stopped (R395) -/

section
variable {s : State} {n : Fin 64}

theorem exec_ringEnable_of_valid (hup : s.hostUp = true) (hoff : (s.ring n.val).enabled = false) (hok : s.ringCfgOk n.val = true) :
    exec (.ringEnable n) s = .next (s.setRing n.val { enabled := true, armed := decide (s.ringType n.val = 2) }) := by
  change execRingEnable n s = _
  simp only [execRingEnable, State.enableRing, hup, hoff, hok, Bool.false_eq_true, if_false, if_true]

theorem exec_ringEnable_of_invalid (hup : s.hostUp = true) (hoff : (s.ring n.val).enabled = false) (hbad : s.ringCfgOk n.val = false) :
    exec (.ringEnable n) s = .next (s.setRing n.val { s.ring n.val with cfgErr := true }) := by
  change execRingEnable n s = _
  simp only [execRingEnable, State.enableRing, hup, hoff, hbad, Bool.false_eq_true, if_false, if_true]

theorem exec_ringDisable_of_unused (hup : s.hostUp = true) (hon : (s.ring n.val).enabled = true) (hfree : s.ringType n.val ≠ 2 ∨ s.cqInUse n.val = false) :
    exec (.ringDisable n) s = .next ((s.setRing n.val
      { s.ring n.val with enabled := false, armed := false, posted := [], entries := [], fresh := 0 }).onHif fun h =>
      { h with waiting := h.waiting.filter fun p => decide (p.1 ≠ n.val) }) := by
  have hgo : (decide (s.ringType n.val = 2) && s.cqInUse n.val) = false := by
    rcases hfree with h | h
    · rw [decide_eq_false h, Bool.false_and]
    · rw [h, Bool.and_false]
  change execRingDisable n s = _
  simp only [execRingDisable, State.disableRing, hup, hon, hgo, Bool.not_true, Bool.false_eq_true, if_false, if_true]

theorem exec_ringDisable_of_in_use (hcq : s.ringType n.val = 2) (huse : s.cqInUse n.val = true) : exec (.ringDisable n) s = .next s := by
  change execRingDisable n s = _
  simp only [execRingDisable, State.disableRing, hcq, huse, decide_true, Bool.and_self, if_true, ite_self]

/-- A configuration that is valid names from 64 to 4,096 entries. -/
theorem State.ringCfgOk_size {m : Nat} (h : s.ringCfgOk m = true) : ∃ lg, 6 ≤ lg ∧ lg ≤ 12 ∧ s.ringSize m = 2 ^ lg := by
  simp only [State.ringCfgOk, Bool.and_eq_true, decide_eq_true_eq] at h
  obtain ⟨⟨⟨_, hmin⟩, hmax⟩, _⟩ := h
  exact ⟨_, hmin, hmax, rfl⟩

end

/-- Settles O10, by the place of an index on the two rounds of its ring. -/
theorem ringIndicesFollowTheirLayout : Obligations.RingIndicesFollowTheirLayout := by
  refine ⟨?enabled, ?aligned, ?indices⟩
  case enabled =>
    intro n s hup hoff hok
    obtain ⟨lg, hmin, hmax, hsize⟩ := State.ringCfgOk_size hok
    refine ⟨_, exec_ringEnable_of_valid hup hoff hok, ?_, ?_, lg, hmin, hmax, hsize⟩ <;> rw [State.ring_setRing_self]
  case aligned => decide
  case indices =>
    intro lg i j hmin hmax hi hj
    have hsize : (2 : Nat) ^ lg ≤ 4096 := Nat.pow_le_pow_right (by decide) hmax
    have hpos : 0 < (2 : Nat) ^ lg := Nat.two_pow_pos lg
    generalize (2 : Nat) ^ lg = size at hsize hpos
    refine ⟨idxValid_iff, idxNext_of_valid hsize hi, fun hvi hvj => ⟨idxDist_eq_zero_iff hsize hi hj hvi hvj, idxDist_eq_size_iff hsize hi hj hvi hvj⟩,
      fun hv n hn => ?_⟩
    obtain ⟨hva, hlta, _⟩ := idxAdd_valid hsize hpos n hi hv
    exact ⟨hva, hlta, idxDist_idxAdd hsize hpos hi hv hn⟩

/-- Settles O29, by the outcomes of the two writes of HIF_RINGn_CTL. -/
theorem ringsAreEnabledAndDisabled : Obligations.RingsAreEnabledAndDisabled := by
  refine ⟨?valid, ?invalid, ?stops, ?inUse⟩
  case valid => exact fun n s hup hoff hok => ⟨_, exec_ringEnable_of_valid hup hoff hok, State.ring_setRing_self .., fun _ => State.ring_setRing_ne _ _, rfl⟩
  case invalid => exact fun n s hup hoff hbad => ⟨_, exec_ringEnable_of_invalid hup hoff hbad, State.ring_setRing_self .., fun _ => State.ring_setRing_ne _ _, rfl⟩
  case stops =>
    intro n s hup hon hfree
    exact ⟨_, exec_ringDisable_of_unused hup hon hfree, State.ring_setRing_self .., fun _ => State.ring_setRing_ne _ _, rfl⟩
  case inUse => exact fun n s => exec_ringDisable_of_in_use

/-! ### Host indices (R397, R398, R406, R407) -/

theorem State.ring_inc (s : State) (off n : Nat) : (s.inc off).ring n = s.ring n := by rw [State.ring, State.inc_hif, State.ring]

/-- A ring in ERROR: EN stays, nothing is posted, nothing is unconsumed (R397). -/
def Ring.inError (r : Ring) (cause : Nat) : Ring := { r with error := true, errCause := cause, armed := false, posted := [], entries := [], fresh := 0 }

section
variable (s : State) (n cause : Nat)

theorem State.ringError_ring_self : (s.ringError n cause).ring n = (s.ring n).inError cause := State.ring_setRing_self s n ((s.ring n).inError cause)

theorem State.ringError_ring_ne {m : Nat} (h : m ≠ n) : (s.ringError n cause).ring m = s.ring m := State.ring_setRing_ne s ((s.ring n).inError cause) h

theorem State.ringError_reg_self : (s.ringError n cause).reg Reg.hifErrLog = place n 0 ||| place cause 8 ||| bit 31 := State.reg_setReg_self _ _ _

theorem State.ringError_reg_ne {o : Nat} (h : o ≠ Reg.hifErrLog) : (s.ringError n cause).reg o = s.reg o := State.reg_setReg_ne _ _ h

theorem State.ringError_frame :
    s.ringError n cause = { s with regs := (s.ringError n cause).regs, hif := { s.hif with rings := (s.ringError n cause).hif.rings } } := rfl

end

section
variable {s : State} {n : Fin 64} {i : BitVec 16} {ds : List (List Word)} {e : Bool}

theorem exec_doorbell_of_stopped (h : (s.ring n.val).works = false) : exec (.doorbell n i ds e) s = .next s ∧ exec (.completionConsume n i) s = .next s := by
  have hkept (ds e) : s.hostIdxWrite n.val i.toNat ds e = s := by rw [State.hostIdxWrite, h, Bool.not_false, if_pos rfl]
  constructor
  · change execDoorbell n i ds e s = _
    rw [execDoorbell, hkept, ite_self]
  · change execCompletionConsume n i s = _
    rw [execCompletionConsume, hkept, ite_self]

variable (hup : s.hostUp = true) (hw : (s.ring n.val).works = true)
include hup hw

theorem exec_doorbell_eq_hostPosts (ht : s.ringType n.val = 1 ∨ 3 ≤ s.ringType n.val) :
    exec (.doorbell n i ds e) s = .next (s.hostPosts n.val i.toNat ds e) := by
  change execDoorbell n i ds e s = _
  rw [execDoorbell, if_pos hup, State.hostIdxWrite, hw, Bool.not_true, if_neg Bool.false_ne_true, if_neg (by omega), if_neg (by omega)]

theorem exec_completionConsume_eq_hostConsumes (ht : s.ringType n.val = 2) :
    exec (.completionConsume n i) s = .next (s.hostConsumes n.val i.toNat) ∧ exec (.doorbell n i ds e) s = .next (s.hostConsumes n.val i.toNat) := by
  have hconsume (ds e) : s.hostIdxWrite n.val i.toNat ds e = s.hostConsumes n.val i.toNat := by
    rw [State.hostIdxWrite, hw, Bool.not_true, if_neg Bool.false_ne_true, if_pos ht]
  constructor
  · change execCompletionConsume n i s = _
    rw [execCompletionConsume, if_pos hup, hconsume]
  · change execDoorbell n i ds e s = _
    rw [execDoorbell, if_pos hup, hconsume]

/-- An index out of range puts a ring of any type in ERROR. -/
theorem exec_doorbell_of_invalid (ht : s.ringType n.val ≠ 0) (hv : idxValid (s.ringSize n.val) i.toNat = false) :
    exec (.doorbell n i ds e) s = .next (s.ringError n.val 1) := by
  by_cases hcq : s.ringType n.val = 2
  · rw [(exec_completionConsume_eq_hostConsumes hup hw hcq).2, State.hostConsumes, hv, Bool.not_false, if_pos rfl]
  · rw [exec_doorbell_eq_hostPosts hup hw (by omega), State.hostPosts, hv, Bool.not_false, if_pos rfl]

end

section
variable {s : State} {n idx : Nat} {ds : List (List Word)} (hv : idxValid (s.ringSize n) idx = true)
include hv

theorem State.hostPosts_of_overrun (e : Bool) (hd : s.ringSize n < idxDist (s.ringSize n) (s.ring n).devIdx idx) :
    s.hostPosts n idx ds e = s.ringError n 2 := by
  rw [State.hostPosts, hv, Bool.not_true, if_neg Bool.false_ne_true, if_pos hd]

theorem State.hostPosts_of_read_error (hd : idxDist (s.ringSize n) (s.ring n).devIdx idx ≤ s.ringSize n) :
    s.hostPosts n idx ds true = ((s.setRing n { s.ring n with hostIdx := idx }).inc Reg.hifDmaErrCnt).ringError n 3 := by
  rw [State.hostPosts, hv, Bool.not_true, if_neg Bool.false_ne_true, if_neg (Nat.not_lt.2 hd), if_pos rfl]

theorem State.hostPosts_of_read (hd : idxDist (s.ringSize n) (s.ring n).devIdx idx ≤ s.ringSize n) :
    s.hostPosts n idx ds false = s.setRing n { s.ring n with
      hostIdx := idx, posted := if s.ringType n = 1 || s.ringType n = 4 then []
        else ((s.ring n).posted ++ ds.map bufDescOf).take (idxDist (s.ringSize n) (s.ring n).devIdx idx) } := by
  rw [State.hostPosts, hv, Bool.not_true, if_neg Bool.false_ne_true, if_neg (Nat.not_lt.2 hd), if_neg Bool.false_ne_true]

theorem State.hostConsumes_of_overrun (hd : (s.ring n).entries.length < idxDist (s.ringSize n) (s.ring n).hostIdx idx) :
    s.hostConsumes n idx = s.ringError n 2 := by
  rw [State.hostConsumes, hv, Bool.not_true, if_neg Bool.false_ne_true, if_pos hd]

/-- A ring whose entries before an index are consumed, armed again (R407). -/
def State.consumed (s : State) (n idx : Nat) : State :=
  let rest := (s.ring n).entries.drop (idxDist (s.ringSize n) (s.ring n).hostIdx idx)
  s.setRing n { s.ring n with hostIdx := idx, entries := rest, armed := true, fresh := rest.length }

/-- With no completion waiting for space, a host index frees the entries before it, and the ring fires at once if its condition holds. -/
theorem State.hostConsumes_of_entries (hd : idxDist (s.ringSize n) (s.ring n).hostIdx idx ≤ (s.ring n).entries.length) (hwait : s.hif.waiting = []) :
    s.hostConsumes n idx = (s.consumed n idx).checkFire n := by
  have hnone : ((s.consumed n idx).checkFire n).hif.waiting = [] := by
    rw [State.checkFire]
    split
    · rw [State.fire]
      split
      · exact hwait
      · rw [State.inc_hif]
        exact hwait
    · exact hwait
  have hdrain : s.hostConsumes n idx = ((s.consumed n idx).checkFire n).drainWaiting n ((s.consumed n idx).checkFire n).hif.waiting := by
    rw [State.hostConsumes, hv, Bool.not_true, if_neg Bool.false_ne_true, if_neg (Nat.not_lt.2 hd)]
    rfl
  rw [hdrain, hnone, State.drainWaiting]

end

theorem State.consumed_ring_self (s : State) (n idx : Nat) : (s.consumed n idx).ring n = { s.ring n with
    hostIdx := idx, entries := (s.ring n).entries.drop (idxDist (s.ringSize n) (s.ring n).hostIdx idx), armed := true
    fresh := ((s.ring n).entries.drop (idxDist (s.ringSize n) (s.ring n).hostIdx idx)).length } := State.ring_setRing_self ..

theorem State.consumed_ring_ne (s : State) {n m : Nat} (idx : Nat) (h : m ≠ n) : (s.consumed n idx).ring m = s.ring m := State.ring_setRing_ne _ _ h

/-- A ring with nothing unconsumed does not fire. -/
theorem State.checkFire_of_none {s : State} {n : Nat} (h : (s.ring n).fresh = 0) : s.checkFire n = s := by
  simp only [State.checkFire, h, Nat.lt_irrefl, decide_false, Bool.and_false, Bool.false_and, Bool.false_eq_true, if_false]

/-- An armed ring whose COUNT is reached fires; an unmasked vector sends its message (R407). -/
theorem State.checkFire_of_count {s : State} {n : Nat} (ha : (s.ring n).armed = true) (hc : max 1 (s.regField (Reg.hifRingMod n) 11 0) ≤ (s.ring n).fresh)
    (hm : s.hif.masked.getLsbD (s.regField (Reg.hifRingCfg n) 20 14) = false) (hf : s.functionMasked = false) :
    s.checkFire n = (s.setRing n { s.ring n with armed := false, fresh := 0 }).inc Reg.hifIntrCnt := by
  have hfresh : 0 < (s.ring n).fresh := by omega
  simp only [State.checkFire, State.fire, ha, hc, hm, hf, hfresh, decide_true, Bool.and_self, Bool.true_or, Bool.or_self, Bool.false_eq_true, if_false, if_true]

/-- Settles O30, by the validity of the index, the entries that it runs over and the interrupt that re-arming can raise. -/
theorem hostIndicesPostAndConsume : Obligations.HostIndicesPostAndConsume := by
  refine ⟨?posts, ?carried, ?invalid, ?overrun, ?readError, ?consumesAll, ?fires, ?overconsumes, ?stopped⟩
  case posts =>
    intro n i ds s hup hw ht h4 hv hd hfit
    have htake : ((s.ring n.val).posted ++ ds.map bufDescOf).take (idxDist (s.ringSize n.val) (s.ring n.val).devIdx i.toNat) =
        (s.ring n.val).posted ++ ds.map bufDescOf := List.take_of_length_le (by rw [hd, List.length_append, List.length_map])
    have hbuf : (decide (s.ringType n.val = 1) || decide (s.ringType n.val = 4)) = false := by
      rw [decide_eq_false (by omega), decide_eq_false h4, Bool.or_self]
    have hexec := exec_doorbell_eq_hostPosts (i := i) (ds := ds) (e := false) hup hw (.inr ht)
    rw [State.hostPosts_of_read hv (hd ▸ hfit), hbuf, if_neg Bool.false_ne_true, htake] at hexec
    exact ⟨_, hexec, State.ring_setRing_self .., fun _ => State.ring_setRing_ne _ _, rfl⟩
  case carried =>
    intro n i ds s hup hw ht hv hd
    have hcmd : (decide (s.ringType n.val = 1) || decide (s.ringType n.val = 4)) = true := by
      rwa [Bool.or_eq_true, decide_eq_true_eq, decide_eq_true_eq]
    have hexec := exec_doorbell_eq_hostPosts (i := i) (ds := ds) (e := false) hup hw (by omega)
    rw [State.hostPosts_of_read hv hd, hcmd, if_pos rfl] at hexec
    exact ⟨_, hexec, State.ring_setRing_self .., fun _ => State.ring_setRing_ne _ _, rfl⟩
  case invalid =>
    intro n i ds e s hup hw ht hv
    exact ⟨_, exec_doorbell_of_invalid hup hw ht hv, State.ringError_ring_self .., State.ringError_reg_self .., fun _ => State.ringError_ring_ne _ _ _,
      fun _ => State.ringError_reg_ne _ _ _, State.ringError_frame ..⟩
  case overrun =>
    intro n i ds e s hup hw ht hv hd
    refine ⟨_, (exec_doorbell_eq_hostPosts hup hw ht).trans (congrArg _ (State.hostPosts_of_overrun hv e hd)), State.ringError_ring_self ..,
      State.ringError_reg_self .., fun _ => State.ringError_ring_ne _ _ _, fun _ => State.ringError_reg_ne _ _ _, State.ringError_frame ..⟩
  case readError =>
    intro n i ds s hup hw ht hv hd
    refine ⟨_, (exec_doorbell_eq_hostPosts hup hw ht).trans (congrArg _ (State.hostPosts_of_read_error hv hd)), ?_, State.ringError_reg_self .., ?_, ?_, ?_, ?_⟩
    · rw [State.ringError_ring_self, State.ring_inc, State.ring_setRing_self, Ring.inError]
    · rw [State.ringError_reg_ne _ _ _ (by decide), State.reg_inc_self]
      rfl
    · intro m hm
      rw [State.ringError_ring_ne _ _ _ hm, State.ring_inc, State.ring_setRing_ne _ _ hm]
    · intro o ho hc
      rw [State.ringError_reg_ne _ _ _ ho, State.reg_inc_ne _ hc]
      rfl
    · rw [State.ringError_frame, State.inc_regs_only]
      rfl
  case consumesAll =>
    intro n i s hup hw ht hv hwait hd
    have hrest : (s.ring n.val).entries.drop (idxDist (s.ringSize n.val) (s.ring n.val).hostIdx i.toNat) = [] := List.drop_eq_nil_of_le hd.ge
    have hring := s.consumed_ring_self n.val i.toNat
    rw [hrest] at hring
    have hexec := (exec_completionConsume_eq_hostConsumes (i := i) (ds := []) (e := false) hup hw ht).1
    rw [State.hostConsumes_of_entries hv hd.le hwait, State.checkFire_of_none (by rw [hring]; rfl)] at hexec
    exact ⟨_, hexec, hring, fun _ => State.consumed_ring_ne _ _, rfl⟩
  case fires =>
    intro n i s hup hw ht hv hwait hd hcount hmask hfm
    have hring := s.consumed_ring_self n.val i.toNat
    have hexec := (exec_completionConsume_eq_hostConsumes (i := i) (ds := []) (e := false) hup hw ht).1
    have hreached : max 1 ((s.consumed n.val i.toNat).regField (Reg.hifRingMod n.val) 11 0) ≤ ((s.consumed n.val i.toNat).ring n.val).fresh := by
      rw [hring, List.length_drop]
      exact Nat.le_sub_of_add_le hcount
    rw [State.hostConsumes_of_entries hv hd.le hwait, State.checkFire_of_count (by rw [hring]) hreached hmask hfm, hring] at hexec
    refine ⟨_, hexec, ?_, ?_, ?_, ?_, ?_⟩
    · rw [State.ring_inc, State.ring_setRing_self]
    · rw [State.reg_inc_self]
      rfl
    · intro m hm
      rw [State.ring_inc, State.ring_setRing_ne _ _ hm, State.consumed_ring_ne _ _ hm]
    · intro o ho
      rw [State.reg_inc_ne _ ho]
      rfl
    · rw [State.inc_regs_only]
      rfl
  case overconsumes =>
    intro n i s hup hw ht hv hd
    refine ⟨_, (exec_completionConsume_eq_hostConsumes (ds := []) (e := false) hup hw ht).1.trans (congrArg _ (State.hostConsumes_of_overrun hv hd)), ?_, ?_,
      State.ringError_reg_self .., fun _ => State.ringError_ring_ne _ _ _, fun _ => State.ringError_reg_ne _ _ _, State.ringError_frame ..⟩ <;>
      rw [State.ringError_ring_self, Ring.inError]
  case stopped => exact fun n i ds e s => exec_doorbell_of_stopped

end Sys2Proof.Machine
end

section
/-! PROOFS. Commands of the command rings: unread, refused in TAMPERED, completed (chapter 13, R397, R399, R403, R405; chapter 16, R486). -/
namespace Sys2Proof.Machine

/-! ### A command ring's commands are `State.command` (R405, R408, R486) -/

/-- Each command that a command ring carries reads its descriptor as `State.command` does, served in TAMPERED as R486 has it. -/
theorem exec_eq_command {c : Instr} {h : CmdHdr} {served : Bool} (hc : ringCommand c = some (h, served)) (s : State) :
    ∃ body, exec c s = .next (s.command h served body) := by
  cases c
  case badOpcode h' op =>
    by_cases hl : opcodes.contains op.toNat = true
    · rw [ringCommand, if_pos hl] at hc
      cases hc
    · rw [ringCommand, if_neg hl] at hc
      cases hc
      refine ⟨fun _ x => (x, .done { status := stBadOpcode }), ?_⟩
      change execBadOpcode h op s = _
      rw [execBadOpcode, if_neg hl]
  all_goals cases hc
  all_goals exact ⟨_, rfl⟩

/-- Settles O11, since `State.command` changes nothing for a descriptor that is not read. -/
theorem unreadCommandChangesNothing : Obligations.UnreadCommandChangesNothing := by
  intro c h served s hc hunread
  obtain ⟨body, hexec⟩ := exec_eq_command hc s
  rw [hexec, State.command_unread s h served body hunread]

/-- Settles O12, since `State.command` runs the body of no such command in TAMPERED. -/
theorem tamperedDeviceRefusesCommands : Obligations.TamperedDeviceRefusesCommands := by
  intro c h s hc hread htamp
  obtain ⟨body, hexec⟩ := exec_eq_command hc s
  rw [hexec, State.command_tampered s h body hread htamp]

/-! ### Completions (R403) -/

/-- The counters of a completion are counted (R403, R420). -/
def State.counted (s : State) (r : CmdResult) : State :=
  if r.status = stOk then s.inc Reg.hifCmdCnt else (s.inc Reg.hifCmdCnt).inc Reg.hifCmdErrCnt

/-- The entry of a completion (Table HIF-6). -/
def State.completionOf (s : State) (c : CmdRef) (r : CmdResult) (phase : Bool) (time : Nat) : Completion :=
  { index := c.index, src := c.ring, phase := phase, tag := c.tag, status := r.status, detail := r.detail
    length := r.length, result := r.result, data := r.data, addr := r.addr, time := time, relaxed := s.relaxedData }

section
variable (s : State) (r : CmdResult)

theorem State.counted_hif : (s.counted r).hif = s.hif := by
  rw [State.counted]
  split <;> simp only [State.inc_hif]

theorem State.counted_tim : (s.counted r).tim = s.tim := by
  rw [State.counted]
  split <;> simp only [State.inc_tim]

theorem State.counted_reg_ne {o : Nat} (h : o ≠ Reg.hifCmdCnt) (he : o ≠ Reg.hifCmdErrCnt) : (s.counted r).reg o = s.reg o := by
  rw [State.counted]
  split
  · rw [State.reg_inc_ne _ h]
  · rw [State.reg_inc_ne _ he, State.reg_inc_ne _ h]

theorem State.counted_reg_cmdCnt : (s.counted r).reg Reg.hifCmdCnt = s.reg Reg.hifCmdCnt + 1 := by
  rw [State.counted]
  split
  · rw [State.reg_inc_self]
  · rw [State.reg_inc_ne _ (by decide), State.reg_inc_self]

theorem State.counted_reg_cmdErrCnt : (s.counted r).reg Reg.hifCmdErrCnt = s.reg Reg.hifCmdErrCnt + (if r.status = stOk then 0 else 1) := by
  rw [State.counted]
  split
  · rw [State.reg_inc_ne _ (by decide)]
    exact (BitVec.add_zero _).symm
  · rw [State.reg_inc_self, State.reg_inc_ne _ (by decide)]

/-- The configuration of a ring lies above the counters. -/
theorem State.counted_ringCfg (n : Nat) : (s.counted r).reg (Reg.hifRingCfg n) = s.reg (Reg.hifRingCfg n) := by
  refine s.counted_reg_ne r ?_ ?_ <;>
    · simp only [Reg.hifRingCfg, Reg.hifCmdCnt, Reg.hifCmdErrCnt]
      omega

theorem State.counted_ring (n : Nat) : (s.counted r).ring n = s.ring n := by rw [State.ring, State.counted_hif, State.ring]

theorem State.counted_ringSize (n : Nat) : (s.counted r).ringSize n = s.ringSize n := by
  rw [State.ringSize, State.regField, State.counted_ringCfg, State.ringSize, State.regField]

theorem State.counted_ringType (n : Nat) : (s.counted r).ringType n = s.ringType n := by
  rw [State.ringType, State.regField, State.counted_ringCfg, State.ringType, State.regField]

theorem State.counted_cqFree (n : Nat) : (s.counted r).cqFree n = s.cqFree n := by
  rw [State.cqFree, State.cqWorks, State.counted_ring, State.counted_ringSize, State.counted_ringType, State.cqFree, State.cqWorks]

end

section
variable (s : State) (n : Nat)

/-- A ring that fires loses no entry. -/
theorem State.checkFire_entries : ((s.checkFire n).ring n).entries = (s.ring n).entries ∧ ((s.checkFire n).ring n).devIdx = (s.ring n).devIdx := by
  have hring (x : State) : (x.onHif fun h => { h with pba := h.pba ||| (1 <<< s.regField (Reg.hifRingCfg n) 20 14) }).ring n = x.ring n := rfl
  rw [State.checkFire]
  split
  · rw [State.fire]
    split
    · rw [hring, State.ring_setRing_self]
      exact ⟨rfl, rfl⟩
    · rw [State.ring_inc, State.ring_setRing_self]
      exact ⟨rfl, rfl⟩
  · exact ⟨rfl, rfl⟩

theorem State.checkFire_reg_ne {o : Nat} (h : o ≠ Reg.hifIntrCnt) : (s.checkFire n).reg o = s.reg o := by
  rw [State.checkFire]
  split
  · rw [State.fire]
    split
    · rfl
    · rw [State.reg_inc_ne _ h]
      rfl
  · rfl

end

section
variable {s : State} {n : Nat}

theorem State.post_of_free (c : Completion) (h : s.cqFree n = true) : s.post n c = s.writeCompletion n c := by
  have hworks : s.cqWorks n = true := (Bool.and_eq_true_iff.1 h).1
  rw [State.post, hworks, Bool.not_true, if_neg Bool.false_ne_true, if_pos h]

theorem State.writeCompletion_ring (c : Completion) :
    ((s.writeCompletion n c).ring n).entries = (s.ring n).entries ++ [{ c with phase := !idxWrap (s.ring n).devIdx, time := s.tim.mono }] ∧
    ((s.writeCompletion n c).ring n).devIdx = idxNext (s.ringSize n) (s.ring n).devIdx := by
  rw [State.writeCompletion]
  refine ⟨(State.checkFire_entries _ n).1.trans ?_, (State.checkFire_entries _ n).2.trans ?_⟩ <;> rw [State.ring_setRing_self]

theorem State.writeCompletion_reg_ne (c : Completion) {o : Nat} (h : o ≠ Reg.hifIntrCnt) : (s.writeCompletion n c).reg o = s.reg o :=
  State.checkFire_reg_ne _ _ h

end

theorem State.complete_of_free {s : State} {c : CmdRef} (r : CmdResult) (hgen : c.gen = s.hif.gen) (hfree : s.cqFree (s.ringCq c.ring) = true) :
    s.complete c r = (s.counted r).writeCompletion (s.ringCq c.ring) (s.completionOf c r false 0) := by
  rw [← State.post_of_free _ ((s.counted_cqFree r _).trans hfree), State.complete, if_neg (not_not_intro hgen)]
  simp only [State.counted, State.completionOf, State.ringCq, State.regField]

/-- Settles O13, by the entry that `State.writeCompletion` appends and the counters counted before it. -/
theorem completionIsWrittenAndCounted : Obligations.CompletionIsWrittenAndCounted := by
  intro s c r hgen hfree q t
  have ht : t = (s.counted r).writeCompletion q (s.completionOf c r false 0) := State.complete_of_free r hgen hfree
  obtain ⟨hentries, hidx⟩ := State.writeCompletion_ring (s := s.counted r) (n := q) (s.completionOf c r false 0)
  rw [State.counted_ring, State.counted_tim] at hentries
  rw [State.counted_ring, State.counted_ringSize] at hidx
  refine ⟨?_, ?_, ?_, ?_, State.complete_hif s c r⟩
  · rw [ht, hentries, State.completionOf]
  · rw [ht, hidx]
  · rw [ht, State.writeCompletion_reg_ne _ (by decide), State.counted_reg_cmdCnt]
  · rw [ht, State.writeCompletion_reg_ne _ (by decide), State.counted_reg_cmdErrCnt]

end Sys2Proof.Machine
end

section
/-! PROOFS. Roles and ROLE_SWAP (chapter 14, R434, R438, R440); the event recorder's commands and writes (chapter 15, R451 to R459). -/
namespace Sys2Proof.Machine

/-- A command that TAMPERED serves, completed at once. -/
theorem State.next_command_of_accepted {s : State} {h : CmdHdr} {body : CmdRef → State → State × CmdEnd} {t : State} {r : CmdResult}
    (hs : s.canAccept h = true) (hb : body (s.refOf h) (s.commandTaken h) = (t, .done r)) :
    (.next (s.command h true body) : Answer) = .next (s.done h r t) :=
  congrArg Host.Outcome.next (s.command_done h true body hs (.inr rfl) t r hb)

/-! ### Claims (R434) -/

section
variable (s : State)

theorem State.gateFrom_gzl (old : State) : (s.gateFrom old).gzl = s.gzl := by
  rw [s.gateFrom_records old]

theorem State.nvmWrite_epoch_gzl (e : Word) : (s.nvmWrite (.epoch e)).gzl = s.gzl := by
  rw [State.nvmWrite]
  split <;> rfl

theorem State.stepResolved_gzl : s.stepResolved.gzl = s.gzl := by
  rw [State.stepResolved]
  split
  · rw [State.holdRecord]
    split
    · rw [State.event_gzl]; rfl
    · rfl
  · rfl

theorem State.toRole_gzl {r : Role} (hr : r ≠ .standby) : (s.toRole r).gzl = { s.gzl with role := r } := by
  rw [State.toRole]
  split
  case isTrue hsame => rw [← hsame]
  case isFalse =>
    dsimp only
    split
    · exact absurd rfl hr
    · rw [State.stepResolved_gzl, State.event_gzl]; rfl

theorem State.reinitGroup_gzl (g cause : Nat) : (s.reinitGroup g cause).gzl = s.gzl := by
  rw [State.reinitGroup, State.setReg_gzl, State.inc_gzl, State.onMod_gzl]

theorem State.freshEngines_gzl : s.freshEngines.gzl = s.gzl := by
  have hfold (l : List Nat) (x : State) : (l.foldl (fun y g => y.reinitGroup g 0) x).gzl = x.gzl := by
    induction l generalizing x with
    | nil => rfl
    | cons g l ih => rw [List.foldl_cons, ih, State.reinitGroup_gzl]
  rw [State.freshEngines, State.reinitAll, hfold, State.onTop_gzl, State.onAlm_gzl]

/-- The epoch that a claim takes: one above both devices' (R434). -/
def State.claimedEpoch (s : State) : Word := sat32 (max s.gzl.epoch.toNat s.gzl.partnerEpoch.toNat + 1)

theorem State.claimRole_gzl {r : Role} (hr : r ≠ .standby) : (s.claimRole r).gzl =
    { s.gzl with
      role := r, epoch := s.claimedEpoch, claim := some { role := r, epoch := s.claimedEpoch, held := s.pwr.brace }, swapMute := false } := by
  have hwrite : (if s.pwr.brace then s.nvmWrite (.epoch s.claimedEpoch) else s).gzl = s.gzl := by
    split
    · exact s.nvmWrite_epoch_gzl _
    · rfl
  rw [State.claimRole, State.gateFrom_gzl]
  split
  · rw [State.freshEngines_gzl, State.toRole_gzl _ hr, State.onGzl_gzl, ← State.claimedEpoch, hwrite]
  · rw [State.toRole_gzl _ hr, State.onGzl_gzl, ← State.claimedEpoch, hwrite]

end

/-! ### ROLE_SET (R438) -/

/-- The reply of ROLE_SET: the epoch after the command. -/
def State.epochReply (s : State) (st : Nat) : State × CmdResult := (s, { status := st, result := [s.gzl.epoch] })

section
variable {s : State}

theorem State.roleSet_of_same {r : Role} (hr : s.gzl.role = r) : s.roleSet r = s.epochReply stOk := if_pos hr

theorem State.roleSet_of_solo {r : Role} (hsolo : s.gzl.role = .solo) (hr : s.gzl.role ≠ r) : s.roleSet r = s.epochReply stState :=
  (if_neg hr).trans (if_pos hsolo)

theorem State.roleSet_active (hr : s.gzl.role ≠ .active) (hsolo : s.gzl.role ≠ .solo) :
    s.roleSet .active = if s.gzlOn then (s.claimRole .active).epochReply stOk else s.epochReply stState :=
  (if_neg hr).trans (if_neg hsolo)

theorem State.roleSet_standby (hr : s.gzl.role ≠ .standby) (hsolo : s.gzl.role ≠ .solo) :
    s.roleSet .standby = if s.gzlOn then (s.standDown false).epochReply stOk else s.epochReply stState :=
  (if_neg hr).trans (if_neg hsolo)

theorem State.roleSet_solo (hsolo : s.gzl.role ≠ .solo) :
    s.roleSet .solo = if s.gzlOn then s.epochReply stState else (s.claimRole .solo).epochReply stOk :=
  (if_neg hsolo).trans (if_neg hsolo)

/-- The role that an argument of ROLE_SET other than 3 names. -/
def roleOfArg (k : BitVec 2) : Role := if k = 0 then .active else if k = 1 then .standby else .solo

/-- ROLE_SET with an argument other than 3 answers as `State.roleSet` of the role it names. -/
theorem exec_roleSet_of_reply {h : CmdHdr} {k : BitVec 2} {t : State} {st : Nat} (hs : s.serves h) (hk : k ≠ 3)
    (hr : (s.commandTaken h).roleSet (roleOfArg k) = t.epochReply st) :
    exec (.roleSet h k) s = .next (s.done h { status := st, result := [t.gzl.epoch] } t) := by
  have hcases : ∀ j : BitVec 2, j ≠ 3 → j = 0 ∨ j = 1 ∨ j = 2 := by decide
  rcases hcases k hk with rfl | rfl | rfl <;>
    exact State.next_command_of_serves hs (congrArg (fun p : State × CmdResult => (p.1, CmdEnd.done p.2)) hr)

theorem exec_roleSet_three {h : CmdHdr} (hs : s.serves h) :
    exec (.roleSet h 3) s = .next (s.done h { status := stBadArg, result := [s.gzl.epoch] } (s.commandTaken h)) :=
  State.next_command_of_serves hs rfl

end

/-- Settles O16, by the branches of `State.roleSet` and what a claim does to the pair's state. -/
theorem rolesAreSetAndSwapped : Obligations.RolesAreSetAndSwapped := by
  refine ⟨?active, ?standby, ?solo, ?soloPaired, ?same, ?onSolo, ?alone, ?three, ?swap, ?noSwap⟩
  case active =>
    intro h s hs hon hr hsolo
    have hgzl := (s.commandTaken h).claimRole_gzl (r := .active) (by decide)
    refine ⟨_, exec_roleSet_of_reply hs (by decide) ((State.roleSet_active (s := s.commandTaken h) hr hsolo).trans (if_pos hon)), rfl, ?_, ?_⟩ <;> rw [hgzl]
    rfl
  case standby =>
    intro h s hs hon hr hsolo
    exact ⟨_, exec_roleSet_of_reply hs (by decide) ((State.roleSet_standby (s := s.commandTaken h) hr hsolo).trans (if_pos hon)), rfl⟩
  case solo =>
    intro h s hs hon hsolo
    have hgzl := (s.commandTaken h).claimRole_gzl (r := .solo) (by decide)
    refine ⟨_, exec_roleSet_of_reply hs (by decide) ((State.roleSet_solo (s := s.commandTaken h) hsolo).trans (if_neg (Bool.eq_false_iff.1 hon))), rfl, ?_⟩
    rw [hgzl]
  case soloPaired =>
    intro h s hs hon hsolo
    exact exec_roleSet_of_reply hs (by decide) ((State.roleSet_solo (s := s.commandTaken h) hsolo).trans (if_pos hon))
  case same =>
    intro h s k hs hr hk
    exact exec_roleSet_of_reply hs hk (State.roleSet_of_same hr)
  case onSolo =>
    intro h s k hs hsolo hk
    have hother : (s.commandTaken h).gzl.role ≠ roleOfArg k := by
      change s.gzl.role ≠ _
      rw [hsolo]
      rcases hk with rfl | rfl <;> decide
    exact exec_roleSet_of_reply hs (by rcases hk with rfl | rfl <;> decide) (State.roleSet_of_solo hsolo hother)
  case alone =>
    intro h s hs hoff
    have hnot : ¬ (s.commandTaken h).gzlOn = true := Bool.eq_false_iff.1 hoff
    refine ⟨fun hr => exec_roleSet_of_reply hs (by decide) ?_, fun hr => exec_roleSet_of_reply hs (by decide) ?_⟩ <;>
      by_cases hsolo : s.gzl.role = .solo
    · exact State.roleSet_of_solo hsolo hr
    · exact (State.roleSet_active (s := s.commandTaken h) hr hsolo).trans (if_neg hnot)
    · exact State.roleSet_of_solo hsolo hr
    · exact (State.roleSet_standby (s := s.commandTaken h) hr hsolo).trans (if_neg hnot)
  case three => exact fun h s hs => exec_roleSet_three hs
  case swap =>
    intro h s hs hok hl
    exact State.next_command_of_begins hs hl (if_pos hok)
  case noSwap =>
    intro h s hs hok
    exact State.next_command_of_serves hs (if_neg (Bool.eq_false_iff.1 hok))

/-! ### The event recorder (R451 to R459) -/

section
variable {s : State} {h : CmdHdr}

theorem exec_recRead_of_start {first count : Word} (addr : BitVec 64) {len : Word} {q : Nat} (hs : s.canAccept h = true) (hpos : 1 ≤ count.toNat)
    (hmax : count.toNat ≤ 65536) (hlen : 64 ≤ len.toNat) (hq : s.readStart first = some q) (hl : s.hif.outstanding.length < 32) :
    let n := min (min count.toNat (len.toNat / 64)) (s.nvm.evrNext - q)
    exec (.recRead h first count addr len) s = .next (s.begun h ((s.commandTaken h).onHif fun x =>
      { x with
        finishing := x.finishing ++ [(s.refOf h,
          { status := stOk, length := 64 * n, result := [w32 q, w32 n]
            data := (List.range n).flatMap fun i => bytesOf (s.storedRecord (q + i)), addr := addr })] })) := by
  have hcount : ¬ (decide (count.toNat = 0) || decide (65536 < count.toNat)) = true := by
    simp only [Bool.or_eq_true, decide_eq_true_eq]
    omega
  have hstart : (s.commandTaken h).readStart first = some q := hq
  refine congrArg Host.Outcome.next (s.command_long h true _ hs (.inr rfl) hl _ ?_)
  simp only [hcount, Nat.not_lt.2 hlen, hstart, if_false]
  rfl

theorem exec_recErase_of_stored {upTo : Word} (hs : s.canAccept h = true) (hoff : s.evrHeldOff = false) (hin : s.evrNamed upTo < s.evrCount)
    (hfull : s.evrFull = false) : exec (.recErase h upTo) s = .next (s.done h { status := stOk, result := [w32 (s.evrNamed upTo + 1)] }
      ((s.commandTaken h).onNvm fun n => { n with evrHead := n.evrHead + s.evrNamed upTo + 1 })) := by
  have hheld : (s.commandTaken h).evrHeldOff = false := hoff
  have hstored : ¬ (s.commandTaken h).evrCount ≤ (s.commandTaken h).evrNamed upTo := Nat.not_le.2 hin
  have hroom : (s.commandTaken h).evrFull = false := hfull
  refine State.next_command_of_accepted hs ?_
  simp only [hheld, hstored, hroom, Bool.false_and, Bool.false_eq_true, if_false]
  rfl

theorem exec_recErase_of_absent {upTo : Word} (hs : s.canAccept h = true) (hoff : s.evrHeldOff = false) (hout : s.evrCount ≤ s.evrNamed upTo) :
    exec (.recErase h upTo) s = .next (s.done h { status := stBadArg } (s.commandTaken h)) :=
  State.next_command_of_accepted hs ((if_neg (Bool.eq_false_iff.1 hoff)).trans (if_pos hout))

theorem State.runToMono_freezeMs (m : Nat) : (s.runToMono m).freezeMs = s.freezeMs := by
  rw [State.runToMono]
  split <;> rfl

theorem exec_freezeTimeout_of_frozen (hf : s.evr.frozen = true) : exec .freezeTimeout s = .next
    ((((s.runToMono (s.evr.frozenAt + s.freezeMs * 1000000)).onEvr fun e => { e with frozen := false }).inc Reg.evrFreezeToCnt).event 0x0002 clsLog
      [w32 s.freezeMs]) := by
  change execFreezeTimeout s = _
  simp only [execFreezeTimeout, hf, State.runToMono_freezeMs, Bool.not_true, Bool.false_eq_true, if_false]

end

/-- Settles O18, by the branches of the recorder's commands and steps. -/
theorem recorderHoldsAndServesRecords : Obligations.RecorderHoldsAndServesRecords := by
  refine ⟨?freeze, ?frozen, ?thaw, ?read, ?erase, ?noErase, ?write, ?held, ?timeout, ?noTimeout⟩
  case freeze => exact fun h s hs hf => State.next_command_of_accepted hs (if_neg (Bool.eq_false_iff.1 hf))
  case frozen =>
    exact fun h s hs hf => ⟨State.next_command_of_accepted hs (if_pos hf), State.next_command_of_accepted hs (if_pos hf)⟩
  case thaw => exact fun h s hs hf => State.next_command_of_accepted hs (if_neg (Bool.eq_false_iff.1 hf))
  case read =>
    intro h first count addr len s q hs hpos hmax hlen hq hl
    exact exec_recRead_of_start addr hs hpos hmax hlen hq hl
  case erase => exact fun h upTo s hs hoff hin hfull => exec_recErase_of_stored hs hoff hin hfull
  case noErase =>
    exact fun h upTo s hs => ⟨fun hoff => State.next_command_of_accepted hs (if_pos hoff), fun hoff hout => exec_recErase_of_absent hs hoff hout⟩
  case write =>
    intro s hoff hstep hawake
    have hruns : ¬ (s.evrHeldOff || decide (s.sys.step < 6) || !s.awake) = true := by
      simp only [hoff, hawake, Bool.false_or, Bool.not_true, Bool.or_false, decide_eq_true_eq]
      omega
    exact if_neg hruns
  case held =>
    intro s hoff
    have hstops : (s.evrHeldOff || decide (s.sys.step < 6) || !s.awake) = true := by rw [hoff]; rfl
    exact if_pos hstops
  case timeout => exact fun s hf => exec_freezeTimeout_of_frozen hf
  case noTimeout =>
    intro s hf
    have hstops : (!s.evr.frozen) = true := by rw [hf]; rfl
    exact if_pos hstops

end Sys2Proof.Machine
end

section
/-! PROOFS. Reset values, the seal, requests and start-up writes (chapter 16, R469, R467; chapter 17, R508; chapter 18, R528 to R538; chapter 21, R563). -/
namespace Sys2Proof.Machine

/-- Settles O7: after reset no register differs from its table and no ring from its default. -/
theorem resetLeavesTableValues : Obligations.ResetLeavesTableValues := by
  refine ⟨rfl, fun _ => rfl, rfl, ⟨rfl, ?_⟩, rfl, rfl, rfl, rfl, fun _ _ => rfl⟩
  intro e he
  cases he

/-! ### The seal (R563, R564) -/

theorem State.actWrite_sysSeal (s : State) (v : Word) :
    s.actWrite Reg.sysSeal v = if v = 0x5EA10880 then { s with isSealed := true } else s := rfl

theorem exec_sysSeal_of_hostUp {s : State} (v : Word) (hup : s.hostUp = true) :
    exec (.sysSeal v) s = .next (if v = 0x5EA10880 then { s with isSealed := true } else s) := by
  change Host.Outcome.next (s.hostWrite Reg.sysSeal v) = _
  rw [s.hostWrite_of_wo v (by decide), if_pos hup, s.actWrite_sysSeal]

/-- Settles O24, by the access codes of SYS_SEAL and of an RWS register. -/
theorem sealStopsSealedRegisters : Obligations.SealStopsSealedRegisters := by
  refine ⟨⟨rfl, by decide, by decide⟩, fun v s hup => exec_sysSeal_of_hostUp v hup, ?_⟩
  intro off d s r hsealed h4 hr hacc
  have hrws : (regRow off.toNat).map RegRow.acc = some .rws := by rw [hr, Option.map_some, hacc]
  rw [exec_registerWrite_bar0 rfl h4, State.hostWrite, s.writeReg_of_rws _ hrws, if_pos hsealed, ite_self]

/-! ### Start-up and boot writes (R537, R538) -/

section
variable {s : State}

/-- GO ends step 11 with the SerDes on, in step 12 (R536). -/
theorem State.goOn_of_eleven (hgo : s.sys.goWritten = true) (hstep : s.sys.step = 11) :
    s.goOn = { s with sys := { s.sys with step := 12 }, prt := { s.prt with serdes := true } } := by
  rw [State.goOn, hgo, hstep]
  rfl

theorem State.goOn_of_not_written (hgo : s.sys.goWritten = false) : s.goOn = s := by
  rw [State.goOn, hgo, Bool.false_and, if_neg Bool.false_ne_true]

theorem State.goOn_of_other_step (hstep : s.sys.step ≠ 11) : s.goOn = s := by
  rw [State.goOn, decide_eq_false hstep, Bool.and_false, if_neg Bool.false_ne_true]

theorem State.acquired_of_other_step (hstep : s.sys.step ≠ 12) : s.acquired = s := by
  rw [State.acquired, decide_eq_false hstep, Bool.false_and, if_neg Bool.false_ne_true]

theorem State.acquired_of_waiting (hlock : s.tim.state ≠ .locked) (hend : s.tim.mono < s.acqEnd) : s.acquired = s := by
  rw [State.acquired, decide_eq_false hlock, decide_eq_false (Nat.not_le.2 hend), Bool.or_self, Bool.and_false, if_neg Bool.false_ne_true]

theorem State.startWritten_of_hostUp (hup : s.hostUp = true) (hstep : s.sys.step ≤ 11) (ht : s.sys.tampered = false) :
    s.startWritten = ((s.onSys fun y => { y with goWritten := true }).goOn).acquired := by
  rw [State.startWritten, hup, decide_eq_true hstep, ht]
  rfl

theorem State.patched_of_not_written (hgo : s.sys.goWritten = false) (src : Nat) (version : Word) (outcome : Nat) :
    s.patched src version outcome = { s with
      sys := { s.sys with step := 11, patchWait := false, patchGo := false, patchSrc := src, patchVersion := version, checking := none }
      sec := { s.sec with fwPatch := outcome } } := by
  refine (congrArg State.acquired (State.goOn_of_not_written (s := (s.onSys _).onSec _) (by exact hgo))).trans (State.acquired_of_other_step ?_)
  change 11 ≠ 12
  decide

end

/-- The moment of the acquisition timeout rests on the start of the wait and TIM_LOCK alone. -/
theorem State.acqEnd_congr {s t : State} (hat : t.sys.acqAt = s.sys.acqAt) (hregs : t.regs = s.regs) : t.acqEnd = s.acqEnd := by
  have hfield : t.regField Reg.timLock 31 16 = s.regField Reg.timLock 31 16 := by
    rw [State.regField, State.reg, hregs, State.regField, State.reg]
  rw [State.acqEnd, State.acqEnd, hat, hfield]

/-- Settles O27, by the branches of `State.goOn`, `State.acquired` and `State.bootCtl`. -/
theorem startAndBootWrites : Obligations.StartAndBootWrites := by
  refine ⟨?eleven, ?before, ?go, ?none, ?ignored⟩
  case eleven =>
    intro s hup hstep ht hlock hend
    refine congrArg Host.Outcome.next ((State.startWritten_of_hostUp hup hstep.le ht).trans ?_)
    refine (congrArg State.acquired (State.goOn_of_eleven (s := s.onSys _) (by rfl) (by exact hstep))).trans ?_
    exact State.acquired_of_waiting hlock (hend.trans_eq (State.acqEnd_congr rfl rfl).symm)
  case before =>
    intro s hup hstep ht
    refine congrArg Host.Outcome.next ((State.startWritten_of_hostUp hup hstep.le ht).trans ?_)
    refine (congrArg State.acquired (State.goOn_of_other_step (s := s.onSys _) (by exact hstep.ne))).trans (State.acquired_of_other_step ?_)
    change s.sys.step ≠ 12
    omega
  case go =>
    intro s hwaits
    change Host.Outcome.next (s.bootCtl 1) = _
    rw [State.bootCtl, hwaits]
    rfl
  case none =>
    intro s hwaits hgo
    change Host.Outcome.next (s.bootCtl 2) = _
    rw [State.bootCtl, hwaits, ← State.patched_of_not_written hgo]
    rfl
  case ignored =>
    intro s hwaits
    have hkept (v : Word) : s.bootCtl v = s := by
      rw [State.bootCtl, hwaits]
      rfl
    exact ⟨congrArg Host.Outcome.next (hkept 1), congrArg Host.Outcome.next (hkept 2)⟩

/-! ### Requests (R469, R508, R528, R530) -/

theorem State.actWrite_secLcCtl (s : State) (v : Word) : s.actWrite Reg.secLcCtl v = s.writeLcCtl v := rfl

theorem State.actWrite_pwrDvfsReq (s : State) (v : Word) : s.actWrite Reg.pwrDvfsReq v = s.requestLevel v := rfl

/-- The word and the level that a level request asks for. -/
theorem dvfsRequest_word : ∀ l : BitVec 2, (l.setWidth 32 : Word) &&& 3 = l.setWidth 32 ∧ levelOf (field (l.setWidth 32) 1 0) = min 2 l.toNat := by
  decide

section
variable {s : State}

theorem exec_dvfsRequest_of_hostUp (l : BitVec 2) (hup : s.hostUp = true) : exec (.dvfsRequest l) s =
    .next ((s.setReg Reg.pwrDvfsReq (l.setWidth 32)).onPwr fun p => { p with request := some (min 2 l.toNat), requestWaits := true }) := by
  obtain ⟨hword, hlevel⟩ := dvfsRequest_word l
  change Host.Outcome.next (s.hostWrite Reg.pwrDvfsReq (l.setWidth 32)) = _
  rw [s.hostWrite_of_rw _ (by decide), if_pos hup, s.actWrite_pwrDvfsReq, State.requestLevel, hword, hlevel]

theorem State.hostWrite_secLcCtl_of_hostUp (v : Word) (hup : s.hostUp = true) : s.hostWrite Reg.secLcCtl v = s.writeLcCtl v := by
  rw [s.hostWrite_of_wo _ (by decide), if_pos hup, s.actWrite_secLcCtl]

theorem exec_dormantRequest_of_hostUp {v : Word} (hup : s.hostUp = true) (hv : flag v 0 = true) (hkey : field v 15 8 = 0x5A)
    (hgate : s.gateOpen = false) (hbrace : s.pwr.brace = false) (hwake : s.reg Reg.pwrWakeCfg ≠ 0) :
    exec (.dormantRequest v) s = .next (s.onPwr fun p => { p with dormantPending := true, dormantWaits := true }) := by
  change execDormantRequest v s = _
  rw [execDormantRequest, if_pos hup, State.requestDormant, hv, decide_eq_true hkey, hgate, hbrace, decide_eq_true hwake]
  rfl

theorem exec_dormantRequest_of_refused {v : Word} (hno : s.gateOpen = true ∨ s.pwr.brace = true ∨ s.reg Reg.pwrWakeCfg = 0 ∨ flag v 0 = false ∨
    field v 15 8 ≠ 0x5A) : exec (.dormantRequest v) s = .next s := by
  have hkept : s.requestDormant v = s := by
    rw [State.requestDormant, if_neg]
    simp only [Bool.and_eq_true, Bool.not_eq_true', decide_eq_true_eq]
    rintro ⟨⟨⟨⟨hv, hkey⟩, hgate⟩, hbrace⟩, hwake⟩
    rcases hno with h | h | h | h | h
    · exact Bool.false_ne_true (hgate.symm.trans h)
    · exact Bool.false_ne_true (hbrace.symm.trans h)
    · exact hwake h
    · exact Bool.false_ne_true (h.symm.trans hv)
    · exact h hkey
  change execDormantRequest v s = _
  rw [execDormantRequest, hkept, ite_self]

end

/-- Settles O28, by what a write of each request register does. -/
theorem requestWritesBecomePending : Obligations.RequestWritesBecomePending := by
  refine ⟨?apply, ?cancel, ?dormant, ?refused, ?level, ?gate, ?gatePending⟩
  case apply =>
    intro s hup hv
    refine congrArg Host.Outcome.next ((State.hostWrite_secLcCtl_of_hostUp 1 hup).trans ?_)
    change s.applyTicket = _
    rw [State.applyTicket, hv]
    rfl
  case cancel =>
    intro s hup hb
    refine congrArg Host.Outcome.next ((State.hostWrite_secLcCtl_of_hostUp 2 hup).trans ?_)
    change s.cancelTicket = _
    rw [State.cancelTicket, State.nvmWrite, hb]
    rfl
  case dormant => exact fun v s hup hv hkey hgate hbrace hwake => exec_dormantRequest_of_hostUp hup hv hkey hgate hbrace hwake
  case refused => exact fun v s hno => exec_dormantRequest_of_refused hno
  case level => exact fun l s hup => exec_dvfsRequest_of_hostUp l hup
  case gate =>
    intro g o s hup hidle
    have hfree : ¬ s.clk.sluice.isSome = true := by rw [hidle]; exact Bool.false_ne_true
    exact (if_pos hup).trans (congrArg Host.Outcome.next (if_neg hfree))
  case gatePending =>
    intro g o s hbusy
    have hkept : s.requestSluice g.toNat o = s := if_pos hbusy
    change execSluiceRequest g o s = _
    rw [execSluiceRequest, hkept, ite_self]

end Sys2Proof.Machine
end

section
/-! PROOFS. The Greaz link: cycles, frame keys, reception, lanes and what the link sends; guy-lines and the epoch (chapter 14, R421 to R434). -/
namespace Sys2Proof.Machine

/-! ### What happens in one cycle (R451) -/

section
variable (s : State)

/-- The device while what happens in one core-clock cycle goes on. -/
def State.inCycle : State := if s.evr.cycle.isSome then s else s.onEvr fun e => { e with cycle := some 0 }

/-- A cycle that begins leaves all but the recorder. -/
theorem State.inCycle_eq : s.inCycle = { s with evr := s.inCycle.evr } := by
  rw [State.inCycle]
  split <;> rfl

/-- The end of a cycle changes nothing but the recorder. -/
theorem State.oneCycle_eq (f : State → State) : s.oneCycle f = { f s.inCycle with evr := (s.oneCycle f).evr } := by
  rw [State.oneCycle, State.inCycle]
  split <;> rfl

variable {s} in
theorem State.oneCycle_congr {f g : State → State} (h : f s.inCycle = g s.inCycle) : s.oneCycle f = s.oneCycle g := by
  rw [State.inCycle] at h
  rw [State.oneCycle, State.oneCycle]
  split
  case isTrue hin => rwa [if_pos hin] at h
  case isFalse hout =>
    rw [if_neg hout] at h
    rw [h]

/-- A counter counted in a cycle forms no event. -/
theorem State.oneCycle_inc (off : Nat) : (s.oneCycle fun y => y.inc off) = s.inc off := by
  rw [State.oneCycle]
  split
  case isTrue => rfl
  case isFalse hout =>
    have hnone : s.evr.cycle = none := Option.not_isSome_iff_eq_none.1 hout
    have hevr : ({ s.evr with cycle := none } : Evr) = s.evr := by rw [← hnone]
    rw [State.inc_regs_only (s.onEvr _), State.inc_regs_only s]
    change { s with regs := _, evr := ({ s.evr with cycle := none } : Evr) } = _
    rw [hevr]
    congr 1

end

/-! ### The key of a link frame (R423, R477) -/

section
variable {s : State}

/-- From `s` to `t` only registers, the pair's state, the key unit and the free values change. -/
def LinkOnly (s t : State) : Prop := t = { s with regs := t.regs, gzl := t.gzl, sec := t.sec, free := t.free }

theorem LinkOnly.trans {t u : State} (h : LinkOnly s t) (g : LinkOnly t u) : LinkOnly s u := by
  rw [LinkOnly] at h g ⊢
  rw [g, h]

theorem LinkOnly.inc (s : State) (off : Nat) : LinkOnly s (s.inc off) := by
  rw [LinkOnly, State.inc_regs_only]

theorem LinkOnly.onGzl (s : State) (f : Gzl → Gzl) : LinkOnly s (s.onGzl f) := rfl

theorem KeyOnly.link {t : State} (h : KeyOnly s t) : LinkOnly s t := by
  rw [LinkOnly, h.2]

theorem KeyOnly.gzl {t : State} (h : KeyOnly s t) : t.gzl = s.gzl := by rw [h.2]

theorem KeyOnly.jobs {t : State} (h : KeyOnly s t) : t.sec.jobs = s.sec.jobs := by rw [h.2]

/-- A link frame's key is had while the key unit serves and the link's slot can be read. -/
theorem State.frameKey_of_content (hserve : s.keyUnitServes = true) (hc : ((s.keySlot s.linkSlot).content s.linkSlot).isSome = true) (hello : Bool) :
    ∃ (y : State) (key : List Byte) (k : MaskedKey), s.frameKey hello = (y, some key) ∧ KeyOnly s y ∧ y.sec.key = some k ∧
    k.purpose = purposeGreaz ∧ k.ctx = (if hello then List.replicate 8 0 else s.linkCtx) ∧
    (s.sec.unwrapped.getLsbD s.linkSlot = true → y.reg Reg.secJobCnt = s.reg Reg.secJobCnt) := by
  have hw (ctx : List Byte) : (s.workingKey purposeGreaz ctx).isSome = true := by
    rw [State.workingKey, if_pos rfl, Option.isSome_map]
    exact hc
  have hjobs := s.loadKey_jobs purposeGreaz (if hello then List.replicate 8 0 else s.linkCtx) hserve (hw _)
  obtain ⟨key, hkey⟩ := Option.isSome_iff_exists.1 (s.loadKey_isSome purposeGreaz (if hello then List.replicate 8 0 else s.linkCtx) hserve (hw _))
  have hload : s.frameKey hello = ((s.frameKey hello).1, some key) := Prod.ext rfl hkey
  obtain ⟨k, hk, hpurpose, hctx, honly⟩ := s.loadKey_some _ _ _ _ hload
  refine ⟨_, key, k, hload, honly, hk, hpurpose, hctx, fun hun => hjobs.trans ?_⟩
  rw [if_neg (by rw [hun]; simp)]
  exact BitVec.add_zero _

theorem State.linkHears_serves (h : s.linkHears = true) : s.keyUnitServes = true := (Bool.and_eq_true_iff.1 h).2

/-- A frame whose CTR is not above the last accepted one is discarded and counted (R422). -/
theorem State.receive_of_stale {hdr : LinkHdr} {last : Nat} (hlast : s.gzl.rxCtr = some last) (hctr : hdr.ctr ≤ last) (hello : Bool)
    (body : State → State) : s.receive hello hdr body = s.inc Reg.gzlReplayCnt := by
  have hstale : s.inCycle.gzl.rxCtr.any (fun c => decide (hdr.ctr ≤ c)) = true := by
    rw [s.inCycle_eq]
    change s.gzl.rxCtr.any _ = true
    rw [hlast]
    exact decide_eq_true hctr
  rw [State.receive, ← State.oneCycle_inc]
  exact State.oneCycle_congr (if_pos hstale)

theorem State.receiveSeq_of_up {hdr : LinkHdr} {f : State → State} (hh : s.linkHears = true) (hup : s.gzl.linkUp = true) :
    s.receiveSeq hdr f = s.receive false hdr fun x => x.sequenced hdr f := by
  rw [State.receiveSeq, hh, hup]
  rfl

end

/-- Settles O43, since every kind of frame is received through `State.receive`. -/
theorem replayedFramesAreDiscarded : Obligations.ReplayedFramesAreDiscarded := by
  intro hdr last s c hh hup hlast hctr hc
  have hstale := State.receive_of_stale hlast hctr
  have hboth : (s.linkHears && s.gzl.linkUp) = true := by rw [hh, hup]; rfl
  refine ⟨s.inc Reg.gzlReplayCnt, ?_, s.reg_inc_self _, fun o ho => s.reg_inc_ne ho, s.inc_regs_only _⟩
  rcases hc with ⟨b, rfl⟩ | ⟨b, rfl⟩ | rfl | rfl | ⟨b, e, rfl⟩ | ⟨b, rfl⟩ | ⟨rs, rfl⟩ | ⟨e, k, rfl⟩
  case inl =>
    have hhello : (s.linkHears && (s.gzl.hello || s.gzl.linkUp)) = true := by rw [hh, hup, Bool.or_true]; rfl
    exact (if_pos hhello).trans (congrArg _ (hstale true _))
  case inr.inl => exact (if_pos hboth).trans (congrArg _ (hstale false _))
  case inr.inr.inl => exact (if_pos hboth).trans (congrArg _ (hstale false _))
  case inr.inr.inr.inl => exact (if_pos hboth).trans (congrArg _ (hstale false _))
  all_goals exact congrArg _ ((State.receiveSeq_of_up hh hup).trans (hstale false _))

/-! ### Lanes and tag failures (R421, R422, R424) -/

section
variable {s : State}

theorem State.lanes_setLane_none {l : Nat} (hl : l = 0 ∧ s.gzl.lane1 = false ∨ l = 1 ∧ s.gzl.lane0 = false) : (s.setLane l false).lanes = 0 := by
  rcases hl with ⟨rfl, h⟩ | ⟨rfl, h⟩ <;>
    · change (if s.gzlOn then _ else _) = 0
      simp only [State.setLane, State.onGzl, h]
      simp

theorem State.lanes_setLane_one {l : Nat} (hon : s.gzlOn = true) (hl : l = 0 ∧ s.gzl.lane1 = true ∨ l = 1 ∧ s.gzl.lane0 = true) :
    (s.setLane l false).lanes = 1 := by
  have hon' : (s.setLane l false).gzlOn = true := hon
  rcases hl with ⟨rfl, h⟩ | ⟨rfl, h⟩ <;>
    · rw [State.lanes, hon']
      simp only [State.setLane, State.onGzl, h]
      simp

theorem State.lanes_pos (hon : s.gzlOn = true) (hl : s.gzl.lane0 = true ∨ s.gzl.lane1 = true) : 0 < s.lanes := by
  rw [State.lanes, if_pos hon]
  rcases hl with h | h <;> simp [h]

theorem State.lanes_of_off (hoff : s.gzlOn = false) : s.lanes = 0 := if_neg (Bool.eq_false_iff.1 hoff)

/-- The loss of the last lane takes the link down after 10 µs. -/
theorem exec_laneLoss_of_last {l : Fin 2} (hon : s.gzlOn = true)
    (hl : l = 0 ∧ s.gzl.lane0 = true ∧ s.gzl.lane1 = false ∨ l = 1 ∧ s.gzl.lane0 = false ∧ s.gzl.lane1 = true) :
    exec (.laneLoss l) s = .next (((s.setLane l.val false).run 10000).linkDown downLanes) := by
  have hnone : (s.setLane l.val false).lanes = 0 := State.lanes_setLane_none (by
    rcases hl with ⟨rfl, -, h⟩ | ⟨rfl, h, -⟩
    · exact .inl ⟨rfl, h⟩
    · exact .inr ⟨rfl, h⟩)
  have hpos : 0 < s.lanes := State.lanes_pos hon (by
    rcases hl with ⟨-, h, -⟩ | ⟨-, -, h⟩
    · exact .inl h
    · exact .inr h)
  have hlast : (decide ((s.setLane l.val false).lanes = 0) && decide (0 < s.lanes)) = true := by
    rw [decide_eq_true hnone, decide_eq_true hpos]
    rfl
  exact if_pos hlast

/-- With the other lane the link goes on. -/
theorem exec_laneLoss_of_other {l : Fin 2} (h0 : s.gzl.lane0 = true) (h1 : s.gzl.lane1 = true) :
    exec (.laneLoss l) s = .next (s.setLane l.val false) := by
  have hgoes : ¬ (decide ((s.setLane l.val false).lanes = 0) && decide (0 < s.lanes)) = true := by
    simp only [Bool.and_eq_true, decide_eq_true_eq]
    rintro ⟨hnone, hpos⟩
    cases hon : s.gzlOn
    · rw [State.lanes_of_off hon] at hpos
      exact absurd hpos (Nat.lt_irrefl 0)
    · have hone : (s.setLane l.val false).lanes = 1 := State.lanes_setLane_one hon (by
        have hlt := l.isLt
        rcases (by omega : l.val = 0 ∨ l.val = 1) with h | h
        · exact .inl ⟨h, h1⟩
        · exact .inr ⟨h, h0⟩)
      rw [hone] at hnone
      exact absurd hnone (by decide)
  exact if_neg hgoes

/-- A tag failure with its count. -/
def State.tagFailed (s : State) : State :=
  ((s.inc Reg.gzlAuthErrCnt).setBits Reg.gzlFault (bit 6)).onGzl fun g => { g with badTags := g.badTags + 1 }

theorem State.tagFailed_gzl : s.tagFailed.gzl = { s.gzl with badTags := s.gzl.badTags + 1 } := by
  rw [State.tagFailed, State.onGzl_gzl, State.setBits_gzl, State.inc_gzl]

variable (s) in
theorem State.tagFailed_only : LinkOnly s s.tagFailed := by
  rw [LinkOnly, State.tagFailed, State.inc_regs_only]
  rfl

theorem State.tagFailed_reg_authErr : s.tagFailed.reg Reg.gzlAuthErrCnt = s.reg Reg.gzlAuthErrCnt + 1 := by
  change ((s.inc Reg.gzlAuthErrCnt).setBits Reg.gzlFault (bit 6)).reg _ = _
  rw [State.reg_setBits_ne _ _ (by decide), State.reg_inc_self]

theorem State.tagFailed_reg_fault : s.tagFailed.reg Reg.gzlFault = s.reg Reg.gzlFault ||| bit 6 := by
  change ((s.inc Reg.gzlAuthErrCnt).setBits Reg.gzlFault (bit 6)).reg _ = _
  rw [State.reg_setBits_self, State.reg_inc_ne _ (by decide)]

theorem State.tagFailed_reg_ne {o : Nat} (ha : o ≠ Reg.gzlAuthErrCnt) (hf : o ≠ Reg.gzlFault) : s.tagFailed.reg o = s.reg o := by
  change ((s.inc Reg.gzlAuthErrCnt).setBits Reg.gzlFault (bit 6)).reg _ = _
  rw [State.reg_setBits_ne _ _ hf, State.reg_inc_ne _ ha]

theorem State.tagFails_of_few (hbad : s.gzl.badTags < 15) : s.tagFails = s.tagFailed := by
  have hfew : ¬ (decide (16 ≤ s.tagFailed.gzl.badTags) && s.tagFailed.gzl.linkUp) = true := by
    rw [State.tagFailed_gzl]
    simp only [Bool.and_eq_true, decide_eq_true_eq]
    omega
  exact if_neg hfew

theorem State.tagFails_of_many (hup : s.gzl.linkUp = true) (hbad : 15 ≤ s.gzl.badTags) : s.tagFails = s.tagFailed.linkDown downTags := by
  have hmany : (decide (16 ≤ s.tagFailed.gzl.badTags) && s.tagFailed.gzl.linkUp) = true := by
    rw [State.tagFailed_gzl, hup]
    simp only [Bool.and_true, decide_eq_true_eq]
    omega
  exact if_pos hmany

/-- Without a key a discarded frame that is not stale has failed its tag (log 62). -/
theorem exec_linkFrameDiscard_of_no_key {c : DiscardCause} {y : State} (hh : s.linkHears = true) (hc : c ≠ .staleCtr)
    (hkey : s.frameKey (!s.gzl.linkUp) = (y, none)) : exec (.linkFrameDiscard c) s = .next y.tagFails := by
  have hhears : ¬ (!s.linkHears) = true := by rw [hh]; decide
  refine (if_neg hhears).trans ?_
  cases c
  case staleCtr => exact absurd rfl hc
  all_goals
    dsimp only
    rw [hkey]

/-- With its key a frame of an unknown TYPE is a job that counts (log 63) and a failure that counts. -/
theorem exec_linkFrameDiscard_unknownType_of_key {y : State} {key : List Byte} (hh : s.linkHears = true)
    (hkey : s.frameKey (!s.gzl.linkUp) = (y, some key)) : exec (.linkFrameDiscard .unknownType) s =
    .next (((y.inc Reg.secJobCnt).inc Reg.gzlAuthErrCnt).onGzl fun g => { g with badTags := 0 }) := by
  have hhears : ¬ (!s.linkHears) = true := by rw [hh]; decide
  refine (if_neg hhears).trans ?_
  rw [hkey]

theorem exec_linkFrameDiscard_tag_of_key {y : State} {key : List Byte} (hh : s.linkHears = true)
    (hkey : s.frameKey (!s.gzl.linkUp) = (y, some key)) : exec (.linkFrameDiscard .tag) s = .next (y.inc Reg.secJobCnt).tagFails := by
  have hhears : ¬ (!s.linkHears) = true := by rw [hh]; decide
  refine (if_neg hhears).trans ?_
  rw [hkey]

/-- The two counts of a frame of an unknown TYPE, the job's and the failure's. -/
theorem exec_linkFrameDiscard_unknownType (hh : s.linkHears = true) (hslot : ((s.keySlot s.linkSlot).content s.linkSlot).isSome = true) :
    ∃ t : State, exec (.linkFrameDiscard .unknownType) s = .next t ∧ t.gzl = { s.gzl with badTags := 0 } ∧
      t.reg Reg.gzlAuthErrCnt = s.reg Reg.gzlAuthErrCnt + 1 ∧
      (s.sec.unwrapped.getLsbD s.linkSlot = true → t.reg Reg.secJobCnt = s.reg Reg.secJobCnt + 1) ∧
      (∀ o, o ≠ Reg.gzlAuthErrCnt → o ≠ Reg.secJobCnt → o ≠ Reg.secDeriveCnt → t.reg o = s.reg o) ∧
      t = { s with regs := t.regs, gzl := t.gzl, sec := t.sec, free := t.free } := by
  obtain ⟨y, key, -, hkey, honly, -, -, -, hjobs⟩ := State.frameKey_of_content (State.linkHears_serves hh) hslot (!s.gzl.linkUp)
  have hexec := exec_linkFrameDiscard_unknownType_of_key hh hkey
  have hreg (o : Nat) : (((y.inc Reg.secJobCnt).inc Reg.gzlAuthErrCnt).onGzl fun g => { g with badTags := 0 }).reg o =
    ((y.inc Reg.secJobCnt).inc Reg.gzlAuthErrCnt).reg o := rfl
  refine ⟨_, hexec, ?gzl, ?auth, ?job, ?regs, ?rest⟩
  case gzl =>
    change { ((y.inc Reg.secJobCnt).inc Reg.gzlAuthErrCnt).gzl with badTags := 0 } = _
    rw [State.inc_gzl, State.inc_gzl, honly.gzl]
  case auth =>
    refine (hreg _).trans ?_
    rw [State.reg_inc_self, State.reg_inc_ne _ (by decide), honly.1 _ (by decide) (by decide)]
  case job =>
    intro hun
    refine (hreg _).trans ?_
    rw [State.reg_inc_ne _ (by decide), State.reg_inc_self, hjobs hun]
  case regs =>
    intro o ha hj hd
    refine (hreg _).trans ?_
    rw [State.reg_inc_ne _ ha, State.reg_inc_ne _ hj, honly.1 _ hd hj]
  case rest => exact ((honly.link.trans (.inc _ _)).trans (.inc _ _)).trans (.onGzl _ _)

theorem exec_linkFrameDiscard_tag (hh : s.linkHears = true) (hslot : ((s.keySlot s.linkSlot).content s.linkSlot).isSome = true)
    (hbad : s.gzl.badTags < 15) : ∃ t : State, exec (.linkFrameDiscard .tag) s = .next t ∧ t.gzl = { s.gzl with badTags := s.gzl.badTags + 1 } ∧
      t.reg Reg.gzlAuthErrCnt = s.reg Reg.gzlAuthErrCnt + 1 ∧ t.reg Reg.gzlFault = s.reg Reg.gzlFault ||| bit 6 ∧
      (s.sec.unwrapped.getLsbD s.linkSlot = true → t.reg Reg.secJobCnt = s.reg Reg.secJobCnt + 1) ∧
      (∀ o, o ≠ Reg.gzlAuthErrCnt → o ≠ Reg.gzlFault → o ≠ Reg.secJobCnt → o ≠ Reg.secDeriveCnt → t.reg o = s.reg o) ∧
      t = { s with regs := t.regs, gzl := t.gzl, sec := t.sec, free := t.free } := by
  obtain ⟨y, key, -, hkey, honly, -, -, -, hjobs⟩ := State.frameKey_of_content (State.linkHears_serves hh) hslot (!s.gzl.linkUp)
  have hgzl : (y.inc Reg.secJobCnt).gzl = s.gzl := by rw [State.inc_gzl, honly.gzl]
  have hexec : exec (.linkFrameDiscard .tag) s = .next (y.inc Reg.secJobCnt).tagFailed := by
    rw [← State.tagFails_of_few (by rw [hgzl]; exact hbad)]
    exact exec_linkFrameDiscard_tag_of_key hh hkey
  refine ⟨_, hexec, ?gzl, ?auth, ?fault, ?job, ?regs, ?rest⟩
  case gzl => rw [State.tagFailed_gzl, hgzl]
  case auth => rw [State.tagFailed_reg_authErr, State.reg_inc_ne _ (by decide), honly.1 _ (by decide) (by decide)]
  case fault => rw [State.tagFailed_reg_fault, State.reg_inc_ne _ (by decide), honly.1 _ (by decide) (by decide)]
  case job =>
    intro hun
    rw [State.tagFailed_reg_ne (by decide) (by decide), State.reg_inc_self, hjobs hun]
  case regs =>
    intro o ha hf hj hd
    rw [State.tagFailed_reg_ne ha hf, State.reg_inc_ne _ hj, honly.1 _ hd hj]
  case rest => exact (honly.link.trans (.inc _ _)).trans (State.tagFailed_only _)

/-- The sixteenth tag failure in a row takes the link down. -/
theorem exec_linkFrameDiscard_sixteenth (hh : s.linkHears = true) (hslot : ((s.keySlot s.linkSlot).content s.linkSlot).isSome = true)
    (hup : s.gzl.linkUp = true) (hbad : s.gzl.badTags = 15) : exec (.linkFrameDiscard .tag) s = .next
      ((((((s.frameKey false).1.inc Reg.secJobCnt).inc Reg.gzlAuthErrCnt).setBits Reg.gzlFault (bit 6)).onGzl fun g => { g with badTags := 16 }).linkDown
        downTags) := by
  obtain ⟨y, key, -, hkey, honly, -⟩ := State.frameKey_of_content (State.linkHears_serves hh) hslot false
  have hgzl : (y.inc Reg.secJobCnt).gzl = s.gzl := by rw [State.inc_gzl, honly.gzl]
  have hfailed : (y.inc Reg.secJobCnt).tagFailed =
      (((y.inc Reg.secJobCnt).inc Reg.gzlAuthErrCnt).setBits Reg.gzlFault (bit 6)).onGzl fun g => { g with badTags := 16 } := by
    have hfifteen : (((y.inc Reg.secJobCnt).inc Reg.gzlAuthErrCnt).setBits Reg.gzlFault (bit 6)).gzl.badTags = 15 := by
      rw [State.setBits_gzl, State.inc_gzl, hgzl, hbad]
    rw [State.tagFailed, State.onGzl, State.onGzl, hfifteen]
  rw [hkey, ← hfailed, ← State.tagFails_of_many (by rw [hgzl]; exact hup) (by rw [hgzl]; omega)]
  refine exec_linkFrameDiscard_tag_of_key (key := key) hh ?_
  rw [hup]
  exact hkey

end

/-- Settles O41, by the lanes left, and by the key and the count of failures of a discarded frame. -/
theorem linkComesUpAndGoesDown : Obligations.LinkComesUpAndGoesDown := by
  refine ⟨?lock, ?noLock, ?other, ?last0, ?last1, ?silence, ?noSilence, ?stale, ?discards, ?noKey, ?deaf⟩
  case lock =>
    intro l s ha hs
    have hgoes : ¬ (!s.awake || !s.prt.serdes) = true := by rw [ha, hs]; decide
    exact if_neg hgoes
  case noLock =>
    intro l s h
    have hstops : (!s.awake || !s.prt.serdes) = true := by rcases h with h | h <;> rw [h] <;> simp
    exact if_pos hstops
  case other => exact fun s h0 h1 => ⟨exec_laneLoss_of_other h0 h1, exec_laneLoss_of_other h0 h1⟩
  case last0 => exact fun s hon h0 h1 => exec_laneLoss_of_last hon (.inl ⟨rfl, h0, h1⟩)
  case last1 => exact fun s hon h0 h1 => exec_laneLoss_of_last hon (.inr ⟨rfl, h0, h1⟩)
  case silence => exact fun s hup => if_pos hup
  case noSilence => exact fun s hup => if_neg (Bool.eq_false_iff.1 hup)
  case stale =>
    intro s hh
    have hhears : ¬ (!s.linkHears) = true := by rw [hh]; decide
    exact if_neg hhears
  case discards =>
    exact fun s hh hslot => ⟨exec_linkFrameDiscard_unknownType hh hslot, fun hbad => exec_linkFrameDiscard_tag hh hslot hbad,
      fun hup hbad => exec_linkFrameDiscard_sixteenth hh hslot hup hbad⟩
  case noKey => exact fun c s y hh hc hkey => exec_linkFrameDiscard_of_no_key hh hc hkey
  case deaf =>
    intro c s hh
    have hdeaf : (!s.linkHears) = true := by rw [hh]; rfl
    exact if_pos hdeaf

/-! ### What the link sends (R424 to R426) -/

section
variable (s : State)

theorem State.nakNow_sec : s.nakNow.sec = { s.sec with jobs := s.sec.jobs ++ [KeyJob.link (w32 (s.gzl.rxSeq + 1)) .nak] } := by
  change { (s.inc Reg.gzlNakCnt).sec with jobs := (s.inc Reg.gzlNakCnt).sec.jobs ++ [KeyJob.link (w32 ((s.inc Reg.gzlNakCnt).gzl.rxSeq + 1)) .nak] } = _
  rw [State.inc_sec, State.inc_gzl]

theorem State.nakNow_reg (o : Nat) : s.nakNow.reg o = (s.inc Reg.gzlNakCnt).reg o := rfl

theorem State.nakNow_only : s.nakNow = { s with regs := s.nakNow.regs, sec := s.nakNow.sec } := by
  rw [State.nakNow, State.inc_regs_only]
  rfl

theorem State.retransmit_only (n : Nat) : s.retransmit n = { s with regs := (s.retransmit n).regs, sec := (s.retransmit n).sec } := by
  rw [State.retransmit, State.add_regs_only]
  rfl

theorem State.retransmit_jobs (n : Nat) : (s.retransmit n).sec = { s.sec with
    jobs := s.sec.jobs ++ (s.gzl.window.filter fun f => decide (n ≤ f.seq)).map fun f => KeyJob.link (w32 f.seq) f.body } := by
  rw [State.retransmit, State.add_sec]
  exact congrArg (fun l => { s.sec with jobs := s.sec.jobs ++ l }) List.map_map

theorem State.retransmit_reg_count (n : Nat) : (s.retransmit n).reg Reg.gzlRetxCnt =
    s.reg Reg.gzlRetxCnt + w32 (s.gzl.window.filter fun f => decide (n ≤ f.seq)).length := by
  rw [State.retransmit, State.reg_add_self]
  rfl

theorem State.retransmit_reg_ne (n : Nat) {o : Nat} (h : o ≠ Reg.gzlRetxCnt) : (s.retransmit n).reg o = s.reg o := by
  rw [State.retransmit, State.reg_add_ne _ _ h]
  rfl

end

/-- Settles O42, by what each control frame gives to the key unit. -/
theorem linkSends : Obligations.LinkSends := by
  refine ⟨?hello, ?ack, ?nak, ?retransmit, ?deaf⟩
  case hello =>
    intro s hhello hh
    have hsends : (s.gzl.hello && s.linkHears) = true := by rw [hhello, hh]; rfl
    exact if_pos hsends
  case ack =>
    intro s hup hh
    have hsends : (s.linkHears && s.gzl.linkUp) = true := by rw [hh, hup]; rfl
    exact if_pos hsends
  case nak =>
    intro s hup hh hgap
    have hsends : (s.linkHears && s.gzl.linkUp && s.gzl.rxGap) = true := by rw [hh, hup, hgap]; rfl
    exact ⟨s.nakNow, if_pos hsends, s.nakNow_sec, s.reg_inc_self _, fun o ho => s.reg_inc_ne ho, s.nakNow_only⟩
  case retransmit =>
    intro s hup hh
    have hsends : (s.linkHears && s.gzl.linkUp) = true := by rw [hh, hup]; rfl
    have hall : (s.gzl.window.filter fun f => decide (0 ≤ f.seq)) = s.gzl.window :=
      List.filter_eq_self.2 fun f _ => decide_eq_true (Nat.zero_le _)
    have hjobs := s.retransmit_jobs 0
    have hcount := s.retransmit_reg_count 0
    rw [hall] at hjobs hcount
    exact ⟨s.retransmit 0, if_pos hsends, hjobs, hcount, fun o ho => s.retransmit_reg_ne 0 ho, s.retransmit_only 0⟩
  case deaf =>
    intro s hh
    have hno (b : Bool) : ¬ (s.linkHears && b) = true := by rw [hh]; exact Bool.false_ne_true
    have hnoHello : ¬ (s.gzl.hello && s.linkHears) = true := by rw [Bool.and_comm]; exact hno _
    have hnoNak : ¬ (s.linkHears && s.gzl.linkUp && s.gzl.rxGap) = true := by rw [Bool.and_assoc]; exact hno _
    exact ⟨if_neg hnoHello, if_neg (hno _), if_neg hnoNak, if_neg (hno _)⟩

/-! ### Guy-lines and the epoch (R432 to R434) -/

section
variable {s : State}

/-- At the middle of an interval, while the link is up, a HEARTBEAT frame goes with the word on HB_OUT. -/
theorem exec_heartbeatSend_of_up (hruns : s.pairRuns = true) (hup : (s.runTo s.middleAt).gzl.linkUp = true) : exec .heartbeatSend s = .next
    { s.runTo s.middleAt with
      sec := { s.sec with jobs := s.sec.jobs ++ [KeyJob.link (w32 s.gzl.txSeq) (.heartbeat (s.runTo s.middleAt).heartbeatBody)] }
      gzl := { s.gzl with hbOut := some (s.runTo s.middleAt).guyWord, hbAt := (s.runTo s.middleAt).tim.mono } } := by
  have hgoes : ¬ (!s.pairRuns) = true := by rw [hruns]; decide
  have hsec : (s.runTo s.middleAt).sec = s.sec := s.runTo_sec s.middleAt
  have hgzl : (s.runTo s.middleAt).gzl = s.gzl := s.runTo_gzl s.middleAt
  refine (if_neg hgoes).trans ?_
  rw [← hsec, ← hgzl]
  generalize s.runTo s.middleAt = x at hup
  rw [if_pos hup]
  rfl

theorem exec_heartbeatSend_of_down (hruns : s.pairRuns = true) (hdown : (s.runTo s.middleAt).gzl.linkUp = false) : exec .heartbeatSend s = .next
    ((s.runTo s.middleAt).onGzl fun g => { g with hbOut := some (s.runTo s.middleAt).guyWord, hbAt := (s.runTo s.middleAt).tim.mono }) := by
  have hgoes : ¬ (!s.pairRuns) = true := by rw [hruns]; decide
  refine (if_neg hgoes).trans ?_
  generalize s.runTo s.middleAt = x at hdown
  rw [if_neg (Bool.eq_false_iff.1 hdown)]

theorem State.claimWritten_of_none (h : s.gzl.claim = none) : s.claimWritten = s := by
  rw [State.claimWritten, h]

theorem State.claimWritten_of_some {c : Claim} (h : s.gzl.claim = some c) :
    s.claimWritten.nvm = { s.nvm with epoch := c.epoch } ∧ s.claimWritten.gzl = { s.gzl with claim := none, claimEpoch := some c.epoch } ∧
    s.claimWritten = { s with
      nvm := s.claimWritten.nvm, gzl := s.claimWritten.gzl, regs := s.claimWritten.regs, prt := s.claimWritten.prt, nrg := s.claimWritten.nrg,
      evr := s.claimWritten.evr, hif := s.claimWritten.hif, bsn := s.claimWritten.bsn } := by
  have heq : s.claimWritten =
      ((s.onNvm fun n => { n with epoch := c.epoch }).onGzl fun g => { g with claim := none, claimEpoch := some c.epoch }).gateFrom s := by
    rw [State.claimWritten, h]
  rw [heq, State.gateFrom_records]
  exact ⟨rfl, rfl, rfl⟩

theorem exec_epochWriteComplete_of_stays (h : ¬ (s.awake && !(s.gzl.claim.any (·.held))) = true) : exec .epochWriteComplete s = .next s :=
  congrArg Host.Outcome.next (if_neg h)

end

/-- Settles O45, by the branches of the guy-lines' steps and of `State.claimWritten`. -/
theorem guyLinesAndEpoch : Obligations.GuyLinesAndEpoch := by
  refine ⟨?down, ?up, ?word, ?badWord, ?interval, ?written, ?held, ?none⟩
  case down => exact fun s hruns hdown => exec_heartbeatSend_of_down hruns hdown
  case up => exact fun s hruns hup => exec_heartbeatSend_of_up hruns hup
  case word =>
    intro w s hruns hmark hcrc
    have hcounts : ¬ (!s.pairRuns || decide (w.toNat % 256 ≠ 0xA5) || decide ((guyCrc (w.toNat % 2 ^ 48)).toNat ≠ w.toNat / 2 ^ 48)) = true := by
      rw [hruns, decide_eq_false (not_not_intro hmark), decide_eq_false (not_not_intro hcrc)]
      decide
    exact if_neg hcounts
  case badWord =>
    intro w s hcrc
    have hbad : (!s.pairRuns || decide (w.toNat % 256 ≠ 0xA5) || decide ((guyCrc (w.toNat % 2 ^ 48)).toNat ≠ w.toNat / 2 ^ 48)) = true := by
      rw [decide_eq_true hcrc, Bool.or_true]
    exact if_pos hbad
  case interval =>
    intro s hruns
    have hgoes : ¬ (!s.pairRuns) = true := by rw [hruns]; decide
    exact if_neg hgoes
  case written =>
    intro c s hc hheld hawake
    have hends : (s.awake && !(s.gzl.claim.any (·.held))) = true := by
      rw [hawake, hc, Option.any_some, hheld]
      rfl
    obtain ⟨hnvm, hgzl, hrest⟩ := State.claimWritten_of_some hc
    exact ⟨s.claimWritten, congrArg Host.Outcome.next (if_pos hends), hnvm, hgzl, hrest⟩
  case held =>
    intro c s hc hheld
    refine exec_epochWriteComplete_of_stays ?_
    rw [hc, Option.any_some, hheld]
    simp
  case none =>
    rintro s (hclaim | hasleep)
    · have hsame : (if s.awake && !(s.gzl.claim.any (·.held)) then s.claimWritten else s) = s := by
        rw [State.claimWritten_of_none hclaim, ite_self]
      exact congrArg Host.Outcome.next hsame
    · exact exec_epochWriteComplete_of_stays (by rw [hasleep]; exact Bool.false_ne_true)

end Sys2Proof.Machine
end

section
/-! PROOFS. What a link frame that is heard does, by its type (chapter 14, R422 to R440). -/
namespace Sys2Proof.Machine

section
variable (s : State)

/-! ### The state in which a frame's body acts (R422, R423, R477) -/

/-- A frame is heard: its key is had, its job counted, its CTR accepted. -/
def State.heard (hello : Bool) (ctr : Nat) : State := ((s.frameKey hello).1.inc Reg.secJobCnt).accept ctr

theorem State.inCycle_gzl : s.inCycle.gzl = s.gzl := by rw [s.inCycle_eq]

theorem State.inCycle_sec : s.inCycle.sec = s.sec := by rw [s.inCycle_eq]

theorem State.inCycle_reg (o : Nat) : s.inCycle.reg o = s.reg o := by rw [s.inCycle_eq]; rfl

variable (f : State → State)

theorem State.oneCycle_gzl : (s.oneCycle f).gzl = (f s.inCycle).gzl := by rw [s.oneCycle_eq f]

theorem State.oneCycle_sec : (s.oneCycle f).sec = (f s.inCycle).sec := by rw [s.oneCycle_eq f]

theorem State.oneCycle_reg (o : Nat) : (s.oneCycle f).reg o = (f s.inCycle).reg o := by rw [s.oneCycle_eq f]; rfl

end

/-- What `x` keeps of `s`, whose frame with number `ctr` it has heard: all but the recorder, the key unit and the registers, and of these the jobs and
the registers that no key unit counts. -/
structure Heard (s : State) (ctr : Nat) (x : State) : Prop where
  gzl : x.gzl = { s.gzl with rxCtr := some ctr, badTags := 0 }
  jobs : x.sec.jobs = s.sec.jobs
  reg : ∀ o, o ≠ Reg.secDeriveCnt → o ≠ Reg.secJobCnt → x.reg o = s.reg o
  job : s.sec.unwrapped.getLsbD s.linkSlot = true → x.reg Reg.secJobCnt = s.reg Reg.secJobCnt + 1
  tck : x.tck = s.tck
  sch : x.sch = s.sch

section
variable {s : State} {hdr : LinkHdr} (hh : s.linkHears = true) (hfresh : s.gzl.rxCtr.all (fun c => decide (c < hdr.ctr)) = true)
  (hslot : ((s.keySlot s.linkSlot).content s.linkSlot).isSome = true)
include hh hslot

theorem State.heard_inCycle (hello : Bool) (ctr : Nat) : Heard s ctr (s.inCycle.heard hello ctr) := by
  have hserve : s.inCycle.keyUnitServes = true := by
    rw [s.inCycle_eq]
    exact State.linkHears_serves hh
  have hcontent : ((s.inCycle.keySlot s.inCycle.linkSlot).content s.inCycle.linkSlot).isSome = true := by
    rw [s.inCycle_eq]
    exact hslot
  obtain ⟨y, key, -, hkey, honly, -, -, -, hjob⟩ := State.frameKey_of_content hserve hcontent hello
  have heard_eq : s.inCycle.heard hello ctr = (y.inc Reg.secJobCnt).accept ctr := by rw [State.heard, hkey]
  rw [heard_eq]
  have hgzl : (y.inc Reg.secJobCnt).gzl = s.gzl := by rw [State.inc_gzl, honly.gzl, s.inCycle_gzl]
  have hreg (o : Nat) : ((y.inc Reg.secJobCnt).accept ctr).reg o = (y.inc Reg.secJobCnt).reg o := rfl
  refine ⟨?gzl, ?jobs, ?reg, ?job, ?tck, ?sch⟩
  case gzl => rw [State.accept, State.onGzl_gzl, hgzl]
  case jobs => rw [State.accept, State.onGzl_sec, State.inc_sec, honly.jobs, s.inCycle_sec]
  case reg =>
    intro o hd hj
    rw [hreg, State.reg_inc_ne _ hj, honly.1 _ hd hj, s.inCycle_reg]
  case job =>
    intro hun
    have hun' : s.inCycle.sec.unwrapped.getLsbD s.inCycle.linkSlot = true := by
      rw [s.inCycle_eq]
      exact hun
    rw [hreg, State.reg_inc_self, hjob hun', s.inCycle_reg]
  case tck => rw [State.accept, State.onGzl_tck, State.inc_tck, honly.2, s.inCycle_eq]
  case sch => rw [State.accept, State.onGzl_sch, State.inc_sch, honly.2, s.inCycle_eq]

include hfresh

/-- A frame with a fresh CTR is heard, and then its body acts. -/
theorem State.receive_of_fresh (hello : Bool) (body : State → State) :
    s.receive hello hdr body = s.oneCycle fun y => body (((y.frameKey hello).1.inc Reg.secJobCnt).accept hdr.ctr) := by
  have hserve : s.inCycle.keyUnitServes = true := by
    rw [s.inCycle_eq]
    exact State.linkHears_serves hh
  have hcontent : ((s.inCycle.keySlot s.inCycle.linkSlot).content s.inCycle.linkSlot).isSome = true := by
    rw [s.inCycle_eq]
    exact hslot
  have hnew : ¬ s.inCycle.gzl.rxCtr.any (fun c => decide (hdr.ctr ≤ c)) = true := by
    rw [s.inCycle_gzl]
    cases hctr : s.gzl.rxCtr with
    | none => simp
    | some c =>
      rw [hctr] at hfresh
      have hlt : c < hdr.ctr := of_decide_eq_true hfresh
      rw [Option.any_some, decide_eq_true_eq]
      omega
  obtain ⟨y, key, -, hkey, -⟩ := State.frameKey_of_content hserve hcontent hello
  refine State.oneCycle_congr ((if_neg hnew).trans ?_)
  rw [hkey]

/-- What a frame that acts in a session comes to, on the state in which it was heard. -/
theorem State.receive_heard (hello : Bool) (body : State → State) : ∃ x : State, Heard s hdr.ctr x ∧
    s.receive hello hdr body = s.oneCycle (fun y => body (((y.frameKey hello).1.inc Reg.secJobCnt).accept hdr.ctr)) ∧
    (s.receive hello hdr body).gzl = (body x).gzl ∧ (s.receive hello hdr body).sec = (body x).sec ∧
    ∀ o, (s.receive hello hdr body).reg o = (body x).reg o := by
  have heq := State.receive_of_fresh hh hfresh hslot hello body
  refine ⟨s.inCycle.heard hello hdr.ctr, State.heard_inCycle hh hslot hello hdr.ctr, heq, ?_, ?_, fun o => ?_⟩ <;> rw [heq]
  · exact s.oneCycle_gzl _
  · exact s.oneCycle_sec _
  · exact s.oneCycle_reg _ o

end

/-! ### What the partner says of itself (R434, R435) -/

section
variable {s : State}

theorem State.gateFrom_of_same {old : State} (h : s.gateOpen = old.gateOpen) : s.gateFrom old = s := by
  rw [State.gateFrom, h]
  cases old.gateOpen <;> rfl

theorem State.gateOpen_of_standby (h : s.gzl.role = .standby) : s.gateOpen = false := by
  rw [State.gateOpen, h]
  rfl

/-- The pair's state once the partner's role and epoch are read. -/
def Gzl.reads (g : Gzl) (r : Role) (e : Word) : Gzl :=
  { g with partnerRole := r, partnerHeard := true, partnerEpoch := if g.partnerEpoch.toNat < e.toNat then e else g.partnerEpoch }

/-- A STANDBY device only reads its partner: it yields to none. -/
theorem State.readPartner_of_standby (h : s.gzl.role = .standby) (r : Role) (e : Word) :
    s.readPartner r e = s.oneCycle fun y => y.onGzl fun g => g.reads r e := by
  refine State.oneCycle_congr ?_
  have hrole : s.inCycle.gzl.role = .standby := by rw [s.inCycle_gzl]; exact h
  generalize s.inCycle = x at hrole
  have hno1 : ¬ (decide (x.gzl.role ≠ .standby) && decide (x.gzl.epoch.toNat < e.toNat)) = true := by rw [hrole]; simp
  have hno2 : ¬ ((decide (x.gzl.role = .active) || decide (x.gzl.role = .resolving)) && decide (x.gzl.epoch.toNat = e.toNat) && decide (r = .active) &&
      decide (x.unit = 1)) = true := by rw [hrole]; simp
  have hno3 : ¬ (decide (x.gzl.role = .resolving) && decide (r = .active) && decide (x.autoRole ≠ 0)) = true := by rw [hrole]; simp
  dsimp only
  rw [if_neg hno1, if_neg hno2, if_neg hno3]
  refine State.gateFrom_of_same ?_
  rw [State.gateOpen_of_standby hrole]
  exact State.gateOpen_of_standby hrole

variable (r : Role) (e : Word)

theorem State.readPartner_gzl (h : s.gzl.role = .standby) : (s.readPartner r e).gzl = s.gzl.reads r e := by
  rw [State.readPartner_of_standby h, State.oneCycle_gzl, State.onGzl_gzl, State.inCycle_gzl]

theorem State.readPartner_sec (h : s.gzl.role = .standby) : (s.readPartner r e).sec = s.sec := by
  rw [State.readPartner_of_standby h, State.oneCycle_sec, State.onGzl_sec, State.inCycle_sec]

theorem State.readPartner_reg (h : s.gzl.role = .standby) (o : Nat) : (s.readPartner r e).reg o = s.reg o := by
  rw [State.readPartner_of_standby h, State.oneCycle_reg]
  exact s.inCycle_reg o

end

/-! ### HELLO (R424) -/

/-- The pair's state once a HELLO of the partner's SESSION is heard. -/
def Gzl.greets (g : Gzl) (b : HelloBody) : Gzl :=
  { g with hello := false, linkUp := true, partnerSession := b.session, partnerSerial := some b.imageSerial }

section
variable {s : State} (b : HelloBody)

/-- A HELLO that brings the link up, on a STANDBY device: acknowledged, with the LINK_UP event. -/
theorem State.hello_of_down (hdown : s.gzl.linkUp = false) (hrole : s.gzl.role = .standby) :
    (s.hello b).gzl = (s.gzl.greets b).reads b.role b.epoch ∧ (s.hello b).sec.jobs = s.sec.jobs ++ [KeyJob.link (w32 s.gzl.rxSeq) .ack] ∧
    (s.hello b).reg Reg.secJobCnt = s.reg Reg.secJobCnt := by
  have heq : s.hello b = (((s.onGzl fun g => g.greets b).sendControl .ack).event 0x0A07 clsLog [s.gzl.session, w32 s.lanes]).readPartner b.role b.epoch := by
    simp only [State.hello, hdown, Bool.false_and, Bool.false_eq_true, if_false]
    rfl
  have hstandby : (((s.onGzl fun g => g.greets b).sendControl .ack).event 0x0A07 clsLog [s.gzl.session, w32 s.lanes]).gzl.role = .standby := by
    rw [State.event_gzl]
    exact hrole
  rw [heq, State.readPartner_gzl _ _ hstandby, State.readPartner_sec _ _ hstandby, State.readPartner_reg _ _ hstandby, State.event_gzl, State.event_sec,
    State.event_reg _ _ _ _ _ _ (by decide) (by decide)]
  exact ⟨rfl, rfl, rfl⟩

/-- A HELLO of the SESSION in force is acknowledged. -/
theorem State.hello_of_same (hup : s.gzl.linkUp = true) (hsame : s.gzl.partnerSession = b.session) (hrole : s.gzl.role = .standby) :
    (s.hello b).gzl = (s.gzl.greets b).reads b.role b.epoch ∧ (s.hello b).sec.jobs = s.sec.jobs ++ [KeyJob.link (w32 s.gzl.rxSeq) .ack] ∧
    (s.hello b).reg Reg.secJobCnt = s.reg Reg.secJobCnt := by
  have heq : s.hello b = ((s.onGzl fun g => g.greets b).sendControl .ack).readPartner b.role b.epoch := by
    simp only [State.hello, hup, hsame, ne_eq, not_true_eq_false, decide_false, Bool.and_false, Bool.false_eq_true, if_false, if_true]
    rfl
  have hstandby : ((s.onGzl fun g => g.greets b).sendControl .ack).gzl.role = .standby := hrole
  rw [heq, State.readPartner_gzl _ _ hstandby, State.readPartner_sec _ _ hstandby, State.readPartner_reg _ _ hstandby]
  exact ⟨rfl, rfl, rfl⟩

/-- The pair's state when the sequence begins anew (log 62). -/
def Gzl.restarts (g : Gzl) : Gzl :=
  { g with txSeq := 1, rxSeq := 0, rxGap := false, unacked := 0, window := [], stalled := [], rx := [], rxBad := false }

/-- A HELLO of another SESSION while the link is up begins the sequence anew. -/
theorem State.hello_of_other (hup : s.gzl.linkUp = true) (hother : s.gzl.partnerSession ≠ b.session) (hrole : s.gzl.role = .standby) :
    (s.hello b).gzl = (s.gzl.greets b).restarts.reads b.role b.epoch := by
  have heq : s.hello b = (((s.onGzl fun g => (g.greets b).restarts).onSec fun x => { x with jobs := x.jobs.filter fun j => !j.isLink }).sendControl
      .ack).readPartner b.role b.epoch := by
    simp only [State.hello, hup, decide_eq_true hother, Bool.and_self, if_true]
    rfl
  have hstandby : (((s.onGzl fun g => (g.greets b).restarts).onSec fun x => { x with jobs := x.jobs.filter fun j => !j.isLink }).sendControl
      .ack).gzl.role = .standby := hrole
  rw [heq, State.readPartner_gzl _ _ hstandby]
  rfl

end

/-! ### HEARTBEAT (R431, R433) -/

section
variable {s : State} {b : HeartbeatBody}

theorem State.heartbeat_of_no_instant (hno : b.hasInstant = false) (hrole : s.gzl.role = .standby) :
    (s.heartbeat b).gzl = ({ s.gzl with markA := true, partnerSerial := some b.imageSerial, partnerStateValid := b.stateValid } : Gzl).reads b.role b.epoch ∧
    (s.heartbeat b).reg Reg.secJobCnt = s.reg Reg.secJobCnt := by
  have heq : s.heartbeat b = (s.onGzl fun g =>
      { g with markA := true, partnerSerial := some b.imageSerial, partnerStateValid := b.stateValid }).readPartner b.role b.epoch := by
    simp only [State.heartbeat, hno, Bool.false_eq_true, if_false]
  have hstandby : (s.onGzl fun g => { g with markA := true, partnerSerial := some b.imageSerial, partnerStateValid := b.stateValid }).gzl.role = .standby :=
    hrole
  rw [heq, State.readPartner_gzl _ _ hstandby, State.readPartner_reg _ _ hstandby]
  exact ⟨rfl, rfl⟩

end

/-! ### ACK (R426) -/

section
variable {s : State}

/-- With nothing stalled and no column in process an ACK only frees the window. -/
theorem State.acked_of_idle (n : Nat) (hstalled : s.gzl.stalled = []) (hproc : s.tck.proc = none) :
    s.acked n = s.onGzl fun g => { g with window := g.window.filter fun f => decide (n < f.seq) } := by
  have hpump (m : Nat) (f : Gzl → Gzl) (hf : (f s.gzl).stalled = []) : State.pump m (s.onGzl f) = s.onGzl f := by
    cases m with
    | zero => rfl
    | succ m => rw [State.pump, State.onGzl_gzl, hf]
  rw [State.acked, hpump _ (fun g => { g with window := g.window.filter fun f => decide (n < f.seq) }) hstalled]
  split
  case h_1 hp _ => rw [State.onGzl_tck, hproc] at hp; cases hp
  case h_2 => rfl

/-! ### The sequence (R425) -/

/-- The next frame in SEQ order is applied; below the sixteenth none is acknowledged at once. -/
theorem State.sequenced_of_next {hdr : LinkHdr} {f : State → State} (hseq : hdr.seq.toNat = s.gzl.rxSeq + 1)
    (hfew : (f (s.onGzl fun g => { g with rxSeq := hdr.seq.toNat, rxGap := false, unacked := g.unacked + 1 })).gzl.unacked < 16) :
    s.sequenced hdr f = f (s.onGzl fun g => { g with rxSeq := hdr.seq.toNat, rxGap := false, unacked := g.unacked + 1 }) := by
  rw [State.sequenced, if_pos hseq, if_neg]
  simp only [Bool.and_eq_true, decide_eq_true_eq]
  omega

/-- A frame ahead is answered with a NAK, once per gap. -/
theorem State.sequenced_of_ahead {hdr : LinkHdr} {f : State → State} (hahead : s.gzl.rxSeq + 1 < hdr.seq.toNat) (hgap : s.gzl.rxGap = false) :
    s.sequenced hdr f = (s.onGzl fun g => { g with rxGap := true }).nakNow := by
  rw [State.sequenced, if_neg (by omega), if_neg (by omega), hgap, if_neg Bool.false_ne_true]

/-- The pair's state with one frame more applied. -/
def Gzl.counts (g : Gzl) (q : Nat) : Gzl := { g with rxSeq := q, rxGap := false, unacked := g.unacked + 1 }

/-- A frame applied leaves what is to be acknowledged as it is. -/
theorem State.sequenced_gzl {hdr : LinkHdr} {f : State → State} {g : Gzl} (hseq : hdr.seq.toNat = s.gzl.rxSeq + 1) (hfew : s.gzl.unacked < 15)
    (hf : (f (s.onGzl fun g => g.counts hdr.seq.toNat)).gzl = g) (hun : g.unacked = s.gzl.unacked + 1) :
    s.sequenced hdr f = f (s.onGzl fun g => g.counts hdr.seq.toNat) ∧ (s.sequenced hdr f).gzl = g := by
  have heq : s.sequenced hdr f = f (s.onGzl fun g => g.counts hdr.seq.toNat) := State.sequenced_of_next hseq (by
    change (f (s.onGzl fun g => g.counts hdr.seq.toNat)).gzl.unacked < 16
    rw [hf]
    omega)
  exact ⟨heq, by rw [heq]; exact hf⟩

end

/-! ### STATE, TICK_END, ALARM, SWAP (R428, R430, R440) -/

section
variable {s : State}

theorem State.takeState_gzl (hrole : s.gzl.role = .standby) (b : StateBody) (e : Bool) : (s.takeState b e).gzl = { s.gzl with
    rx := (if s.gzl.rx.all fun x => decide (x.tick = b.tick) then s.gzl.rx else []) ++ [b]
    rxBad := e || ((s.gzl.rx.all fun x => decide (x.tick = b.tick)) && s.gzl.rxBad) } := by
  rw [State.takeState, if_neg (not_not_intro hrole), State.onGzl_gzl]

variable (s) in
theorem State.foldl_gzl {α : Type} (f : State → α → State) (hf : ∀ x a, (f x a).gzl = x.gzl) (l : List α) : (l.foldl f s).gzl = s.gzl := by
  induction l generalizing s with
  | nil => rfl
  | cons a l ih => rw [List.foldl_cons, ih, hf]

theorem State.nvmWrite_bank_gzl (p : Nat) (b : Bank) : (s.nvmWrite (.bank p b)).gzl = s.gzl := by
  rw [State.nvmWrite]
  split <;> rfl

theorem State.adoptNrg_gzl (ws : List Word) : (s.adoptNrg ws).gzl = s.gzl := by
  refine State.foldl_gzl s _ (fun x p => ?_) _
  have hcounts (y : State) (t : List (BitVec 64)) :
      ((List.range 32).foldl (fun (z : State) a => z.setReg (Reg.nrgCnt p a) (lo32 (t.getD a 0))) y).gzl = y.gzl := by
    refine State.foldl_gzl y _ (fun z a => ?_) _
    exact State.setReg_gzl _ _ _
  dsimp only
  split
  · rw [State.nvmWrite_bank_gzl, hcounts]
    rfl
  · rw [hcounts]
    rfl

theorem State.commitRegion_gzl (shift : Int) (region : Nat) (ws : List Word) : (s.commitRegion shift region ws).gzl = s.gzl := by
  unfold State.commitRegion
  split
  · exact State.onMod_gzl _ _
  split
  · exact State.onMod_gzl _ _
  split
  · exact State.onTop_gzl _ _
  split
  · exact State.onAlm_gzl _ _
  split
  · exact State.adoptNrg_gzl ws
  · rfl

theorem State.commitTick_gzl (fs : List StateBody) (b : TickEndBody) : (s.commitTick fs b).gzl =
    { s.gzl with stateValid := true, stateTick := s.instantTick b, stateFrom := b.tick.toNat } := by
  have hregions (l : List (BitVec 16)) (shift : Int) :
      (l.foldl (fun (x : State) r => x.commitRegion shift r.toNat (regionWords fs r)) s).gzl = s.gzl :=
    State.foldl_gzl s _ (fun x r => State.commitRegion_gzl _ _ _) l
  rw [State.commitTick, State.onGzl_gzl, hregions]

/-- A tick whose frames are all there, of the image in force and with no memory error, has no fault. -/
theorem State.copyFault_of_whole {b : TickEndBody} {n : Nat} (hcomplete : b.complete = true) (hn : n = b.frames) (hserial : b.imageSerial = s.activeSerial) :
    s.copyFault b n false = none := by
  rw [State.copyFault, hcomplete, hn, hserial]
  simp

theorem State.copyFault_of_incomplete {b : TickEndBody} (n : Nat) (bad : Bool) (h : b.complete = false) : s.copyFault b n bad = some 0 := by
  rw [State.copyFault, h]
  rfl

theorem State.takeTickEnd_of_whole {b : TickEndBody} (hrole : s.gzl.role = .standby) (hcomplete : b.complete = true)
    (hn : (s.gzl.rx.filter fun x => decide (x.tick = b.tick)).length = b.frames) (hserial : b.imageSerial = s.activeSerial) (hbad : s.gzl.rxBad = false) :
    ∃ k, (s.takeTickEnd b).gzl = { s.gzl with rx := [], rxBad := false, stateValid := true, stateTick := k, stateFrom := b.tick.toNat } := by
  have heq : s.takeTickEnd b = (s.onGzl fun g => { g with rx := [], rxBad := false }).commitTick (s.gzl.rx.filter fun x => decide (x.tick = b.tick)) b := by
    simp only [State.takeTickEnd, hrole, hbad, State.copyFault_of_whole hcomplete hn hserial, Bool.false_and, ne_eq, not_true_eq_false, if_false]
  exact ⟨_, by rw [heq, State.commitTick_gzl]; rfl⟩

theorem State.takeTickEnd_of_incomplete {b : TickEndBody} (hrole : s.gzl.role = .standby) (h : b.complete = false) :
    (s.takeTickEnd b).gzl = { s.gzl with rx := [], rxBad := false } ∧ (s.takeTickEnd b).reg Reg.gzlCopyIncCnt = s.reg Reg.gzlCopyIncCnt + 1 := by
  have heq : s.takeTickEnd b = ((((s.onGzl fun g => { g with rx := [], rxBad := false }).inc Reg.gzlCopyIncCnt).setBits Reg.gzlFault (bit 5)).event 0x0A08
      clsLog [lo32 b.tick, w32 0] { tick := some b.tick.toNat }) := by
    simp only [State.takeTickEnd, hrole, State.copyFault_of_incomplete _ _ h, ne_eq, not_true_eq_false, if_false]
  rw [heq, State.event_gzl, State.setBits_gzl, State.inc_gzl, State.event_reg _ _ _ _ _ _ (by decide) (by decide), State.reg_setBits_ne _ _ (by decide),
    State.reg_inc_self]
  exact ⟨rfl, rfl⟩

theorem State.alarmToRing_gzl (ws : List Word) : (s.alarmToRing ws).gzl = s.gzl := by
  rw [State.alarmToRing]
  split
  · rw [State.deliverOr_records]
  · rw [State.inc_gzl]

end
end Sys2Proof.Machine
end

section
/-! PROOFS. A fresh link frame acts by its type (chapter 14, R422 to R440). -/
namespace Sys2Proof.Machine

/-- A HELLO of the SESSION in force leaves session and link as they are. -/
theorem Gzl.greets_of_same {g : Gzl} {b : HelloBody} (hup : g.linkUp = true) (hsame : g.partnerSession = b.session) :
    g.greets b = { g with hello := false, partnerSerial := some b.imageSerial } := by
  rw [Gzl.greets, ← hsame, ← hup]

section
variable {s : State} {hdr : LinkHdr} (hh : s.linkHears = true) (hfresh : s.gzl.rxCtr.all (fun c => decide (c < hdr.ctr)) = true)
  (hslot : ((s.keySlot s.linkSlot).content s.linkSlot).isSome = true)
include hh hfresh hslot

/-! ### HELLO -/

theorem exec_helloReceive_of_fresh (b : HelloBody) (hwants : s.gzl.hello = true ∨ s.gzl.linkUp = true) : exec (.helloReceive hdr b) s =
    .next (s.receive true hdr fun x => x.hello b) ∧ exec (.helloReceive hdr b) s =
    .next (s.oneCycle fun y => (((y.frameKey true).1.inc Reg.secJobCnt).accept hdr.ctr).hello b) := by
  have hreceives : (s.linkHears && (s.gzl.hello || s.gzl.linkUp)) = true := by
    rw [hh]
    rcases hwants with h | h <;> rw [h] <;> simp
  have hexec : exec (.helloReceive hdr b) s = .next (s.receive true hdr fun x => x.hello b) := if_pos hreceives
  exact ⟨hexec, hexec.trans (congrArg _ (State.receive_of_fresh hh hfresh hslot true _))⟩

theorem exec_helloReceive_of_down (b : HelloBody) (hello : s.gzl.hello = true) (hdown : s.gzl.linkUp = false) (hrole : s.gzl.role = .standby) :
    ∃ t : State, exec (.helloReceive hdr b) s = .next t ∧
      t.gzl = { s.gzl with
        rxCtr := some hdr.ctr, badTags := 0, hello := false, linkUp := true, partnerSession := b.session, partnerSerial := some b.imageSerial
        partnerRole := b.role, partnerHeard := true
        partnerEpoch := if s.gzl.partnerEpoch.toNat < b.epoch.toNat then b.epoch else s.gzl.partnerEpoch } ∧
      t.sec.jobs = s.sec.jobs ++ [KeyJob.link (w32 s.gzl.rxSeq) .ack] ∧
      (s.sec.unwrapped.getLsbD s.linkSlot = true → t.reg Reg.secJobCnt = s.reg Reg.secJobCnt + 1) := by
  obtain ⟨x, hx, -, hgzl, hsec, hreg⟩ := State.receive_heard hh hfresh hslot true fun x => x.hello b
  obtain ⟨hg, hj, hr⟩ := State.hello_of_down (s := x) b (by rw [hx.gzl]; exact hdown) (by rw [hx.gzl]; exact hrole)
  refine ⟨_, (exec_helloReceive_of_fresh hh hfresh hslot b (.inl hello)).1, ?_, ?_, fun hun => ?_⟩
  · rw [hgzl, hg, hx.gzl]
    rfl
  · rw [hsec, hj, hx.jobs, hx.gzl]
  · rw [hreg, hr, hx.job hun]

theorem exec_helloReceive_of_same (b : HelloBody) (hup : s.gzl.linkUp = true) (hrole : s.gzl.role = .standby)
    (hsame : s.gzl.partnerSession = b.session) : ∃ t : State, exec (.helloReceive hdr b) s = .next t ∧
      t.gzl = { s.gzl with
        rxCtr := some hdr.ctr, badTags := 0, hello := false, partnerSerial := some b.imageSerial, partnerRole := b.role, partnerHeard := true
        partnerEpoch := if s.gzl.partnerEpoch.toNat < b.epoch.toNat then b.epoch else s.gzl.partnerEpoch } ∧
      t.sec.jobs = s.sec.jobs ++ [KeyJob.link (w32 s.gzl.rxSeq) .ack] ∧
      (s.sec.unwrapped.getLsbD s.linkSlot = true → t.reg Reg.secJobCnt = s.reg Reg.secJobCnt + 1) := by
  obtain ⟨x, hx, -, hgzl, hsec, hreg⟩ := State.receive_heard hh hfresh hslot true fun x => x.hello b
  obtain ⟨hg, hj, hr⟩ := State.hello_of_same (s := x) b (by rw [hx.gzl]; exact hup) (by rw [hx.gzl]; exact hsame) (by rw [hx.gzl]; exact hrole)
  refine ⟨_, (exec_helloReceive_of_fresh hh hfresh hslot b (.inr hup)).1, ?_, ?_, fun hun => ?_⟩
  · rw [hgzl, hg, hx.gzl, Gzl.greets_of_same (by exact hup) (by exact hsame)]
    rfl
  · rw [hsec, hj, hx.jobs, hx.gzl]
  · rw [hreg, hr, hx.job hun]

theorem exec_helloReceive_of_other (b : HelloBody) (hup : s.gzl.linkUp = true) (hrole : s.gzl.role = .standby)
    (hother : s.gzl.partnerSession ≠ b.session) : ∃ t : State, exec (.helloReceive hdr b) s = .next t ∧
      t.gzl.linkUp = true ∧ t.gzl.partnerSession = b.session ∧ t.gzl.window = [] ∧ t.gzl.rxSeq = 0 ∧ t.gzl.txSeq = 1 ∧ t.gzl.rxCtr = some hdr.ctr := by
  obtain ⟨x, hx, -, hgzl, -⟩ := State.receive_heard hh hfresh hslot true fun x => x.hello b
  have hg := State.hello_of_other (s := x) b (by rw [hx.gzl]; exact hup) (by rw [hx.gzl]; exact hother) (by rw [hx.gzl]; exact hrole)
  refine ⟨_, (exec_helloReceive_of_fresh hh hfresh hslot b (.inr hup)).1, ?_⟩
  rw [hgzl, hg, hx.gzl]
  exact ⟨rfl, rfl, rfl, rfl, rfl, rfl⟩

omit hfresh in
/-- The key under which a frame is opened (R423). -/
theorem State.frameKey_register (hello : Bool) : ∃ k : MaskedKey, (s.frameKey hello).1.sec.key = some k ∧ k.purpose = purposeGreaz ∧
    k.ctx = (if hello then List.replicate 8 0 else s.linkCtx) := by
  obtain ⟨y, key, k, hkey, -, hk, hpurpose, hctx, -⟩ := State.frameKey_of_content (State.linkHears_serves hh) hslot hello
  exact ⟨k, by rw [hkey]; exact hk, hpurpose, hctx⟩

/-! ### HEARTBEAT, ACK, NAK -/

variable (hup : s.gzl.linkUp = true)
include hup

/-- A frame that only a session hears. -/
theorem State.receive_in_session (body : State → State) :
    (if s.linkHears && s.gzl.linkUp then Host.Outcome.next (s.receive false hdr body) else .next s : Answer) =
    .next (s.oneCycle fun y => body (((y.frameKey false).1.inc Reg.secJobCnt).accept hdr.ctr)) := by
  have hboth : (s.linkHears && s.gzl.linkUp) = true := by rw [hh, hup]; rfl
  rw [if_pos hboth, State.receive_of_fresh hh hfresh hslot]

theorem exec_heartbeatReceive_of_no_instant (b : HeartbeatBody) (hrole : s.gzl.role = .standby) (hno : b.hasInstant = false) :
    ∃ t : State, exec (.heartbeatReceive hdr b) s = .next t ∧
      t.gzl = { s.gzl with
        rxCtr := some hdr.ctr, badTags := 0, markA := true, partnerSerial := some b.imageSerial, partnerStateValid := b.stateValid, partnerRole := b.role
        partnerHeard := true, partnerEpoch := if s.gzl.partnerEpoch.toNat < b.epoch.toNat then b.epoch else s.gzl.partnerEpoch } ∧
      (s.sec.unwrapped.getLsbD s.linkSlot = true → t.reg Reg.secJobCnt = s.reg Reg.secJobCnt + 1) := by
  obtain ⟨x, hx, heq, hgzl, -, hreg⟩ := State.receive_heard hh hfresh hslot false fun x => x.heartbeat b
  obtain ⟨hg, hr⟩ := State.heartbeat_of_no_instant (s := x) hno (by rw [hx.gzl]; exact hrole)
  refine ⟨_, (State.receive_in_session hh hfresh hslot hup _).trans (congrArg _ heq.symm), ?_, fun hun => ?_⟩
  · rw [hgzl, hg, hx.gzl]
    rfl
  · rw [hreg, hr, hx.job hun]

theorem exec_ackReceive_of_idle (hstalled : s.gzl.stalled = []) (hproc : s.tck.proc = none) : ∃ t : State, exec (.ackReceive hdr) s = .next t ∧
    t.gzl = { s.gzl with rxCtr := some hdr.ctr, badTags := 0, window := s.gzl.window.filter fun f => decide (hdr.seq.toNat < f.seq) } ∧
    t.sec.jobs = s.sec.jobs ∧ (s.sec.unwrapped.getLsbD s.linkSlot = true → t.reg Reg.secJobCnt = s.reg Reg.secJobCnt + 1) := by
  obtain ⟨x, hx, heq, hgzl, hsec, hreg⟩ := State.receive_heard hh hfresh hslot false fun x => x.acked hdr.seq.toNat
  have hacked := State.acked_of_idle (s := x) hdr.seq.toNat (by rw [hx.gzl]; exact hstalled) (by rw [hx.tck]; exact hproc)
  rw [hacked] at hgzl hsec
  simp only [hacked] at hreg
  refine ⟨_, (State.receive_in_session hh hfresh hslot hup _).trans (congrArg _ heq.symm), ?_, ?_, fun hun => ?_⟩
  · rw [hgzl, State.onGzl_gzl, hx.gzl]
  · rw [hsec, State.onGzl_sec, hx.jobs]
  · exact (hreg _).trans (hx.job hun)

theorem exec_nakReceive_of_fresh : ∃ t : State, exec (.nakReceive hdr) s = .next t ∧ t.gzl = { s.gzl with rxCtr := some hdr.ctr, badTags := 0 } ∧
    t.sec.jobs = s.sec.jobs ++ (s.gzl.window.filter fun f => decide (hdr.seq.toNat ≤ f.seq)).map (fun f => KeyJob.link (w32 f.seq) f.body) ∧
    t.reg Reg.gzlRetxCnt = s.reg Reg.gzlRetxCnt + w32 (s.gzl.window.filter fun f => decide (hdr.seq.toNat ≤ f.seq)).length := by
  obtain ⟨x, hx, heq, hgzl, hsec, hreg⟩ := State.receive_heard hh hfresh hslot false fun x => x.retransmit hdr.seq.toNat
  refine ⟨_, (State.receive_in_session hh hfresh hslot hup _).trans (congrArg _ heq.symm), ?_, ?_, ?_⟩
  · rw [hgzl, x.retransmit_only, hx.gzl]
  · rw [hsec, x.retransmit_jobs, hx.jobs, hx.gzl]
  · rw [hreg, x.retransmit_reg_count, hx.reg _ (by decide) (by decide), hx.gzl]

/-! ### Sequenced frames -/

theorem State.receiveSeq_of_fresh (f : State → State) : s.receiveSeq hdr f =
    s.oneCycle fun y => (((y.frameKey false).1.inc Reg.secJobCnt).accept hdr.ctr).sequenced hdr f :=
  (State.receiveSeq_of_up hh hup).trans (State.receive_of_fresh hh hfresh hslot false _)

/-- The pair's state in which the next sequenced frame is applied. -/
def Gzl.applies (g : Gzl) (hdr : LinkHdr) : Gzl := { g with rxCtr := some hdr.ctr, badTags := 0, rxSeq := g.rxSeq + 1, rxGap := false, unacked := g.unacked + 1 }

/-- The next sequenced frame is applied to a state in which it is heard and counted. -/
theorem State.receiveSeq_of_next (f : State → State) (hseq : hdr.seq.toNat = s.gzl.rxSeq + 1) (hfew : s.gzl.unacked < 15) :
    ∃ y : State, y.gzl = s.gzl.applies hdr ∧ y.sch = s.sch ∧ (∀ o, o ≠ Reg.secDeriveCnt → o ≠ Reg.secJobCnt → y.reg o = s.reg o) ∧
    ((f y).gzl.unacked = s.gzl.unacked + 1 → (s.receiveSeq hdr f).gzl = (f y).gzl ∧ ∀ o, (s.receiveSeq hdr f).reg o = (f y).reg o) := by
  obtain ⟨x, hx, -, hgzl, -, hreg⟩ := State.receive_heard hh hfresh hslot false fun x => x.sequenced hdr f
  refine ⟨x.onGzl fun g => g.counts hdr.seq.toNat, ?_, hx.sch, hx.reg, fun hun => ?_⟩
  · rw [State.onGzl_gzl, hx.gzl, hseq]
    rfl
  · have hx1 : hdr.seq.toNat = x.gzl.rxSeq + 1 := by rw [hx.gzl]; exact hseq
    have hx2 : x.gzl.unacked = s.gzl.unacked := by rw [hx.gzl]
    obtain ⟨heq, -⟩ := State.sequenced_gzl (f := f) hx1 (by rw [hx2]; exact hfew) rfl (by rw [hx2]; exact hun)
    rw [heq] at hgzl
    simp only [heq] at hreg
    rw [State.receiveSeq_of_up hh hup]
    exact ⟨hgzl, hreg⟩

section
variable (hseq : hdr.seq.toNat = s.gzl.rxSeq + 1) (hfew : s.gzl.unacked < 15)
include hseq hfew

theorem exec_stateReceive_of_next (b : StateBody) (e : Bool) (hrole : s.gzl.role = .standby) : ∃ t : State, exec (.stateReceive hdr b e) s = .next t ∧
    t.gzl = { s.gzl with
      rxCtr := some hdr.ctr, badTags := 0, rxSeq := s.gzl.rxSeq + 1, rxGap := false, unacked := s.gzl.unacked + 1
      rx := (if s.gzl.rx.all fun x => decide (x.tick = b.tick) then s.gzl.rx else []) ++ [b]
      rxBad := e || ((s.gzl.rx.all fun x => decide (x.tick = b.tick)) && s.gzl.rxBad) } := by
  obtain ⟨y, hy, -, -, hf⟩ := State.receiveSeq_of_next hh hfresh hslot hup (fun x => x.takeState b e) hseq hfew
  have htake := State.takeState_gzl (s := y) (by rw [hy]; exact hrole) b e
  refine ⟨_, rfl, (hf (by rw [htake, hy]; rfl)).1.trans ?_⟩
  rw [htake, hy]
  rfl

theorem exec_tickEndReceive_of_whole (b : TickEndBody) (hrole : s.gzl.role = .standby) (hcomplete : b.complete = true)
    (hn : (s.gzl.rx.filter fun x => decide (x.tick = b.tick)).length = b.frames) (hserial : b.imageSerial = s.activeSerial) (hbad : s.gzl.rxBad = false) :
    ∃ t : State, exec (.tickEndReceive hdr b) s = .next t ∧
    t.gzl.stateValid = true ∧ t.gzl.stateFrom = b.tick.toNat ∧ t.gzl.rx = [] ∧ t.gzl.rxSeq = s.gzl.rxSeq + 1 := by
  obtain ⟨y, hy, hsch, -, hf⟩ := State.receiveSeq_of_next hh hfresh hslot hup (fun x => x.takeTickEnd b) hseq hfew
  have hserial' : b.imageSerial = y.activeSerial := by
    rw [hserial, State.activeSerial, State.imageActive, State.img, State.activeSerial, State.imageActive, State.img, hsch]
  obtain ⟨k, hk⟩ := State.takeTickEnd_of_whole (s := y) (by rw [hy]; exact hrole) hcomplete (by rw [hy]; exact hn) hserial' (by rw [hy]; exact hbad)
  refine ⟨_, rfl, ?_⟩
  rw [(hf (by rw [hk, hy]; rfl)).1, hk, hy]
  exact ⟨rfl, rfl, rfl, rfl⟩

theorem exec_tickEndReceive_of_incomplete (b : TickEndBody) (hrole : s.gzl.role = .standby) (h : b.complete = false) :
    ∃ t : State, exec (.tickEndReceive hdr b) s = .next t ∧
    t.gzl.stateValid = s.gzl.stateValid ∧ t.gzl.stateFrom = s.gzl.stateFrom ∧ t.gzl.rx = [] ∧
    t.reg Reg.gzlCopyIncCnt = s.reg Reg.gzlCopyIncCnt + 1 := by
  obtain ⟨y, hy, -, hreg, hf⟩ := State.receiveSeq_of_next hh hfresh hslot hup (fun x => x.takeTickEnd b) hseq hfew
  obtain ⟨hg, hr⟩ := State.takeTickEnd_of_incomplete (s := y) (by rw [hy]; exact hrole) h
  obtain ⟨hgzl, hregs⟩ := hf (by rw [hg, hy]; rfl)
  refine ⟨_, rfl, ?_⟩
  rw [hgzl, hregs, hg, hr, hy, hreg _ (by decide) (by decide)]
  exact ⟨rfl, rfl, rfl, rfl⟩

theorem exec_alarmReceive_of_next (rs : List (List Word)) : ∃ t : State, exec (.alarmReceive hdr rs) s = .next t ∧
    t.gzl = { s.gzl with rxCtr := some hdr.ctr, badTags := 0, rxSeq := s.gzl.rxSeq + 1, rxGap := false, unacked := s.gzl.unacked + 1 } := by
  obtain ⟨y, hy, -, -, hf⟩ := State.receiveSeq_of_next hh hfresh hslot hup
    (fun x => if x.gzl.role = .standby then rs.foldl (fun (y : State) r => y.alarmToRing (fromPartner r)) x else x) hseq hfew
  have hsame : (if y.gzl.role = .standby then rs.foldl (fun (y : State) r => y.alarmToRing (fromPartner r)) y else y).gzl = y.gzl := by
    split
    · exact State.foldl_gzl y _ (fun x r => State.alarmToRing_gzl _) rs
    · rfl
  refine ⟨_, rfl, (hf (by rw [hsame, hy]; rfl)).1.trans ?_⟩
  rw [hsame, hy]
  rfl

theorem exec_swapReceive_of_next (e : Word) (k : BitVec 64) (hrole : s.gzl.role = .standby) (hvalid : s.gzl.stateValid = true)
    (hfrom : s.gzl.stateFrom = k.toNat) : ∃ t : State, exec (.swapReceive hdr e k) s = .next t ∧ t.gzl.role = .active ∧
    t.gzl.epoch = sat32 (max s.gzl.epoch.toNat s.gzl.partnerEpoch.toNat + 1) ∧ t.gzl.rxSeq = s.gzl.rxSeq + 1 := by
  obtain ⟨y, hy, -, -, hf⟩ := State.receiveSeq_of_next hh hfresh hslot hup
    (fun x => if x.gzl.role = .standby && x.gzl.stateValid && decide (x.gzl.stateFrom = k.toNat) then x.claimRole .active else x) hseq hfew
  have hclaims : (decide (y.gzl.role = .standby) && y.gzl.stateValid && decide (y.gzl.stateFrom = k.toNat)) = true := by
    rw [hy]
    simp [Gzl.applies, hrole, hvalid, hfrom]
  have hgzl := y.claimRole_gzl (r := .active) (by decide)
  rw [if_pos hclaims] at hf
  refine ⟨_, rfl, ?_⟩
  rw [(hf (by rw [hgzl, hy]; rfl)).1, hgzl, State.claimedEpoch, hy]
  exact ⟨rfl, rfl, rfl⟩

end

theorem exec_stateReceive_of_ahead (b : StateBody) (e : Bool) (hahead : s.gzl.rxSeq + 1 < hdr.seq.toNat) (hgap : s.gzl.rxGap = false) :
    ∃ t : State, exec (.stateReceive hdr b e) s = .next t ∧
      t.gzl = { s.gzl with rxCtr := some hdr.ctr, badTags := 0, rxGap := true } ∧
      t.sec.jobs = s.sec.jobs ++ [KeyJob.link (w32 (s.gzl.rxSeq + 1)) .nak] ∧ t.reg Reg.gzlNakCnt = s.reg Reg.gzlNakCnt + 1 := by
  obtain ⟨x, hx, -, hgzl, hsec, hreg⟩ := State.receive_heard hh hfresh hslot false fun x => x.sequenced hdr fun x => x.takeState b e
  have hnak := State.sequenced_of_ahead (s := x) (f := fun x => x.takeState b e) (by rw [hx.gzl]; exact hahead) (by rw [hx.gzl]; exact hgap)
  rw [hnak] at hgzl hsec
  simp only [hnak] at hreg
  have hexec : exec (.stateReceive hdr b e) s = .next (s.receive false hdr fun x => x.sequenced hdr fun x => x.takeState b e) :=
    congrArg _ (State.receiveSeq_of_up hh hup)
  refine ⟨_, hexec, ?_, ?_, ?_⟩
  · rw [hgzl, State.nakNow_only, State.onGzl_gzl, hx.gzl]
  · rw [hsec, State.nakNow_sec, State.onGzl_gzl, State.onGzl_sec, hx.jobs, hx.gzl]
  · rw [hreg, State.nakNow_reg, State.reg_inc_self]
    exact congrArg (· + 1) (hx.reg _ (by decide) (by decide))

end

/-- Settles O44: a fresh frame is heard, and its body then acts as its type has it. -/
theorem freshFramesAct : Obligations.FreshFramesAct := by
  intro hdr s hh hfresh hslot
  refine ⟨?hello, ?helloDown, ?helloDeaf, ?key, fun hup => ⟨?heartbeat, ?ack, ?nak, ?state, ?tickEnd, ?alarm, ?swap, ?helloSame, ?helloOther,
    ?heartbeatActs, ?ackActs, ?nakActs, fun hseq hfew => ⟨?stateActs, ?tickEndWhole, ?tickEndIncomplete, ?alarmActs, ?swapActs⟩, ?ahead⟩⟩
  case hello => exact fun b hwants => (exec_helloReceive_of_fresh hh hfresh hslot b hwants).2
  case helloDown => exact fun b hello hdown hrole => exec_helloReceive_of_down hh hfresh hslot b hello hdown hrole
  case helloDeaf =>
    intro b hello hdown
    have hdeaf : ¬ (s.linkHears && (s.gzl.hello || s.gzl.linkUp)) = true := by rw [hello, hdown]; simp
    exact if_neg hdeaf
  case key => exact fun hello => State.frameKey_register hh hslot hello
  case heartbeat => exact fun b => State.receive_in_session hh hfresh hslot hup _
  case ack => exact State.receive_in_session hh hfresh hslot hup _
  case nak => exact State.receive_in_session hh hfresh hslot hup _
  case state => exact fun b e => congrArg _ (State.receiveSeq_of_fresh hh hfresh hslot hup _)
  case tickEnd => exact fun b => congrArg _ (State.receiveSeq_of_fresh hh hfresh hslot hup _)
  case alarm => exact fun rs => congrArg _ (State.receiveSeq_of_fresh hh hfresh hslot hup _)
  case swap => exact fun e k => congrArg _ (State.receiveSeq_of_fresh hh hfresh hslot hup _)
  case helloSame => exact fun b hrole hsame => exec_helloReceive_of_same hh hfresh hslot b hup hrole hsame
  case helloOther => exact fun b hrole hother => exec_helloReceive_of_other hh hfresh hslot b hup hrole hother
  case heartbeatActs => exact fun b hrole hno => exec_heartbeatReceive_of_no_instant hh hfresh hslot hup b hrole hno
  case ackActs => exact fun hstalled hproc => exec_ackReceive_of_idle hh hfresh hslot hup hstalled hproc
  case nakActs => exact exec_nakReceive_of_fresh hh hfresh hslot hup
  case stateActs => exact fun b e hrole => exec_stateReceive_of_next hh hfresh hslot hup hseq hfew b e hrole
  case tickEndWhole =>
    exact fun b hrole hcomplete hn hserial hbad => exec_tickEndReceive_of_whole hh hfresh hslot hup hseq hfew b hrole hcomplete hn hserial hbad
  case tickEndIncomplete => exact fun b hrole h => exec_tickEndReceive_of_incomplete hh hfresh hslot hup hseq hfew b hrole h
  case alarmActs => exact fun rs => exec_alarmReceive_of_next hh hfresh hslot hup hseq hfew rs
  case swapActs => exact fun e k hrole hvalid hfrom => exec_swapReceive_of_next hh hfresh hslot hup hseq hfew e k hrole hvalid hfrom
  case ahead => exact fun hahead hgap b e => exec_stateReceive_of_ahead hh hfresh hslot hup b e hahead hgap

end Sys2Proof.Machine
end

section
/-! PROOFS. Key commands, the key unit's jobs, tickets and tamper inputs (chapter 16, R469, R473 to R487). -/
namespace Sys2Proof.Machine

/-! ### Commands that complete later -/

/-- A step that is a command, served, its ring waiting for its completion. -/
theorem State.next_command_of_later {s : State} {h : CmdHdr} {body : CmdRef → State → State × CmdEnd} {t : State} (hs : s.serves h)
    (hb : body (s.refOf h) (s.commandTaken h) = (t, .later)) :
    (.next (s.command h false body) : Answer) = .next (t.onHif fun x => { x with blocking := x.blocking ++ [s.refOf h] }) :=
  congrArg Host.Outcome.next (s.command_later h false body hs.1 (.inl hs.2) t hb)

/-! ### The gate of the key commands (R483) -/

section
variable {s : State}

theorem State.keyGate_of_locked (h : s.sec.keyLock = true) : s.keyGate = some stTamper := if_pos h

theorem State.keyGate_of_unlocked (h : s.sec.keyLock = false) : s.keyGate = if !s.inService then some stLifecycle else none :=
  if_neg (Bool.eq_false_iff.1 h)

theorem State.keyUnitServes_of_gate (hgate : s.keyGate = none) (ht : s.sys.tampered = false) : s.keyUnitServes = true := by
  cases hlock : s.sec.keyLock with
  | true =>
    rw [State.keyGate_of_locked hlock] at hgate
    cases hgate
  | false =>
    rw [State.keyGate_of_unlocked hlock] at hgate
    cases hin : s.inService with
    | false => rw [hin] at hgate; cases hgate
    | true => rw [State.keyUnitServes, hin, hlock, ht]; rfl

/-- While its gate is closed a key command answers why. -/
theorem exec_keyCommands_of_gate {h : CmdHdr} {st : Nat} (p : Byte) (ctx w1 : Word) (addr : BitVec 64) (len : Word) (buf : List Byte) (hs : s.serves h)
    (hgate : s.keyGate = some st) :
    exec (.keyDerive h p ctx) s = .next (s.done h { status := st } (s.commandTaken h)) ∧
    exec (.keySlotWrite h w1 addr len buf) s = .next (s.done h { status := st } (s.commandTaken h)) ∧
    exec (.keySlotClear h w1) s = .next (s.done h { status := st } (s.commandTaken h)) := by
  have hg : (s.commandTaken h).keyGate = some st := hgate
  refine ⟨State.next_command_of_serves hs ?_, State.next_command_of_serves hs ?_, State.next_command_of_serves hs ?_⟩ <;> rw [hg]

/-! ### KEY_DERIVE (R474, R476, R477) -/

theorem State.heldKey_snd_congr {t : State} (h : t.sec = s.sec) (purpose : Nat) (ctx : List Byte) (slot : Option Nat) :
    (t.heldKey purpose ctx slot).2 = (s.heldKey purpose ctx slot).2 := by
  simp only [State.heldKey, h]
  split
  · rfl
  · split <;> rfl

/-- With no slot command and no derivation given to the key unit, none waits for a slot. -/
theorem State.slotRefs_of_idle (hjobs : s.sec.jobs = []) (hwrites : s.sec.writes = []) (n : Nat) : s.slotRefs n = [] := by
  rw [State.slotRefs, hjobs, hwrites]
  rfl

/-- A key that is had is in the register, and its derivation is a job (R477). -/
theorem State.deriveNow_of_key {purpose : Nat} {ctx : List Byte} (hserve : s.keyUnitServes = true) (hw : (s.workingKey purpose ctx).isSome = true) :
    ∃ (t : State) (k : MaskedKey), s.deriveNow purpose ctx = (t, { status := stOk }) ∧ t.sec.key = some k ∧ k.purpose = purpose ∧ k.ctx = ctx ∧
    KeyOnly s t ∧ t.reg Reg.secJobCnt = s.reg Reg.secJobCnt + (if purpose = purposeGreaz ∧ s.sec.unwrapped.getLsbD s.linkSlot = false ∧
      (s.heldKey purpose ctx (some s.linkSlot)).2 = none then 2 else 1) := by
  have hjobs := s.loadKey_jobs purpose ctx hserve hw
  obtain ⟨key, hkey⟩ := Option.isSome_iff_exists.1 (s.loadKey_isSome purpose ctx hserve hw)
  have hload : s.loadKey purpose ctx = ((s.loadKey purpose ctx).1, some key) := Prod.ext rfl hkey
  obtain ⟨k, hk, hpurpose, hctx, honly⟩ := s.loadKey_some _ _ _ _ hload
  have heq : s.deriveNow purpose ctx = ((s.loadKey purpose ctx).1.inc Reg.secJobCnt, { status := stOk }) := by rw [State.deriveNow, hload]
  refine ⟨_, k, heq, ?_, hpurpose, hctx, honly.trans (State.incJob_only _), ?_⟩
  · rw [State.inc_sec]
    exact hk
  · rw [State.reg_inc_self, hjobs, BitVec.add_assoc]
    split <;> rfl

theorem exec_keyDerive_of_bad_purpose {h : CmdHdr} {p : Byte} (ctx : Word) (hs : s.serves h) (hgate : s.keyGate = none)
    (hg : p.toNat ≠ purposeGreaz) (ha : p.toNat ≠ purposeArchive) :
    exec (.keyDerive h p ctx) s = .next (s.done h { status := stBadArg } (s.commandTaken h)) := by
  have hopen : (s.commandTaken h).keyGate = none := hgate
  have hbad : (decide (p.toNat ≠ purposeGreaz) && decide (p.toNat ≠ purposeArchive)) = true := by rw [decide_eq_true hg, decide_eq_true ha]; rfl
  refine State.next_command_of_serves hs ?_
  dsimp only
  rw [hopen]
  exact if_pos hbad

theorem exec_keyDerive_of_idle {h : CmdHdr} {p : Byte} {ctx : Word} (hs : s.serves h) (hgate : s.keyGate = none) (hjobs : s.sec.jobs = [])
    (hwrites : s.sec.writes = [])
    (hp : p.toNat = purposeArchive ∨ (p.toNat = purposeGreaz ∧ (s.workingKey purposeGreaz (deriveCtx purposeGreaz ctx)).isSome = true)) :
    exec (.keyDerive h p ctx) s = .next (s.done h ((s.commandTaken h).deriveNow p.toNat (deriveCtx p.toNat ctx)).2
      ((s.commandTaken h).deriveNow p.toNat (deriveCtx p.toNat ctx)).1) := by
  have hopen : (s.commandTaken h).keyGate = none := hgate
  have hgood : ¬ (decide (p.toNat ≠ purposeGreaz) && decide (p.toNat ≠ purposeArchive)) = true := by
    rcases hp with hp | ⟨hp, -⟩ <;> rw [hp] <;> decide
  have hahead : (((s.commandTaken h).deriveSlot p.toNat).elim [] (s.commandTaken h).slotRefs) = [] := by
    cases (s.commandTaken h).deriveSlot p.toNat with
    | none => rfl
    | some n => exact State.slotRefs_of_idle (s := s.commandTaken h) hjobs hwrites n
  have hnone : ((s.commandTaken h).sec.jobs.isEmpty && (((s.commandTaken h).deriveSlot p.toNat).elim [] (s.commandTaken h).slotRefs).isEmpty) = true := by
    rw [hahead, List.isEmpty_nil, Bool.and_true]
    exact List.isEmpty_iff.2 hjobs
  refine State.next_command_of_serves hs ?_
  dsimp only
  rw [hopen]
  exact (if_neg hgood).trans (if_pos hnone)

theorem exec_keyDerive_of_key {h : CmdHdr} {p : Byte} {ctx : Word} (hs : s.serves h) (hgate : s.keyGate = none) (hjobs : s.sec.jobs = [])
    (hwrites : s.sec.writes = [])
    (hp : p.toNat = purposeArchive ∨ (p.toNat = purposeGreaz ∧ (s.workingKey purposeGreaz (deriveCtx purposeGreaz ctx)).isSome = true)) :
    ∃ (t : State) (k : MaskedKey), exec (.keyDerive h p ctx) s = .next (s.done h { status := stOk } t) ∧
    t.sec.key = some k ∧ k.purpose = p.toNat ∧ k.ctx = deriveCtx p.toNat ctx ∧
    t.reg Reg.secJobCnt = s.reg Reg.secJobCnt + (if p.toNat = purposeGreaz ∧ s.sec.unwrapped.getLsbD s.linkSlot = false ∧
      (s.heldKey purposeGreaz (deriveCtx purposeGreaz ctx) (some s.linkSlot)).2 = none then 2 else 1) ∧
    (∀ o, o ≠ Reg.secJobCnt → o ≠ Reg.secDeriveCnt → t.reg o = s.reg o) ∧
    t = { s.commandTaken h with
      sec := { s.sec with key := t.sec.key, cache := t.sec.cache, slotStatus := t.sec.slotStatus, keyIds := t.sec.keyIds, unwrapped := t.sec.unwrapped }
      regs := t.regs, free := t.free } := by
  have hw : ((s.commandTaken h).workingKey p.toNat (deriveCtx p.toNat ctx)).isSome = true := by
    rcases hp with hp | ⟨hp, hw⟩ <;> rw [hp]
    · rfl
    · exact hw
  obtain ⟨t, k, heq, hk, hpurpose, hctx, honly, hcount⟩ := State.deriveNow_of_key (s := s.commandTaken h) (State.keyUnitServes_of_gate hgate hs.2) hw
  have hexec := exec_keyDerive_of_idle hs hgate hjobs hwrites hp
  rw [heq] at hexec
  refine ⟨t, k, hexec, hk, hpurpose, hctx, ?_, fun o hj hd => honly.1 o hd hj, honly.2⟩
  rw [hcount, State.heldKey_snd_congr (s := s) (t := s.commandTaken h) rfl]
  by_cases hgreaz : p.toNat = purposeGreaz
  · rw [hgreaz]
    rfl
  · rw [if_neg (fun hall => hgreaz hall.1), if_neg (fun hall => hgreaz hall.1)]
    rfl

/-! ### KEY_SLOT_WRITE and KEY_SLOT_CLEAR (R481, R483) -/

/-- A KEY_SLOT_WRITE that has not ended shows WRITING (R492). -/
theorem State.slotShown_of_write {n : Nat} {w : SlotWrite} (hw : w ∈ s.sec.writes) (hn : w.slot = n) (hb : w.buf.isSome = true) : s.slotShown n = 3 := by
  refine if_pos (List.any_eq_true.2 ⟨w, hw, ?_⟩)
  rw [decide_eq_true hn, hb]
  rfl

theorem exec_keySlotWrite_of_good {h : CmdHdr} {w1 : Word} (addr : BitVec 64) {len : Word} {buf : List Byte} (hs : s.serves h) (hgate : s.keyGate = none)
    (hlen : 64 ≤ len.toNat) (hd : h.dmaErr = false) (hn : w1.toNat ≤ 15) (hbuf : slotBufferOk (buf.take 64) = true) : ∃ t : State,
    exec (.keySlotWrite h w1 addr len buf) s = .next t ∧
    t.sec.writes = s.sec.writes ++ [{ ref := s.refOf h, slot := w1.toNat, buf := some (buf.take 64), behind := s.slotRefs w1.toNat }] ∧
    t.sec.jobs = s.sec.jobs ++ [.wrap w1.toNat] ∧ t.slotShown w1.toNat = 3 ∧
    t.hif = { (s.commandTaken h).hif with blocking := s.hif.blocking ++ [s.refOf h] } ∧
    t = { s with hif := t.hif, sec := { s.sec with writes := t.sec.writes, jobs := t.sec.jobs } } := by
  have hopen : (s.commandTaken h).keyGate = none := hgate
  have hgood : ¬ (decide (15 < w1.toNat) || !slotBufferOk (buf.take 64)) = true := by
    rw [hbuf, decide_eq_false (Nat.not_lt.2 hn)]
    decide
  refine ⟨_, State.next_command_of_later hs (t := (s.commandTaken h).onSec fun y =>
    { y with
      writes := y.writes ++ [{ ref := s.refOf h, slot := w1.toNat, buf := some (buf.take 64), behind := s.slotRefs w1.toNat }]
      jobs := y.jobs ++ [.wrap w1.toNat] }) ?_, rfl, rfl, ?_, rfl, rfl⟩
  · rw [hopen]
    exact (if_neg (Nat.not_lt.2 hlen)).trans ((if_neg (Bool.eq_false_iff.1 hd)).trans (if_neg hgood))
  · exact State.slotShown_of_write (w := { ref := s.refOf h, slot := w1.toNat, buf := some (buf.take 64), behind := s.slotRefs w1.toNat })
      (List.mem_append_right _ (List.mem_singleton_self _)) rfl rfl

theorem getElem?_setAt_self {α : Type} (l : List α) (n : Nat) (v : α) : ∀ k ∈ (setAt l n v)[n]?, k = v := by
  induction l generalizing n with
  | nil => intro k hk; cases hk
  | cons x xs ih =>
    cases n with
    | zero => intro k hk; exact (Option.some.inj hk).symm
    | succ n => exact ih n

/-- A slot that is cleared holds no copy any more. -/
theorem State.clearSlot_copies (s : State) (n : Nat) : ∀ k ∈ (s.clearSlot n).nvm.slots[n]?, k.copyA = [] ∧ k.copyB = [] := by
  intro k hk
  have hslots : (s.clearSlot n).nvm.slots = setAt s.nvm.slots n { marker := markerOf (markerCopy (s.keySlot n).marker) (markerGen (s.keySlot n).marker) false } := by
    obtain ⟨-, -, -, h, -⟩ := kept_iff.1 (State.slotChanged_kept (s.setSlot n
      { marker := markerOf (markerCopy (s.keySlot n).marker) (markerGen (s.keySlot n).marker) false }) n)
    exact h
  rw [hslots] at hk
  rw [getElem?_setAt_self _ _ _ k hk]
  exact ⟨rfl, rfl⟩

section
variable {h : CmdHdr} {w1 : Word} (hs : s.serves h) (hgate : s.keyGate = none) (hnone : s.slotRefs (field w1 3 0) = [])
include hs hgate hnone

theorem exec_keySlotClear_at_once (hb : s.pwr.brace = false) :
    exec (.keySlotClear h w1) s = .next (s.done h { status := stOk } ((s.commandTaken h).clearSlot (field w1 3 0))) := by
  have hopen : (s.commandTaken h).keyGate = none := hgate
  have hrefs : (s.commandTaken h).slotRefs (field w1 3 0) = [] := hnone
  have hbrace : (s.commandTaken h).pwr.brace = false := hb
  refine State.next_command_of_serves hs ?_
  simp only [hopen, hrefs, hbrace, Bool.false_and, Bool.false_eq_true, if_false, List.isEmpty_nil, Bool.not_true]

theorem exec_keySlotClear_in_brace (hb : s.pwr.brace = true) : ∃ t : State,
    exec (.keySlotClear h w1) s = .next t ∧ t.pwr = { s.pwr with held := s.pwr.held ++ [.slot (s.refOf h)] } ∧
    t.sec = { s.sec with writes := s.sec.writes ++ [{ ref := s.refOf h, slot := field w1 3 0, buf := none, stage := .held }] } ∧
    t.hif = { (s.commandTaken h).hif with blocking := s.hif.blocking ++ [s.refOf h] } ∧ t = { s with hif := t.hif, sec := t.sec, pwr := t.pwr } := by
  have hopen : (s.commandTaken h).keyGate = none := hgate
  have hrefs : (s.commandTaken h).slotRefs (field w1 3 0) = [] := hnone
  have hbrace : (s.commandTaken h).pwr.brace = true := hb
  refine ⟨_, State.next_command_of_later hs (t := ((s.commandTaken h).onSec fun y =>
    { y with writes := y.writes ++ [{ ref := s.refOf h, slot := field w1 3 0, buf := none, stage := .held }] }).onPwr fun p =>
    { p with held := p.held ++ [.slot (s.refOf h)] }) ?_, rfl, rfl, rfl, rfl⟩
  simp only [hopen, hrefs, hbrace, State.nvmWrite, State.onSec_pwr, List.isEmpty_nil, Bool.and_true, if_true]

end
end

/-- Settles O19, by the gate of the key commands and what each does when it is open. -/
theorem keyCommands : Obligations.KeyCommands := by
  refine ⟨?derive, ?badPurpose, ?write, ?clear, ?clearHeld, ?gated, ?gate⟩
  case derive => exact fun h p ctx s hs hgate hjobs hwrites hp => exec_keyDerive_of_key hs hgate hjobs hwrites hp
  case badPurpose => exact fun h p ctx s hs hgate hg ha => exec_keyDerive_of_bad_purpose ctx hs hgate hg ha
  case write => exact fun h w1 addr len buf s hs hgate hlen hd hn hbuf => exec_keySlotWrite_of_good addr hs hgate hlen hd hn hbuf
  case clear => exact fun h w1 s hs hgate hb hnone => ⟨exec_keySlotClear_at_once hs hgate hnone hb, State.clearSlot_copies _ _⟩
  case clearHeld => exact fun h w1 s hs hgate hb hnone => exec_keySlotClear_in_brace hs hgate hnone hb
  case gated => exact fun h p ctx w1 addr len buf s st hs hgate => exec_keyCommands_of_gate p ctx w1 addr len buf hs hgate
  case gate =>
    intro s
    refine ⟨State.keyGate_of_locked, fun hlock hin => ?_, fun hlock hin => ?_⟩ <;> rw [State.keyGate_of_unlocked hlock, hin] <;> rfl

/-! ### Key jobs (R475 to R477, R481) -/

section
variable {s : State}

/-- The key unit does the next job, taken from those given to it. -/
theorem exec_keyJob_of_next {j : KeyJob} (hj : s.nextJob = some j) (ha : s.awake = true) :
    exec .keyJob s = match j with
      | .link q b => .next ((s.onSec fun x => { x with jobs := x.jobs.erase j }).frameJob q b)
      | .segment b => .next ((s.onSec fun x => { x with jobs := x.jobs.erase j }).segmentJob b)
      | .wrap n => .next ((s.onSec fun x => { x with jobs := x.jobs.erase j }).wrapJob n)
      | .check n => .next ((s.onSec fun x => { x with jobs := x.jobs.erase j }).checkJob n)
      | .derive c p ctx _ =>
        .next (((s.onSec fun x => { x with jobs := x.jobs.erase j }).deriveNow p ctx).1.finish c
          ((s.onSec fun x => { x with jobs := x.jobs.erase j }).deriveNow p ctx).2) := by
  change execKeyJob s = _
  simp only [execKeyJob, hj, ha, Bool.not_true, Bool.false_eq_true, if_false]
  cases j <;> rfl

theorem exec_keyJob_of_none (hj : s.nextJob = none) : exec .keyJob s = .next s := by
  change execKeyJob s = _
  simp only [execKeyJob, hj]

/-- A frame whose key is had is sealed with the next CTR and counted. -/
theorem State.frameJob_of_key {q : Word} {b : LinkBody} {key : List Byte} {y : State} (hkey : s.frameKey (linkIsHello b) = (y, some key)) :
    s.frameJob q b = ((y.onGzl fun g =>
      { g with
        txCtr := g.txCtr + 1
        wire := some (linkFrame key (if (linkIsHello b) then 0 else g.session) s.unit q (g.txCtr + 1) b) }).inc Reg.gzlTxFrameCnt).inc Reg.secJobCnt := by
  rw [State.frameJob, hkey]

theorem State.frameJob_of_no_key {q : Word} {b : LinkBody} {y : State} (hkey : s.frameKey (linkIsHello b) = (y, none)) : s.frameJob q b = y := by
  rw [State.frameJob, hkey]

theorem State.frameJob_counts {q : Word} {b : LinkBody} {key : List Byte} {y : State} (hkey : s.frameKey (linkIsHello b) = (y, some key))
    (hunit : y.unit = s.unit) : ∃ t : State, s.frameJob q b = t ∧
    t.gzl = { y.gzl with
      txCtr := y.gzl.txCtr + 1
      wire := some (linkFrame key (if (linkIsHello b) then 0 else y.gzl.session) y.unit q (y.gzl.txCtr + 1) b) } ∧
    t.reg Reg.gzlTxFrameCnt = y.reg Reg.gzlTxFrameCnt + 1 ∧ t.reg Reg.secJobCnt = y.reg Reg.secJobCnt + 1 ∧
    (∀ o, o ≠ Reg.gzlTxFrameCnt → o ≠ Reg.secJobCnt → t.reg o = y.reg o) ∧ t = { y with regs := t.regs, gzl := t.gzl } := by
  refine ⟨_, State.frameJob_of_key hkey, ?_, ?_, ?_, fun o hf hj => ?_, ?_⟩
  · rw [State.inc_gzl, State.inc_gzl, State.onGzl_gzl, hunit]
  · rw [State.reg_inc_ne _ (by decide), State.reg_inc_self]
    rfl
  · rw [State.reg_inc_self, State.reg_inc_ne _ (by decide)]
    rfl
  · rw [State.reg_inc_ne _ hj, State.reg_inc_ne _ hf]
    rfl
  · rw [State.inc_regs_only, State.inc_regs_only]
    rfl

/-- Loading a key leaves the device's place in the pair. -/
theorem KeyOnly.unit {t : State} (h : KeyOnly s t) : t.unit = s.unit := by
  rw [State.unit, State.regField, h.1 _ (by decide) (by decide), State.unit, State.regField]

variable {n : Nat} {w : SlotWrite} {key : List Byte} {y : State}

theorem State.wrapJob_counts (hw : s.firstWrite n = some w) (hkey : s.loadKey purposeWrap [BitVec.ofNat 8 n] = (y, some key)) :
    (s.wrapJob n).reg Reg.secJobCnt = y.reg Reg.secJobCnt + 1 ∧ (s.wrapJob n).sec.jobs = y.sec.jobs ++ [KeyJob.check n] := by
  have heq : s.wrapJob n = (((y.inc Reg.secJobCnt).nvmWrite (.copy n (s.nextCopy n).1 (wrapCopy n (s.nextCopy n).1 (s.nextCopy n).2
      (w.buf.getD [])))).staged w .wrapped).onSec fun x => { x with jobs := x.jobs ++ [.check n] } := by
    rw [State.wrapJob, hw]
    dsimp only
    rw [hkey]
  have hcopy (x : State) (c : Nat) (bs : List Byte) : (x.nvmWrite (.copy n c bs)).reg Reg.secJobCnt = x.reg Reg.secJobCnt ∧
      (x.nvmWrite (.copy n c bs)).sec = x.sec := by
    rw [State.nvmWrite]
    split <;> exact ⟨rfl, rfl⟩
  obtain ⟨hreg, hsec⟩ := hcopy (y.inc Reg.secJobCnt) (s.nextCopy n).1 (wrapCopy n (s.nextCopy n).1 (s.nextCopy n).2 (w.buf.getD []))
  rw [heq]
  refine ⟨?_, ?_⟩
  · exact hreg.trans (State.reg_inc_self _ _)
  · have hjobs := congrArg (fun x : Sec => x.jobs ++ [KeyJob.check n]) (hsec.trans (State.inc_sec y _))
    exact hjobs

theorem State.checkJob_counts (hw : s.firstWrite n = some w) (hkey : s.loadKey purposeWrap [BitVec.ofNat 8 n] = (y, some key)) :
    (s.checkJob n).reg Reg.secJobCnt = y.reg Reg.secJobCnt + 1 ∧ (s.checkJob n).sec.jobs = y.sec.jobs := by
  have heq : s.checkJob n = if s.pwr.brace then (y.inc Reg.secJobCnt).holdSlot w else (y.inc Reg.secJobCnt).staged w .checked := by
    rw [State.checkJob, hw]
    dsimp only
    rw [hkey]
  have hheld (x : State) : (x.holdSlot w).reg Reg.secJobCnt = x.reg Reg.secJobCnt ∧ (x.holdSlot w).sec.jobs = x.sec.jobs := by
    rw [State.holdSlot, State.nvmWrite]
    split <;> exact ⟨rfl, rfl⟩
  have hcounts : (y.inc Reg.secJobCnt).reg Reg.secJobCnt = y.reg Reg.secJobCnt + 1 ∧ (y.inc Reg.secJobCnt).sec.jobs = y.sec.jobs :=
    ⟨State.reg_inc_self _ _, by rw [State.inc_sec]⟩
  rw [heq]
  split
  · rw [(hheld _).1, (hheld _).2]
    exact hcounts
  · exact hcounts

/-! ### Slot commands that commit (R481, R483, R523) -/

theorem exec_slotCommit_of_next (hw : s.nextCommit = some w) (ha : s.awake = true) :
    exec .slotCommit s = .next (if s.pwr.brace then s.holdSlot w else s.endSlotWrite w) := by
  change execSlotCommit s = _
  simp only [execSlotCommit, hw, ha, Bool.not_true, Bool.false_eq_true, if_false]

theorem exec_slotCommit_of_none (h : s.sec.writes = [] ∨ s.awake = false) : exec .slotCommit s = .next s := by
  change execSlotCommit s = _
  rcases h with h | h
  · have hnone : s.nextCommit = none := by
      rw [State.nextCommit, h]
      rfl
    simp only [execSlotCommit, hnone]
  · simp only [execSlotCommit, h, Bool.not_false, if_true]
    split <;> rfl

/-! ### Fresh masks (R475) -/

/-- A new mask leaves the key. -/
theorem MaskedKey.key_remask {k : MaskedKey} {m : List Byte} (hk : k.key.length = 32) (hm : m.length = 32) : (k.remask m).key = k.key :=
  Laws.xorBytes_cancel _ _ (by rw [hm]; exact hk.le)

theorem State.freeBytes_length (s : State) (n : Nat) : (s.freeBytes n).1.length = n := by
  rw [State.freeBytes, List.length_map, List.length_range]

/-- New masks leave every key of a cache, and only free values are taken. -/
theorem State.remaskCache_keys (s : State) (ks : List MaskedKey) (h : ∀ k ∈ ks, k.key.length = 32) :
    (s.remaskCache ks).1.map MaskedKey.key = ks.map MaskedKey.key ∧ (s.remaskCache ks).2 = { s with free := (s.remaskCache ks).2.free } := by
  induction ks generalizing s with
  | nil => exact ⟨rfl, rfl⟩
  | cons k ks ih =>
    obtain ⟨hkeys, hrest⟩ := ih (s.freeBytes 32).2 fun x hx => h x (List.mem_cons_of_mem _ hx)
    refine ⟨?_, hrest⟩
    change (k.remask (s.freeBytes 32).1).key :: ((s.freeBytes 32).2.remaskCache ks).1.map MaskedKey.key = _
    rw [hkeys, MaskedKey.key_remask (h k List.mem_cons_self) (s.freeBytes_length 32)]
    rfl

theorem exec_keyMaskRefresh_of_awake (ha : s.awake = true) (hlen : ∀ k ∈ s.sec.cache ++ s.sec.key.toList, k.key.length = 32) : ∃ t : State,
    exec .keyMaskRefresh s = .next t ∧ t.sec.cache.map MaskedKey.key = s.sec.cache.map MaskedKey.key ∧
    t.sec.key.map MaskedKey.key = s.sec.key.map MaskedKey.key ∧ t = { s with sec := { s.sec with cache := t.sec.cache, key := t.sec.key }, free := t.free } := by
  obtain ⟨hkeys, hrest⟩ := s.remaskCache_keys s.sec.cache fun k hk => hlen k (List.mem_append_left _ hk)
  have hawake : ¬ (!s.awake) = true := by rw [ha]; decide
  have hsec : (s.remaskCache s.sec.cache).2.sec = s.sec := by rw [hrest]
  refine ⟨((s.remaskCache s.sec.cache).2.freeBytes 32).2.onSec fun x =>
    { x with cache := (s.remaskCache s.sec.cache).1, key := x.key.map fun k => k.remask ((s.remaskCache s.sec.cache).2.freeBytes 32).1 },
    if_neg hawake, hkeys, ?_, ?_⟩
  · change ((s.remaskCache s.sec.cache).2.sec.key.map _).map MaskedKey.key = _
    rw [hsec, Option.map_map]
    refine Option.map_congr fun k hk => ?_
    exact MaskedKey.key_remask (hlen k (List.mem_append_right _ (Option.mem_toList.2 hk))) (State.freeBytes_length _ 32)
  · obtain ⟨f, hfree⟩ : ∃ f, (s.remaskCache s.sec.cache).2 = { s with free := f } := ⟨_, hrest⟩
    rw [hfree]
    rfl

end

/-- Settles O55, by the kinds of job, and by what wrapping, checking, committing and new masks do. -/
theorem keyUnitWorks : Obligations.KeyUnitWorks := by
  refine ⟨?link, ?frame, ?frameNoKey, ?slotJobs, ?counts, ?segment, ?derive, ?none, ?commit, ?clear, ?held, ?noCommit, ?masks⟩
  case link => exact fun q b s hj ha => exec_keyJob_of_next hj ha
  case frame =>
    intro q b key s y hkey
    obtain ⟨k, -, -, -, honly⟩ := s.loadKey_some _ _ _ _ hkey
    exact State.frameJob_counts hkey honly.unit
  case frameNoKey => exact fun q b s y hkey => State.frameJob_of_no_key hkey
  case slotJobs => exact fun n s ha => ⟨fun hj => exec_keyJob_of_next hj ha, fun hj => exec_keyJob_of_next hj ha⟩
  case counts =>
    intro n w key s y hw hkey
    obtain ⟨hwrap, hnext⟩ := State.wrapJob_counts hw hkey
    obtain ⟨hcheck, hsame⟩ := State.checkJob_counts hw hkey
    exact ⟨hwrap, hnext, hcheck, hsame⟩
  case segment => exact fun b s hj ha => exec_keyJob_of_next hj ha
  case derive => exact fun c p ctx bs s hj ha => ⟨_, rfl, exec_keyJob_of_next hj ha⟩
  case none => exact fun s hj => exec_keyJob_of_none hj
  case commit =>
    intro w b s hw hb hbrace ha
    rw [exec_slotCommit_of_next hw ha, hbrace, if_neg Bool.false_ne_true, State.endSlotWrite, hb]
    rfl
  case clear =>
    intro w s hw hb hbrace ha
    rw [exec_slotCommit_of_next hw ha, hbrace, if_neg Bool.false_ne_true, State.endSlotWrite, hb]
    rfl
  case held =>
    intro w s hw hbrace ha
    have hb : (s.staged w .held).pwr.brace = true := hbrace
    rw [exec_slotCommit_of_next hw ha, if_pos hbrace, State.holdSlot, State.nvmWrite, if_pos hb]
    rfl
  case noCommit => exact fun s h => exec_slotCommit_of_none h
  case masks => exact fun s ha hlen => exec_keyMaskRefresh_of_awake ha hlen

/-! ### Tickets (R469) -/

section
variable {s : State}

theorem exec_ticketVerified_of_reason {t : List Word} {r : Nat} (hv : s.sec.verifying = some t) (ha : s.awake = true) (hr : s.ticketReason t = some r) :
    exec .ticketVerified s = .next (s.onSec fun x => { x with verifying := none, reason := r }) := by
  change execTicketVerified s = _
  simp only [execTicketVerified, hv, ha, hr, Bool.not_true, Bool.false_eq_true, if_false]

theorem exec_ticketVerified_of_passed {t : List Word} (hv : s.sec.verifying = some t) (ha : s.awake = true) (hr : s.ticketReason t = none) :
    exec .ticketVerified s =
      .next ((s.onSec fun x => { x with verifying := none, reason := 0 }).nvmWrite (if ticketAction t = 4 then .nrgZero else .ticket t)) := by
  change execTicketVerified s = _
  simp only [execTicketVerified, hv, ha, hr, Bool.not_true, Bool.false_eq_true, if_false]

/-! ### Tamper inputs (R484, R485) -/

theorem exec_tamperSample_of_en {n0 n1 : Nat} {hit0 hit1 : Bool} {a b : Bool} (h0 : openCount (s.nvm.fuses.tampEn.getLsbD 0) a s.aon.open0 = n0)
    (h1 : openCount (s.nvm.fuses.tampEn.getLsbD 1) b s.aon.open1 = n1) (hh0 : (decide (n0 = 4) && decide (s.aon.open0 < 4)) = hit0)
    (hh1 : (decide (n1 = 4) && decide (s.aon.open1 < 4)) = hit1) : exec (.tamperSample a b) s = .next (if hit0 || hit1 then
      (s.onAon fun x => { x with open0 := n0, open1 := n1 }).tamperEvent ((if hit0 then 1 else 0) ||| (if hit1 then 2 else 0))
      else s.onAon fun x => { x with open0 := n0, open1 := n1 }) := by
  subst h0 h1 hh0 hh1
  rfl

theorem openCount_of_closed (en : Bool) (n : Nat) : openCount en false n = 0 := if_neg (by rw [Bool.and_false]; exact Bool.false_ne_true)

theorem openCount_of_disabled (o : Bool) (n : Nat) : openCount false o n = 0 := if_neg Bool.false_ne_true

/-- A sample that counts nothing only ends the counts. -/
theorem exec_tamperSample_of_none {a b : Bool} (h0 : openCount (s.nvm.fuses.tampEn.getLsbD 0) a s.aon.open0 = 0)
    (h1 : openCount (s.nvm.fuses.tampEn.getLsbD 1) b s.aon.open1 = 0) :
    exec (.tamperSample a b) s = .next { s with aon := { s.aon with open0 := 0, open1 := 0 } } :=
  exec_tamperSample_of_en h0 h1 rfl rfl

/-- An event on a device that is not awake is latched, and its records are owed. -/
theorem State.tamperEvent_of_asleep (i : BitVec 2) (ha : s.awake = false) (hl : s.aon.tampLatch = 0) : s.tamperEvent i = { s with
    sec := { s.sec with keyLock := s.sec.keyLock || s.clk.hold }
    aon := { s.aon with
      tampLatch := i, tampRtc := w32 (s.rtcNow / 32768)
      tampOwed := s.aon.tampOwed ++ ([0, 1].filter fun k => i.getLsbD k).map fun k => (k, s.rtcNow, if s.clk.hold then 2 else 1) } } := by
  simp only [State.tamperEvent, ha, hl, Bool.false_eq_true, if_false, if_true]
  cases s.clk.hold
  · rw [Bool.or_false]
    rfl
  · rw [Bool.or_true]
    rfl

end

/-- Settles O56, by the outcome of the ticket's checks and by the counts of the tamper inputs that are enabled. -/
theorem ticketsAndTamperInputs : Obligations.TicketsAndTamperInputs := by
  refine ⟨?verified, ?held, ?noTicket, ?off, ?first, ?firstClosed, ?second, ?both, ?asleep⟩
  case verified =>
    intro w ws s hv ha hb
    have hnow (x : NvmWrite) : (s.onSec fun y => { y with verifying := none, reason := 0 }).nvmWrite x =
        (s.onSec fun y => { y with verifying := none, reason := 0 }).applyNvm x := State.nvmWrite_of_no_brace x hb
    cases hr : s.ticketReason (w :: ws) with
    | some r => exact exec_ticketVerified_of_reason hv ha hr
    | none =>
      rw [exec_ticketVerified_of_passed hv ha hr, hnow]
      by_cases h4 : ticketAction (w :: ws) = 4
      · rw [if_pos h4]
        exact congrArg Host.Outcome.next (if_pos h4).symm
      · rw [if_neg h4]
        exact congrArg Host.Outcome.next (if_neg h4).symm
  case held =>
    intro w ws s hv ha hb
    have hbrace : (s.onSec fun y => { y with verifying := none, reason := 0 }).pwr.brace = true := hb
    cases hr : s.ticketReason (w :: ws) with
    | some r => exact exec_ticketVerified_of_reason hv ha hr
    | none =>
      rw [exec_ticketVerified_of_passed hv ha hr, State.nvmWrite, if_pos hbrace]
      by_cases h4 : ticketAction (w :: ws) = 4
      · simp only [if_pos h4]
        rfl
      · simp only [if_neg h4]
        rfl
  case noTicket =>
    intro s hv
    change execTicketVerified s = _
    simp only [execTicketVerified, hv]
  case off =>
    intro a b s hen
    refine exec_tamperSample_of_none ?_ ?_ <;> rw [hen] <;> exact openCount_of_disabled _ _
  case first =>
    intro b s hen h3
    exact exec_tamperSample_of_en (hit0 := true) (hit1 := false) (by rw [hen, h3]; rfl) (by rw [hen]; exact openCount_of_disabled _ _) (by rw [h3]; rfl) rfl
  case firstClosed =>
    intro b s hen
    exact exec_tamperSample_of_none (openCount_of_closed _ _) (by rw [hen]; exact openCount_of_disabled _ _)
  case second =>
    intro a s hen
    have hoff : openCount (s.nvm.fuses.tampEn.getLsbD 0) a s.aon.open0 = 0 := by rw [hen]; exact openCount_of_disabled _ _
    refine ⟨fun h3 => ?_, exec_tamperSample_of_none hoff (openCount_of_closed _ _)⟩
    exact exec_tamperSample_of_en (hit0 := false) (hit1 := true) hoff (by rw [hen, h3]; rfl) rfl (by rw [h3]; rfl)
  case both =>
    intro a b s hen h0 h1 hopen
    have hcount (o : Bool) : openCount true o 3 = if o then 4 else 0 := by cases o <;> rfl
    have hhit (o : Bool) : (decide ((if o then 4 else 0) = 4) && decide (3 < 4)) = o := by cases o <;> rfl
    have hany : (a || b) = true := Bool.or_eq_true_iff.2 hopen
    rw [exec_tamperSample_of_en (n0 := if a then 4 else 0) (n1 := if b then 4 else 0) (hit0 := a) (hit1 := b) (by rw [hen, h0]; exact hcount a)
      (by rw [hen, h1]; exact hcount b) (by rw [h0]; exact hhit a) (by rw [h1]; exact hhit b), hany, if_pos rfl]
  case asleep => exact fun i s ha hl => State.tamperEvent_of_asleep i ha hl

end Sys2Proof.Machine
end

section
/-! PROOFS. Clock sources and CLOCK_HOLD, level steps and brace, resets, dormant mode, the waits of start-up (chapters 17 and 18, R498 to R549; R472, R584). -/
namespace Sys2Proof.Machine

section
variable {s : State}

/-! ### Level steps (R527, R529) -/

theorem exec_vdone_of_lowering {d : DvfsStep} (hd : s.pwr.step = some d) (hs : d.settled = false) (ha : s.awake = true) (hr : d.raise = false) :
    exec .vdone s = .next (s.completeStep d) := by
  change execVdone s = _
  simp only [execVdone, hd, hs, ha, hr, Bool.not_true, Bool.not_false, Bool.or_self, Bool.false_eq_true, if_false, if_true]

theorem exec_vdone_of_raise {d : DvfsStep} (hd : s.pwr.step = some d) (hs : d.settled = false) (ha : s.awake = true) (hr : d.raise = true) :
    exec .vdone s = .next (if (s.run 50000).slackAt 3 then (s.run 50000).completeStep d else
      (s.run 50000).onPwr fun p => { p with step := some { d with settled := true } }) := by
  change execVdone s = _
  simp only [execVdone, hd, hs, ha, hr, Bool.not_true, Bool.or_self, Bool.false_eq_true, if_false]

/-- What the end of a level step by its timeout leaves in the power supervisor. -/
def Pwr.stepTimedOut (p : Pwr) (d : DvfsStep) : Pwr :=
  { p with
    step := none, result := dvfsTimeout, retryWaits := d.raise
    request := if d.raise && d.requested && p.request.isNone then some d.target else p.request }

theorem exec_avsTimeout_of_step {d : DvfsStep} (hd : s.pwr.step = some d) (hs : d.settled = false) (ha : s.awake = true) :
    exec .avsTimeout s = .next ((((s.runToMono (d.sentAt + max 1 (s.regField Reg.pwrAvsCfg 31 16) * 1000)).onPwr fun p => p.stepTimedOut d).inc
      Reg.pwrAvsToCnt).setBits Reg.pwrFault (bit 1)) := by
  change execAvsTimeout s = _
  simp only [execAvsTimeout, hd, hs, ha, Bool.not_true, Bool.or_self, Bool.false_eq_true, if_false]
  rfl

theorem State.runToMono_reg (m o : Nat) : (s.runToMono m).reg o = s.reg o := by
  rw [State.reg, State.runToMono_regs, State.reg]

theorem State.runToMono_only (m : Nat) : s.runToMono m = { s with tim := (s.runToMono m).tim } := by
  rw [State.runToMono]
  split <;> rfl

/-- A timeout of a level step counts and sets its fault; beside them the device has run. -/
theorem State.stepTimedOut_effect (d : DvfsStep) (m : Nat) : ∃ t : State,
    (((s.runToMono m).onPwr fun p => p.stepTimedOut d).inc Reg.pwrAvsToCnt).setBits Reg.pwrFault (bit 1) = t ∧ t.pwr = s.pwr.stepTimedOut d ∧
    t.reg Reg.pwrAvsToCnt = s.reg Reg.pwrAvsToCnt + 1 ∧ t.reg Reg.pwrFault = s.reg Reg.pwrFault ||| bit 1 ∧
    (∀ o, o ≠ Reg.pwrAvsToCnt → o ≠ Reg.pwrFault → t.reg o = s.reg o) ∧ t = { s with regs := t.regs, pwr := t.pwr, tim := (s.runToMono m).tim } := by
  have hreg (o : Nat) : ((s.runToMono m).onPwr fun p => p.stepTimedOut d).reg o = s.reg o := State.runToMono_reg m o
  refine ⟨_, rfl, ?_, ?_, ?_, fun o hc hf => ?_, ?_⟩
  · rw [State.setBits_pwr, State.inc_pwr, State.onPwr_pwr, State.runToMono_pwr]
  · rw [State.reg_setBits_ne _ _ (by decide), State.reg_inc_self, hreg]
  · rw [State.reg_setBits_self, State.reg_inc_ne _ (by decide), hreg]
  · rw [State.reg_setBits_ne _ _ hf, State.reg_inc_ne _ hc, hreg]
  · rw [State.inc_regs_only, State.runToMono_only]
    rfl

/-! ### Brace and the supply senses (R520 to R524, R542, R549) -/

theorem State.vwarnMv_le_vreleaseMv : s.vwarnMv ≤ s.vreleaseMv := Nat.le_add_right _ _

/-- The outcome of a reading of PWR_SENSE on a device that is awake. -/
theorem exec_pwrSenseChange_of_awake (mv : Nat) (ha : s.awake = true) : exec (.pwrSenseChange ⟨mv, none⟩) s =
    if mv < s.vwarnMv then execBrace (s.onPwr fun x => { x with senseLow := decide (mv < s.vwarnMv) })
    else if !s.pwr.brace then .next (s.onPwr fun x => { x with senseLow := decide (mv < s.vwarnMv) })
    else if s.vreleaseMv < mv then .next ((s.onPwr fun x => { x with senseLow := decide (mv < s.vwarnMv) }).onPwr fun x =>
      { x with senseHighAt := x.senseHighAt.orElse fun _ => some s.tim.mono })
    else .next ((s.onPwr fun x => { x with senseLow := decide (mv < s.vwarnMv) }).onPwr fun x => { x with senseHighAt := none }) := by
  have hawake : ¬ (!s.awake) = true := by rw [ha]; decide
  exact if_neg hawake

theorem exec_pwrSenseChange_of_low {mv : Nat} (ha : s.awake = true) (hmv : mv < s.vwarnMv) :
    exec (.pwrSenseChange ⟨mv, none⟩) s = exec .brace { s with pwr := { s.pwr with senseLow := true } } := by
  rw [exec_pwrSenseChange_of_awake mv ha, if_pos hmv, decide_eq_true hmv]
  rfl

theorem exec_pwrSenseChange_of_no_brace {mv : Nat} (ha : s.awake = true) (hmv : s.vwarnMv ≤ mv) (hb : s.pwr.brace = false) :
    exec (.pwrSenseChange ⟨mv, none⟩) s = .next { s with pwr := { s.pwr with senseLow := false } } := by
  rw [exec_pwrSenseChange_of_awake mv ha, if_neg (Nat.not_lt.2 hmv), decide_eq_false (Nat.not_lt.2 hmv), hb]
  rfl

theorem exec_pwrSenseChange_of_release {mv : Nat} (ha : s.awake = true) (hmv : s.vreleaseMv < mv) (hb : s.pwr.brace = true)
    (hnone : s.pwr.senseHighAt = none) : exec (.pwrSenseChange ⟨mv, none⟩) s = .next
      { s with pwr := { s.pwr with senseLow := false, senseHighAt := some s.tim.mono } } := by
  have hno : ¬ mv < s.vwarnMv := Nat.not_lt.2 (State.vwarnMv_le_vreleaseMv.trans hmv.le)
  rw [exec_pwrSenseChange_of_awake mv ha, if_neg hno, decide_eq_false hno, hb, if_neg (by decide), if_pos hmv, State.onPwr, State.onPwr, hnone]
  rfl

theorem exec_pwrSenseChange_of_between {mv : Nat} (ha : s.awake = true) (hlow : s.vwarnMv ≤ mv) (hhigh : mv ≤ s.vreleaseMv) (hb : s.pwr.brace = true) :
    exec (.pwrSenseChange ⟨mv, none⟩) s = .next { s with pwr := { s.pwr with senseLow := false, senseHighAt := none } } := by
  rw [exec_pwrSenseChange_of_awake mv ha, if_neg (Nat.not_lt.2 hlow), decide_eq_false (Nat.not_lt.2 hlow), hb, if_neg (by decide),
    if_neg (Nat.not_lt.2 hhigh)]
  rfl

theorem State.vbatRead_pwr (v : Nat) : (s.vbatRead v).pwr = { s.pwr with vbatOk := decide (1500 ≤ v) } := rfl

theorem State.vbatRead_reg_ne (v : Nat) {o : Nat} (h : o ≠ Reg.pwrFault) : (s.vbatRead v).reg o = s.reg o := by
  rw [State.vbatRead, State.reg_setBits_ne _ _ h]
  rfl

theorem State.vbatRead_reg_fault (v : Nat) : (s.vbatRead v).reg Reg.pwrFault =
    s.reg Reg.pwrFault ||| (if s.pwr.vbatOk = true ∧ v < 1500 then bit 3 else 0) := by
  have hfault : (s.pwr.vbatOk && decide (v < 1500)) = true ↔ s.pwr.vbatOk = true ∧ v < 1500 := by rw [Bool.and_eq_true, decide_eq_true_eq]
  rw [State.vbatRead, State.reg_setBits_self]
  simp only [hfault]
  rfl

/-- The battery's reading leaves the limits of PWR_SENSE. -/
theorem State.vbatRead_vwarnMv (v : Nat) : (s.vbatRead v).vwarnMv = s.vwarnMv ∧ (s.vbatRead v).vreleaseMv = s.vreleaseMv := by
  have hcfg : (s.vbatRead v).reg Reg.pwrSenseCfg = s.reg Reg.pwrSenseCfg := State.vbatRead_reg_ne v (by decide)
  have hwarn : (s.vbatRead v).vwarnMv = s.vwarnMv := by rw [State.vwarnMv, State.regField, hcfg, State.vwarnMv, State.regField]
  refine ⟨hwarn, ?_⟩
  rw [State.vreleaseMv, hwarn, State.regField, hcfg, State.vreleaseMv, State.regField]

/-- A reading of the battery comes before that of PWR_SENSE. -/
theorem exec_pwrSenseChange_of_vbat (mv v : Nat) (ha : s.awake = true) :
    exec (.pwrSenseChange ⟨mv, some v⟩) s = exec (.pwrSenseChange ⟨mv, none⟩) (s.vbatRead v) := by
  obtain ⟨hwarn, hrelease⟩ := State.vbatRead_vwarnMv (s := s) v
  have hawake : ¬ (!s.awake) = true := by rw [ha]; decide
  rw [exec_pwrSenseChange_of_awake (s := s.vbatRead v) mv ha, hwarn, hrelease]
  exact if_neg hawake

theorem exec_brace_of_awake (ha : s.awake = true) (hstep : 3 ≤ s.sys.step) :
    exec .brace s = if s.pwr.brace then .next (s.onPwr fun p => { p with senseLow := true, senseHighAt := none }) else .next s.enterBrace := by
  have hruns : ¬ (!s.awake || decide (s.sys.step < 3)) = true := by
    rw [ha, decide_eq_false (Nat.not_lt.2 hstep)]
    decide
  exact if_neg hruns

/-! ### Telemetry (R27, R540) -/

theorem exec_telemetryDelivery_of_due {n : Nat} {x : TelemSample} (hn : s.pwr.telemRing = some n) (hx : s.pwr.sample = some x) (ha : s.awake = true)
    (hsec : s.pwr.deliveredSec ≠ some s.nowSec) :
    exec .telemetryDelivery s = .next ((s.onPwr fun p => { p with sample := none, deliveredSec := some s.nowSec }).deliverOr n 9
      (bytesOf (x.words ++ [s.reg Reg.sysScrubPeriodMs, s.sys.patchVersion, 0, 0])) [0x81] Reg.pwrTelemDropCnt) := by
  change execTelemetryDelivery s = _
  simp only [execTelemetryDelivery, hn, hx, ha, hsec, decide_false, Bool.not_true, Bool.or_self, Bool.false_eq_true, if_false]

theorem exec_telemetryDelivery_of_none (h : s.pwr.telemRing = none ∨ s.pwr.sample = none ∨ s.pwr.deliveredSec = some s.nowSec) :
    exec .telemetryDelivery s = .next s := by
  change execTelemetryDelivery s = _
  rw [execTelemetryDelivery]
  split
  next n x hn hx =>
    rcases h with h | h | h
    · rw [hn] at h; cases h
    · rw [hx] at h; cases h
    · rw [decide_eq_true h, Bool.or_true, if_pos rfl]
  next => rfl

end

/-- Settles O53, by the branches of the level step, of brace and its senses, and of telemetry. -/
theorem powerStepsBraceAndTelemetry : Obligations.PowerStepsBraceAndTelemetry := by
  refine ⟨?lowering, ?raise, ?raiseWaits, ?timeout, ?noStep, ?brace, ?inBrace, ?braceEnd, ?sense, ?battery, ?telemetry, ?noTelemetry⟩
  case lowering => exact fun d s hd hs ha hr => exec_vdone_of_lowering hd hs ha hr
  case raise => exact fun d s hd hs ha hr hslack => (exec_vdone_of_raise hd hs ha hr).trans (congrArg _ (if_pos hslack))
  case raiseWaits => exact fun d s hd hs ha hr hslack => (exec_vdone_of_raise hd hs ha hr).trans (congrArg _ (if_neg (Bool.eq_false_iff.1 hslack)))
  case timeout =>
    intro d s hd hs ha
    obtain ⟨t, ht, hrest⟩ := State.stepTimedOut_effect (s := s) d (d.sentAt + max 1 (s.regField Reg.pwrAvsCfg 31 16) * 1000)
    exact ⟨t, (exec_avsTimeout_of_step hd hs ha).trans (congrArg _ ht), hrest⟩
  case noStep =>
    intro s hd
    refine ⟨?_, ?_⟩
    · change execVdone s = _
      simp only [execVdone, hd]
    · change execAvsTimeout s = _
      simp only [execAvsTimeout, hd]
  case brace => exact fun s ha hstep hb => (exec_brace_of_awake ha hstep).trans (if_neg (Bool.eq_false_iff.1 hb))
  case inBrace => exact fun s ha hstep hb => (exec_brace_of_awake ha hstep).trans (if_pos hb)
  case braceEnd =>
    intro m s hm hb ha
    change execBraceEnd s = _
    simp only [execBraceEnd, hm, hb, ha, Bool.and_self, if_true]
  case sense =>
    exact fun mv s ha => ⟨rfl, rfl, exec_pwrSenseChange_of_low ha, exec_pwrSenseChange_of_no_brace ha, exec_pwrSenseChange_of_release ha,
      exec_pwrSenseChange_of_between ha⟩
  case battery =>
    exact fun mv v s ha => ⟨exec_pwrSenseChange_of_vbat mv v ha, State.vbatRead_pwr v, State.vbatRead_reg_fault v, fun o ho => State.vbatRead_reg_ne v ho⟩
  case telemetry => exact fun n x s hn hx ha hsec => exec_telemetryDelivery_of_due hn hx ha hsec
  case noTelemetry => exact fun s h => exec_telemetryDelivery_of_none h

/-! ### Monitors and sources (R498 to R503) -/

section
variable {s : State} {x : ClkSrc}

theorem exec_monitorTrip_of_awake (ha : s.awake = true) : exec (.monitorTrip x) s =
    match s.trip x with
    | (s1, none) => .next s1
    | (s1, some (d, z)) => .next (s1.enterHold d z (s1.qualified .sirc)) := by
  have hawake : ¬ (!s.awake) = true := by rw [ha]; decide
  exact if_neg hawake

theorem State.trip_of_qualified (hq : s.qualified x = true) : s.trip x = (s.noteTrip x).faultSwitches (tripped x) (List.range 8) := by
  rw [State.trip, hq]
  rfl

theorem exec_monitorTrip_of_switched (ha : s.awake = true) (hq : s.qualified x = true)
    (hnone : ((s.noteTrip x).faultSwitches (tripped x) (List.range 8)).2 = none) :
    exec (.monitorTrip x) s = .next ((s.noteTrip x).faultSwitches (tripped x) (List.range 8)).1 := by
  rw [exec_monitorTrip_of_awake ha, State.trip_of_qualified hq]
  generalize (s.noteTrip x).faultSwitches (tripped x) (List.range 8) = r at hnone
  obtain ⟨y, o⟩ := r
  cases hnone
  rfl

theorem exec_monitorTrip_of_stranded {z : ClkSrc} {d : Nat} (ha : s.awake = true) (hq : s.qualified x = true)
    (hsome : ((s.noteTrip x).faultSwitches (tripped x) (List.range 8)).2 = some (d, z)) :
    exec (.monitorTrip x) s = .next (((s.noteTrip x).faultSwitches (tripped x) (List.range 8)).1.enterHold d z
      (((s.noteTrip x).faultSwitches (tripped x) (List.range 8)).1.qualified .sirc)) := by
  rw [exec_monitorTrip_of_awake ha, State.trip_of_qualified hq]
  generalize (s.noteTrip x).faultSwitches (tripped x) (List.range 8) = r at hsome
  obtain ⟨y, o⟩ := r
  cases hsome
  rfl

theorem exec_sourceQualified_of_can (ha : s.awake = true) (hc : s.canQualify x = true) : exec (.sourceQualified x) s =
    if s.sys.step = 7 && decide (x = ClkSrc.xta) then .next (s.qualify x).stepEight
    else if s.sys.step = 8 then .next (((s.qualify x).returns x).moveDomains x).pllsReady else .next ((s.qualify x).returns x) := by
  have hcan : ¬ (!s.awake || !s.canQualify x) = true := by rw [ha, hc]; decide
  exact if_neg hcan

theorem exec_sourceQualified_of_cannot (hc : s.canQualify x = false) : exec (.sourceQualified x) s = .next s := by
  have hcannot : (!s.awake || !s.canQualify x) = true := by rw [hc, Bool.not_false, Bool.or_true]
  exact if_pos hcannot

/-! ### CLOCK_HOLD (R505) -/

/-- An attempt of CLOCK_HOLD starts: the device has run to its moment and counted it. -/
def State.holdTried (s : State) : State :=
  (s.runToMono (s.clk.holdAt + field s.aon.holdCause 3 0 * 100000000)).onAon fun a =>
    { a with holdCause := putField a.holdCause 3 0 (field s.aon.holdCause 3 0 + 1) }

theorem exec_holdAttempt_of_hold (ok : Bool) (b : BootIn) (hh : s.clk.hold = true) (hno : field s.aon.holdCause 5 4 = 0)
    (hn : field s.aon.holdCause 3 0 < 8) : exec (.holdAttempt ok b) s =
    if ok then .next ((s.holdTried.wiped.onAon fun a => { a with holdCause := putFlag (putField a.holdCause 5 4 1) 16 true, xtaSub := true }).startUp b)
    else if field s.aon.holdCause 3 0 = 7 then .next (s.holdTried.onAon fun a => { a with holdCause := putField a.holdCause 5 4 2 })
    else .next s.holdTried := by
  have htries : ¬ (!s.clk.hold || decide (field s.aon.holdCause 5 4 ≠ 0) || decide (8 ≤ field s.aon.holdCause 3 0)) = true := by
    rw [hh, decide_eq_false (not_not_intro hno), decide_eq_false (Nat.not_le.2 hn)]
    decide
  exact if_neg htries

theorem exec_holdAttempt_of_over (ok : Bool) (b : BootIn) (h : s.clk.hold = false ∨ field s.aon.holdCause 3 0 = 8) :
    exec (.holdAttempt ok b) s = .next s := by
  have hover : (!s.clk.hold || decide (field s.aon.holdCause 5 4 ≠ 0) || decide (8 ≤ field s.aon.holdCause 3 0)) = true := by
    rcases h with h | h
    · rw [h, Bool.not_false, Bool.true_or, Bool.true_or]
    · rw [decide_eq_true (Nat.le_of_eq h.symm), Bool.or_true]
  exact if_pos hover

end

/-- Settles O57, by the outcome of the fault switches, the step that start-up is in, and the count of CLOCK_HOLD's attempts. -/
theorem sourcesTripAndReturn : Obligations.SourcesTripAndReturn := by
  refine ⟨?idle, ?switched, ?stranded, ?later, ?seven, ?eight, ?cannot, ?failed, ?succeeded, ?ended⟩
  case idle =>
    intro x s ha hq
    rw [exec_monitorTrip_of_awake ha, State.trip, hq]
    rfl
  case switched => exact fun x s ha hq hnone => exec_monitorTrip_of_switched ha hq hnone
  case stranded => exact fun x z d s ha hq hsome => ⟨exec_monitorTrip_of_stranded ha hq hsome, rfl⟩
  case later =>
    intro x s ha hc h7 h8
    rw [exec_sourceQualified_of_can ha hc, decide_eq_false h7, Bool.false_and, if_neg Bool.false_ne_true, if_neg h8]
  case seven =>
    intro s ha hc h7
    rw [exec_sourceQualified_of_can ha hc, decide_eq_true h7]
    rfl
  case eight =>
    intro x s ha hc h8
    have h7 : s.sys.step ≠ 7 := by omega
    rw [exec_sourceQualified_of_can ha hc, decide_eq_false h7, Bool.false_and, if_neg Bool.false_ne_true, if_pos h8]
  case cannot => exact fun x s hc => exec_sourceQualified_of_cannot hc
  case failed =>
    intro b s hh hno hn
    exact (exec_holdAttempt_of_hold false b hh hno (by omega)).trans ((if_neg Bool.false_ne_true).trans (if_neg hn.ne))
  case succeeded => exact fun b s hh hno hn => ⟨s.holdTried, rfl, (exec_holdAttempt_of_hold true b hh hno hn).trans (if_pos rfl)⟩
  case ended => exact fun ok b s h => exec_holdAttempt_of_over ok b h

/-! ### Resets (R520, R534 to R536, R574) -/

section
variable {s : State}

theorem exec_powerOn_of_ordered {b : BootIn} (hb : b.ordered = true) : exec (.powerOn b) s =
    .next (if s.aon.lost then (((s.powerCut.batteryBack b).resetBy 1 0).startUp b).setBits Reg.pwrFault (bit 3)
      else ((s.powerCut.batteryBack b).resetBy 1 0).startUp b) := by
  have hordered : ¬ (!b.ordered) = true := by rw [hb]; decide
  exact if_neg hordered

theorem exec_powerOn_of_unordered {b : BootIn} (hb : b.ordered = false) :
    exec (.powerOn b) s = .next (((s.powerCut.batteryBack b).resetBy 1 0).onPwr fun p => { p with unordered := true }) := by
  have hunordered : (!b.ordered) = true := by rw [hb]; rfl
  exact if_pos hunordered

theorem State.awake_of_unordered (h : s.pwr.unordered = true) : s.awake = false := by
  rw [State.awake, h, Bool.not_true, Bool.and_false]

theorem State.coreTrips_iff (b : BootIn) : s.coreTrips b = true ↔ b.coreMv < s.vrstMv ∨ b.sramMv < 720 ∨ b.framMv < 1620 := by
  simp only [State.coreTrips, Bool.or_eq_true, decide_eq_true_eq, or_assoc]

theorem exec_brownout_of_trip {b : BootIn} (hoff : s.pwr.off = false) (hun : s.pwr.unordered = false) (hh : s.clk.hold = false)
    (htrip : s.coreTrips b = true) : exec (.brownout b) s = .next ((s.powerCut.resetBy 2 0).startUp b) := by
  have hresets : ¬ (s.pwr.off || s.pwr.unordered || s.clk.hold || !s.coreTrips b) = true := by
    rw [hoff, hun, hh, htrip]
    decide
  exact if_neg hresets

theorem exec_brownout_of_no_trip {b : BootIn} (h : s.pwr.off = true ∨ s.clk.hold = true ∨ s.pwr.unordered = true ∨ s.coreTrips b = false) :
    exec (.brownout b) s = .next s := by
  have hstays : (s.pwr.off || s.pwr.unordered || s.clk.hold || !s.coreTrips b) = true := by
    rcases h with h | h | h | h <;> rw [h] <;> simp
  exact if_pos hstays

/-- The tearing of a write changes NVM and takes free values only. -/
theorem State.tearBank_only (p : Nat) : s.tearBank p = { s with nvm := (s.tearBank p).nvm, free := (s.tearBank p).free } := by
  rw [State.tearBank]
  split
  · rfl
  · split <;> rfl

theorem State.tearRecord_only : s.tearRecord = { s with nvm := s.tearRecord.nvm, free := s.tearRecord.free } := by
  rw [State.tearRecord]
  split
  · rfl
  · split <;> rfl

theorem State.tearBanks_only : s.tearBanks = { s with nvm := s.tearBanks.nvm, free := s.tearBanks.free } := by
  have hfold (l : List Nat) (x : State) : ∃ n f, l.foldl State.tearBank x = { x with nvm := n, free := f } := by
    induction l generalizing x with
    | nil => exact ⟨x.nvm, x.free, rfl⟩
    | cons p l ih =>
      obtain ⟨n, f, h⟩ := ih (x.tearBank p)
      refine ⟨n, f, ?_⟩
      rw [List.foldl_cons, h, State.tearBank_only]
  obtain ⟨n, f, h⟩ := hfold (List.range 4) s
  rw [State.tearBanks, h]

theorem State.powerCut_only : s.powerCut = { s with nvm := s.powerCut.nvm, free := s.powerCut.free } := by
  have hrecord := State.tearRecord_only (s := s.tearBanks)
  rw [State.tearBanks_only] at hrecord
  rw [State.powerCut, State.tearBanks_only, hrecord]

/-! ### The boundary scan port (R584) -/

theorem State.tapCapture_only (i : TapInstr) : (s.tapCapture i).2 = { s with free := (s.tapCapture i).2.free } := by
  cases i <;> rfl

/-- A clock of the port changes its own registers and takes free values only. -/
theorem State.tapClock_only (tms tdi : Bool) :
    s.tapClock tms tdi = { s with jtag := (s.tapClock tms tdi).jtag, free := (s.tapClock tms tdi).free } := by
  have hcapture := State.tapCapture_only (s := s) (s.tapServes s.jtag.instr)
  cases hstate : s.jtag.state <;> simp only [State.tapClock, hstate]
  case captureDr => rw [hcapture]

theorem State.tapServes_of_unserved {i : TapInstr} (h : s.boundaryServed = false) (hi : i ≠ .idcode) : s.tapServes i = .bypass := by
  cases i
  case idcode => exact absurd rfl hi
  case bypass => rfl
  all_goals exact if_neg (Bool.eq_false_iff.1 h)

theorem State.boundaryServed_of_refused (h : s.sys.tampered = true ∨ s.nvm.fuses.state = 2 ∨ s.nvm.fuses.state = 4) : s.boundaryServed = false := by
  rw [State.boundaryServed]
  rcases h with h | h | h <;> rw [h] <;> simp

theorem State.tapClock_of_reset (h : s.jtag.state = .reset) : (s.tapClock false false).jtag.instr = .idcode := by
  simp only [State.tapClock, h]

end

/-- Settles O58, by what each reset does before start-up and what the loss of power and the boundary scan port leave. -/
theorem resetsStartTheDevice : Obligations.ResetsStartTheDevice := by
  refine ⟨?powerOn, ?lost, ?unordered, ?pin, ?brownout, ?off, ?stays, ?reset, ?cut, ?tap, ?tapServed, ?tapReset⟩
  case powerOn => exact fun b s hb hl => (exec_powerOn_of_ordered hb).trans (congrArg _ (if_neg (Bool.eq_false_iff.1 hl)))
  case lost => exact fun b s hb hl => (exec_powerOn_of_ordered hb).trans (congrArg _ (if_pos hl))
  case unordered => exact fun b s hb => ⟨_, exec_powerOn_of_unordered hb, rfl, State.awake_of_unordered rfl, rfl⟩
  case pin => exact fun b s hoff => if_neg (Bool.eq_false_iff.1 hoff)
  case brownout => exact fun b s hoff hun hh htrip => exec_brownout_of_trip hoff hun hh ((State.coreTrips_iff b).2 htrip)
  case off => exact fun b s hoff => ⟨if_pos hoff, exec_brownout_of_no_trip (.inl hoff)⟩
  case stays =>
    intro b s h
    refine exec_brownout_of_no_trip (.inr ?_)
    rcases h with h | h | ⟨hcore, hsram, hfram⟩
    · exact .inl h
    · exact .inr (.inl h)
    · refine .inr (.inr (Bool.eq_false_iff.2 fun htrip => ?_))
      rcases (State.coreTrips_iff b).1 htrip with h | h | h <;> omega
  case reset =>
    intro s cause wake
    refine ⟨fun o => rfl, rfl, rfl, rfl, rfl, rfl, fun hsirc => ?_⟩
    exact if_neg (Bool.eq_false_iff.1 hsirc)
  case cut => exact fun s => State.powerCut_only
  case tap => exact fun tms tdi s => State.tapClock_only tms tdi
  case tapServed => exact fun i s h hi => State.tapServes_of_unserved (State.boundaryServed_of_refused h) hi
  case tapReset => exact fun s h => State.tapClock_of_reset h

/-! ### Dormant mode and the loss of VBAT (R523, R530 to R533) -/

section
variable {s : State}

theorem exec_dormantEntry_of_not_pending (h : s.pwr.dormantPending = false) : exec .dormantEntry s = .next s := by
  have hstays : (!s.pwr.dormantPending || !s.awake) = true := by rw [h]; rfl
  exact if_pos hstays

theorem exec_dormantEntry_of_pending (hp : s.pwr.dormantPending = true) (ha : s.awake = true) : exec .dormantEntry s =
    if s.pwr.brace then .next (s.onPwr fun p => { p with dormantPending := false })
    else if s.slack && !(s.gridOn && s.pwr.dormantWaits) then .next s.enterDormant else .next s := by
  have hgoes : ¬ (!s.pwr.dormantPending || !s.awake) = true := by rw [hp, ha]; decide
  exact if_neg hgoes

theorem exec_dormantEntry_of_waiting (hb : s.pwr.brace = false) (h : s.slack = false ∨ (s.gridOn = true ∧ s.pwr.dormantWaits = true)) :
    exec .dormantEntry s = .next s := by
  have hwaits : ¬ (s.slack && !(s.gridOn && s.pwr.dormantWaits)) = true := by
    rcases h with h | ⟨hg, hw⟩
    · rw [h]
      exact Bool.false_ne_true
    · rw [hg, hw]
      simp
  by_cases hgoes : (!s.pwr.dormantPending || !s.awake) = true
  · exact if_pos hgoes
  · exact (if_neg hgoes).trans ((if_neg (Bool.eq_false_iff.1 hb)).trans (if_neg hwaits))

/-- The wake sources that are enabled, of those that fire (R531). -/
def State.wakesBy (s : State) (src : BitVec 5) : BitVec 5 := src &&& (s.reg Reg.pwrWakeCfg).setWidth 5

theorem exec_dormantWake_of_source {src : BitVec 5} (b : BootIn) (hd : s.pwr.dormant = true) (hfired : s.wakesBy src ≠ 0) : exec (.dormantWake src b) s =
    .next ((((if (s.wakesBy src).getLsbD 1 then s.runTo (s.pwr.wakeAt.getD 0) else s).resetBy 5 (s.wakesBy src).toNat).keepDormant
      (if (s.wakesBy src).getLsbD 1 then s.runTo (s.pwr.wakeAt.getD 0) else s)).startUp b) := by
  have hwakes : ¬ (!s.pwr.dormant || decide (s.wakesBy src = 0)) = true := by rw [hd, decide_eq_false hfired]; decide
  exact if_neg hwakes

theorem exec_dormantWake_of_none {src : BitVec 5} (b : BootIn) (h : s.pwr.dormant = false ∨ s.wakesBy src = 0) :
    exec (.dormantWake src b) s = .next s := by
  have hsleeps : (!s.pwr.dormant || decide (s.wakesBy src = 0)) = true := by
    rcases h with h | h
    · rw [h]
      rfl
    · rw [decide_eq_true h, Bool.or_true]
  exact if_pos hsleeps

end

/-- Settles O59, by the branches of the entry and of the wake, and by what the loss of VBAT leaves. -/
theorem dormantModeAndBatteryLoss : Obligations.DormantModeAndBatteryLoss := by
  refine ⟨?enters, ?waits, ?refused, ?noRequest, ?wakes, ?wakesAtTicks, ?sleeps, ?vbat⟩
  case enters =>
    intro s hp ha hb hs h
    have hgoes : (s.slack && !(s.gridOn && s.pwr.dormantWaits)) = true := by
      rw [hs]
      rcases h with h | h <;> rw [h] <;> simp
    exact ⟨(exec_dormantEntry_of_pending hp ha).trans ((if_neg (Bool.eq_false_iff.1 hb)).trans (if_pos hgoes)), rfl⟩
  case waits => exact fun s hb h => exec_dormantEntry_of_waiting hb h
  case refused => exact fun s hp ha hb => (exec_dormantEntry_of_pending hp ha).trans (if_pos hb)
  case noRequest => exact fun s h => exec_dormantEntry_of_not_pending h
  case wakes =>
    intro src b s hd hfired hticks
    have hno : ¬ (s.wakesBy src).getLsbD 1 = true := Bool.eq_false_iff.1 hticks
    rw [exec_dormantWake_of_source b hd hfired, if_neg hno, State.wakesBy]
  case wakesAtTicks =>
    intro src b s hd hticks
    have hyes : (s.wakesBy src).getLsbD 1 = true := hticks
    have hfired : s.wakesBy src ≠ 0 := by
      intro hzero
      rw [hzero] at hyes
      exact absurd hyes (by decide)
    refine ⟨_, rfl, ?_⟩
    rw [exec_dormantWake_of_source b hd hfired, if_pos hyes, State.wakesBy]
  case sleeps => exact fun src b s h => exec_dormantWake_of_none b h
  case vbat =>
    intro s
    refine ⟨_, rfl, rfl, rfl, rfl, rfl, rfl, ?_, fun o => rfl, rfl, rfl, rfl⟩
    change s.powerCut.pending = s.pending
    rw [State.powerCut_only]

/-! ### The waits of start-up (R360, R472, R536, R538) -/

section
variable {s : State}

theorem exec_patchLoaded_of_waited {p : PatchIn} (ha : s.awake = true) (h9 : s.sys.step = 9) (hhost : p.host = s.sys.patchWait)
    (hgo : p.host = false ∨ s.sys.patchGo = true) (hdma : p.dmaErr = false) : exec (.patchLoaded p) s =
    .next (if p.rests then (s.onSys fun y => { y with checking := some p }).atStep 10 else s.patchChecked p) := by
  have htaken : ¬ (!s.awake || decide (s.sys.step ≠ 9) || decide (p.host ≠ s.sys.patchWait) || (p.host && !s.sys.patchGo)) = true := by
    rw [ha, decide_eq_false (not_not_intro h9), decide_eq_false (not_not_intro hhost)]
    rcases hgo with h | h <;> rw [h] <;> simp
  refine (if_neg htaken).trans ?_
  rw [hdma]
  rfl

theorem exec_patchLoaded_of_unwaited {p : PatchIn} (h : s.sys.step ≠ 9 ∨ p.host ≠ s.sys.patchWait) : exec (.patchLoaded p) s = .next s := by
  have hignored : (!s.awake || decide (s.sys.step ≠ 9) || decide (p.host ≠ s.sys.patchWait) || (p.host && !s.sys.patchGo)) = true := by
    rcases h with h | h <;> rw [decide_eq_true h] <;> simp
  exact if_pos hignored

/-- At the end of its time step 12 is over. -/
theorem State.acquired_of_end (h12 : s.sys.step = 12) (hend : s.acqEnd ≤ s.tim.mono) : s.acquired = s.stepThirteen := by
  rw [State.acquired, decide_eq_true h12, decide_eq_true hend, Bool.or_true]
  rfl

theorem State.runToMono_acqEnd (m : Nat) : (s.runToMono m).acqEnd = s.acqEnd :=
  State.acqEnd_congr (by rw [State.runToMono_sys]) (by rw [State.runToMono_regs])

theorem exec_acquisitionTimeout_of_waiting (ha : s.awake = true) (h12 : s.sys.step = 12) :
    exec .acquisitionTimeout s = .next (s.runToMono s.acqEnd).stepThirteen := by
  have hwaits : (s.awake && decide (s.sys.step = 12)) = true := by rw [ha, decide_eq_true h12]; rfl
  refine (if_pos hwaits).trans (congrArg Host.Outcome.next (State.acquired_of_end ?_ ?_))
  · rw [State.runToMono_sys]
    exact h12
  · rw [State.runToMono_acqEnd, State.runToMono_mono]
    exact Nat.le_max_right _ _

end

/-- Settles O60, by the branches of the patch's load and of the waits' ends. -/
theorem startUpWaitsEnd : Obligations.StartUpWaitsEnd := by
  refine ⟨?checked, ?rests, ?ignored, ?timeout, ?noWait, ?acquired, ?noAcquisition⟩
  case checked =>
    intro p s ha h9 hhost hgo hdma hrests
    exact (exec_patchLoaded_of_waited ha h9 hhost hgo hdma).trans (congrArg _ (if_neg (Bool.eq_false_iff.1 hrests)))
  case rests =>
    intro p s ha h9 hhost hgo hdma hrests
    exact (exec_patchLoaded_of_waited ha h9 hhost hgo hdma).trans (congrArg _ (if_pos hrests))
  case ignored => exact fun p s h => exec_patchLoaded_of_unwaited h
  case timeout => exact fun s hwaits => if_pos hwaits
  case noWait => exact fun s hwaits => if_neg (Bool.eq_false_iff.1 hwaits)
  case acquired => exact fun s ha h12 _ => exec_acquisitionTimeout_of_waiting ha h12
  case noAcquisition =>
    intro s h12
    have hno : ¬ (s.awake && decide (s.sys.step = 12)) = true := by
      rw [decide_eq_false h12, Bool.and_false]
      exact Bool.false_ne_true
    exact if_neg hno

end Sys2Proof.Machine
end
